-- ==== Sys2Proof/Word.lean ====
section
/-! DEFINITION. The word types of the UM8128 and their plainest readings. -/

namespace Sys2Proof

/-- One byte, the addressable unit of every little-endian layout (R7). -/
abbrev Byte := BitVec 8

/-- One hardware register word (R298: every access is a whole 32-bit word). -/
abbrev Word := BitVec 32

/-- A binary32 value by its IEEE 754 bit pattern (R9). -/
abbrev F32 := BitVec 32

/-- A binary64 value by its IEEE 754 bit pattern (R9). -/
abbrev F64 := BitVec 64

/-- A complex value of two binary64 parts. -/
structure Cplx where
  re : F64
  im : F64
  deriving DecidableEq, Repr

/-- A table by number: the entries that differ from the table's default, keys strictly rising. -/
abbrev Tbl (α : Type) := List (Nat × α)

end Sys2Proof
end

