-- ==== Sys2Proof/Syntax.lean ====
section
/-! DEFINITION. The commands of the block: one constructor for each row of spec/opcode_table.json, with the operands the row's rule speaks of. What only the analogue world, the filters, a partner or the host knows is an operand; what the device knows is in its state. An operand `t` is the device time, in ticks, at which the event happens. -/

namespace Sys2Proof

/-- The three ports that reach the register map (R305). -/
inductive Port where
  | control
  | fabric
  | ammond
  deriving DecidableEq, Repr

/-- One 32-bit access to the register map: the port, the control-port opcode (0 for other ports, R313), the 24-bit address with its alias bits (R302) and the data. -/
structure Access where
  port   : Port
  opcode : Byte
  addr   : BitVec 24
  value  : Word
  deriving DecidableEq, Repr

/-- Writes as they come: one; a whole frame of the control port, as the levels of `CP_IO3` to `CP_IO0` at its rising edges (R296 to R298); or those that several ports make in one BUS cycle (R305). -/
inductive WriteIn where
  | one (a : Access)
  | frame (clocks : List (BitVec 4))
  | together (l : List Access)
  deriving DecidableEq, Repr

/-- Reads as they come: of one port, or of a frame of the control port (R296 to R299). -/
inductive RegRead where
  | one (port : Port)
  | frame (clocks : List (BitVec 4))
  deriving DecidableEq, Repr

/-- Where a firmware request comes from (R336, R338): a mailbox, whose request buffer holds it; a frame of the return lane; a message of a partner. -/
inductive ReqSource where
  | mailbox (m : Fin 4)
  /-- a whole frame of the return lane, with header and trailer (R233) -/
  | returnLane (frame : List Byte)
  | fabric (peer : Nat) (frame : List Byte)
  /-- a request in whose course the firmware finds a fault of its own (R355) -/
  | faulted (src : ReqSource)
  deriving DecidableEq, Repr

/-- The twin synthesizers. -/
inductive SynId where
  | A
  | B
  deriving DecidableEq, Repr

/-- The two paths of a channel. -/
inductive PathId where
  | low
  | high
  deriving DecidableEq, Repr

/-- The pins of a channel, in the bits of WHERE (R142). -/
inductive ChPin where
  | SP
  | SN
  | DA
  | DB
  deriving DecidableEq, Repr

/-- A fast detector of a channel: the overload detector (R127), or the envelope detector of a point on a pin (R129). -/
inductive Detector where
  | overload
  | envelope (point : Fin 1024) (pin : ChPin)
  deriving DecidableEq, Repr

/-- What an envelope has done up to an instant (R128, R129): its largest value over a number of ticks at a detection, its least at a release. -/
structure EnvIn where
  level : F32
  ticks : Nat
  deriving DecidableEq, Repr

/-- An instant at which a detector is looked at, and what the envelope it watches has done up to it; an overload detector reads no envelope. -/
structure DetectIn where
  t   : Nat
  env : EnvIn
  deriving DecidableEq, Repr

/-- What a band search counts (R276): its five trial counts, and that of the band it chose. -/
structure SearchIn where
  steps : List Nat
  count : Nat
  deriving DecidableEq, Repr

/-- What the qualifying pairs of an epoch give one channel's estimator (R104, R105): the ratio and delay they show, and whether by its own uncertainty the estimator lies within ±0.1 ppm and ±5 ps. -/
structure EstimIn where
  ch        : Nat
  rho       : F64
  delta     : F64
  within    : Bool
  deriving DecidableEq, Repr

/-- What one channel's pilot demodulator gives for an epoch, in units of FS_L and before the division by the background gain (R253): the complex value of the pilot. -/
structure PilotIn where
  ch        : Nat
  re        : F64
  im        : F64
  deriving DecidableEq, Repr

/-- A word as a scrub pass finds it (R306, R307): its address, what it holds, the parity bit it carries, and the channel or point whose configuration it is part of. -/
structure ParityIn where
  addr  : BitVec 24
  live  : Word
  bit   : Bool
  chan  : Option (Fin 128)
  point : Option (Fin 1024)
  deriving DecidableEq, Repr

/-- The measurements that complete at an epoch boundary (R27, R37, R44, R60, R104, R253, R282, R289, R351). [log 3 DESIGN CHOICE, 184 DESIGN CHOICE] -/
structure EpochInput where
  vref     : F64
  refp     : F64
  refn     : F64
  rails    : List F32
  vhv      : F64
  temps    : List Int
  pins     : List (Nat × Nat × Nat)
  estim    : List EstimIn
  pilots   : List PilotIn
  /-- the size of REFCLK's frequency error over the epoch, in ppm; none: it gave no measurement (R289) -/
  refErr   : Option F64
  /-- the blocks, by a number each, that do not take a swap due at this boundary (R351) -/
  lag      : List Nat
  /-- words that do not read as they were last written, as the scrub pass finds them (R307) -/
  parity   : List ParityIn
  /-- blocks with a bad CRC on each tile's link since the boundary before (R330) -/
  linkCrc  : List Nat
  /-- blocks with an invalid sync header or marker CHECK that each fabric port has received since the boundary before, but those of bad frames (R379) -/
  blocks   : List Nat
  deriving DecidableEq, Repr

/-- The outcome of a boot stage's work that the model cannot compute: whether it passed (BASE, TILES, GRANARY, SELFTEST). -/
structure BootResult where
  pass : Bool
  /-- milliseconds since the device left RESET -/
  ms   : Nat
  deriving DecidableEq, Repr

/-- One point sample by its point and aligned instant: all else the demodulator computes from what the device holds (R78). -/
structure PointIn where
  p    : Fin 1024
  t    : Nat
  deriving DecidableEq, Repr

/-- What the first decimation gives of one wideband instant (R75, R96 to R98): the two paths' samples in units of FS_H/2^27 and FS_L/2^27 of the gains they convert at, and the outputs of the high path's modulator in FS_H/2^27 at that instant and at the 47 bitstream instants before it, newest first. [log 3 DESIGN CHOICE] -/
structure RawIn where
  h    : Int
  l    : Int
  outs : List Int
  deriving DecidableEq, Repr

/-- One wideband sample (R77, R96): its index j, and what has come into the 24-sample look-ahead since the sample before it, oldest first. [log 3 DESIGN CHOICE] -/
structure WideIn where
  ch      : Fin 128
  j       : Nat
  raws    : List RawIn
  /-- the amplifier is saturated (R34) -/
  sat     : Bool
  deriving DecidableEq, Repr

/-- What a 64-bit word of a region holds (the manual gives no layout of a region's bytes): elements of a member's ring or slot by index from the oldest, the descriptor of a block of it by index from the oldest held, records of a tally ring, a density counter of the live map or of the snapshot, a word of a STAGING region. [log 71 DESIGN CHOICE] -/
inductive Struck where
  | nothing
  | ring (member first count : Nat)
  | ringBlock (member block : Nat)
  | slot (slot member first count : Nat)
  | slotBlock (slot member block : Nat)
  | tally (first count : Nat)
  | counter (map cell : Nat) (snapshot : Bool)
  | staging (word : Nat)
  deriving DecidableEq, Repr

/-- A single- or double-bit error that the scrubber or a read finds (R224): the region and offset, or the unallocated part of the stack, and what stands there. -/
structure ScrubErr where
  region : Option (Fin 64)
  offset : Nat
  double : Bool
  struck : Struck
  deriving DecidableEq, Repr

/-- The instant at which a cart begins, and the errors that readouts find in what they read (R224). -/
structure DeliveryIn where
  t    : Nat
  errs : List ScrubErr
  deriving DecidableEq, Repr

/-- A request for `capture.read` or `density.read`, and the errors found in what it reads (R224). -/
structure ReadIn where
  src  : ReqSource
  errs : List ScrubErr
  deriving DecidableEq, Repr

/-- A fabric frame as it came by a port: its bytes, and how many of its blocks had an invalid sync header or marker CHECK (R379). -/
structure BadFrameIn where
  port   : Fin 4
  frame  : List Byte
  blocks : Nat
  deriving DecidableEq, Repr

/-- The next transform of a Mill job: its delivered bins, which the device forms in block floating point (R152; none of an invalid transform), and the errors its memory met (R172): one that was corrected, source samples of its window whose word is unreadable, an unreadable word of the transform, and one of the averaging state; and the errors that a replay finds as it reads its slot (R224). [log 3 DESIGN CHOICE] -/
structure MillIn where
  job    : Fin 128
  bins   : List Cplx
  fixed  : Bool
  struck : List Nat
  broken : Bool
  avgBad : Bool
  errs   : List ScrubErr
  deriving DecidableEq, Repr

/-- The quantities one impedance-check phase measures on one channel (R136): two complex values in binary32. [log 3 DESIGN CHOICE] -/
structure PhaseMeas where
  ch : Nat
  a  : F32 × F32
  b  : F32 × F32
  deriving DecidableEq, Repr

/-- A HEALTH report (R233). -/
structure Health where
  lock    : BitVec 16
  fail    : BitVec 16
  crcErr  : BitVec 16
  markErr : BitVec 16
  state   : BitVec 8
  deriving DecidableEq, Repr

/-- A HELLO frame's contents (R376). -/
structure HelloIn where
  uid       : BitVec 64
  version   : Nat
  quality   : Nat
  candidate : Bool
  port      : Nat
  deriving DecidableEq, Repr

/-- A link of the fabric (R386): the devices and ports it joins, and its delay in 1/256 tick. -/
structure FabLink where
  a     : Nat
  pa    : Nat
  b     : Nat
  pb    : Nat
  delay : Nat
  deriving DecidableEq, Repr

/-- A device of the Commons as its membership names it: address, UID and level (R381). -/
structure FabDev where
  addr  : Nat
  uid   : BitVec 64
  level : Nat
  deriving DecidableEq, Repr

/-- A BEACON frame's contents (R376, R381, R392). -/
structure BeaconIn where
  /-- the neighbour that sends it -/
  nbUid     : BitVec 64
  nbAddr    : Nat
  /-- a key is known -/
  hasKey    : Bool
  keyUid    : BitVec 64
  keyQual   : Nat
  keySeq    : Nat
  keyAddr   : Nat
  level     : Nat
  gen       : Nat
  /-- the devices that answer beacons, and the links between them -/
  devs      : List FabDev
  links     : List FabLink
  brDisc    : Nat
  brTai     : Bool
  stepS     : Nat
  stepD     : Int
  stepCount : Nat
  /-- the Bellringer's step was a `time.set` (R293) -/
  stepIsSet : Bool
  deriving DecidableEq, Repr

/-- A fabric trigger message (R193). -/
structure TrigMsg where
  origin : Nat
  id     : Nat
  time   : Nat
  frac   : Nat
  close  : Nat
  flags  : BitVec 14
  deriving DecidableEq, Repr

/-- One stream of a RESERVE frame (R387): stream id, destination, and its exact demand num/den in bits per second; demand 0 removes it. -/
structure ReserveItem where
  stream : Nat
  dest   : Nat
  num    : Nat
  den    : Nat
  deriving DecidableEq, Repr

/-- What the Bellringer knows of a destination's LANE sum (R386): the destination, N, and the sum of all it sends but the streams of the frame, as num/den bits per second. -/
structure LaneSum where
  dest  : Nat
  lanes : Nat
  num   : Nat
  den   : Nat
  deriving DecidableEq, Repr

/-- A hop of a route (R369): the device and the port it leaves by. -/
structure Hop where
  addr : Nat
  port : Nat
  deriving DecidableEq, Repr

/-- The routes the Bellringer gives one reserved stream (R386). -/
structure RouteAns where
  stream  : Nat
  routeId : Nat
  primary : List Hop
  backup  : List Hop
  deriving DecidableEq, Repr

/-- A reserved stream as the device it ends at knows it: source, stream, and demand as num/den bits per second (R386). -/
structure Ending where
  src    : Nat
  stream : Nat
  num    : Nat
  den    : Nat
  deriving DecidableEq, Repr

/-- What the Bellringer answers or tells about reservations (R387, R388). The answer to a question: routes; the first failing link with its demand; a failing LANE at a destination; a destination that is no member. -/
inductive ReserveReply where
  | routes (rs : List RouteAns)
  | linkFull (scope : Nat) (limit demand : F64)
  | laneFull (dest : Nat) (limit demand : F64)
  | noMember
  /-- the acknowledgement of a frame that is no question (R377) -/
  | noted (key : Nat)
  /-- the reserved streams that end at the device it is sent to (R386) -/
  | ending (l : List Ending)
  /-- a ROUTE frame: newly computed routes of reserved streams (R388) -/
  | changed (rs : List RouteAns)
  deriving DecidableEq, Repr

/-- A reservation of the Bellringer's table (R386, R387): its stream and demand, its routes, the source's number of the frame that asked for it; the number of the frame that removes it and the epoch in which that takes effect (none: not known yet); and the primary route that is down while the backup serves (R388). -/
structure Reservation where
  src    : Nat
  stream : Nat
  dest   : Nat
  num    : Nat
  den    : Nat
  ans    : RouteAns
  key    : Nat
  gone   : Option (Nat × Option Nat)
  lost   : List Hop
  deriving DecidableEq, Repr

/-- A RESERVE frame to the Bellringer (R387), under the source's own number: it asks routes for a commit that takes effect at an epoch; it says when such a commit takes effect after all, or that this is in doubt; it cancels what a frame asked; it reports the device's reservations to a new Bellringer; or it acknowledges which streams end at the device. -/
inductive ReserveAsk where
  | ask (key effect : Nat) (items : List ReserveItem)
  | due (key : Nat) (effect : Option Nat)
  | cancel (key : Nat)
  | report (key : Nat) (rs : List Reservation)
  | noted
  deriving DecidableEq, Repr

/-- The classes of JTAG instruction R422 tells apart. At the command, `rails` says that every rail is above its reset threshold and `trst` that `TRST_N` is low. -/
inductive JtagInstr where
  | bypass
  | sample
  | extest
  | priv
  deriving DecidableEq, Repr

/-- A cart as it travels (R235): type, source, stream, sequence, timestamp, tag, flags, count and payload words. -/
structure Cart where
  type   : Nat
  source : Nat
  stream : Nat
  seq    : BitVec 32
  time   : Nat
  tag    : BitVec 16
  flags  : BitVec 14
  count  : Nat
  words  : List Word
  deriving DecidableEq, Repr

/-- The commands. -/
inductive Instr where
  -- reset, boot and supplies
  | resetAssert
  | resetRelease (bootSel : BitVec 2)
  | identityReady
  | bootStageEnd (r : BootResult)
  | supplyWarning (rail : Fin 6)
  | supplyWarningCleared (rail : Fin 6)
  | brownout (rails : BitVec 6)
  | xoAbsent
  -- the epoch boundary, parity, sleep
  | epochBoundary (inp : EpochInput)
  | parityRepair (addr : BitVec 24) (chan : Option (Fin 128)) (point : Option (Fin 1024)) (stillBad shadowBad : Bool)
  | granarySelfRefresh (t : Nat)
  -- clocks
  /-- `first`, `last`: the count of ROOT periods at the window's two ends; `word`: the mean of the loop control over it -/
  | countWindow (x : SynId) (first last : Nat) (word : BitVec 64)
  | lockLost (x : SynId) (t : Nat)
  | bandSearchEnd (x : SynId) (found : SearchIn)
  | synthesizerRetry (x : SynId)
  | synthesizerReady (x : SynId) (t : Nat)
  | referenceEdge (pps : Bool) (t64 : Nat) (steer : Int)
  | referenceLost
  | slewDone
  | timeStep
  | timeSetTimeout
  -- front end
  | modulatorOverload (ch : Fin 128) (path : PathId) (t : Nat)
  | modulatorRecovered (ch : Fin 128) (path : PathId) (t : Nat)
  | guardCurrentLimit (g : Fin 32) (t : Nat)
  | widebandSample (x : WideIn)
  | pointSampleReady (x : PointIn)
  | cartFillTimeout (stream : Nat) (t : Nat)
  | cartDelivery (dest : Fin 3) (x : DeliveryIn)
  | granaryWrite (stream : Nat) (t : Nat)
  | granaryScrubPass (errs : List ScrubErr)
  | millResultReady (x : MillIn)
  | densitySnapshotComplete (map : Fin 16)
  | isolationSwitchesClosed (ch : Fin 128) (t : Nat)
  | modulatorRelease (ch : Fin 128) (t : Nat)
  | excitationRampEnd (p : Fin 1024) (t : Nat) (env : List (ChPin × F32))
  | qServoSettle (ch : Fin 128) (t : Nat)
  | disablePinsReleased (ch : Fin 128) (t : Nat)
  | pointRampUp (ch : Fin 128) (t : Nat)
  | gainSwitch (ch : Fin 128) (t : Nat)
  /-- what the re-acquisition has reached, none without a stimulus, and whether its own uncertainty lies within ±0.2 ppm and ±10 ps (R107) -/
  | gainReady (ch : Fin 128) (t : Nat) (found : Option (F64 × F64)) (settled : Bool)
  | currentSwap (ch : Fin 128) (cycle : Nat)
  -- the Shepherd
  | fastDetection (ch : Fin 128) (d : Detector) (x : DetectIn)
  | detectorRelease (ch : Fin 128) (d : Detector) (x : DetectIn)
  | checkPhase (g : Fin 32) (k : Fin 4) (meas : List PhaseMeas)
  | checkClassification (g : Fin 32)
  -- triggers
  | trigInEdge (pin : Fin 4) (rising : Bool) (t : Nat)
  | externalEdgeAccepted (u : Fin 32) (rising : Bool) (t : Nat)
  | recordClose (grp : Fin 8) (key : Nat)
  | trigOutPulse (pin : Fin 4) (t : Nat)
  | fabricTriggerSend (t : Nat)
  -- the Bell
  | bellInEdge (rising : Bool) (t : Nat)
  | bellTick (tick : Nat)
  | holdingWindowSwitch
  -- the data port
  | alignmentMarker (t : Nat)
  | laneFault (lane : Fin 9)
  /-- a frame of the return lane, with header and trailer -/
  | healthReport (frame : List Byte) (t : Nat)
  | returnLaneBadCrc
  -- register accesses
  | registerWrite (w : WriteIn)
  | eventClear (a : Access)
  | mbxRequestWrite (a : Access)
  | mbxDoorbell (a : Access)
  | rspDone (a : Access)
  | completionPlace (session : Fin 17)
  | bellRing (a : Access)
  | bellSnap (a : Access)
  | lockSet (a : Access)
  | dlForce (a : Access)
  | dlEnable (a : Access)
  | dlDisable (a : Access)
  | cartFifoPop (r : RegRead)
  | timeLoRead (r : RegRead)
  | postedWrite (a : Access)
  | postedRead (port : Port) (addr : BitVec 24)
  | postedAccessDone (port : Port) (tile : Fin 4)
  | postedAccessNack (port : Port) (tile : Fin 4)
  /-- the levels of `CP_IO3` to `CP_IO0` at the frame's rising edges (R296): those of its opcode, and those after it -/
  | badFrame (opcode rest : List (BitVec 4))
  -- the Ammond core
  | lockstepMismatch
  | lockstepRepaired
  -- the fabric
  | fabricPortUp (port : Fin 4)
  | fabricPortDown (port : Fin 4)
  | fabricRetrain (port : Fin 4)
  | hello (port : Fin 4) (h : HelloIn)
  | beacon (port : Fin 4) (b : BeaconIn)
  | delayExchange (port : Fin 4) (t1 t2 t3 : Int) (t4 : Option Int) (steer : Int)
  | addressRequest (port : Fin 4) (uid : BitVec 64) (pref : Nat)
  | addressAssignment (uid : BitVec 64) (addr : Nat)
  | fabricMessageResponse (peer : Nat) (bytes : List Byte)
  | fabricForwardTimeout (peer : Nat) (tag : Word)
  | fabricTriggerMessage (m : TrigMsg) (t : Nat)
  | fabricBell (src : Nat) (tick : Nat)
  | fabricBellAck (src : Nat) (tick : Nat)
  | fabricTxnOpen (coord : Nat) (txn : Nat) (ticket : Nat) (parts : List Nat)
  | fabricPrepare (coord : Nat) (txn : Nat) (target : Nat)
  | fabricVote (src : Nat) (txn : Nat) (status : BitVec 16)
  | fabricDecision (coord : Nat) (txn : Nat) (commit closed : Bool)
  | fabricDecisionAck (src : Nat) (txn : Nat)
  | fabricDecisionQuery (src : Nat) (coord : Nat) (txn : Nat)
  | reserveRequest (src : Nat) (ask : ReserveAsk) (lanes : List LaneSum)
  | reserveAnswer (r : ReserveReply)
  | routeFailure (addr : Nat) (port : Nat)
  | streamAck (src : Nat) (stream : Nat) (seq : Word)
  | fabricCart (c : Cart) (dest route : Nat) (hops : List Hop) (t : Nat)
  | remoteRegisterAccess (src : Nat) (write : Bool) (addr : BitVec 24) (value : Word)
  -- ends of long work
  | bankWriteDone (store : Fin 2)
  | calMeasurementDone (t : Nat)
  | selftestDone (pass fail : Word) (detail : List Word)
  | loopbackDone (bits errors : Nat)
  | fwVerifyDone
  | captureReadoutDone (region : Fin 64)
  -- firmware commands
  | sessionOpen (src : ReqSource)
  | sessionClose (src : ReqSource)
  | sessionKeepalive (src : ReqSource)
  | sessionList (src : ReqSource)
  | txnBegin (src : ReqSource)
  | txnCommit (src : ReqSource)
  | txnAbort (src : ReqSource)
  | txnStatus (src : ReqSource)
  | chanConfig (src : ReqSource)
  | chanQuery (src : ReqSource)
  | chanEnable (src : ReqSource)
  | pointConfig (src : ReqSource)
  | pointQuery (src : ReqSource)
  | carrierPlanCheck (src : ReqSource)
  | linLoad (src : ReqSource)
  | linQuery (src : ReqSource)
  | linPersist (src : ReqSource)
  | streamConfig (src : ReqSource)
  | streamQuery (src : ReqSource)
  | regionConfig (src : ReqSource)
  | captureArm (src : ReqSource)
  | captureDisarm (src : ReqSource)
  | captureRead (x : ReadIn)
  | tallyConfig (src : ReqSource)
  | aoutConfig (src : ReqSource)
  | millConfig (src : ReqSource)
  | millQuery (src : ReqSource)
  | densityConfig (src : ReqSource)
  | densityRead (x : ReadIn)
  | trigConfig (src : ReqSource)
  | trigQuery (src : ReqSource)
  | trigForce (src : ReqSource)
  | calBegin (src : ReqSource)
  | calPoint (src : ReqSource)
  | calCommit (src : ReqSource)
  | calAbort (src : ReqSource)
  | ledgerRead (src : ReqSource)
  | shepherdConfig (src : ReqSource)
  | timeSet (src : ReqSource)
  | timeQuery (src : ReqSource)
  | clockConfig (src : ReqSource)
  | clockQuery (src : ReqSource)
  | holdoverPolicy (src : ReqSource)
  | fabricStatus (src : ReqSource)
  | fabricPolicy (src : ReqSource)
  | fabricRouteQuery (src : ReqSource)
  | fabricForward (src : ReqSource)
  | bellSchedule (src : ReqSource)
  | modeSet (src : ReqSource)
  | modeQuery (src : ReqSource)
  | hearthEnter (src : ReqSource)
  | supplyQuery (src : ReqSource)
  | diagSelftest (src : ReqSource)
  | diagLoopback (src : ReqSource)
  | diagLogRead (src : ReqSource)
  | fwStage (src : ReqSource)
  | fwActivate (src : ReqSource)
  | fwQuery (src : ReqSource)
  -- the rows at the table's end
  | basePresent
  | guardCurrentLimitReleased (g : Fin 32) (t : Nat)
  | rampDownEnd (ch : Fin 128) (t : Nat)
  | returnLaneLocked
  | returnLaneLockLost
  | hostOkTimeout
  | fabricFrameBadCrc (x : BadFrameIn)
  | controlFrameForward (port : Fin 4) (frame : List Byte)
  | reserveTimeout
  | fabricTxnOpenReply (src : Nat) (txn : Nat) (status : BitVec 16)
  | densityReadoutDone (map : Fin 16)
  | hearthPowerDownDone (t : Nat)
  | jtagInstruction (instr : JtagInstr) (rails trst : Bool)
  deriving DecidableEq, Repr

end Sys2Proof
end

