-- ==== Sys2Proof/Config.lean ====
section
/-! DEFINITION. What an implementation fixes and the manual leaves open: constants without a body, so that no proof can rest on a value of them; and the numbers the manual states for the whole device. -/

namespace Sys2Proof

/-- A delay that follows the tile temperature (R53, R88): at the factory temperature, in 2^−20 tick; its slope, in 2^−20 tick per 0.01 K; the factory temperature, in 0.01 °C. -/
structure DelayTrim where
  d0 : Int
  kappa : Int
  tf : Int
  deriving DecidableEq, Repr, Inhabited

/-- One row of the path ratio table (R105, R106, R250): ρ, and δ in ticks, at a temperature in 0.01 °C, and their slopes per kelvin. -/
structure RatioTrim where
  rho : F64
  rhoSlope : F64
  delta : F64
  deltaSlope : F64
  tf : Int
  deriving DecidableEq, Repr, Inhabited

/-- What the factory calibration region holds (R250). Ratio rows are keyed 8,192·channel + 1,024·(log2 GL) + GH, pilot trims 64·channel + GL or Cf. -/
structure Factory where
  /-- amplifier, modulator, linearity, excitation DAC and IFS trims, which the tiles take in -/
  tiles : List Word
  /-- analogue delays by channel, drive-path delays by 2·channel + pin -/
  delays : List DelayTrim
  drives : List DelayTrim
  ratios : Tbl RatioTrim
  pilots : Tbl F64
  /-- offsets of the sixteen tile temperature sensors in 0.01 K -/
  sensors : List Int
  /-- TAI seconds of the factory calibration, and the trim identity -/
  time : BitVec 64
  trimId : BitVec 64
  deriving DecidableEq, Repr, Inhabited

end Sys2Proof

namespace Sys2Proof.Config

/-- Ticks in one epoch (R4). -/
def epochTicks : Nat := 3000000

/-- Device time is a count modulo this (R3). -/
def timeSpan : Nat := 2 ^ 64

/-- Ticks in one second. -/
def secondTicks : Nat := 3000000000

/-- The 64-bit unique identity of the device (R322, "Per device"). [log 36 DESIGN CHOICE] -/
opaque uid : BitVec 64

/-- The build number of the image in the bank in force at manufacture (R322). [log 13 DEDUCED, 36 DESIGN CHOICE] -/
opaque fwBuild : BitVec 8

/-- The bytes written to the factory calibration region before shipment (R250): no contents are stated. [log 36 DESIGN CHOICE] -/
opaque factoryBytes : List Byte

/-- What the region's bytes say (R250 names the items and gives no layout). [log 36 DESIGN CHOICE] -/
opaque factoryItems : List Byte → Factory

/-- Coefficient of a point's filter in 2^−60 for the wideband sample a number of samples from the output's instant (R81 bounds the response, and gives no coefficients; `tapOf` makes the gain unity and the phase linear, and `FiltersMeetResponses` says the rest): response code, D, the nulls of a NOTCH in 2^−48 Hz, offset. [log 189 DESIGN CHOICE] -/
opaque filterTap : Nat → Nat → List Int → Int → Int

/-- Coefficient of the combiner's fractional-delay filter in 2^−30 (R96 names the filter, and gives no coefficients): the delay in 1/256 tick, and the place of the high-path sample after the one delayed. [log 194 DESIGN CHOICE] -/
opaque delayTap : Int → Int → Int

/-- PUBKEY, SIGNATURE and body of the image that a fresh device holds in bank A (R417). [log 36 DESIGN CHOICE] -/
opaque fwKey : List (BitVec 8)
/-- [log 36 DESIGN CHOICE] -/
opaque fwSignature : List (BitVec 8)
/-- [log 36 DESIGN CHOICE] -/
opaque fwBody : List (BitVec 8)

/-- The hashes of 48 bytes that manufacture has written to the four one-time-programmable slots (R420): no contents are stated. [log 36 DESIGN CHOICE] -/
opaque keyHashes : List (List (BitVec 8))

/-- What a log entry's CODE, ARG and VALUE are for a kind of happening and its data (R373 gives the layout, not the codes). [log 19 DESIGN CHOICE] -/
opaque logCode : Nat → List Nat → Nat × Nat × BitVec 32

/-- How many entries the device log holds (R12, R373: a ring whose size is not stated). [log 19 DESIGN CHOICE] -/
opaque logEntries : Nat

/-- Free values: what a step yields where the manual states no value; the argument is the state's own counter. [log 5 DESIGN CHOICE] -/
opaque freeWord : Nat → BitVec 32
/-- [log 5 DESIGN CHOICE] -/
opaque freeF64 : Nat → BitVec 64
/-- [log 5 DESIGN CHOICE] -/
opaque freeNat : Nat → Nat

end Sys2Proof.Config
end

