-- ==== Sys2Proof/Machine/Num.lean ====
section
/-! DEFINITION. Numbers: exact fractions for the budgets (R162, R244), IEEE 754 binary64 and binary32 with one rounding per operation (R115), the whole-number roots, angles and decibels of R85 and R155, and bytes in little-endian order (R7). -/

namespace Sys2Proof.Machine

/-- An exact fraction; the denominator is positive wherever one is built here. -/
structure Frac where
  num : Int
  den : Nat
  deriving DecidableEq, Repr

def Frac.mk' (n : Int) (d : Nat) : Frac :=
  let g := Nat.gcd n.natAbs d
  if g ≤ 1 then ⟨n, d⟩ else ⟨n / (g : Int), d / g⟩

def Frac.ofNat (n : Nat) : Frac := ⟨(n : Int), 1⟩
def Frac.zero : Frac := ⟨0, 1⟩
def Frac.add (a b : Frac) : Frac := Frac.mk' (a.num * b.den + b.num * a.den) (a.den * b.den)
def Frac.sub (a b : Frac) : Frac := Frac.mk' (a.num * b.den - b.num * a.den) (a.den * b.den)
def Frac.mul (a b : Frac) : Frac := Frac.mk' (a.num * b.num) (a.den * b.den)
def Frac.divNat (a : Frac) (n : Nat) : Frac := Frac.mk' a.num (a.den * n)
def Frac.le (a b : Frac) : Bool := decide (a.num * b.den ≤ b.num * a.den)
def Frac.lt (a b : Frac) : Bool := decide (a.num * b.den < b.num * a.den)
def Frac.max (a b : Frac) : Frac := if Frac.le a b then b else a
def Frac.min (a b : Frac) : Frac := if Frac.le a b then a else b
def Frac.sum (l : List Frac) : Frac := l.foldl Frac.add Frac.zero
def Frac.abs (a : Frac) : Frac := ⟨(a.num.natAbs : Int), a.den⟩

/-- Integer division by a positive denominator, rounded to nearest, ties to even. -/
def rdivEven (n : Int) (d : Nat) : Int :=
  let q := n / (d : Int)
  let r := n % (d : Int)
  if 2 * r < d then q
  else if 2 * r > d then q + 1
  else if q % 2 = 0 then q else q + 1

/-- Integer division rounded to nearest, ties upward (R191). -/
def rdivUp (n : Int) (d : Nat) : Int := (2 * n + d) / (2 * (d : Int))

/-- Ceiling of a quotient of natural numbers. -/
def ceilDiv (n d : Nat) : Nat := (n + d - 1) / d

def clampInt (lo hi x : Int) : Int := if x < lo then lo else if hi < x then hi else x

/-- Whole-number square root by bits: the largest r below 2^k above the given start with r² ≤ n. -/
def isqrtBits : Nat → Nat → Nat → Nat
  | 0, r, _ => r
  | k + 1, r, n => isqrtBits k (if (r + 2 ^ k) * (r + 2 ^ k) ≤ n then r + 2 ^ k else r) n

def isqrt (n : Nat) : Nat := isqrtBits (Nat.log2 n / 2 + 1) 0 n

/-! ### IEEE 754 values -/

/-- A decoded binary floating value: (-1)^neg · m · 2^e, an infinity, or not a number. -/
inductive FVal where
  | fin (neg : Bool) (m : Nat) (e : Int)
  | inf (neg : Bool)
  | nan
  deriving DecidableEq, Repr

/-- Decode a pattern of w exponent bits and f fraction bits. -/
def FVal.decode (w f x : Nat) : FVal :=
  let neg := x / 2 ^ (w + f) % 2 = 1
  let ex := x / 2 ^ f % 2 ^ w
  let fr := x % 2 ^ f
  let bias : Int := 2 ^ (w - 1) - 1
  if ex = 2 ^ w - 1 then (if fr = 0 then .inf neg else .nan)
  else if ex = 0 then .fin neg fr (1 - bias - f)
  else .fin neg (2 ^ f + fr) (ex - bias - f)

/-- Round (-1)^neg · m · 2^e to f + 1 significant bits, to nearest, ties to even, and encode it. -/
def FVal.encodeFin (w f : Nat) (neg : Bool) (m : Nat) (e : Int) : Nat :=
  let s : Nat := if neg then 2 ^ (w + f) else 0
  if m = 0 then s else
  let bias : Int := 2 ^ (w - 1) - 1
  let emin : Int := 1 - bias - f
  let sh : Int := Max.max ((Nat.log2 m : Int) - f) (emin - e)
  let (q, e') : Nat × Int :=
    if sh ≤ 0 then (m * 2 ^ (-sh).toNat, e + sh)
    else ((rdivEven (m : Int) (2 ^ sh.toNat)).toNat, e + sh)
  let (q, e') : Nat × Int := if q = 2 ^ (f + 1) then (2 ^ f, e' + 1) else (q, e')
  if q < 2 ^ f then s + q
  else
    let ex := e' + f + bias
    if ex ≥ 2 ^ w - 1 then s + (2 ^ w - 1) * 2 ^ f
    else s + ex.toNat * 2 ^ f + (q - 2 ^ f)

def FVal.encode (w f : Nat) : FVal → Nat
  | .fin neg m e => FVal.encodeFin w f neg m e
  | .inf neg => (if neg then 2 ^ (w + f) else 0) + (2 ^ w - 1) * 2 ^ f
  | .nan => (2 ^ w - 1) * 2 ^ f + 2 ^ (f - 1)

def F64.val (x : F64) : FVal := FVal.decode 11 52 x.toNat
def F32.val (x : F32) : FVal := FVal.decode 8 23 x.toNat
def F64.of (v : FVal) : F64 := BitVec.ofNat 64 (FVal.encode 11 52 v)
def F32.of (v : FVal) : F32 := BitVec.ofNat 32 (FVal.encode 8 23 v)

def FVal.neg : FVal → FVal
  | .fin n m e => .fin (!n) m e
  | .inf n => .inf (!n)
  | .nan => .nan

def FVal.isFinite : FVal → Bool
  | .fin _ _ _ => true
  | _ => false

/-- The exact sum; the result is rounded when it is encoded. A zero sum of unlike signs is +0. -/
def FVal.add : FVal → FVal → FVal
  | .nan, _ => .nan
  | _, .nan => .nan
  | .inf a, .inf b => if a = b then .inf a else .nan
  | .inf a, _ => .inf a
  | _, .inf b => .inf b
  | .fin n1 m1 e1, .fin n2 m2 e2 =>
    let e := Min.min e1 e2
    let a : Int := (m1 * 2 ^ (e1 - e).toNat : Nat)
    let b : Int := (m2 * 2 ^ (e2 - e).toNat : Nat)
    let s : Int := (if n1 then -a else a) + (if n2 then -b else b)
    if s = 0 then .fin (n1 && n2) 0 e
    else .fin (decide (s < 0)) s.natAbs e

def FVal.mul : FVal → FVal → FVal
  | .nan, _ => .nan
  | _, .nan => .nan
  | .inf a, .inf b => .inf (a != b)
  | .inf a, .fin b m _ => if m = 0 then .nan else .inf (a != b)
  | .fin a m _, .inf b => if m = 0 then .nan else .inf (a != b)
  | .fin n1 m1 e1, .fin n2 m2 e2 => .fin (n1 != n2) (m1 * m2) (e1 + e2)

/-- A quotient with 140 further bits and a sticky last bit, so that one rounding of it is the rounding of the exact quotient. -/
def FVal.div : FVal → FVal → FVal
  | .nan, _ => .nan
  | _, .nan => .nan
  | .inf _, .inf _ => .nan
  | .inf a, .fin b _ _ => .inf (a != b)
  | .fin a _ _, .inf b => .fin (a != b) 0 0
  | .fin n1 m1 e1, .fin n2 m2 e2 =>
    if m2 = 0 then (if m1 = 0 then .nan else .inf (n1 != n2))
    else
      let q := m1 * 2 ^ 140 / m2
      let r := m1 * 2 ^ 140 % m2
      .fin (n1 != n2) (2 * q + (if r = 0 then 0 else 1)) (e1 - e2 - 141)

def FVal.sqrt : FVal → FVal
  | .nan => .nan
  | .inf n => if n then .nan else .inf false
  | .fin n m e =>
    if m = 0 then .fin n 0 e
    else if n then .nan
    else
      let k : Nat := if e % 2 = 0 then 140 else 141
      let r := isqrt (m * 2 ^ k)
      .fin false (2 * r + (if r * r = m * 2 ^ k then 0 else 1)) ((e - k) / 2 - 1)

/-- The exact value of a finite pattern as a fraction; 0 for the others. -/
def FVal.frac : FVal → Frac
  | .fin n m e =>
    let v : Int := if n then -(m : Int) else m
    if e ≥ 0 then ⟨v * 2 ^ e.toNat, 1⟩ else Frac.mk' v (2 ^ (-e).toNat)
  | _ => Frac.zero

/-- Compare two numbers; none when either is not a number. -/
def FVal.cmp : FVal → FVal → Option Ordering
  | .nan, _ => none
  | _, .nan => none
  | .inf a, .inf b => some (if a = b then .eq else if a then .lt else .gt)
  | .inf a, _ => some (if a then .lt else .gt)
  | _, .inf b => some (if b then .gt else .lt)
  | .fin n1 m1 e1, .fin n2 m2 e2 =>
    let e := Min.min e1 e2
    let a : Int := (m1 * 2 ^ (e1 - e).toNat : Nat)
    let b : Int := (m2 * 2 ^ (e2 - e).toNat : Nat)
    let a := if n1 then -a else a
    let b := if n2 then -b else b
    some (if a < b then .lt else if a = b then .eq else .gt)

def FVal.le (a b : FVal) : Bool :=
  match FVal.cmp a b with
  | some .gt => false
  | some _ => true
  | none => false

def FVal.lt (a b : FVal) : Bool :=
  match FVal.cmp a b with
  | some .lt => true
  | _ => false

def F64.add (a b : F64) : F64 := F64.of (FVal.add (F64.val a) (F64.val b))
def F64.neg (a : F64) : F64 := a ^^^ (1#64 <<< 63)
def F64.sub (a b : F64) : F64 := F64.add a (F64.neg b)
def F64.mul (a b : F64) : F64 := F64.of (FVal.mul (F64.val a) (F64.val b))
def F64.div (a b : F64) : F64 := F64.of (FVal.div (F64.val a) (F64.val b))
def F64.sqrt (a : F64) : F64 := F64.of (FVal.sqrt (F64.val a))
def F64.abs (a : F64) : F64 := a &&& 0x7FFFFFFFFFFFFFFF#64
def F64.le (a b : F64) : Bool := FVal.le (F64.val a) (F64.val b)
def F64.lt (a b : F64) : Bool := FVal.lt (F64.val a) (F64.val b)
def F64.isFinite (a : F64) : Bool := (F64.val a).isFinite
def F64.ofInt (n : Int) : F64 := F64.of (.fin (decide (n < 0)) n.natAbs 0)
def F64.ofNat (n : Nat) : F64 := F64.ofInt n
/-- n · 2^e, rounded. -/
def F64.ofScaled (n : Int) (e : Int) : F64 := F64.of (.fin (decide (n < 0)) n.natAbs e)
/-- The binary64 value nearest to a fraction. -/
def F64.ofFrac (a : Frac) : F64 :=
  F64.of (FVal.div (.fin (decide (a.num < 0)) a.num.natAbs 0) (.fin false a.den 0))
def F64.ofF32 (a : F32) : F64 := F64.of (F32.val a)
def F64.toF32 (a : F64) : F32 := F32.of (F64.val a)
def F64.one : F64 := 0x3FF0000000000000#64
def F64.zero : F64 := 0#64

def F32.isFinite (a : F32) : Bool := (F32.val a).isFinite
def F32.le (a b : F32) : Bool := FVal.le (F32.val a) (F32.val b)
def F32.lt (a b : F32) : Bool := FVal.lt (F32.val a) (F32.val b)
/-- The binary32 value nearest to a fraction, ties to even (R447). -/
def F32.ofFrac (a : Frac) : F32 :=
  F32.of (FVal.div (.fin (decide (a.num < 0)) a.num.natAbs 0) (.fin false a.den 0))
/-- R447: a binary32 field lies within a stated range when it lies between the bounds rounded to binary32. -/
def F32.within (x : F32) (lo hi : Frac) : Bool :=
  F32.le (F32.ofFrac lo) x && F32.le x (F32.ofFrac hi)
/-- Quiet NaN (R136, R216) and the infinity of an open connection (R136). -/
def F32.qnan : F32 := 0x7FC00000#32
def F32.infinity : F32 := 0x7F800000#32

/-- R115: the binary32 rounding of y, saturated beyond the range, and quiet NaN for a non-finite y. -/
def F64.toE (y : F64) : F32 :=
  if !(F64.isFinite y) then F32.qnan
  else
    let e := F64.toF32 y
    if F32.isFinite e then e
    else if y.getLsbD 63 then 0xFF7FFFFF#32 else 0x7F7FFFFF#32

/-- The integer nearest to a finite binary64 value, ties to even. -/
def F64.roundInt (a : F64) : Int :=
  let f := (F64.val a).frac
  rdivEven f.num f.den

/-! ### Complex arithmetic in binary64 -/

def Cplx.sub (a b : Cplx) : Cplx := ⟨F64.sub a.re b.re, F64.sub a.im b.im⟩
def Cplx.add (a b : Cplx) : Cplx := ⟨F64.add a.re b.re, F64.add a.im b.im⟩
def Cplx.mul (a b : Cplx) : Cplx :=
  ⟨F64.sub (F64.mul a.re b.re) (F64.mul a.im b.im), F64.add (F64.mul a.re b.im) (F64.mul a.im b.re)⟩
def Cplx.norm2 (a : Cplx) : F64 := F64.add (F64.mul a.re a.re) (F64.mul a.im a.im)
def Cplx.abs (a : Cplx) : F64 := F64.sqrt (Cplx.norm2 a)
def Cplx.div (a b : Cplx) : Cplx :=
  let n := Cplx.norm2 b
  let c := Cplx.mul a ⟨b.re, F64.neg b.im⟩
  ⟨F64.div c.re n, F64.div c.im n⟩
def Cplx.half (a : Cplx) : Cplx :=
  ⟨F64.mul a.re 0x3FE0000000000000#64, F64.mul a.im 0x3FE0000000000000#64⟩
def Cplx.zero : Cplx := ⟨0#64, 0#64⟩

/-! ### Angles, in fixed point with 256 fraction bits -/

/-- π · 2^256. -/
def piFix : Nat := 0x3243f6a8885a308d313198a2e03707344a4093822299f31d0082efa98ec4e6c89

/-- The Taylor sum x − x³/3! + … (or 1 − x²/2! + …) in 256-bit fixed point: 48 terms from the term given. -/
def taylorFix : Nat → Nat → Int → Int → Int → Int
  | 0, _, _, _, acc => acc
  | k + 1, n, x2, term, acc =>
    let term' := -(term * x2 / 2 ^ 256) / ((n : Int) * (n + 1))
    taylorFix k (n + 2) x2 term' (acc + term')

def sinFix (x : Int) : Int := taylorFix 48 2 (x * x / 2 ^ 256) x x
def cosFix (x : Int) : Int := taylorFix 48 1 (x * x / 2 ^ 256) (2 ^ 256) (2 ^ 256)

/-- sin of r/2^b turn for 0 ≤ r ≤ 2^(b−2), in 256-bit fixed point; exact at both ends. -/
def sinQuarter (b r : Nat) : Int :=
  if r = 0 then 0
  else if r = 2 ^ (b - 2) then 2 ^ 256
  else if r ≤ 2 ^ (b - 3) then sinFix (2 * (piFix : Int) * r / 2 ^ b)
  else cosFix (2 * (piFix : Int) * (2 ^ (b - 2) - r : Int) / 2 ^ b)

/-- sin 2πk/2^b for b of 3 or more, 256-bit fixed point. -/
def sinTurnFix (b : Nat) (k : Int) : Int :=
  let a := (k % 2 ^ b).toNat
  let r := a % 2 ^ (b - 2)
  match a / 2 ^ (b - 2) with
  | 0 => sinQuarter b r
  | 1 => sinQuarter b (2 ^ (b - 2) - r)
  | 2 => -sinQuarter b r
  | _ => -sinQuarter b (2 ^ (b - 2) - r)

def cosTurnFix (b : Nat) (k : Int) : Int := sinTurnFix b (k + 2 ^ (b - 2))

/-- R115: sr and cr, the sine and cosine of 2πφ with φ = k/2^32, rounded to binary64. -/
def sinTurn (k : Int) : F64 := F64.ofScaled (sinTurnFix 32 k) (-256)
def cosTurn (k : Int) : F64 := F64.ofScaled (cosTurnFix 32 k) (-256)

/-- One halving of an angle given by its tangent in fixed point: t/(1 + √(1 + t²)). -/
def halveTan (t : Nat) : Nat :=
  t * 2 ^ 256 / (2 ^ 256 + isqrt (2 ^ 512 + t * t))

def atanSeries : Nat → Nat → Int → Int → Int → Int
  | 0, _, _, _, acc => acc
  | k + 1, n, t2, pow, acc =>
    let pow' := -(pow * t2 / 2 ^ 256)
    atanSeries k (n + 2) t2 pow' (acc + pow' / n)

/-- atan of a tangent in [0, 1], 256-bit fixed point. -/
def atanFix (t : Nat) : Int :=
  let u : Int := (halveTan (halveTan (halveTan t)) : Nat)
  8 * atanSeries 50 3 (u * u / 2 ^ 256) u u

/-- The integer nearest to 2^32 · atan(b/a)/(2π) for 0 < b < a. -/
def atanTurn32 (b a : Nat) : Int :=
  rdivEven (atanFix (b * 2 ^ 256 / a) * 2 ^ 31) piFix

/-- R85: the P word's integer for I and Q: the integer nearest to 2^32·atan2(Q, I)/(2π); +2^31 is coded −2^31; 0 when both are 0. -/
def phaseWord (i q : Int) : Int :=
  let a := i.natAbs
  let b := q.natAbs
  let first : Int :=
    if a = 0 ∧ b = 0 then 0
    else if b = 0 then 0
    else if a = 0 then 2 ^ 30
    else if a = b then 2 ^ 29
    else if b < a then atanTurn32 b a
    else 2 ^ 30 - atanTurn32 a b
  let half : Int := if i < 0 then 2 ^ 31 - first else first
  let full : Int := if q < 0 then -half else half
  if full = 2 ^ 31 then -(2 ^ 31) else full

/-- R85: the M word's integer: the integer nearest to √(I² + Q²). -/
def magWord (i q : Int) : Nat :=
  let n := i.natAbs * i.natAbs + q.natAbs * q.natAbs
  let r := isqrt n
  if n > r * r + r then r + 1 else r

/-- Whether a power m·2^e is at least 10^((2v − 1)/2000), that is, whether it rounds to v or more in 0.01 dB. -/
def dbAtLeast (m : Nat) (e : Int) (v : Int) : Bool :=
  let l := m ^ 2000 * (if e ≥ 0 then 2 ^ (e.toNat * 2000) else 1) * (if 2 * v - 1 < 0 then 10 ^ (1 - 2 * v).toNat else 1)
  let r := (if e < 0 then 2 ^ ((-e).toNat * 2000) else 1) * (if 2 * v - 1 ≥ 0 then 10 ^ (2 * v - 1).toNat else 1)
  decide (r ≤ l)

def dbSearch : Nat → Nat → Int → Int → Int
  | 0, _, _, lo => lo
  | k + 1, m, e, lo => dbSearch k m e (if dbAtLeast m e (lo + 2 ^ k) then lo + 2 ^ k else lo)

/-- R155: 10·log10 of a power in 0.01 dB, to nearest, saturating at −32768 and 32767; zero power gives −32768. -/
def dbValue (p : F64) : Int :=
  match F64.val p with
  | .fin false m e => if m = 0 then -32768 else dbSearch 16 m e (-32768)
  | .inf false => 32767
  | _ => -32768

/-! ### Bytes, little-endian (R7) -/

def leBytes : Nat → Nat → List Byte
  | 0, _ => []
  | k + 1, n => BitVec.ofNat 8 n :: leBytes k (n / 256)

def ofLe : List Byte → Nat
  | [] => 0
  | b :: bs => b.toNat + 256 * ofLe bs

/-- The unsigned field of n bytes at an offset of a layout. -/
def field (l : List Byte) (off n : Nat) : Nat := ofLe ((l.drop off).take n)

/-- The two's complement reading of n bytes at an offset. -/
def fieldInt (l : List Byte) (off n : Nat) : Int :=
  let v := field l off n
  if v < 2 ^ (8 * n - 1) then v else (v : Int) - 2 ^ (8 * n)

/-- A whole number as n little-endian bytes of its two's complement. -/
def leInt (n : Nat) (v : Int) : List Byte := leBytes n (v % 2 ^ (8 * n)).toNat

/-- R7: a 64-bit quantity split across two words stores its high word first. -/
def hiLo (t : Nat) : List Byte := leBytes 4 (t / 2 ^ 32) ++ leBytes 4 t

def zeros (n : Nat) : List Byte := List.replicate n 0#8

/-- All bytes of a range are zero (R8: reserved fields). -/
def allZero (l : List Byte) (off n : Nat) : Bool := ((l.drop off).take n).all (· == 0#8)

/-- The 32-bit words of a byte list, padded with zeros to a whole word. -/
def wordsOfAux : Nat → List Byte → List Word
  | 0, _ => []
  | k + 1, l => BitVec.ofNat 32 (ofLe (l.take 4)) :: wordsOfAux k (l.drop 4)

def wordsOf (l : List Byte) : List Word := wordsOfAux ((l.length + 3) / 4) l

def bytesOf (ws : List Word) : List Byte := ws.flatMap fun w => leBytes 4 w.toNat

/-! ### Cyclic redundancy checks -/

def crcShift : Nat → Nat → Nat → Nat
  | 0, _, c => c
  | k + 1, poly, c => crcShift k poly (if c % 2 = 1 then (c / 2) ^^^ poly else c / 2)

/-- A reflected 32-bit CRC with initial value and final XOR 0xFFFF_FFFF. -/
def crcReflected (poly : Nat) (l : List Byte) : Nat :=
  (l.foldl (fun c b => crcShift 8 poly (c ^^^ b.toNat)) 0xFFFFFFFF) ^^^ 0xFFFFFFFF

/-- R236: CRC-32 of the Ethernet polynomial 0x04C1_1DB7, reflected. -/
def crc32 (l : List Byte) : Word := BitVec.ofNat 32 (crcReflected 0xEDB88320 l)

/-- R270: CRC-32C, polynomial 0x1EDC_6F41, reflected. -/
def crc32c (l : List Byte) : Word := BitVec.ofNat 32 (crcReflected 0x82F63B78 l)

def crc8Step : Nat → Nat → Nat
  | 0, c => c
  | k + 1, c => crc8Step k (if c ≥ 128 then ((c * 2) % 256) ^^^ 0x07 else c * 2)

/-- R228: CRC-8, polynomial x^8 + x^2 + x + 1, initial value 0. -/
def crc8 (l : List Byte) : Byte := BitVec.ofNat 8 (l.foldl (fun c b => crc8Step 8 (c ^^^ b.toNat)) 0)

end Sys2Proof.Machine
end

