-- ==== Sys2Proof/Machine/State.lean ====
section
/-! DEFINITION. The state of the UM8128: every register, buffer, queue, counter, mode and pin the manual gives it, as plain data, and the queue of the commands that are waiting. -/

namespace Sys2Proof.Machine

/-! ### Why a step stops -/

/-- No command of this block ends in a fault: the manual gives each an effect. -/
inductive Fault where
  deriving DecidableEq, Repr

/-- Why a command has no meaning here. -/
inductive Refusal where
  /-- Raised by the dispatch for a command that has no meaning yet; safe. -/
  | notModelled (mnemonic : String)
  deriving DecidableEq, Repr

/-! ### Modes and small sets of names -/

/-- The eight modes in code order (*What runs in each mode*). -/
inductive Mode where
  | reset | boot | idle | run | hearth | calibrate | maintain | safe
  deriving DecidableEq, Repr

/-- Synthesizer states in code order (R278). -/
inductive SynState where
  | off | search | acquire | align | ready | active | coast | unlocked
  deriving DecidableEq, Repr

/-- Discipline states in code order (R289). -/
inductive Disc where
  | free | acquiring | locked | holdover | slewing | awaitStep | held
  deriving DecidableEq, Repr

/-- Combiner states in code order (R100, `chan.query` COMBINER). -/
inductive Comb where
  | high | toLow | low | toHigh
  deriving DecidableEq, Repr

/-- Estimator states in code order (R105). -/
inductive Est where
  | seeded | tracking | converged | held
  deriving DecidableEq, Repr

/-- What a channel's excitation and converters are doing (R28, R47, R49, R50). -/
inductive Phase where
  | stopped
  /-- start sequence, from tick 0 to the release of the modulators -/
  | starting
  | running
  /-- ramp-down that ends in the disabled pin states -/
  | rampOff
  /-- ramp-down that ends in a new start sequence -/
  | rampRestart
  deriving DecidableEq, Repr

/-- Slot states in code order (R208). -/
inductive SlotState where
  | free | armed | recording | filling | done
  deriving DecidableEq, Repr

/-- Transaction states (R350, R360). -/
inductive TxnState where
  | open_ | waiting | accepted | effective | aborted | inDoubt
  deriving DecidableEq, Repr

/-! ### The configuration (records as the manual lays them out) -/

/-- Channel record of R358 with the enable of R45. -/
structure ChanCfg where
  mode : Nat
  subform : Nat
  cf : Nat
  gl : Nat
  gh : Nat
  range : Nat
  fch : Nat
  nswap : Nat
  enable : Bool
  deriving DecidableEq, Repr

/-- Defaults of R45. -/
def ChanCfg.init : ChanCfg := ⟨0, 0, 8, 1, 128, 0, 3, 16, false⟩

/-- Point record of R359. -/
structure PointCfg where
  enable : Bool
  assign : Nat
  f : Nat
  a : Nat
  ph : Nat
  d : Nat
  response : Nat
  word0 : Nat
  word1 : Nat
  deriving DecidableEq, Repr

/-- Defaults of R66 and R93. -/
def PointCfg.init : PointCfg := ⟨false, 0, 0, 0, 0, 62500, 0, 1, 2⟩

/-- Linearisation set record of R117. -/
structure LinSet where
  xsel : Nat
  tkind : Nat
  tsrc : Nat
  unit : Nat
  phi : Int
  t0 : F32
  dt : F32
  c : List F32
  label : Word
  deriving DecidableEq, Repr

/-- Stream record of R239. -/
structure StreamCfg where
  dest : Nat
  spc : Nat
  fabAddr : Nat
  fillTo : Nat
  rate : Nat
  deriving DecidableEq, Repr

def StreamCfg.init : StreamCfg := ⟨0, 1, 0, 3000000, 0⟩

/-- Region record of R201; TYPE 0 is no region. -/
structure RegionCfg where
  type : Nat
  first : Nat
  count : Nat
  slots : Nat
  capacity : Nat
  deriving DecidableEq, Repr

def RegionCfg.init : RegionCfg := ⟨0, 0, 0, 0, 0⟩

/-- Tally record of R215. -/
structure TallyCfg where
  enable : Bool
  toRegion : Bool
  toStream : Bool
  region : Nat
  deadband : F32
  heartbeat : Nat
  deriving DecidableEq, Repr

def TallyCfg.init : TallyCfg := ⟨false, false, false, 0, 0#32, 1⟩

/-- Analogue output record of R246. -/
structure AoutCfg where
  enable : Bool
  onInvalidSafe : Bool
  settleAsInvalid : Bool
  point : Nat
  scale : F32
  offset : F32
  safe : Nat
  deriving DecidableEq, Repr

def AoutCfg.init : AoutCfg := ⟨false, false, false, 0, 0#32, 0#32, 524288⟩

/-- Mill job record of R145. -/
structure JobCfg where
  enable : Bool
  peakReset : Bool
  srcKind : Nat
  src : Nat
  slot : Nat
  log2n : Nat
  window : Nat
  wsel : Nat
  overlap : Nat
  beta : F32
  avg : Nat
  expK : Nat
  avgN : Nat
  out : Nat
  shift : Nat
  decRule : Nat
  decM : Nat
  binLo : Nat
  binCnt : Nat
  decLo : Nat
  decC : Nat
  nbands : Nat
  mask : Nat
  deriving DecidableEq, Repr

/-- Density map record of R167. -/
structure MapCfg where
  enable : Bool
  stream : Bool
  job : Nat
  region : Nat
  subsample : Nat
  floor : Int
  step : Nat
  decay : Nat
  streamEvery : Nat
  halveEvery : Nat
  deriving DecidableEq, Repr

/-- Trigger unit record of R175. -/
structure UnitCfg where
  enable : Bool
  oneshot : Bool
  skipSettle : Bool
  type : Nat
  sel : Nat
  src : Nat
  word : Nat
  a : F32
  b : F32
  m : Nat
  p1 : Nat
  p2 : Nat
  holdoff : Nat
  seqmode : Nat
  seqin : Nat
  seqn : Nat
  seqt : Nat
  rgrp : Nat
  act : Nat
  outpins : Nat
  region : Nat
  outDelay : Nat
  outWidth : Nat
  bcId : Nat
  bcDest : Nat
  deriving DecidableEq, Repr

/-- Shepherd channel parameters of R143. -/
structure ShepCfg where
  fsh : Nat
  zopen : F32
  zshort : F32
  cmin : F32
  gshort : F32
  gleak : F32
  dr : F32
  deriving DecidableEq, Repr

/-- Defaults of R143: 93.75 kHz, 1 MΩ, 1 Ω, 0.05 pF, 1 µS, 10 nS, 5 %, as the nearest binary32 values. -/
def ShepCfg.init : ShepCfg :=
  ⟨2, 0x49742400#32, 0x3F800000#32, 0x29612E13#32, 0x358637BD#32, 0x322BCC77#32, 0x3D4CCCCD#32⟩

/-- Shepherd guard-group parameters of R143. -/
structure GroupCfg where
  periodic : Bool
  phi : Nat
  deriving DecidableEq, Repr

def GroupCfg.init : GroupCfg := ⟨true, 0⟩

/-- A whole configuration. Band, mask and window tables are keyed 64·job + band, 1,024·job + column and 32,769·table + entry. -/
structure Cfg where
  chans : Tbl ChanCfg
  points : Tbl PointCfg
  lins : Tbl LinSet
  streams : Tbl StreamCfg
  portN : Nat
  portFill : Nat
  regions : Tbl RegionCfg
  tallies : Tbl TallyCfg
  aouts : Tbl AoutCfg
  jobs : Tbl JobCfg
  bands : Tbl (Nat × Nat)
  masks : Tbl (Int × Int)
  windows : Tbl F32
  maps : Tbl MapCfg
  units : Tbl UnitCfg
  sheps : Tbl ShepCfg
  groups : Tbl GroupCfg
  pchk : Nat
  /-- no part of what is configured: the decimation factors at which the captures that replay jobs read were stored, by 65,536·region + slot (R146) -/
  stored : Tbl Nat
  deriving DecidableEq, Repr

/-- The boot configuration: every entity at its default (R45, R66, R93, R143, R239). -/
def Cfg.boot : Cfg := ⟨[], [], [], [], 8, 3000000, [], [], [], [], [], [], [], [], [], [], [], 100, []⟩

/-! ### Transactions -/

/-- One staged item (R345). -/
inductive Item where
  | chan (n : Nat) (c : ChanCfg)
  | enable (n : Nat) (on : Bool)
  | point (p : Nat) (c : PointCfg)
  | lin (p : Nat) (c : Option LinSet)
  | stream (s : Nat) (c : StreamCfg)
  | port (n fill : Nat)
  | region (r : Nat) (c : RegionCfg)
  | tally (p : Nat) (c : TallyCfg)
  | aout (a : Nat) (c : AoutCfg)
  | job (j : Nat) (c : Option JobCfg)
  | bands (j first : Nat) (l : List (Nat × Nat))
  | mask (j first : Nat) (l : List (Int × Int))
  | window (w first : Nat) (l : List F32)
  | map (m : Nat) (c : MapCfg) (clear : Bool)
  | unit (u : Nat) (c : Option UnitCfg)
  | shepChan (n : Nat) (c : ShepCfg) (action : Nat) (base : List F32)
  | shepGroup (g : Nat) (c : GroupCfg)
  | shepDevice (pchk : Nat)
  deriving DecidableEq, Repr

/-- Where an answer goes. -/
inductive Via where
  | mailbox (m : Nat)
  | returnLane
  | fabric (peer : Nat)
  deriving DecidableEq, Repr

/-- Who waits for an answer or a completion: transport, session, request tag, command code and transaction. -/
structure Waiter where
  via : Via
  session : Nat
  tag : Word
  command : Nat
  txn : Nat
  /-- of the session, which is a later one's with the same id once that has closed (R343) -/
  serial : Nat
  deriving DecidableEq, Repr

/-- One participant of a fabric transaction, as its coordinator sees it (R395 to R398). -/
structure Part where
  addr : Nat
  opened : Bool
  vote : Option (BitVec 16)
  acked : Bool
  deriving DecidableEq, Repr

/-- One transaction (R344, R350, R395). `coord` is the coordinator's address for a linked transaction. -/
structure Txn where
  id : Nat
  session : Nat
  coord : Option Nat
  ticket : Nat
  fabric : Bool
  items : List Item
  state : TxnState
  effect : Nat
  tag : BitVec 16
  parts : List Part
  target : Nat
  /-- coordinator: the decision once made; participant: the decision once known (R396, R397) -/
  decision : Option Bool
  /-- participant: voted YES, its entities are reserved -/
  prepared : Bool
  /-- the request that waits for txn.begin's or txn.commit's answer or completion -/
  waiter : Option Waiter
  /-- the epoch in which txn.commit or PREPARE arrived -/
  arrived : Nat
  /-- the epoch at whose boundary INDOUBT ends (R397) -/
  doubtEnd : Option Nat
  /-- it is aborted when its doubt ends (R397) -/
  closing : Bool
  deriving DecidableEq, Repr

/-- An accepted batch that waits for its effect boundary (R348). -/
structure Batch where
  effect : Nat
  tag : BitVec 16
  cfg : Cfg
  txns : List Nat
  items : List Item
  /-- a calibration commit, whose close falls on the same boundary (R264) -/
  cal : Bool
  deriving DecidableEq, Repr

/-! ### Sessions, mailboxes and completions -/

/-- A completion in the form of R337 (header, prefix and payload), without the header's tags, which are those of its writing. -/
structure Completion where
  status : BitVec 16
  tag : Word
  epoch : Nat
  command : Nat
  session : Nat
  txn : Nat
  payload : List Byte
  deriving DecidableEq, Repr

/-- A frame whose request waits for older ones: its transport, its request's bytes and its place (R336). -/
structure FrameWait where
  via : Via
  bytes : List Byte
  arrived : Nat
  epoch : Nat
  deriving DecidableEq, Repr

/-- A session (R341). `remembered` holds the last 16 request tags with their answers, for frames (R340). -/
structure Session where
  id : Nat
  transport : Nat
  mbx : Nat
  peer : Nat
  keepalive : Nat
  deadline : Nat
  label : List Byte
  queue : List Completion
  running : Nat
  remembered : List (Word × Option (List Byte))
  /-- how many sessions were opened before it -/
  serial : Nat
  deriving DecidableEq, Repr

/-- A mailbox (R324, R334): its two 1 KiB buffers as bytes by offset, its registers, whether the response is a placed completion of a session, whether the firmware holds the request for a later answer, and the place of its request among all that have arrived, with the epoch of its doorbell (R336, R347). -/
structure Mailbox where
  request : Tbl Byte
  response : Tbl Byte
  reqLen : BitVec 11
  rspLen : BitVec 11
  reqBusy : Bool
  rspValid : Bool
  placed : Bool
  taken : Bool
  overruns : BitVec 16
  arrived : Nat
  epoch : Nat
  deriving DecidableEq, Repr

/-- [log 18 DESIGN CHOICE] -/
def Mailbox.init : Mailbox := ⟨[], [], 0#11, 0#11, false, false, false, false, 0#16, 0, 0⟩

/-! ### Events, violations, Bell -/

/-- An event register: sequence, event bits, and the bits set since the epoch began (R237, R314). -/
structure Evt where
  seq : BitVec 8
  bits : BitVec 24
  epoch : BitVec 24
  /-- the BUS cycle of the last recording, unless the register has been read or cleared since (R314) -/
  cycle : Option Nat
  deriving DecidableEq, Repr

def Evt.init : Evt := ⟨0#8, 0#24, 0#24, none⟩

/-- The hardware counters a Bell latches (R320), in the order of the holding window. -/
structure Counters where
  cartsDiscarded : Word
  returnBadCrc : Word
  fifoOverflows : Word
  parityRepairs : Word
  lockstepRepairs : Word
  violations : Word
  bellsDropped : Word
  synSwitches : Word
  bellInEdges : Word
  mbxAccepted : Tbl Word
  /-- clip episodes, CLIP samples, guard cuts, TO_LOW entries, HIGH arrivals, N_FAST, N_CHECK, N_FAULT: key 8·n + i -/
  chan : Tbl Word
  /-- transforms, invalid transforms, emitted results, mask failures: key 4·j + i -/
  job : Tbl Word
  /-- ADDED, EXCLUDED: key 2·m + i -/
  map : Tbl Word
  /-- detections, firings, records as primary, late records: key 4·u + i -/
  unit : Tbl Word
  pin : Tbl Word
  /-- written, wraps, captures started, truncated, readout skipped: key 5·r + i -/
  region : Tbl Word
  corrected : Word
  uncorrected : Word
  scrubPasses : Word
  /-- the eight counters of R379: key 8·k + i -/
  fport : Tbl Word
  deriving DecidableEq, Repr

def Counters.init : Counters :=
  ⟨0#32, 0#32, 0#32, 0#32, 0#32, 0#32, 0#32, 0#32, 0#32, [], [], [], [], [], [], [], 0#32, 0#32, 0#32, []⟩

/-- One half of the holding window (R317, R320). -/
structure Snapshot where
  time : Nat
  count : Word
  sources : BitVec 5
  epoch : Word
  mode : Word
  clkStat : Word
  supStat : Word
  tags : Word
  dlStat : Word
  cartLevel : Word
  counters : Counters
  deriving DecidableEq, Repr

/-- A Bell that is due: its tick and its sources (R316). -/
structure BellDue where
  tick : Nat
  sources : BitVec 5
  deriving DecidableEq, Repr

/-- A Bell scheduled over the fabric: those it was sent to, those that acknowledged, and who waits (R371). -/
structure BellSched where
  tick : Nat
  dests : List Nat
  acked : List Nat
  waiter : Option Waiter
  deriving DecidableEq, Repr

/-- The Bell block (R316 to R318, R326). -/
structure Bell where
  inEdge : Bool
  inEn : Bool
  outSrc : BitVec 4
  drops : BitVec 8
  count : Word
  window : Option Snapshot
  idleHalf : Option Snapshot
  lastLatched : Option Nat
  due : List BellDue
  sched : List BellSched
  /-- ticks of the Bells this device has scheduled on its partners, until they have passed (R318) -/
  planned : List Nat
  outUntil : Nat
  deriving DecidableEq, Repr

/-- Violation record registers (R313, R328). -/
structure Viol where
  addr : BitVec 24
  count : BitVec 16
  opcode : Byte
  port : BitVec 2
  kind : BitVec 3
  deriving DecidableEq, Repr

/-- One port's posted state for one tile (R308, R309): the access in progress, and the address and value of the last completed read. -/
structure Posted where
  busy : Bool
  valid : Bool
  nack : Bool
  /-- the access in progress, its address with the alias bits -/
  addr : BitVec 24
  value : Word
  write : Bool
  readAddr : BitVec 24
  readValue : Word
  /-- the instant at which the access was launched (R309) -/
  since : Nat
  deriving DecidableEq, Repr

def Posted.init : Posted := ⟨false, false, false, 0#24, 0#32, false, 0#24, 0#32, 0⟩

/-- One field tile (R44, R330): sensors in 0.01 °C, link state, test registers. -/
structure Tile where
  linkUp : Bool
  trimLoaded : Bool
  tempValid : Bool
  linkCrc : BitVec 8
  temps : List Int
  test : Bool
  deriving DecidableEq, Repr

def Tile.init : Tile := ⟨false, false, false, 0#8, [0, 0, 0, 0], false⟩

/-! ### Clocks and time -/

/-- One synthesizer (R276 to R278): state, good windows in a row, held control word, reference path setting, a loss since it was last READY, a failed search since. -/
structure Syn where
  state : SynState
  good : Nat
  held : Option (BitVec 64)
  mult : Nat
  lost : Bool
  failed : Bool
  /-- the band of the last search (R276) -/
  band : Nat
  /-- the instant at which its search, its count window or its wait ends (R276 to R278) -/
  due : Nat
  deriving DecidableEq, Repr

def Syn.init : Syn := ⟨.off, 0, none, 0, false, false, 16, 0⟩

/-- A step of device time that is due (R287, R292, R391, R392): its instant, its size (for R292 the offset at the last edge decides), what raised it and who waits. -/
structure StepDue where
  at_ : Nat
  kind : Nat
  delta : Int
  second : Nat
  waiter : Option Waiter
  deriving DecidableEq, Repr

/-- The phase of a time output that a step fell in: the output, its level, the instant it lasts to, the instant after the step, and what of the phase had passed there (R288). -/
structure ToutHold where
  out    : Nat
  level  : Bool
  until_ : Nat
  at_    : Nat
  past   : Nat
  deriving DecidableEq, Repr

/-- Clocks, time counter and discipline (R274 to R295). `remain` and `offset` are in 1/64 tick; `steer` in 2^−40. -/
structure Clock where
  time : Nat
  counting : Bool
  synA : Syn
  synB : Syn
  activeB : Bool
  xoOk : Bool
  coasting : Bool
  /-- the last frequency check of the coast passed 50 ppm (R282, R415) -/
  coastBad : Bool
  refMult : Nat
  /-- 0 none, 1 running on the standby, 2 running on the former active, 3 last change abandoned (R280) -/
  change : Nat
  changeTo : Nat
  source : Nat
  refFreq : Nat
  newSource : Option (Nat × Nat)
  disc : Disc
  refPresent : Bool
  target : Option Nat
  offset : Int
  offsetAt : Nat
  steer : Int
  remain : Int
  /-- the instant `remain` stood at, and the slew rate in force (R291, R294) -/
  slewAt : Nat
  rate : F32
  /-- the state that follows the slewing of a step's remainder (R287) -/
  resume : Option Disc
  /-- what of an offset under R291 waits behind the slewing of a step's remainder (R287) -/
  later : Int
  /-- a step has landed on an epoch boundary whose work is still to come -/
  landed : Bool
  goodEpochs : Nat
  ppsEdges : List Nat
  /-- the selected reference's last edge, in 1/64 tick, and whether its last epoch missed 200 ppm (R289) -/
  lastEdge : Nat
  refBad : Bool
  taiSet : Bool
  policy : Nat
  slewRate : F32
  jumpThresh : Nat
  due : List StepDue
  stepS : Nat
  stepD : Int
  stepCount : Nat
  /-- 0 no step, 1 a step under R292, 2 a step by time.set: for the BEACON (R293, R392) -/
  stepKind : Nat
  /-- the phase each time output shows across the last step (R288) -/
  touts : List ToutHold
  /-- the last Bellringer step count this device has repeated (R392) -/
  brSteps : Nat
  brDisc : Nat
  brHold : Bool
  /-- latched high word of each port (R286): control, fabric, Ammond -/
  latchC : Option Word
  latchF : Option Word
  latchA : Option Word
  deriving DecidableEq, Repr

/-! ### Channels, points and the Shepherd -/

/-- A fault episode (R131): onset, end, drive pin of its scope (none: the whole channel), cause, and the detector that holds it. -/
structure Episode where
  from_ : Nat
  to_ : Option Nat
  pin : Option ChPin
  cause : Nat
  det : Option Detector
  /-- td + 96: samples ready before it were delivered (R132) -/
  mark : Nat
  /-- te′ as it is reported (R142) -/
  onset : Nat
  deriving DecidableEq, Repr

/-- Measured or baseline impedances in the layout of R142 offsets 32 to 63: Z_S (or C_A, C_B), Z_DA, Z_DB, Y_G. -/
structure Imped where
  zs : F32 × F32
  zda : F32 × F32
  zdb : F32 × F32
  yg : F32 × F32
  /-- Q mode: G_A and G_B (R136) -/
  g : F32 × F32
  deriving DecidableEq, Repr

def Imped.zero : Imped := ⟨(0#32, 0#32), (0#32, 0#32), (0#32, 0#32), (0#32, 0#32), (0#32, 0#32)⟩

/-- A path's overload span (R97): from the crossing, to the instant its output is usable again. -/
structure OvlSpan where
  from_ : Nat
  to_ : Option Nat
  deriving DecidableEq, Repr

/-- A gain change's outage of a path (R107, R109): the boundary from which the path leaves use, and the instant of its return. -/
structure Outage where
  path : PathId
  from_ : Nat
  to_ : Option Nat
  /-- the gain that the path converts at until its analogue gain switches (R108) -/
  gain : Nat
  deriving DecidableEq, Repr

/-- Ratio, delay and background gain that the combiner applies from an instant on (R104, R253). -/
structure Applied where
  from_ : Nat
  rho : F64
  delta : F64
  gamma : F64
  deriving DecidableEq, Repr

/-- A wideband sample as its consumers take it (R76, R87): aligned instant, VALUE in FS_L/2^21, low-path weight in 1/32, whether it is tagged CLIP. -/
structure WideRec where
  t : Nat
  value : Int
  weight : Nat
  clip : Bool
  deriving DecidableEq, Repr

/-- What the pairs of the present epoch have shown so far (R104, R253): its wideband samples, those whose pair qualifies, and those with a usable low and high path. -/
structure PairCount where
  all : Nat
  pairs : Nat
  low : Nat
  high : Nat
  deriving DecidableEq, Repr

def PairCount.zero : PairCount := ⟨0, 0, 0, 0⟩

/-- Running state of one channel. `w` is the low-path weight in 1/32. -/
structure ChanRun where
  phase : Phase
  tick0 : Nat
  /-- boundary at which a ramp-down or the SETTLE of a start began -/
  from_ : Nat
  /-- SETTLE of the wideband stream (R48, R49): from and up to these instants; a point's window beginning before the second carries it too -/
  settles : List (Nat × Nat)
  /-- shift of the wideband grid by steps of device time (R77, R90), and that of the instants before the boundary of the last restart -/
  grid : Int
  gridOld : Int
  anchor : Nat
  /-- the last wideband sample's instant, the boundary the stream begins at and the one it ends before -/
  wlast : Nat
  wstart : Nat
  wstop : Option Nat
  /-- outages of the two paths for gain changes, newest first (R107) -/
  outages : List Outage
  /-- spans of an impedance-check tone, and of calibration -/
  tones : List (Nat × Option Nat)
  cals : List (Nat × Option Nat)
  isoClosed : Bool
  calClosed : Bool
  released : Bool
  servoSlow : Bool
  comb : Comb
  w : Nat
  clean : Nat
  /-- a crossfade away from a path that is leaving use (R107) -/
  fadeFrom : Option PathId
  outLow : Option Nat
  outHigh : Option Nat
  switched : Bool
  est : Est
  tracked : Nat
  skipped : Nat
  rho : F64
  delta : F64
  /-- ρ and δ of the last tracked epoch and the tile temperature then, from which HELD goes on (R106) -/
  heldRho : F64
  heldDelta : F64
  heldTemp : Int
  /-- the gain pair that ρ and δ belong to (R107) -/
  ratioGl : Nat
  ratioGh : Nat
  /-- what the combiner applies, newest first -/
  applied : List Applied
  epochPairs : PairCount
  /-- the look-ahead: what the first decimation has given from the next sample's instant on (R77); and the high-path samples before it, newest first -/
  look : List RawIn
  back : List Int
  /-- outputs of the high path's modulator at the newest bitstream instants, newest first (R98) -/
  outputs : List Int
  /-- the at-risk and busy instants that a later sample can still meet (R98) -/
  risks : List Nat
  busys : List Nat
  /-- wideband samples that a point's window can still meet, newest first -/
  wides : List WideRec
  ovlLow : Bool
  ovlHigh : Bool
  spanLow : List OvlSpan
  spanHigh : List OvlSpan
  ovlCount : Word
  gamma : F64
  pilotAlarm : Bool
  sinceClip : Nat
  pinSP : Nat
  pinSN : Nat
  delay : Int
  /-- drive-path delays of the two pins in force, in 1/64 tick (R53, R88) -/
  driveA : Int
  driveB : Int
  swap : Nat
  /-- instant of the last hand-over of roles (R63) -/
  swapLast : Nat
  /-- Nswap by the instant from which it runs, newest first (R65) -/
  nswaps : List (Nat × Nat)
  /-- CH_TEST of the tile window (R330) -/
  test : BitVec 4
  /-- a channel of an open calibration, and of kind BUS (R256) -/
  cal : Bool
  calBus : Bool
  -- Shepherd
  /-- the overload detector is armed (R126) -/
  armed : Bool
  /-- the overload condition of R127 holds, and since when it has or has not -/
  ovlCond : Bool
  ovlAt : Nat
  cls : Nat
  where_ : BitVec 8
  fastPins : BitVec 8
  cause : Nat
  episodes : List Episode
  asserted : List Detector
  base : Option Imped
  /-- CAPTURE is armed, from its effect boundary (R138) -/
  capture : Option Nat
  meas : Imped
  lastCheck : Nat
  /-- te′ and tend of the last closed episode; `cause` is its cause (R142) -/
  onset : Nat
  endT : Nat
  /-- ratio alarm raised while it lasts -/
  ratioAlarm : Bool
  deriving DecidableEq, Repr

def ChanRun.init : ChanRun where
  phase := .stopped
  tick0 := 0
  from_ := 0
  settles := []
  grid := 0
  gridOld := 0
  anchor := 0
  wlast := 0
  wstart := 0
  wstop := some 0
  outages := []
  tones := []
  cals := []
  isoClosed := false
  calClosed := false
  released := false
  servoSlow := false
  comb := .high
  w := 0
  clean := 0
  fadeFrom := none
  outLow := none
  outHigh := none
  switched := false
  est := .seeded
  tracked := 0
  skipped := 0
  rho := 0x3FF0000000000000#64
  delta := 0#64
  heldRho := 0x3FF0000000000000#64
  heldDelta := 0#64
  heldTemp := 0
  ratioGl := 1
  ratioGh := 128
  applied := []
  epochPairs := PairCount.zero
  look := []
  back := []
  outputs := []
  risks := []
  busys := []
  wides := []
  ovlLow := false
  ovlHigh := false
  spanLow := []
  spanHigh := []
  ovlCount := 0#32
  gamma := 0x3FF0000000000000#64
  pilotAlarm := false
  sinceClip := 64
  pinSP := 0
  pinSN := 0
  delay := 0
  driveA := 0
  driveB := 0
  swap := 0
  swapLast := 0
  nswaps := []
  test := 0#4
  cal := false
  calBus := false
  armed := false
  ovlCond := false
  ovlAt := 0
  cls := 0
  where_ := 0#8
  fastPins := 0#8
  cause := 0
  episodes := []
  asserted := []
  base := none
  capture := none
  meas := Imped.zero
  lastCheck := 0
  onset := 0
  endT := 0
  ratioAlarm := false

/-- A source sample of a job (R146): its index and instant; the instant at which it enters the Mill, its own or the read instant of a replay; its ready instant (R161); its value in FS_L/2^21 or FS_L/2^31; its flags; and whether it pads a replay's last window (R165). -/
structure MillSample where
  idx : Int
  t : Nat
  at_ : Nat
  ready : Nat
  re : Int
  im : Int
  flags : BitVec 14
  pad : Bool
  deriving DecidableEq, Repr

/-- One run of a point's filter (R79, R94): the boundary it begins at, its first aligned instant, the boundary its samples end before, an instant of its grid and its spacing, the instant after which its wideband samples enter as zero (R449), and the last sample it has given. -/
structure Filter where
  born : Nat
  start : Nat
  stop : Option Nat
  grid : Int
  ts : Nat
  zeroAfter : Option Nat
  last : Option Nat := none
  deriving DecidableEq, Repr

/-- Settings of a point's accumulator from an instant on (R14, R53, R54): frequency word, phase offset, steps of device time since it started. -/
structure Nco where
  from_ : Nat
  f : Nat
  ph : Nat
  dds : Int
  deriving DecidableEq, Repr

/-- A point sample as later samples and the Mill use it: instant, words I, Q and E, flags. -/
structure PointRec where
  t : Nat
  i : Int
  q : Int
  e : F32
  flags : BitVec 14
  deriving DecidableEq, Repr

/-- Running state of one point. Spans are half-open intervals of instants whose overlap with a window gives SETTLE (R68). -/
structure PointRun where
  rampFrom : Nat
  rampEnd : Nat
  /-- the excitation has reached full amplitude -/
  full : Bool
  /-- newly enabled or restarting: ramps up in phase 2 (R67) -/
  phase2 : Bool
  /-- the settings that the point ramps down under, and the instant at which they leave its pins (R49, R50, R67) -/
  held : Option (Nat × PointCfg)
  /-- settings of the accumulator, newest first (R53, R54) -/
  ncos : List Nco
  /-- filters, newest first -/
  filters : List Filter
  /-- nulls of a NOTCH filter in 2^−48 Hz by the boundary they were computed for, newest first (R83) -/
  nulls : List (Nat × List Int)
  /-- samples from the first instant on whose window begins before the second carry SETTLE (R48, R68, R94) -/
  settles : List (Nat × Nat)
  spans : List (Nat × Nat)
  /-- expected envelopes of the monitored pins (R128) -/
  e0 : List (ChPin × F32)
  /-- the fast detectors are armed (R126) -/
  armed : Bool
  last : Nat
  lastFlags : BitVec 14
  lastE : F32
  lastI : Int
  lastQ : Int
  /-- samples, newest first (R118) -/
  hist : List PointRec
  /-- boundaries after which the tally stores the first sample (R216) -/
  fresh : List Nat
  /-- samples that came before earlier ones of a filter that has ended, for the Mill, which takes them in order (R94, R147) -/
  early : List MillSample
  deriving DecidableEq, Repr

def PointRun.init : PointRun where
  rampFrom := 0
  rampEnd := 0
  full := false
  phase2 := false
  held := none
  ncos := []
  filters := []
  nulls := []
  settles := []
  spans := []
  e0 := []
  armed := false
  last := 0
  lastFlags := 0#14
  lastE := 0#32
  lastI := 0
  lastQ := 0
  hist := []
  fresh := []
  early := []

/-- An impedance check of a guard group in progress (R134, R135): starting boundary, urgent or periodic, phase reached, channels, and the phases in which each has a tone (channel, phase). -/
structure Check where
  start : Nat
  urgent : Bool
  phase : Nat
  chans : List Nat
  tones : List (Nat × Nat)
  deriving DecidableEq, Repr

/-- Running state of one guard group. -/
structure GroupRun where
  check : Option Check
  /-- a check whose dwell has ended, until its channels are classified (R137) -/
  ended : Option Check
  urgent : Bool
  /-- a second urgent check follows the running one (R140) -/
  second : Bool
  /-- an abandoned urgent check runs again once every enabled channel of the group is free of SETTLE (R140) -/
  rerun : Bool
  limit : Bool
  deriving DecidableEq, Repr

def GroupRun.init : GroupRun := ⟨none, none, false, false, false, false⟩

/-! ### Triggers -/

/-- Running state of one trigger unit (R177 to R185). Times t are in 1/256 tick. -/
structure UnitRun where
  eff : Nat
  /-- condition on the previous evaluated sample; none before the first -/
  prev : Option Bool
  /-- the previous sample, when it was evaluated: instant and value -/
  prevX : Option (Nat × F64)
  prevS : Option (Nat × F64)
  hist : List (Nat × F64)
  armR : Bool
  armF : Bool
  lastFire : Option Int
  shot : Bool
  dets : List Int
  inbox : List Int
  run : Nat
  runT : Nat
  runN : Nat
  runDone : Bool
  bandArmed : Bool
  forceEpoch : Nat
  forceUsed : Nat
  forceHeld : Bool
  deriving DecidableEq, Repr

def UnitRun.init : UnitRun where
  eff := 0
  prev := none
  prevX := none
  prevS := none
  hist := []
  armR := false
  armF := false
  lastFire := none
  shot := false
  dets := []
  inbox := []
  run := 0
  runT := 0
  runN := 0
  runDone := false
  bandArmed := true
  forceEpoch := 0
  forceUsed := 0
  forceHeld := false

/-- One firing in a record (R195). -/
structure Firing where
  unit : Nat
  type : Nat
  t : Int
  td : Nat
  value : Word
  flags : BitVec 14
  deriving DecidableEq, Repr

/-- A trigger record that has not closed (R188). -/
structure OpenRec where
  grp : Nat
  key : Nat
  /-- the instant whose configuration decides (R188, R196) -/
  inst : Nat
  close : Nat
  fires : List Firing
  late : Bool
  forced : Bool
  deriving DecidableEq, Repr

/-- The trigger engine outside its units. -/
structure Trig where
  units : Tbl UnitRun
  /-- states of units whose record a swap has changed or whose RUN has ended, for samples of earlier instants: unit, boundary, state (R196) -/
  olds : List (Nat × Nat × UnitRun)
  recs : List OpenRec
  recno : Word
  /-- scheduled pulses: pin, rise, fall -/
  pulses : List (Nat × Nat × Nat)
  outs : BitVec 4
  pinLevel : BitVec 4
  /-- last edge passed on each TRIG_IN pin -/
  pinLast : Tbl Nat
  /-- fabric messages that wait for C + 96: send instant, destination, message -/
  msgs : List (Nat × Nat × TrigMsg)
  deriving DecidableEq, Repr

/-! ### Granary -/

/-- One stored element: aligned instant, bytes as stored (R203), flags, config tag. -/
structure Elem where
  t : Nat
  data : List Byte
  flags : BitVec 14
  tag : BitVec 16
  /-- its index on its stream's grid (R77, R79); 0 for a Mill result -/
  idx : Int
  /-- steps of device time since, for comparisons (R293) -/
  moved : Int
  /-- its place in the order of writing, in the units in which a reader counts (R222), and its block's -/
  serial : Nat
  blk : Nat
  /-- a word of it is unreadable (R224) -/
  bad : Bool
  deriving DecidableEq, Repr

/-- An element of a stream as it comes to the Granary. -/
def Elem.fresh (t : Nat) (data : List Byte) (flags : BitVec 14) (tag : BitVec 16) (idx : Int) : Elem :=
  ⟨t, data, flags, tag, idx, 0, 0, 0, false⟩

/-- A block descriptor (R203): the first sample's instant, the OR of the samples' flags, their number and their config tag; the block's place in the order of writing, the group of 1,250 wideband indices it lies in, and whether the descriptor is unreadable (R224). -/
structure Block where
  no : Nat
  group : Int
  first : Nat
  flags : BitVec 14
  count : Nat
  tag : BitVec 16
  bad : Bool
  deriving DecidableEq, Repr

/-- What a ring or a slot holds of one member: the elements and the descriptors of their blocks, both oldest first, and the place of the next element. -/
structure Store where
  elems : List Elem
  blocks : List Block
  next : Nat
  deriving DecidableEq, Repr

def Store.init : Store := ⟨[], [], 0⟩

/-- A capture slot (R208 to R213). -/
structure Slot where
  state : SlotState
  p : Nat
  q : Nat
  time : Int
  recno : Word
  late : Bool
  truncated : Bool
  /-- instant before which a FILLING slot takes samples (R213) -/
  stop : Option Nat
  /-- the region's members when the capture began -/
  streams : List Nat
  /-- the instant after which its pre-trigger samples are ready: the close at which its history began (R212) -/
  hist : Nat
  members : Tbl Store
  deriving DecidableEq, Repr

def Slot.init : Slot := ⟨.free, 0, 0, 0, 0#32, false, false, none, [], 0, []⟩

/-- A tally record of R217: its bytes, its place in the order of writing, its flags and whether it is unreadable (R224). -/
structure TallyRec where
  bytes : List Byte
  serial : Nat
  flags : BitVec 14
  bad : Bool
  deriving DecidableEq, Repr

/-- An element as it is read: its place in the order of writing, its instant, the flags and tag of its block, its bytes. -/
structure ReadElem where
  key : Nat
  t : Nat
  flags : BitVec 14
  tag : BitVec 16
  data : List Byte
  deriving DecidableEq, Repr

/-- A STREAM readout (R222, R223, R241): the member, slot and kind of its carts, whether writes can overwrite what it reads, the places of the next element and of the end, the index of its first element, the beginning instant, the bits and elements sent, and those skipped. -/
structure Readout where
  waiter : Waiter
  member : Nat
  slot : Nat
  kind : Nat
  ring : Bool
  next : Nat
  upto : Nat
  index : Nat
  from_ : Nat
  bits : Nat
  sent : Nat
  skipped : Nat
  deriving DecidableEq, Repr

/-- Contents of one region: effect boundary of its record, slots and armed queue, rings, tally ring and the number of records written to it, STAGING bytes and unreadable 64-bit words of them, first-wrap mark, and the STREAM readout that runs. -/
structure RegionRun where
  eff : Nat
  slots : Tbl Slot
  queue : List Nat
  rings : Tbl Store
  tally : List TallyRec
  serial : Nat
  bytes : Tbl Byte
  badWords : List Nat
  wrapped : Bool
  readout : Option Readout
  /-- history of the RECORDING slot begins with samples ready after this instant (R212) -/
  histFrom : Nat
  deriving DecidableEq, Repr

def RegionRun.init : RegionRun := ⟨0, [], [], [], [], 0, [], [], false, none, 0⟩

/-- A tally's running state (R216, R218): last instant, last valid E, last sample's INVALID, records since the escape. -/
structure TallyRun where
  any : Bool
  tPrev : Nat
  eLast : Option F32
  inv : Bool
  count : Nat
  step : Bool
  /-- instant of the previous record in the open cart (R219) -/
  cartT : Nat
  deriving DecidableEq, Repr

def TallyRun.init : TallyRun := ⟨false, 0, none, false, 0, false, 0⟩

/-- A sample or result on its way to the regions that hold it (R206). -/
structure Waiting where
  stream : Nat
  ready : Nat
  /-- the instant whose configuration it follows: its own, or the replay instant of a replayed result -/
  at_ : Nat
  elem : Elem
  deriving DecidableEq, Repr

structure Granary where
  regions : Tbl RegionRun
  tallies : Tbl TallyRun
  /-- states of tallies whose record a swap has changed, for samples of earlier instants -/
  oldTallies : List (Nat × Nat × TallyRun)
  waiting : List Waiting
  /-- streams that swaps have cut, with the boundaries at which their blocks close (R203) -/
  cuts : List (Nat × Nat)
  selfRefresh : Bool
  deriving DecidableEq, Repr

/-! ### Mill and density maps -/

/-- The transform a run took last: index on the grid, instant of its first sample and when that entered the Mill, ready instant of its last sample. -/
structure Taken where
  m : Int
  t : Nat
  at_ : Nat
  ready : Nat
  deriving DecidableEq, Repr

/-- A run of a job (R147, R153, R163, R165). -/
structure JobRun where
  /-- boundary at which it began, and the one that ended it -/
  start : Nat
  stop : Option Nat
  /-- sample period of its source -/
  ts : Nat
  /-- samples that a window to come still holds, oldest first; the index that comes next, and the instant at which the last one entered -/
  buf : List MillSample
  fed : Option (Int × Nat)
  last : Option Taken
  /-- since the previous emission: transforms, valid ones, flags, padding -/
  seen : Nat
  valid : Nat
  flags : BitVec 14
  padded : Bool
  /-- the average: transforms in it (0: none since it was reset), power and complex values; of LINEAR their sums -/
  n : Nat
  power : List F64
  cplx : List Cplx
  /-- boundaries at which the average starts afresh (R164) -/
  resets : List Nat
  /-- a replay has transformed its slot -/
  idle : Bool
  deriving DecidableEq, Repr

def JobRun.init : JobRun := ⟨0, none, 0, [], none, none, 0, 0, 0#14, false, 0, [], [], [], false⟩

/-- What a boundary does to a density map once every earlier result has been added (R169): its snapshot is complete, its counters are halved, its counters are cleared. -/
structure MapDue where
  epoch : Nat
  halve : Bool
  clear : Bool
  /-- the snapshot is sent as carts -/
  stream : Bool
  deriving DecidableEq, Repr

/-- An emitted result that a map takes: its instant, the cells it counts in, and whether it is excluded (R168). -/
structure MapResult where
  t : Nat
  cells : List Nat
  excluded : Bool
  deriving DecidableEq, Repr

/-- Running state of a density map (R168 to R170): counters by 1,024·row + column, saturation reported, boundaries whose results are still being added (oldest first), the latest complete snapshot with its epoch. -/
structure MapRun where
  counts : Tbl Nat
  sat : Bool
  due : List MapDue
  snap : Option (Nat × Tbl Nat)
  /-- counters of the live map and of the snapshot that an error has struck since they were last written (R224) -/
  bad : List Nat
  snapBad : List Nat
  /-- who waits for the snapshot of an epoch to be sent -/
  waiter : Option (Waiter × Nat)
  /-- results that wait for those before a boundary (R169) -/
  held : List MapResult
  deriving DecidableEq, Repr

def MapRun.init : MapRun := ⟨[], false, [], none, [], [], none, []⟩

/-! ### Data port, carts and analogue outputs -/

/-- An open cart of a stream (R240): its first element's instant and the instant whose configuration it follows, ready instant and tag, flags, count and payload words. -/
structure OpenCart where
  time : Nat
  at_ : Nat
  ready : Nat
  tag : BitVec 16
  flags : BitVec 14
  count : Nat
  bytes : List Byte
  deriving DecidableEq, Repr

/-- A closed cart that waits at a destination, with its delivery bound (R242). -/
structure ReadyCart where
  bound : Nat
  cart : Cart
  deriving DecidableEq, Repr

/-- A cart of a paced stream that is not yet due (R241): its instant, and what it is formed of. -/
structure Paced where
  due : Nat
  type : Nat
  stream : Nat
  time : Nat
  tag : BitVec 16
  flags : BitVec 14
  count : Nat
  words : List Word
  dests : Nat
  deriving DecidableEq, Repr

/-- The data port (R227 to R234), the open and ready carts and the CART_FIFO. -/
structure PortSt where
  enable : Bool
  /-- ENABLE is set but the first marker has not left (R228) -/
  gridAt : Option Int
  stopping : Bool
  rxEnable : Bool
  txPreset : BitVec 4
  hostFailEn : Bool
  forceLane : BitVec 3
  force : Bool
  lanes : Nat
  newLanes : Option Nat
  mapGen : BitVec 8
  spareFor : BitVec 4
  /-- the spare lane carries parity (R230, R231) -/
  parity : Bool
  rxLock : Bool
  hostOk : Bool
  /-- arrival of the last HEALTH report that qualified (R234) -/
  hostGood : Option Nat
  failed : BitVec 9
  /-- physical lanes whose failure waits for the next marker -/
  failing : List Nat
  markerCount : BitVec 8
  /-- scrambler of each physical lane (R227) -/
  scramble : Tbl (BitVec 58)
  /-- stripe words sent in the present marker interval, and those of the block index that is not complete (R229, R230) -/
  stripe : Nat
  row : List (BitVec 64)
  /-- stripe words that follow the next marker, and how many of them belong to the cart that it cuts (R228) -/
  carry : List (BitVec 64)
  carryPtr : Nat
  /-- blocks that the last marker or cart has put on the lanes, by physical lane (R227) -/
  blocks : List (Nat × BitVec 66)
  open_ : Tbl OpenCart
  /-- streams that swaps have cut, with their boundaries (R21) -/
  cuts : List (Nat × Nat)
  paced : List Paced
  ready : List ReadyCart
  fabReady : List ReadyCart
  seqs : Tbl Word
  discarded : Tbl Word
  sent : Option Cart
  /-- words in the CART_FIFO, each with whether it begins a cart -/
  fifo : List (Word × Bool)
  ovf : BitVec 8
  messages : Nat
  /-- answers over the return lane that wait for their cart (R339) -/
  replies : List (List Byte)
  aouts : Tbl Nat
  /-- codes on their way to an output (R92): instant, output, code, whether it is a value -/
  aoutNext : List (Nat × Nat × Nat × Bool)
  /-- outputs that have driven a value since they last left the SAFE code (R247) -/
  driven : Tbl Bool
  deriving DecidableEq, Repr

/-! ### Calibration, stores, firmware, log -/

/-- Owner correction record of R263. -/
structure OwnerRec where
  mode : Nat
  subform : Nat
  cf : Nat
  gl : Nat
  inSitu : Bool
  f : Nat
  kre : F32
  kim : F32
  ore : F32
  oim : F32
  deriving DecidableEq, Repr

/-- The Ledger's stored part (R268). -/
structure Ledger where
  ownerCount : Word
  rejectCount : Word
  ownerTime : Nat
  ownerUnset : Bool
  rejectUnset : Bool
  lastInSitu : Bool
  rejectCode : BitVec 16
  rejectCheck : Nat
  label : List Byte
  rejectTime : Nat
  deriving DecidableEq, Repr

def Ledger.init : Ledger := ⟨0#32, 0#32, 0, false, false, false, 0#16, 0, List.replicate 32 0#8, 0⟩

/-- The header of a bank (R270): its sequence and the CRC-32C over its payload. -/
structure BankHeader where
  seq : Word
  crc : Word
  deriving DecidableEq, Repr

/-- *Commit record* of a bank (R270). -/
structure CommitRec where
  magic : Word
  store : Nat
  seq : Word
  crc : Word
  deriving DecidableEq, Repr

/-- One bank of the owner store (R270): whether anything was ever written to it, its header and commit record as far as they stand, and its payload. -/
structure OwnerBank where
  written : Bool
  header : Option BankHeader
  record : Option CommitRec
  ledger : Ledger
  recs : Tbl OwnerRec
  deriving DecidableEq, Repr

def OwnerBank.init : OwnerBank := ⟨false, none, none, Ledger.init, []⟩

/-- One bank of the linearisation store (R124, R270). -/
structure LinBank where
  written : Bool
  header : Option BankHeader
  record : Option CommitRec
  sets : Tbl LinSet
  deriving DecidableEq, Repr

def LinBank.init : LinBank := ⟨false, none, none, []⟩

/-- A bank write that runs (R270): the store, what it writes, who waits, whether its commit record has been found begun (R271), and whether a rejection that was pending goes with it (R269). -/
structure StoreWrite where
  store : Nat
  /-- 0 cal.commit, 1 rejection, 2 lin.persist -/
  kind : Nat
  ledger : Ledger
  recs : Tbl OwnerRec
  sets : Tbl LinSet
  waiter : Option Waiter
  begun : Bool
  carries : Bool
  deriving DecidableEq, Repr

/-- What a measurement has counted (R257, R260): its samples and their sum, over all its span and over each half, whether one had LPF ≠ 0, and whether one carried INVALID or CLIP. -/
structure CalSum where
  n : Nat
  sum : Cplx
  n1 : Nat
  sum1 : Cplx
  n2 : Nat
  sum2 : Cplx
  low : Bool
  bad : Bool
  deriving DecidableEq, Repr

def CalSum.zero : CalSum := ⟨0, Cplx.zero, 0, Cplx.zero, 0, Cplx.zero, false, false⟩

/-- An open calibration (R255 to R266). -/
structure Cal where
  inSitu : Bool
  chans : List Nat
  points : List Nat
  tol : F32
  dwell : Nat
  label : List Byte
  bopen : Nat
  decl0 : Tbl Cplx
  decl1 : Tbl Cplx
  acc0 : Tbl Cplx
  acc1 : Tbl Cplx
  /-- running cal.point: level, epoch of B0, measurements (point, half, start, end), what each has counted by 2·point + half, restarts and the point of the third, ISOLATION and SUPPLY failures, and who waits -/
  level : Option Nat
  b0 : Nat
  spans : List (Nat × Nat × Nat × Nat)
  sums : Tbl CalSum
  restarts : Nat
  restartPt : Nat
  isoFail : Option (Nat × F64)
  supply : Option (Nat × F64 × F64)
  /-- threshold and voltage of the rail that last went into warning -/
  warned : Option (F64 × F64)
  waiter : Option Waiter
  /-- the commit's bank write runs, and its record is complete (R264) -/
  committing : Bool
  written : Bool
  /-- closes at the next boundary -/
  closing : Bool
  deriving DecidableEq, Repr

/-- A firmware bank: whether it holds a whole image, and that image's header fields and body (R417, R421, R374). -/
structure FwBank where
  valid : Bool
  fwVer : Word
  rollback : Nat
  keySlot : Nat
  revoke : BitVec 4
  /-- PUBKEY and SIGNATURE -/
  key : List Byte
  sig : List Byte
  body : List Byte
  deriving DecidableEq, Repr

/-- An entry of the device log (R373). -/
structure LogEntry where
  index : Nat
  time : Nat
  code : Nat
  arg : Nat
  value : Word
  deriving DecidableEq, Repr

/-- The factory calibration region (R250): its bytes and the CRC-32C that seals them. -/
structure FactoryRegion where
  bytes : List Byte
  crc : Word
  deriving DecidableEq, Repr

/-- The region's CRC-32C matches its bytes. -/
def FactoryRegion.sound (r : FactoryRegion) : Bool := decide (crc32c r.bytes = r.crc)

/-- The nonvolatile die and the one-time-programmable storage: what survives loss of power (R12). -/
structure NonVol where
  factory : FactoryRegion
  ownerA : OwnerBank
  ownerB : OwnerBank
  linA : LinBank
  linB : LinBank
  fwA : FwBank
  fwB : FwBank
  fwForceB : Bool
  rollback : Nat
  /-- one-time-programmable storage: the hashes of public keys by slot, and the slots that are revoked (R420) -/
  keyHashes : List (List Byte)
  revoked : BitVec 4
  log : List LogEntry
  logNext : Nat
  deriving DecidableEq, Repr

/-- A loopback run of `diag.loopback` (R356): its target, its tile or port, the epoch at whose boundary it ends, and who waits. -/
structure LoopRun where
  target : Nat
  index : Nat
  ends : Nat
  waiter : Waiter
  deriving DecidableEq, Repr

/-- Firmware activity that is volatile: the store writes in order of acceptance, an image being verified, the selftest and loopback that run. -/
structure Work where
  writes : List StoreWrite
  ownerLedger : Ledger
  owner : Tbl OwnerRec
  /-- corrections of a commit record that has completed, until their boundary, and whether they still have to join a batch (R264, R348) -/
  ownerNew : Option (Tbl OwnerRec)
  calJoin : Bool
  ownerSeq : Word
  ownerB : Bool
  linSeq : Word
  linB : Bool
  bankRecovered : Bool
  rejectPending : Bool
  /-- region and size of the image; and whether the commit record of its bank has been found begun (R411) -/
  verify : Option (Nat × Nat × Waiter)
  imageBegun : Bool
  /-- the tests that run -/
  selftest : Option (Nat × Waiter)
  loopback : Option LoopRun
  /-- `fw.activate`: the epoch at whose boundary the device resets -/
  activate : Option Nat
  cal : Option Cal
  /-- an Ammond restart is in progress, with the command it interrupted (R25) -/
  lockstep : Bool
  /-- what the raise of the anti-rollback counter still to be made raises it to, and the slots still to be revoked: those of the image whose DONE asked for it (R419, R420) -/
  otpPending : Option (Nat × BitVec 4)
  deriving DecidableEq, Repr

/-! ### Modes, supplies and boot -/

/-- Power, mode, boot and supply state. -/
structure Power where
  mode : Mode
  prior : Mode
  safeCause : Nat
  modeSince : Nat
  pending : Option (Mode × Nat × Option Waiter)
  /-- HEARTH boundary H's epoch and who waits -/
  hearth : Option (Nat × Option Waiter)
  hearthWaiter : Option Waiter
  /-- wake: the epoch W and the mode it returns to -/
  wake : Option (Nat × Mode × Option Waiter)
  declared : Option Nat
  /-- SAFE was entered from HEARTH or during wake (R415) -/
  safeAsleep : Bool
  /-- the newest log entry since SAFE was entered has been read (R372) -/
  logRead : Bool
  /-- `RESET_N` is low, and it caused the present or last reset (R401, R403) -/
  resetN : Bool
  byResetN : Bool
  /-- the last reset is that of `fw.activate` (R374) -/
  activated : Bool
  brownoutDue : Bool
  lastBrownout : BitVec 3
  warn : BitVec 6
  warnTime : Nat
  rails : List F32
  vref : F64
  refp : F64
  refn : F64
  vhv : F64
  vrefOk : Bool
  stage : Nat
  bootMs : Nat
  selIgnored : Bool
  bootSel : BitVec 2
  linOk : Bool
  ownerOk : Bool
  factoryOk : Bool
  dramOk : Bool
  selftestFail : Bool
  sigFail : Bool
  fallback : Bool
  fwBankB : Bool
  idReady : Bool
  fwVer : Word
  /-- boot has ended: IDLE at DONE or SAFE under R405 -/
  booted : Bool
  /-- power has fallen to its HEARTH limit (R406) -/
  powerLow : Bool
  /-- JTAG instruction in the TAP, what it acts as, and whether every rail was above its reset threshold when last known (R422) -/
  jtag : JtagInstr
  jtagActs : JtagInstr
  railsUp : Bool
  deriving DecidableEq, Repr

/-- A word that fails its parity, with what it holds (R307). -/
structure BadWord where
  addr  : BitVec 24
  live  : Word
  chan  : Option Nat
  point : Option Nat
  deriving DecidableEq, Repr

/-- Locks (R311), the interrupt mask, violation latch, posted accesses and the word each port's last read returned. -/
structure Regs where
  lockDbg : Bool
  lockCal : Bool
  lockFw : Bool
  intMask : BitVec 13
  viol : Viol
  posted : Tbl Posted
  lastRead : Tbl Word
  /-- the words that the last read frame of the control port shifted out, oldest first (R298, R299) -/
  shifted : List Word
  /-- words that fail their parity; the registers of State are what the firmware's shadow holds (R306, R307) -/
  struck : List BadWord
  deriving DecidableEq, Repr

/-- A configuration that was in force up to a boundary, with its tag and owner corrections: samples of earlier instants, still on their way, belong to it (R21). -/
structure Past where
  until_ : Nat
  cfg : Cfg
  tag : BitVec 16
  owner : Tbl OwnerRec
  deriving DecidableEq, Repr

/-- Spans and epochs that mark samples by their aligned instants (R27, R60, R87), newest first; an open span has no end. -/
structure Marks where
  /-- RUN -/
  runs : List (Nat × Option Nat)
  coast : List (Nat × Option Nat)
  holdover : List (Nat × Option Nat)
  slewing : List (Nat × Option Nat)
  warn : List (Nat × Option Nat)
  indoubt : List (Nat × Option Nat)
  /-- epochs of synthesizer switches, of an out-of-range VREF, of drive-pin failures with their channels, of parity repairs with the channel or point they touch -/
  clksw : List Nat
  vref : List Nat
  drive : List (Nat × List Nat)
  parity : List (Nat × Option Nat × Option Nat)
  /-- tile readings by boundary (R44, R118) -/
  temps : List (Nat × List Int)
  deriving DecidableEq, Repr

def Marks.init : Marks := ⟨[], [], [], [], [], [], [], [], [], [], []⟩

/-- A batch in the course of its decision (R347, R387): its epoch, the commits still to be decided (coordinator and id), the configuration, items and local transactions accepted so far, the answers to be written at its end, and the number and items of the frame that asked routes for the commit at hand. -/
structure Deciding where
  epoch : Nat
  todo : List (Option Nat × Nat)
  cfg : Cfg
  items : List Item
  txns : List Nat
  answers : List (Waiter × BitVec 16 × List Byte × Nat)
  /-- the VREF measurement its commits are judged by (R58) -/
  vref : F64
  waits : Option (Nat × List ReserveItem)
  /-- the items of the local commits accepted so far, and the fabric parts -/
  taken : List Item
  parts : List (Option Nat × Nat)
  /-- corrections of a commit record that completed in the batch's epoch join it (R264, R348) -/
  join : Bool
  deriving DecidableEq, Repr

/-- A decision on a fabric transaction that this device remembers (R396, R397): its coordinator (none: this device), whether the transaction itself was aborted, the epoch, and those that have not acknowledged. -/
structure Decided where
  coord : Option Nat
  txn : Nat
  commit : Bool
  closed : Bool
  at_ : Nat
  unacked : List Nat
  deriving DecidableEq, Repr

/-- Sessions, transactions, batches and tags. -/
structure Fw where
  sessions : List Session
  txns : List Txn
  closed : List Txn
  nextTxn : Nat
  tickets : Nat
  live : Cfg
  eff : Cfg
  past : List Past
  batches : List Batch
  committed : BitVec 16
  effective : BitVec 16
  /-- epochs at whose boundary EFFECTIVE and COMMITTED are compared (R351) -/
  compare : List Nat
  skew : Nat
  deciding : Option Deciding
  decided : List Decided
  /-- completions of fabric commits that are decided, and the epochs at whose boundaries they are posted (R398) -/
  finishing : List (Nat × Waiter × BitVec 16 × Nat × List Byte)
  /-- how many sessions have been opened since reset -/
  opened : Nat
  /-- the blocks that run an older configuration than the others, with the tags they report, oldest first; and the tag of the others (R351) -/
  lag : List (Nat × BitVec 16)
  newest : BitVec 16
  /-- frames that wait for older requests, in the order of their arrival (R336) -/
  frames : List FrameWait
  /-- the BUS cycle of the last arrival of a request, and how many cycles have brought one -/
  arrival : Nat × Nat
  deriving DecidableEq, Repr

/-! ### Fabric -/

/-- What a neighbour's BEACON last said (R381). -/
structure NbBeacon where
  hasKey : Bool
  keyUid : BitVec 64
  keyQual : Nat
  keySeq : Nat
  keyAddr : Nat
  level : Nat
  addr : Nat
  uid : BitVec 64
  deriving DecidableEq, Repr

/-- A key that neighbours have given: the highest sequence seen with it, the epoch in which that advanced, and the epoch of the last BEACON that carried it (R381). -/
structure KeySeen where
  uid : BitVec 64
  qual : Nat
  seq : Nat
  advanced : Nat
  heard : Nat
  deriving DecidableEq, Repr

/-- One fabric port (R376 to R379): up; lanes trained; the epoch before which it does not retrain; the neighbour of its last HELLO; frames with a bad CRC in this epoch and epochs in a row that passed 16; the link's delay in 1/512 tick; the lanes' preset (R433). -/
structure FPort where
  up : Bool
  trained : Bool
  holdUntil : Nat
  nbUid : Option (BitVec 64)
  nbVersion : Nat
  nbPort : Nat
  crcCount : Nat
  crcRun : Nat
  delay512 : Int
  beacon : Option NbBeacon
  preset : BitVec 4
  deriving DecidableEq, Repr

def FPort.init : FPort := ⟨false, false, 0, none, 0, 0, 0, 0, 0, none, 4#4⟩

/-- A member of the Commons as this device knows it. -/
structure Member where
  addr : Nat
  heard : Nat
  deriving DecidableEq, Repr

/-- An address assigned by this device as Bellringer (R382). -/
structure Lease where
  uid : BitVec 64
  addr : Nat
  inUse : Bool
  until_ : Nat
  /-- the device held the address before it joined: the epoch before which that counts as the same merge (R383) -/
  merged : Nat
  deriving DecidableEq, Repr

/-- A frame this device sends (R376): its kind is that of the constructor. -/
inductive OutFrame where
  | beacon (port : Nat) (b : BeaconIn)
  /-- the question of an exchange, or the answer with the times of its question's departure and arrival and its own departure (R390) -/
  | delay (port : Nat) (reply : Option (Int × Int × Int))
  | addressRequest (uid : BitVec 64) (pref : Nat)
  | addressAssign (uid : BitVec 64) (addr : Nat)
  | message (dest : Nat) (bytes : List Byte)
  | trigger (dest : Nat) (m : TrigMsg)
  | bell (dest : Nat) (tick : Nat)
  | bellAck (dest : Nat) (tick : Nat)
  | txnOpen (dest txn ticket : Nat) (parts : List Nat)
  | txnOpenReply (dest txn : Nat) (status : BitVec 16)
  | prepare (dest txn target : Nat)
  | vote (dest txn : Nat) (status : BitVec 16)
  | decision (dest coord txn : Nat) (commit closed : Bool)
  | decisionAck (dest txn : Nat)
  | query (dest coord txn : Nat)
  | reserve (ask : ReserveAsk)
  | reserveReply (dest : Nat) (r : ReserveReply)
  | routeChange (dest : Nat) (rs : List RouteAns)
  | route (dest addr port : Nat)
  | streamAck (dest stream : Nat) (seq : Word)
  | cart (dest : Nat) (route : Nat) (c : Cart)
  | register (dest : Nat) (value : Word)
  | hello (port : Nat) (candidate : Bool) (quality : Nat)
  | forwarded (port : Nat) (frame : List Byte)
  deriving DecidableEq, Repr

/-- A forwarded request that waits for its answer (R370). -/
structure Forward where
  peer : Nat
  tag : Word
  waiter : Waiter
  /-- the instant at which 20 ms are over -/
  ends : Nat
  deriving DecidableEq, Repr

/-- A reserved stream of this device (R386 to R388): its demand, its routes, the number of the frame that asked for them, the UID of the device it ends at, the primary route that is down while the backup serves, a newly computed route and the epoch in which it sends on both, and the carts of the last two epochs not yet acknowledged, oldest first. -/
structure Route where
  stream : Nat
  dest : Nat
  num : Nat
  den : Nat
  ans : RouteAns
  key : Nat
  destUid : BitVec 64
  lost : List Hop
  next : Option RouteAns
  both : Option (Nat × RouteAns)
  kept : List (Nat × Cart)
  acked : Option Word
  deriving DecidableEq, Repr

/-- Routes of a commit until its boundary (R387): the number of the frame that asked for them, its effect epoch, its transaction, the streams it removes and what it installs. -/
structure Coming where
  key : Nat
  effect : Nat
  coord : Option Nat
  txn : Nat
  removed : List Nat
  routes : List Route
  deriving DecidableEq, Repr

structure Fabric where
  ports : Tbl FPort
  address : Nat
  lastAddress : Nat
  bellringer : Nat
  brUid : BitVec 64
  keyQual : Nat
  keyUid : BitVec 64
  keySeq : Nat
  hasKey : Bool
  level : Nat
  gen : Nat
  /-- QUALITY of the key last adopted, and the keys that neighbours have given (R381) -/
  brQual : Nat
  keys : List KeySeen
  members : List Member
  /-- the devices and links of the Commons as this device knows them, this one included (R384, R386) -/
  devs : List FabDev
  links : List FabLink
  /-- the links have changed since routes were last computed -/
  topoNew : Bool
  /-- the epoch before which this device does not elect itself (R380) -/
  electAfter : Nat
  leases : List Lease
  candidate : Bool
  quality : Nat
  portEn : BitVec 4
  newPolicy : Option (Option Bool × Option Nat × Option (BitVec 4))
  /-- what the adopted Bellringer's last BEACON said of its TAI_SET and its last step, and whether one has come since it was adopted (R391, R392) -/
  brTai : Bool
  /-- the membership lists this device under its address -/
  listed : Bool
  brStep : Nat × Int × Nat × Bool
  brKnown : Bool
  /-- offset from the parent in 1/512 tick, and the epoch of the last exchange with it (R390) -/
  offset512 : Int
  offsetAt : Option Nat
  goodEpochs : Nat
  /-- the first acquisition since joining, or since FABRIC was selected, has come (R391) -/
  acquired : Bool
  alarmRun : Nat
  alarmed : Bool
  routes : List Route
  reservations : List Reservation
  nextRoute : Nat
  coming : List Coming
  /-- reserved streams that end at this device, as the Bellringer has told it (R386) -/
  ending : List Ending
  /-- number of the next RESERVE frame, and the frames about reservations that are not acknowledged yet (R377) -/
  asks : Nat
  telling : List OutFrame
  /-- this device has still to report its reservations to a new Bellringer; as Bellringer, who has still to report, and the questions that wait for it (R387) -/
  reportDue : Bool
  unreported : List Nat
  asked : List (Nat × ReserveAsk × List LaneSum)
  forwards : List Forward
  /-- by 4,096·source + stream: the next SEQUENCE expected in order, and those received beyond it (R388) -/
  received : List (Nat × Word × List Word)
  /-- reserved streams of other sources that leave by a port of this device (R388): source, stream, port -/
  transit : List (Nat × Nat × Nat)
  out : List OutFrame
  deriving DecidableEq, Repr

/-! ### The device and the machine -/

structure Device where
  clk : Clock
  pw : Power
  regs : Regs
  evts : Tbl Evt
  bell : Bell
  cnt : Counters
  fw : Fw
  chans : Tbl ChanRun
  points : Tbl PointRun
  groups : Tbl GroupRun
  tiles : Tbl Tile
  trig : Trig
  gran : Granary
  jobs : Tbl JobRun
  /-- ended runs by job, oldest first, whose last windows or averages are still to come (R163) -/
  ended : Tbl (List JobRun)
  maps : Tbl MapRun
  port : PortSt
  nv : NonVol
  work : Work
  fab : Fabric
  marks : Marks
  /-- number of free values taken (the model's own field) -/
  free : Nat
  deriving DecidableEq, Repr

structure State where
  pending : List Instr
  mbx : Tbl Mailbox
  dev : Device
  deriving DecidableEq, Repr

/-! ### Reset values -/

def Clock.reset : Clock where
  time := 0
  counting := false
  synA := Syn.init
  synB := Syn.init
  activeB := false
  xoOk := false
  coasting := false
  coastBad := false
  refMult := 0
  change := 0
  changeTo := 0
  source := 0
  refFreq := 0
  newSource := none
  disc := .free
  refPresent := false
  target := none
  offset := 0
  offsetAt := 0
  steer := 0
  remain := 0
  slewAt := 0
  rate := 0x3F000000#32
  resume := none
  later := 0
  landed := false
  goodEpochs := 0
  ppsEdges := []
  lastEdge := 0
  refBad := false
  taiSet := false
  policy := 0
  slewRate := 0x3F000000#32
  jumpThresh := 300
  due := []
  stepS := 0
  stepD := 0
  stepCount := 0
  stepKind := 0
  touts := []
  brSteps := 0
  brDisc := 0
  brHold := false
  latchC := none
  latchF := none
  latchA := none

/-- [log 9 DESIGN CHOICE] -/
def Power.reset : Power where
  mode := .reset
  prior := .reset
  safeCause := 0
  modeSince := 0
  pending := none
  hearth := none
  hearthWaiter := none
  wake := none
  declared := none
  safeAsleep := false
  logRead := false
  resetN := false
  byResetN := false
  activated := false
  brownoutDue := false
  lastBrownout := 0b111#3
  warn := 0#6
  warnTime := 0
  rails := [0#32, 0#32, 0#32, 0#32, 0#32, 0#32]
  vref := 0#64
  refp := 0#64
  refn := 0#64
  vhv := 0#64
  vrefOk := false
  stage := 0
  bootMs := 0
  selIgnored := false
  bootSel := 0#2
  linOk := false
  ownerOk := false
  factoryOk := false
  dramOk := false
  selftestFail := false
  sigFail := false
  fallback := false
  fwBankB := false
  idReady := false
  fwVer := 0#32
  booted := false
  powerLow := false
  jtag := .bypass
  jtagActs := .bypass
  railsUp := false

def Regs.reset : Regs where
  lockDbg := false
  lockCal := false
  lockFw := false
  intMask := 0#13
  viol := ⟨0#24, 0#16, 0#8, 0#2, 0#3⟩
  posted := []
  lastRead := []
  shifted := []
  struck := []

def Bell.reset : Bell where
  inEdge := false
  inEn := false
  outSrc := 0xF#4
  drops := 0#8
  count := 0#32
  window := none
  idleHalf := none
  lastLatched := none
  due := []
  sched := []
  planned := []
  outUntil := 0

def Fw.reset : Fw where
  sessions := []
  txns := []
  closed := []
  nextTxn := 1
  tickets := 0
  live := Cfg.boot
  eff := Cfg.boot
  past := []
  batches := []
  committed := 0#16
  effective := 0#16
  compare := []
  skew := 0
  deciding := none
  decided := []
  finishing := []
  opened := 0
  lag := []
  newest := 0#16
  frames := []
  arrival := (0, 0)

/-- [log 60 DEDUCED] -/
def Trig.reset : Trig where
  units := []
  olds := []
  recs := []
  recno := 0#32
  pulses := []
  outs := 0#4
  pinLevel := 0#4
  pinLast := []
  msgs := []

/-- The scramblers' state at reset is not stated. [log 210 DESIGN CHOICE] -/
def PortSt.reset : PortSt where
  enable := false
  gridAt := none
  stopping := false
  rxEnable := false
  txPreset := 4#4
  hostFailEn := true
  forceLane := 0#3
  force := false
  lanes := 8
  newLanes := none
  mapGen := 0#8
  spareFor := 0xF#4
  parity := true
  rxLock := false
  hostOk := false
  hostGood := none
  failed := 0#9
  failing := []
  markerCount := 0#8
  scramble := []
  stripe := 0
  row := []
  carry := []
  carryPtr := 0
  blocks := []
  open_ := []
  cuts := []
  paced := []
  ready := []
  fabReady := []
  seqs := []
  discarded := []
  sent := none
  fifo := []
  ovf := 0#8
  messages := 0
  replies := []
  aouts := []
  aoutNext := []
  driven := []

/-- At manufacture: no store bank was ever written, firmware 3.2 is in bank A and in force, bank B is empty, no log entry. [log 7 DESIGN CHOICE] -/
def NonVol.init : NonVol where
  factory := ⟨Config.factoryBytes, crc32c Config.factoryBytes⟩
  ownerA := OwnerBank.init
  ownerB := OwnerBank.init
  linA := LinBank.init
  linB := LinBank.init
  fwA := ⟨true, 0x03020300#32 ||| Config.fwBuild.setWidth 32, 0, 0, 0#4, Config.fwKey, Config.fwSignature, Config.fwBody⟩
  fwB := ⟨false, 0#32, 0, 0, 0#4, [], [], []⟩
  fwForceB := false
  rollback := 0
  keyHashes := Config.keyHashes
  revoked := 0#4
  log := []
  logNext := 0

def Work.reset : Work where
  writes := []
  ownerLedger := Ledger.init
  owner := []
  ownerNew := none
  calJoin := false
  ownerSeq := 0#32
  ownerB := false
  linSeq := 0#32
  linB := false
  bankRecovered := false
  rejectPending := false
  verify := none
  imageBegun := false
  selftest := none
  loopback := none
  activate := none
  cal := none
  lockstep := false
  otpPending := none

def Fabric.reset : Fabric where
  ports := []
  address := 0
  lastAddress := 0
  bellringer := 0
  brUid := 0#64
  keyQual := 0
  keyUid := 0#64
  keySeq := 0
  hasKey := false
  level := 0
  gen := 0
  brQual := 0
  keys := []
  members := []
  devs := []
  links := []
  topoNew := false
  electAfter := 0
  leases := []
  candidate := true
  quality := 128
  portEn := 0xF#4
  newPolicy := none
  brTai := false
  listed := false
  brStep := (0, 0, 0, false)
  brKnown := false
  offset512 := 0
  offsetAt := none
  goodEpochs := 0
  acquired := false
  alarmRun := 0
  alarmed := false
  routes := []
  reservations := []
  nextRoute := 1
  coming := []
  ending := []
  asks := 1
  telling := []
  reportDue := false
  unreported := []
  asked := []
  forwards := []
  received := []
  transit := []
  out := []

/-- Everything in the device but the nonvolatile die as it stands in RESET. -/
def Device.resetWith (nv : NonVol) : Device where
  clk := Clock.reset
  pw := Power.reset
  regs := Regs.reset
  evts := []
  bell := Bell.reset
  cnt := Counters.init
  fw := Fw.reset
  chans := []
  points := []
  groups := []
  tiles := []
  trig := Trig.reset
  gran := ⟨[], [], [], [], [], false⟩
  jobs := []
  ended := []
  maps := []
  port := PortSt.reset
  nv := nv
  work := Work.reset
  fab := Fabric.reset
  marks := Marks.init
  free := 0

/-- The machine right after a power-on reset: RESET, with nothing waiting. -/
def State.reset : State where
  pending := []
  mbx := []
  dev := Device.resetWith NonVol.init

end Sys2Proof.Machine
end

