-- ==== Sys2Proof/Machine/Ops.lean ====
section
/-! DEFINITION. The shared operations under every command: tables, device time and epochs, event registers, the device log, violations, the mode word and SAFE causes. -/

namespace Sys2Proof.Machine

/-! ### Tables -/

def tfind {α : Type} : Tbl α → Nat → Option α
  | [], _ => none
  | (i, v) :: t, k => if k = i then some v else if k < i then none else tfind t k

/-- The entry k, or the table's default where it lists none. -/
def tget {α : Type} (d : α) (t : Tbl α) (k : Nat) : α := (tfind t k).getD d

def terase {α : Type} : Tbl α → Nat → Tbl α
  | [], _ => []
  | (i, v) :: t, k => if k = i then t else if k < i then (i, v) :: t else (i, v) :: terase t k

def tinsert {α : Type} : Tbl α → Nat → α → Tbl α
  | [], k, x => [(k, x)]
  | (i, v) :: t, k, x =>
    if k = i then (k, x) :: t else if k < i then (k, x) :: (i, v) :: t else (i, v) :: tinsert t k x

/-- Write entry k; writing the default removes the entry, so that equal tables are equal data. -/
def tput {α : Type} [DecidableEq α] (d : α) (t : Tbl α) (k : Nat) (x : α) : Tbl α :=
  if x = d then terase t k else tinsert t k x

/-- Replace entry k by a function of it. -/
def tmod {α : Type} [DecidableEq α] (d : α) (t : Tbl α) (k : Nat) (f : α → α) : Tbl α :=
  tput d t k (f (tget d t k))

/-- Change every listed entry. -/
def tmap {α : Type} [DecidableEq α] (d : α) (f : α → α) (t : Tbl α) : Tbl α :=
  (t.map fun (k, x) => (k, f x)).filter fun (_, x) => decide (x ≠ d)

/-- Keys strictly rise from above a lower bound and no entry is the default. -/
def tabOk {α : Type} [DecidableEq α] (d : α) : Option Nat → Tbl α → Bool
  | _, [] => true
  | lo, (k, v) :: t =>
    (match lo with
     | none => true
     | some b => decide (b < k)) && decide (v ≠ d) && tabOk d (some k) t

/-- The canonical form of a table. -/
def twf {α : Type} [DecidableEq α] (d : α) (t : Tbl α) : Bool := tabOk d none t

/-- Increment the 32-bit wrapping counter k. -/
def tbump (t : Tbl Word) (k : Nat) (n : Nat := 1) : Tbl Word :=
  tmod 0#32 t k (· + BitVec.ofNat 32 n)

/-- Write consecutive entries from an offset. -/
def tputList {α : Type} [DecidableEq α] (d : α) : Tbl α → Nat → List α → Tbl α
  | t, _, [] => t
  | t, k, x :: xs => tputList d (tput d t k x) (k + 1) xs

/-- Read n consecutive entries from an offset. -/
def tgetList {α : Type} (d : α) (t : Tbl α) (k : Nat) : Nat → List α
  | 0 => []
  | n + 1 => tget d t k :: tgetList d t (k + 1) n

/-- Run a step over 0, 1, …, n − 1. -/
def forNat {α : Type} (n : Nat) (f : Nat → α → α) (a : α) : α :=
  (List.range n).foldl (fun a i => f i a) a

/-- Run a step over a list. -/
def forList {β α : Type} (l : List β) (f : β → α → α) (a : α) : α :=
  l.foldl (fun a x => f x a) a

/-! ### Cuts (R21) -/

/-- A swap has cut a stream at or before an instant. -/
def cutBy (l : List (Nat × Nat)) (s t : Nat) : Bool := l.any fun (v, b) => v == s && decide (b ≤ t)

/-- Those cuts have been made. -/
def cutDone (l : List (Nat × Nat)) (s t : Nat) : List (Nat × Nat) := l.filter fun (v, b) => !(v == s && decide (b ≤ t))

/-! ### Outcomes -/

/-- A command whose whole effect is on the device. -/
def onDev (f : Device → Device) (s : State) : Host.Outcome State Fault Refusal :=
  .next { s with dev := f s.dev }

/-! ### Device time and epochs (R3, R4) -/

def Clock.epoch (c : Clock) : Nat := c.time / Config.epochTicks

/-- The number of the present epoch, not reduced modulo 2^32. -/
def Device.epoch (d : Device) : Nat := d.clk.epoch

/-- The epoch field of a layout: modulo 2^32 (R4). -/
def ep32 (e : Nat) : List Byte := leBytes 4 e

/-- R4: the epoch that a 32-bit field names, as the nearest to the present one; none at a difference of exactly 2^31. -/
def epochNamed (now e : Nat) : Option Nat :=
  let df := (e + 2 ^ 32 - now % 2 ^ 32) % 2 ^ 32
  if df = 2 ^ 31 then none
  else if df < 2 ^ 31 then some (now + df)
  else some (now - (2 ^ 32 - df))

/-- An instant lies before the next boundary, so that device time can move on to it; before the counter starts there is no device time (R285). -/
def Clock.reaches (t : Nat) (c : Clock) : Bool := !c.counting || decide (t < (c.epoch + 1) * Config.epochTicks)

/-- Device time moves on to an instant a command names, within the present epoch. [log 4 DESIGN CHOICE] -/
def Device.tickTo (t : Nat) (d : Device) : Device :=
  if d.clk.counting && decide (d.clk.time < t) then
    { d with clk := { d.clk with time := Min.min t (Min.min ((d.epoch + 1) * Config.epochTicks - 1) (Config.timeSpan - 1)) } }
  else d

/-! ### Event registers (R314, R237) -/

def evSys : Nat := 0
def evClk : Nat := 1
def evSupply : Nat := 2
def evShep (r : Nat) : Nat := 3 + r
def evRange : Nat := 11
def evTrig0 : Nat := 12
def evTrig1 : Nat := 13
def evGran : Nat := 14
def evMill : Nat := 15
def evFab : Nat := 16
def evMbx : Nat := 17
def evCal : Nat := 18
def evParity : Nat := 19
def evViol : Nat := 20

/-- The event bits that are not reserved, by register (R325, R295, R141, R110, R198, R225, R171, R273). -/
def evtMask (i : Nat) : BitVec 24 :=
  match i with
  | 0 => 0x1FF#24
  | 1 => 0xFFFF#24
  | 2 => 0x33F3F#24
  | 11 => 0xF#24
  | 12 => 0xFFFFF#24
  | 13 => 0xFFFFF#24
  | 14 => 0x1F#24
  | 15 => 0xF#24
  | 16 => 0x1FF#24
  | 17 => 0x1FF#24
  | 18 => 0x3F#24
  | 19 => 0x3#24
  | 20 => 0x3F#24
  | _ => 0xFFFFFF#24

/-- The present BUS cycle; before the counter starts cycles are not told apart by device time. -/
def Clock.cycle (c : Clock) : Option Nat := if c.counting then some (c.time / 16) else none

/-- R314: occurrences recorded in a BUS cycle: their bits are set, and SEQ increments once a cycle. -/
def Evt.record (cycle : Option Nat) (bits : BitVec 24) (e : Evt) : Evt :=
  ⟨if cycle.isSome && e.cycle == cycle then e.seq else e.seq + 1#8, e.bits ||| bits, e.epoch ||| bits, cycle⟩

/-- A port has seen or cleared the register: what is recorded from here on belongs to a later cycle. [log 224 DESIGN CHOICE] -/
def Evt.seen (e : Evt) : Evt := { e with cycle := none }

/-- R314: a clear request. -/
def Evt.clear (v : Word) (e : Evt) : Evt :=
  if v.extractLsb' 24 8 = e.seq then { e.seen with bits := e.bits &&& ~~~(v.extractLsb' 0 24) } else e.seen

/-- The register as it reads: SEQ in [31:24], event bits in [23:0]. -/
def Evt.word (e : Evt) : Word := e.seq ++ e.bits

def Device.evt (d : Device) (i : Nat) : Evt := tget Evt.init d.evts i

/-- Record occurrences in event register i in the present BUS cycle; with no occurrence nothing is recorded. [log 85 DEDUCED, 224 DESIGN CHOICE] -/
def Device.raise (i : Nat) (bits : BitVec 24) (d : Device) : Device :=
  if bits &&& evtMask i = 0#24 then d
  else { d with evts := tmod Evt.init d.evts i (Evt.record d.clk.cycle (bits &&& evtMask i)) }

/-- The mask of one event bit. -/
def ebit (k : Nat) : BitVec 24 := 1#24 <<< k

/-! ### The device log (R373) -/

/-- What happened, for the log: the manual gives an entry's layout and not its codes. [log 19 DESIGN CHOICE, 20 DEDUCED] -/
def Device.logPut (kind : Nat) (data : List Nat) (d : Device) : Device :=
  let c := Config.logCode kind data
  let e : LogEntry := ⟨d.nv.logNext % 2 ^ 32, d.clk.time, (Config.logCode kind data).1, c.2.1, c.2.2⟩
  let cap := Max.max 1 Config.logEntries
  let full := decide (cap ≤ d.nv.log.length)
  let log := (d.nv.log ++ [e]).drop (d.nv.log.length + 1 - cap)
  let d := { d with nv := { d.nv with log := log, logNext := d.nv.logNext + 1 },
                    pw := { d.pw with logRead := false } }
  if full then d.raise evSys (ebit 8) else d

/-! ### Violations (R313) -/

/-- Log a violation of a kind: latch it when none is latched, count it, set its event bit and count it for the window. [log 41 DEDUCED] -/
def Device.violate (kind : BitVec 3) (a : Access) (d : Device) : Device :=
  let port : BitVec 2 :=
    match a.port with
    | .control => 0#2
    | .fabric => 1#2
    | .ammond => 2#2
  let op : Byte := if a.port = .control then a.opcode else 0#8
  let v := d.regs.viol
  let latched := decide ((d.evt evViol).bits &&& 0x3F#24 ≠ 0#24)
  let v' : Viol :=
    if latched then { v with count := if v.count = 0xFFFF#16 then v.count else v.count + 1#16 }
    else ⟨a.addr, 1#16, op, port, kind⟩
  let d := { d with regs := { d.regs with viol := v' },
                    cnt := { d.cnt with violations := d.cnt.violations + 1#32 } }
  d.raise evViol (ebit kind.toNat)

/-! ### Modes (R323) and SAFE causes (R414) -/

def Mode.code : Mode → Nat
  | .reset => 0
  | .boot => 1
  | .idle => 2
  | .run => 3
  | .hearth => 4
  | .calibrate => 5
  | .maintain => 6
  | .safe => 7

def Mode.ofCode : Nat → Option Mode
  | 0 => some .reset
  | 1 => some .boot
  | 2 => some .idle
  | 3 => some .run
  | 4 => some .hearth
  | 5 => some .calibrate
  | 6 => some .maintain
  | 7 => some .safe
  | _ => none

/-- The `MODE` register. -/
def Device.modeWord (d : Device) : Word :=
  BitVec.ofNat 32 (d.pw.safeCause % 256 * 256 + d.pw.prior.code * 16 + d.pw.mode.code)

/-- IDLE, RUN, CALIBRATE or MAINTAIN: the modes in which commits are decided (R347) and the data port sends all carts (R234). -/
def Device.working (d : Device) : Bool :=
  match d.pw.mode with
  | .idle => true
  | .run => true
  | .calibrate => true
  | .maintain => true
  | _ => false

/-- The modes in which mailboxes run. -/
def Device.hasMailboxes (d : Device) : Bool := d.pw.booted

/-- R422: what the TAP's instruction acts as, under `LOCK_DBG`, the mode, `RESET_N` and the rails. [log 154 DESIGN CHOICE] -/
def Power.actJtag (lock : Bool) (p : Power) : Power :=
  { p with jtagActs :=
      match p.jtag with
      | .priv => if !lock && decide (p.mode = .maintain) then .priv else .bypass
      | .extest => if p.resetN && p.railsUp then .extest else .sample
      | i => i }

def Device.actJtag (d : Device) : Device := { d with pw := d.pw.actJtag d.regs.lockDbg }

/-- R330: leaving MAINTAIN returns `CH_TEST` and `TILE_TEST` to 0. -/
def Device.leaveMaintain (m : Mode) (d : Device) : Device :=
  if d.pw.mode = .maintain ∧ m ≠ .maintain then
    { d with chans := tmap ChanRun.init (fun c => { c with test := 0#4 }) d.chans
             tiles := tmap Tile.init (fun x => { x with test := false }) d.tiles }
  else d

/-- Change the mode: PRIOR keeps the mode left (R323). -/
def Device.enterMode (m : Mode) (d : Device) : Device :=
  { d with pw := { d.pw with prior := d.pw.mode, mode := m, modeSince := d.clk.time } }.actJtag

/-- The bit of a discipline, supply or mode event. -/
def sysBootDone : Nat := 3
def sysSafe : Nat := 2

/-- `MODE` shows SAFE with its cause, which is logged (R414). -/
def Device.toSafe (cause : Nat) (d : Device) : Device :=
  let d := d.enterMode .safe
  ({ d with pw := { d.pw with safeCause := cause, booted := true } }.logPut 3 [cause]).raise evSys (ebit sysSafe)

/-- R414: a SAFE cause is declared; it takes effect at the first boundary after it, and at once during BOOT, when nothing runs yet. The first cause stands and a second one is logged. [log 185 DESIGN CHOICE] -/
def Device.declareSafe (cause : Nat) (d : Device) : Device :=
  if d.pw.mode = .safe ∨ d.pw.declared.isSome then d.logPut 1 [cause]
  else if d.pw.mode = .boot then
    d.toSafe cause
  else { d with pw := { d.pw with declared := some cause } }

/-- Whether any rail is in warning (R411). -/
def Device.inWarning (d : Device) : Bool := decide (d.pw.warn ≠ 0#6)

/-- A fresh free value's number. -/
def Device.takeFree (d : Device) : Nat × Device := (d.free, { d with free := d.free + 1 })

/-! ### The effective configuration's entries -/

def Cfg.chan (c : Cfg) (n : Nat) : ChanCfg := tget ChanCfg.init c.chans n
def Cfg.point (c : Cfg) (p : Nat) : PointCfg := tget PointCfg.init c.points p
def Cfg.lin (c : Cfg) (p : Nat) : Option LinSet := tfind c.lins p
def Cfg.stream (c : Cfg) (s : Nat) : StreamCfg := tget StreamCfg.init c.streams s
def Cfg.region (c : Cfg) (r : Nat) : RegionCfg := tget RegionCfg.init c.regions r
def Cfg.tally (c : Cfg) (p : Nat) : TallyCfg := tget TallyCfg.init c.tallies p
def Cfg.aout (c : Cfg) (a : Nat) : AoutCfg := tget AoutCfg.init c.aouts a
def Cfg.job (c : Cfg) (j : Nat) : Option JobCfg := tfind c.jobs j
def Cfg.map (c : Cfg) (m : Nat) : Option MapCfg := tfind c.maps m
def Cfg.unit (c : Cfg) (u : Nat) : Option UnitCfg := tfind c.units u
def Cfg.shep (c : Cfg) (n : Nat) : ShepCfg := tget ShepCfg.init c.sheps n
def Cfg.group (c : Cfg) (g : Nat) : GroupCfg := tget GroupCfg.init c.groups g

def Device.chan (d : Device) (n : Nat) : ChanRun := tget ChanRun.init d.chans n
def Device.setChan (n : Nat) (f : ChanRun → ChanRun) (d : Device) : Device :=
  { d with chans := tmod ChanRun.init d.chans n f }
def Device.pt (d : Device) (p : Nat) : PointRun := tget PointRun.init d.points p
def Device.setPt (p : Nat) (f : PointRun → PointRun) (d : Device) : Device :=
  { d with points := tmod PointRun.init d.points p f }
def Device.group (d : Device) (g : Nat) : GroupRun := tget GroupRun.init d.groups g
def Device.setGroup (g : Nat) (f : GroupRun → GroupRun) (d : Device) : Device :=
  { d with groups := tmod GroupRun.init d.groups g f }
def Device.unit (d : Device) (u : Nat) : UnitRun := tget UnitRun.init d.trig.units u
def Device.setUnit (u : Nat) (f : UnitRun → UnitRun) (d : Device) : Device :=
  { d with trig := { d.trig with units := tmod UnitRun.init d.trig.units u f } }
def Device.region (d : Device) (r : Nat) : RegionRun := tget RegionRun.init d.gran.regions r
def Device.setRegion (r : Nat) (f : RegionRun → RegionRun) (d : Device) : Device :=
  { d with gran := { d.gran with regions := tmod RegionRun.init d.gran.regions r f } }
def Device.job (d : Device) (j : Nat) : JobRun := tget JobRun.init d.jobs j
def Device.setJob (j : Nat) (f : JobRun → JobRun) (d : Device) : Device :=
  { d with jobs := tmod JobRun.init d.jobs j f }
def Device.map (d : Device) (m : Nat) : MapRun := tget MapRun.init d.maps m
def Device.setMap (m : Nat) (f : MapRun → MapRun) (d : Device) : Device :=
  { d with maps := tmod MapRun.init d.maps m f }
def Device.tile (d : Device) (t : Nat) : Tile := tget Tile.init d.tiles t
def Device.setTile (t : Nat) (f : Tile → Tile) (d : Device) : Device :=
  { d with tiles := tmod Tile.init d.tiles t f }
def Device.fport (d : Device) (k : Nat) : FPort := tget FPort.init d.fab.ports k
def Device.setFport (k : Nat) (f : FPort → FPort) (d : Device) : Device :=
  { d with fab := { d.fab with ports := tmod FPort.init d.fab.ports k f } }

/-- The boundary that begins an epoch. -/
def boundary (e : Nat) : Nat := e * Config.epochTicks

/-- The config tag in force: the EFFECTIVE tag (R348). -/
def Device.tag (d : Device) : BitVec 16 := d.fw.effective

/-! ### The factory calibration region (R88, R105, R106, R250) -/

def Device.factory (d : Device) : Factory := Config.factoryItems d.nv.factory.bytes

/-- A delay at a tile temperature in 0.01 °C: d_0 + κ·(T − T_f), to the nearest 1/64 tick (R88). -/
def DelayTrim.at_ (x : DelayTrim) (temp : Int) : Int := rdivEven (x.d0 + x.kappa * (temp - x.tf)) 16384

/-- A value of the path ratio table at a temperature: the seed and its slope times the kelvins from the factory temperature. -/
def seedAt (seed slope : F64) (tf temp : Int) : F64 :=
  F64.add seed (F64.mul slope (F64.ofFrac (Frac.mk' (temp - tf) 100)))

/-- Key of a channel's gain pair. -/
def ratioKey (n gl gh : Nat) : Nat := 8192 * n + 1024 * Nat.log2 gl + gh

def Factory.ratio (f : Factory) (n gl gh : Nat) : RatioTrim := tget default f.ratios (ratioKey n gl gh)
def Factory.rho (f : Factory) (n gl gh : Nat) (temp : Int) : F64 :=
  let x := Factory.ratio f n gl gh
  seedAt x.rho x.rhoSlope x.tf temp
def Factory.delta (f : Factory) (n gl gh : Nat) (temp : Int) : F64 :=
  let x := Factory.ratio f n gl gh
  seedAt x.delta x.deltaSlope x.tf temp

/-! ### What was in force at an instant (R21) -/

/-- The configuration, tag and owner corrections of an aligned instant: those of the first swap after it, else the present ones. -/
def Device.pastAt (t : Nat) (d : Device) : Past :=
  match d.fw.past.find? fun x => decide (t < x.until_) with
  | some x => x
  | none => ⟨t + 1, d.fw.eff, d.fw.effective, d.work.owner⟩

def Device.cfgAt (t : Nat) (d : Device) : Cfg := (d.pastAt t).cfg
def Device.tagAt (t : Nat) (d : Device) : BitVec 16 := (d.pastAt t).tag

/-! ### Spans of instants, newest first -/

/-- An instant lies in a span. -/
def inSpans (l : List (Nat × Option Nat)) (t : Nat) : Bool :=
  l.any fun (a, b) => decide (a ≤ t) && (match b with
    | none => true
    | some e => decide (t < e))

/-- Some part of the instants a to b, both included, lies in a span. -/
def meetsSpans (l : List (Nat × Option Nat)) (a b : Nat) : Bool :=
  l.any fun (x, y) => decide (x ≤ b) && (match y with
    | none => true
    | some e => decide (a < e))

/-- Begin a span at an instant, unless one is open. -/
def spanOpen (t : Nat) (l : List (Nat × Option Nat)) : List (Nat × Option Nat) :=
  match l with
  | (a, none) :: l => (a, none) :: l
  | l => (t, none) :: l

/-- End the open span at an instant. -/
def spanClose (t : Nat) (l : List (Nat × Option Nat)) : List (Nat × Option Nat) :=
  match l with
  | (a, none) :: l => (a, some t) :: l
  | l => l

/-- Follow a condition: open or close the span at an instant. -/
def spanSet (on : Bool) (t : Nat) (l : List (Nat × Option Nat)) : List (Nat × Option Nat) :=
  if on then spanOpen t l else spanClose t l

/-- The sample that a filter gives next. -/
def Filter.next (f : Filter) : Nat :=
  match f.last with
  | some t => t + f.ts
  | none => f.start

/-- How long marks are kept: longer than any sample's window and wait. -/
def markHorizon : Nat := 50000000000

def spanPrune (now : Nat) (l : List (Nat × Option Nat)) : List (Nat × Option Nat) :=
  l.filter fun (_, b) => b.all fun e => decide (now < e + markHorizon)

/-- A step of device time moves instants with it; those that a backward step takes below 0 are cut there (R90). [log 235 DESIGN CHOICE] -/
def movedBy (delta : Int) (t : Nat) : Nat := ((t : Int) + delta).toNat

/-- The instant of an element for comparisons: the recorded one and the steps since (R293). -/
def Elem.inst (e : Elem) : Nat := movedBy e.moved e.t

/-- The spacing of a slot's samples: that at which they were stored. -/
def storeTs (ts : Nat) : List Elem → Nat
  | a :: b :: _ => b.inst - a.inst
  | _ => ts

/-- A replay job's capture in `Cfg.stored`. -/
def JobCfg.storedKey (j : JobCfg) : Nat := 65536 * j.src + j.slot

/-- The decimation factors of the completed captures that enabled replay jobs name, from the spacing of their samples (R146). -/
def Cfg.withStored (regions : Tbl RegionRun) (c : Cfg) : Cfg :=
  { c with stored := c.jobs.foldl (fun t (_, j) =>
      let x := tget Slot.init (tget RegionRun.init regions j.src).slots j.slot
      let ts := storeTs 0 (tget Store.init x.members (c.region j.src).first).elems
      if j.enable && j.srcKind == 3 && x.state == .done && decide (0 < ts) then tinsert t j.storedKey (ts / 48) else t) c.stored }
def spanMove (delta : Int) (l : List (Nat × Option Nat)) : List (Nat × Option Nat) :=
  l.map fun (a, b) => (movedBy delta a, b.map (movedBy delta))
def pairMove (delta : Int) (l : List (Nat × Nat)) : List (Nat × Nat) :=
  l.map fun (a, b) => (movedBy delta a, movedBy delta b)

end Sys2Proof.Machine
end

