-- ==== Sys2Proof/Machine/Route.lean ====
section
/-! DEFINITION. The Commons as this device knows it: up*/down* control routes (R384), reserved routes (R386), and the sending of frames with their port counters (R376, R379); the transmitter presets (R433). -/

namespace Sys2Proof.Machine

/-- This device's identity. -/
def ownUid : BitVec 64 := Config.uid

/-! ### Links -/

/-- The directed links that leave a device: its port, the neighbour, the neighbour's port and the delay. -/
def linksFrom (l : List FabLink) (x : Nat) : List (Nat × Nat × Nat × Nat) :=
  l.flatMap fun k =>
    (if k.a = x then [(k.pa, k.b, k.pb, k.delay)] else []) ++ (if k.b = x then [(k.pb, k.a, k.pa, k.delay)] else [])

def devOf (l : List FabDev) (x : Nat) : Option FabDev := l.find? (·.addr == x)

/-- The hop from a to b goes up: toward the lower level, and between equals toward the lower UID. -/
def goesUp (l : List FabDev) (a b : Nat) : Bool :=
  match devOf l a, devOf l b with
  | some x, some y => decide (y.level < x.level) || (x.level == y.level && decide (y.uid < x.uid))
  | _, _ => false

/-! ### Control routes (R384) -/

/-- The smaller of two distances that may be absent. -/
def nearer (a b : Option Nat) : Option Nat :=
  match a, b with
  | none, b => b
  | a, none => a
  | some x, some y => some (Min.min x y)

/-- Distances by address. -/
abbrev Dist := List (Nat × Option Nat)
def distOf (d : Dist) (x : Nat) : Option Nat := (d.find? (·.1 == x)).bind (·.2)

/-- One round over every device: hops of one sense added to what is known. -/
def relax (devs : List FabDev) (links : List FabLink) (up : Bool) (d : Dist) : Dist :=
  d.map fun (x, v) =>
    (x, (linksFrom links x).foldl (fun v (_, y, _) => if goesUp devs x y = up then nearer v ((distOf d y).map (· + 1)) else v) v)

def relaxAll (devs : List FabDev) (links : List FabLink) (up : Bool) : Nat → Dist → Dist
  | 0, d => d
  | n + 1, d => relaxAll devs links up n (relax devs links up d)

/-- Hops to a destination by down hops only, and by up hops followed by down hops. -/
def distances (devs : List FabDev) (links : List FabLink) (dest : Nat) : Dist × Dist :=
  let zero : Dist := devs.map fun x => (x.addr, if x.addr = dest then some 0 else none)
  let down := relaxAll devs links false devs.length zero
  (down, relaxAll devs links true devs.length down)

/-- The first hop from a device with the fewest hops to go, lowest port on a tie: port, neighbour, and whether it goes up. -/
def firstHop (devs : List FabDev) (links : List FabLink) (ds : Dist × Dist) (mayUp : Bool) (x : Nat) : Option (Nat × Nat × Bool) :=
  let options := (linksFrom links x).filterMap fun (p, y, _) =>
    if goesUp devs x y then (if mayUp then (distOf ds.2 y).map fun n => (n, p, y, true) else none)
    else (distOf ds.1 y).map fun n => (n, p, y, false)
  (options.foldl (fun (b : Option (Nat × Nat × Nat × Bool)) o =>
    match b with
    | none => some o
    | some c => if o.1 < c.1 ∨ (o.1 = c.1 ∧ o.2.1 < c.2.1) then some o else some c) none).map (·.2)

/-- The hops of the shortest legal route; none where there is no route within the fuel. -/
def routeWalk (devs : List FabDev) (links : List FabLink) (ds : Dist × Dist) (dest : Nat) : Nat → Bool → Nat → Option (List Hop)
  | 0, _, x => if x = dest then some [] else none
  | n + 1, mayUp, x =>
    if x = dest then some []
    else
      match firstHop devs links ds mayUp x with
      | none => none
      | some (p, y, up) => (routeWalk devs links ds dest n up y).map (⟨x, p⟩ :: ·)

/-- R381: no route is longer than 64 hops. -/
def maxHops : Nat := 64

/-- The control route from one device to another. -/
def controlRoute (devs : List FabDev) (links : List FabLink) (a dest : Nat) : Option (List Hop) :=
  routeWalk devs links (distances devs links dest) dest maxHops true a

/-- The tree links: each device's parent is the neighbour one level up with the lowest UID, by the lowest port. -/
def parentOf (devs : List FabDev) (links : List FabLink) (x : Nat) : Option (Nat × Nat × Nat) :=
  match devOf devs x with
  | none => none
  | some me =>
    let options := (linksFrom links x).filterMap fun (p, y, q, _) =>
      (devOf devs y).bind fun o => if o.level + 1 = me.level then some (o.uid, p, y, q) else none
    (options.foldl (fun (b : Option (BitVec 64 × Nat × Nat × Nat)) o =>
      match b with
      | none => some o
      | some c => if o.1 < c.1 ∨ (o.1 = c.1 ∧ o.2.1 < c.2.1) then some o else some c) none).map (·.2)

/-- The ports of a device that carry tree links. -/
def treePorts (devs : List FabDev) (links : List FabLink) (x : Nat) : List Nat :=
  (linksFrom links x).filterMap fun (p, y, q, _) =>
    if parentOf devs links x = some (p, y, q) ∨ parentOf devs links y = some (q, x, p) then some p else none

def Fabric.route (f : Fabric) (dest : Nat) : Option (List Hop) := controlRoute f.devs f.links f.address dest

/-! ### Reserved routes (R386) -/

/-- A candidate path: its hops, where it stands, its delay. -/
structure Path where
  hops : List Hop
  at_ : Nat
  delay : Nat
  deriving DecidableEq, Repr

/-- The hops' sequence of (address, port) compares lower. -/
def hopsLess : List Hop → List Hop → Bool
  | [], [] => false
  | [], _ => true
  | _, [] => false
  | a :: l, b :: m =>
    if a.addr < b.addr then true
    else if b.addr < a.addr then false
    else if a.port < b.port then true
    else if b.port < a.port then false
    else hopsLess l m

/-- Of two paths with the same number of hops: lower delay, then lower sequence. -/
def Path.better (a b : Path) : Bool := decide (a.delay < b.delay) || (a.delay == b.delay && hopsLess a.hops b.hops)

/-- Keep the best path to each device. -/
def keepBest (x : Path) : List Path → List Path
  | [] => [x]
  | y :: l => if y.at_ = x.at_ then (if x.better y then x :: l else y :: l) else y :: keepBest x l

/-- Paths one hop longer, without the links of a route already taken and without returning to a device already reached. -/
def extendPaths (links : List FabLink) (avoid : List Hop) (seen : List Nat) (ps : List Path) : List Path :=
  (ps.flatMap fun p => (linksFrom links p.at_).filterMap fun (port, y, q, delay) =>
    if seen.contains y || avoid.contains ⟨p.at_, port⟩ || avoid.contains ⟨y, q⟩ then none
    else some ⟨p.hops ++ [⟨p.at_, port⟩], y, p.delay + delay⟩).foldl (fun l x => keepBest x l) []

def pathSearch (links : List FabLink) (avoid : List Hop) (dest : Nat) : Nat → List Nat → List Path → Option (List Hop)
  | 0, _, _ => none
  | n + 1, seen, ps =>
    match ps.find? (·.at_ == dest) with
    | some p => some p.hops
    | none =>
      match extendPaths links avoid seen ps with
      | [] => none
      | qs => pathSearch links avoid dest n (seen ++ qs.map (·.at_)) qs

/-- The path with the fewest hops that shares no link with `avoid`. -/
def bestPath (links : List FabLink) (avoid : List Hop) (a dest : Nat) : Option (List Hop) :=
  pathSearch links avoid dest (maxHops + 1) [a] [⟨[], a, 0⟩]

/-- Both directions of each hop's link, so that a backup shares none. -/
def bothWays (links : List FabLink) (l : List Hop) : List Hop :=
  l.flatMap fun h => h :: (linksFrom links h.addr).filterMap fun (p, y, q, _) => if p = h.port then some ⟨y, q⟩ else none

/-- Every hop of a path is a link that is there, and leads to the next hop, the last one to the path's end. -/
def pathUp (links : List FabLink) (dest : Nat) : List Hop → Bool
  | [] => true
  | h :: l => ((linksFrom links h.addr).any fun (p, y, _) => p == h.port && y == (l.head?.map (·.addr)).getD dest) && pathUp links dest l

/-- Primary and backup routes of a stream. -/
def routesFor (links : List FabLink) (stream id a dest : Nat) : Option RouteAns :=
  (bestPath links [] a dest).map fun p => ⟨stream, id, p, (bestPath links (bothWays links p) a dest).getD []⟩

/-! ### Reserved streams that end here (R386) -/

def Fabric.isBellringer (f : Fabric) : Bool := f.hasKey && f.keyUid == ownUid

/-- [log 141 DEDUCED] -/
def rateFrac (num den : Nat) : Frac := Frac.mk' (num : Int) den

/-- The streams that end at a device and are not to be released. -/
def endingAt (a : Nat) (rs : List Reservation) : List Ending :=
  (rs.filter fun r => r.dest == a && r.gone.all fun g => g.2.isNone).map fun r => ⟨r.src, r.stream, r.num, r.den⟩

/-- The reserved streams that end at this device: the Bellringer's own table, or what it has told. -/
def Fabric.endsHere (f : Fabric) : List Ending := if f.isBellringer then endingAt f.address f.reservations else f.ending

/-- What they add to this device's LANE sum (R244). -/
def Fabric.endingSum (f : Fabric) : Frac := Frac.sum (f.endsHere.map fun x => rateFrac x.num x.den)

/-! ### Port counters (R379) -/

def fcUps : Nat := 0
def fcDowns : Nat := 1
def fcBlock : Nat := 2
def fcCrc : Nat := 3
def fcTx : Nat := 4
def fcRx : Nat := 5
def fcRes : Nat := 6
def fcDropped : Nat := 7

def Device.countPort (k i : Nat) (d : Device) (n : Nat := 1) : Device :=
  { d with cnt := { d.cnt with fport := tbump d.cnt.fport (8 * k + i) n } }

/-- The port by which a hop leads here. -/
def Fabric.portOf (f : Fabric) (h : Hop) : Option Nat :=
  ((linksFrom f.links h.addr).find? fun (p, y, _) => p == h.port && y == f.address).map fun (_, _, q, _) => q

/-- The port by which a control frame of a device comes: the end of its route here (R384). -/
def Fabric.arrival (f : Fabric) (src : Nat) : Option Nat := ((controlRoute f.devs f.links src f.address).bind (·.getLast?)).bind f.portOf

/-- A frame is counted at the port by which it came; where this device knows no route of it, which port that is is a free value. [log 123 DESIGN CHOICE] -/
def Device.countAt (i : Nat) (port : Option Nat) (d : Device) : Device :=
  match port with
  | some k => d.countPort k i
  | none => ({ d with free := d.free + 1 }).countPort (Config.freeNat d.free % 4) i

/-- A TIME or CONTROL frame of a device has arrived for this one. -/
def Device.ctlRx (src : Nat) (d : Device) : Device := d.countAt fcRx (d.fab.arrival src)

/-! ### Sending (R376, R384) -/

/-- Where a frame goes: a port, an address, or neither (DATA_RESERVED and DATA_BEST_EFFORT are not counted as TIME or CONTROL). -/
inductive Target where
  | port (k : Nat)
  | addr (a : Nat)
  | none
  deriving DecidableEq, Repr

def OutFrame.target (brAddr : Nat) : OutFrame → Target
  | .hello p _ _ => .port p
  | .beacon p _ => .port p
  | .delay p _ => .port p
  | .addressRequest _ _ => .addr brAddr
  | .addressAssign _ _ => .addr 0xFFF
  | .message a _ => .addr a
  | .trigger a _ => .addr a
  | .bell a _ => .addr a
  | .bellAck a _ => .addr a
  | .txnOpen a _ _ _ => .addr a
  | .txnOpenReply a _ _ => .addr a
  | .prepare a _ _ => .addr a
  | .vote a _ _ => .addr a
  | .decision a _ _ _ _ => .addr a
  | .decisionAck a _ => .addr a
  | .query a _ _ => .addr a
  | .reserve _ => .addr brAddr
  | .reserveReply a _ => .addr a
  | .routeChange a _ => .addr a
  | .route a _ _ => .addr a
  | .streamAck a _ _ => .addr a
  | .cart _ _ _ => .none
  | .register _ _ => .none
  | .forwarded _ _ => .none

/-- The ports a control frame to an address leaves by. -/
def Fabric.portsTo (f : Fabric) (a : Nat) : List Nat :=
  if a = f.address then []
  else if a = 0xFFF then treePorts f.devs f.links f.address
  else
    match firstHop f.devs f.links (distances f.devs f.links a) true f.address with
    | some (p, _) => [p]
    | none => []

/-- R433: the boost of the pre-cursor and the de-emphasis after the cursor that a preset gives a lane, in tenths of a decibel. -/
def txLevels (preset : BitVec 4) : Nat × Nat := (15 * (preset.extractLsb' 0 2).toNat, 20 * (preset.extractLsb' 2 2).toNat)

def Device.dataLaneLevels (d : Device) : Nat × Nat := txLevels d.port.txPreset
def Device.fabricLaneLevels (k : Nat) (d : Device) : Nat × Nat := txLevels (d.fport k).preset

/-- Send a frame. -/
def Device.send (x : OutFrame) (d : Device) : Device :=
  let ports := match x.target d.fab.bellringer with
    | .port k => [k]
    | .addr a => d.fab.portsTo a
    | .none => []
  let d := forList ports (fun k d => d.countPort k fcTx) d
  { d with fab := { d.fab with out := d.fab.out ++ [x] } }

end Sys2Proof.Machine
end

