-- ==== Sys2Proof/Machine/Carts.lean ====
section
/-! DEFINITION. Carts: their header and trailer, their forming and the destinations they wait at (R234 to R245). -/

namespace Sys2Proof.Machine

/-- The eight header words of a cart (R235). -/
def cartHeader (c : Cart) : List Word :=
  [ BitVec.ofNat 32 (2 ^ 28 + c.type % 16 * 2 ^ 24 + c.source % 4096 * 2 ^ 12 + c.stream % 4096),
    c.seq,
    BitVec.ofNat 32 (c.time / 2 ^ 32),
    BitVec.ofNat 32 c.time,
    BitVec.ofNat 32 (c.time / Config.epochTicks),
    BitVec.ofNat 32 (c.tag.toNat * 2 ^ 16 + c.words.length % 2 ^ 16),
    BitVec.ofNat 32 c.flags.toNat,
    BitVec.ofNat 32 (c.count % 2 ^ 16 * 2 ^ 16) ]

/-- A cart as words: header, payload and CRC-32 trailer (R235, R236), without the pad word of the stripe. -/
def cartWords (c : Cart) : List Word :=
  let body := cartHeader c ++ c.words
  body ++ [crc32 (bytesOf body)]

/-- Stripe words a cart occupies on the lanes (R229). -/
def stripeWords (c : Cart) : Nat := (9 + c.words.length + 1) / 2

/-- R234: whether the data port can send a cart of a type now. -/
def Device.portSends (type : Nat) (d : Device) : Bool :=
  d.port.enable &&
  (match d.pw.mode with
   | .idle => true
   | .run => true
   | .calibrate => true
   | .maintain => true
   | .safe => type == 7
   | _ => false)

/-- Count a cart copy that is discarded (R234, R245). -/
def Device.discardCart (stream : Nat) (d : Device) : Device :=
  { d with port := { d.port with discarded := tbump d.port.discarded stream } }

/-- Insert a ready cart in order of delivery bound, ties in increasing stream id (R242). -/
def readyInsert (x : ReadyCart) : List ReadyCart → List ReadyCart
  | [] => [x]
  | y :: l =>
    if y.bound < x.bound ∨ (y.bound = x.bound ∧ y.cart.stream ≤ x.cart.stream) then y :: readyInsert x l
    else x :: y :: l

/-- The data port's copy of a closed cart (R234). -/
def Device.toPort (x : ReadyCart) (d : Device) : Device :=
  if d.portSends x.cart.type then { d with port := { d.port with ready := readyInsert x d.port.ready } }
  else
    let d := d.discardCart x.cart.stream
    { d with cnt := { d.cnt with cartsDiscarded := d.cnt.cartsDiscarded + 1#32 } }

/-- Tag a cart's words with where the cart begins. -/
def fifoWords (c : Cart) : List (Word × Bool) :=
  match cartWords c with
  | [] => []
  | w :: ws => (w, true) :: ws.map fun w => (w, false)

/-- The words the FIFO has room for (R245). -/
def fifoSize : Nat := 16384

/-- The CART_FIFO's copy: it enters whole at its close, or is discarded whole (R245). -/
def Device.toFifo (c : Cart) (d : Device) : Device :=
  let ws := fifoWords c
  if d.port.fifo.length + ws.length ≤ fifoSize then
    { d with port := { d.port with fifo := d.port.fifo ++ ws } }
  else
    let d := d.discardCart c.stream
    { d with port := { d.port with ovf := d.port.ovf + 1#8 },
             cnt := { d.cnt with fifoOverflows := d.cnt.fifoOverflows + 1#32 } }

/-- The fabric's copy waits at its source (R386). [log 74 DEDUCED] -/
def Device.toFabric (x : ReadyCart) (d : Device) : Device :=
  { d with port := { d.port with fabReady := readyInsert x d.port.fabReady } }

/-- The instant that tells a cart's side of a swap: its first element's; a readout's, whose elements are of earlier instants, is that of its forming (R21). [log 162 DEDUCED] -/
def Device.cutInstant (type time : Nat) (d : Device) : Nat := if type = 8 then d.clk.time else time

/-- A cart of an instant that is not formed in the present mode (R234). -/
def Device.noCart (at_ type : Nat) (d : Device) : Bool :=
  match d.pw.mode with
  | .safe => type != 7
  | .hearth => decide (d.pw.modeSince ≤ at_)
  | _ => false

/-- Form a closed cart, on the side of a swap that `at_` tells: the first one after a swap that affects its stream carries CONFIG_CHANGE; it takes its SEQUENCE, and a copy waits at each destination: bit 0 DATA_PORT, 1 CART_FIFO, 2 FABRIC (R21, R235, R239). In SAFE only EVENT carts are formed, and in HEARTH only those of instants before H, which R406 closes (R234). [log 242 DESIGN CHOICE] -/
def Device.formCartAt (at_ type stream time : Nat) (tag : BitVec 16) (flags : BitVec 14) (count : Nat)
    (words : List Word) (bound dests : Nat) (d : Device) : Device :=
  if d.noCart at_ type then d
  else
  let flags := if cutBy d.port.cuts stream at_ then flags ||| (1#14 <<< 10) else flags
  let c : Cart := ⟨type, d.fab.address, stream, tget 0#32 d.port.seqs stream, time, tag, flags, count, words⟩
  let d := { d with port := { d.port with seqs := tbump d.port.seqs stream, cuts := cutDone d.port.cuts stream at_ } }
  let d := if dests % 2 = 1 then d.toPort ⟨bound, c⟩ else d
  let d := if dests / 2 % 2 = 1 then d.toFifo c else d
  if dests / 4 % 2 = 1 then d.toFabric ⟨bound, c⟩ else d

/-- [log 74 DEDUCED] -/
def Device.formCart (type stream time : Nat) (tag : BitVec 16) (flags : BitVec 14) (count : Nat)
    (words : List Word) (bound dests : Nat) (d : Device) : Device :=
  d.formCartAt (d.cutInstant type time) type stream time tag flags count words bound dests

/-- The delivery margin of every bound: 24,000 ticks (R241). -/
def deliveryMargin : Nat := 24000

/-- The cart type of a stream id (R237); 0 for an id that names no stream. -/
def streamType (s : Nat) : Nat :=
  if s < 0x400 then 1
  else if s < 0x480 then 2
  else if 0x500 ≤ s ∧ s < 0x580 then 3
  else if 0x600 ≤ s ∧ s < 0x610 then 4
  else if 0x700 ≤ s ∧ s < 0x720 then 6
  else if s = 0x7F0 then 7
  else if s = 0x7F1 then 9
  else if 0x800 ≤ s ∧ s < 0xC00 then 5
  else if 0xC00 ≤ s ∧ s < 0xC40 then 8
  else if s = 0xFFF then 15
  else 0

/-- R239: the stream ids that `stream.config` may name, the port record apart. -/
def streamExists (s : Nat) : Bool :=
  let t := streamType s
  (t != 0) && (t != 9) && (t != 15)

/-- Ticks per second over a rate, as the spacing of a point's samples: 48·D (R237). -/
def Cfg.spacing (c : Cfg) (p : Nat) : Nat := 48 * (c.point p).d

/-- Close the open cart of a stream and queue it for its destinations (R240). `bound` is its delivery bound (R241). What ran outside RUN reaches the data port and the CART_FIFO only (R200). -/
def Device.closeCart (stream : Nat) (bound : OpenCart → Nat) (d : Device) : Device :=
  match tfind d.port.open_ stream with
  | none => d
  | some o =>
    let c := (d.cfgAt o.at_).stream stream
    let d := { d with port := { d.port with open_ := terase d.port.open_ stream } }
    d.formCartAt o.at_ (streamType stream) stream o.time o.tag o.flags o.count (wordsOf o.bytes) (bound o)
      (if inSpans d.marks.runs o.at_ then c.dest else c.dest % 4)

end Sys2Proof.Machine
end

