-- ==== Sys2Proof/Machine/Answer.lean ====
section
/-! DEFINITION. Requests, responses and completions: status codes (R375), the form of an answer (R332, R337), its delivery by mailbox, MESSAGE cart or fabric message (R334, R338 to R340), and the mailboxes' buffers. -/

namespace Sys2Proof.Machine

/-! ### Status codes (R375) -/

def stOk : BitVec 16 := 0x0000#16
def stAccepted : BitVec 16 := 0x0001#16
def stBadCommand : BitVec 16 := 0x0010#16
def stBadLength : BitVec 16 := 0x0011#16
def stBadField : BitVec 16 := 0x0012#16
def stNoSession : BitVec 16 := 0x0013#16
def stWrongMode : BitVec 16 := 0x0014#16
def stConflict : BitVec 16 := 0x0020#16
def stTxnStale : BitVec 16 := 0x0021#16
def stTxnLimit : BitVec 16 := 0x0022#16
def stPlanClash : BitVec 16 := 0x0030#16
def stOverBudget : BitVec 16 := 0x0031#16
def stMemoryShort : BitVec 16 := 0x0032#16
def stDependencyCycle : BitVec 16 := 0x0033#16
def stLocked : BitVec 16 := 0x0040#16
def stDenied : BitVec 16 := 0x0041#16
def stCalInputOff : BitVec 16 := 0x0050#16
def stCalRepeat : BitVec 16 := 0x0051#16
def stCalSupplyLow : BitVec 16 := 0x0052#16
def stFabUnreachable : BitVec 16 := 0x0060#16
def stFabTimeout : BitVec 16 := 0x0061#16
def stTxnInDoubt : BitVec 16 := 0x0062#16
def stFwBadSignature : BitVec 16 := 0x0070#16
def stFwRollback : BitVec 16 := 0x0071#16
def stInternal : BitVec 16 := 0x00FF#16

/-! ### Requests and answers -/

/-- A request that has passed the header checks: where it came from, its header fields and its payload (R331). -/
structure Req where
  via : Via
  code : Nat
  tag : Word
  session : Nat
  txn : Nat
  body : List Byte
  /-- of its session (R343), and the epoch in which it arrived (R347) -/
  serial : Nat
  epoch : Nat
  deriving DecidableEq, Repr

/-- An answer: status, payload, and the EPOCH field where it is not the present epoch (R332). -/
structure Ans where
  status : BitVec 16
  payload : List Byte
  epoch : Option Nat
  deriving DecidableEq, Repr

/-- An answer that a device step gives to a request that waited for it. -/
structure Reply where
  waiter : Waiter
  ans : Ans
  deriving DecidableEq, Repr

def Ans.st (s : BitVec 16) : Ans := ⟨s, [], none⟩
def Ans.ok (p : List Byte) : Ans := ⟨stOk, p, none⟩

/-- Who waits for the rest of a request's answer. -/
def Req.waiter (r : Req) : Waiter := ⟨r.via, r.session, r.tag, r.code, r.txn, r.serial⟩

/-- The bytes of a response or completion (R332): the tags are those of its writing. -/
def Device.answerBytes (status : BitVec 16) (tag : Word) (epoch : Nat) (payload : List Byte) (d : Device) : List Byte :=
  leBytes 2 payload.length ++ leBytes 2 status.toNat ++ leBytes 4 tag.toNat ++ leBytes 4 epoch
    ++ leBytes 2 d.fw.effective.toNat ++ leBytes 2 d.fw.committed.toNat ++ payload

/-- The bytes of a completion with its prefix (R337). -/
def Device.completionBytes (c : Completion) (d : Device) : List Byte :=
  d.answerBytes c.status c.tag c.epoch
    (leBytes 2 c.command ++ leBytes 2 c.session ++ leBytes 4 c.txn ++ c.payload)

/-! ### Sessions -/

def Device.session? (id : Nat) (d : Device) : Option Session := d.fw.sessions.find? (·.id == id)

def Device.setSession (id : Nat) (f : Session → Session) (d : Device) : Device :=
  { d with fw := { d.fw with sessions := d.fw.sessions.map fun s => if s.id = id then f s else s } }

/-! ### Messages over the return lane and the fabric (R338, R339) -/

/-- R339: MESSAGE carts the firmware forms in an epoch. [log 53 DEDUCED] -/
def messageLimit : Nat := 64

/-- Form a MESSAGE cart (R238). -/
def Device.messageCart (bytes : List Byte) (d : Device) : Device :=
  let d := { d with port := { d.port with messages := d.port.messages + 1 } }
  d.formCart 9 0x7F1 d.clk.time d.tag 0#14 1 (wordsOf bytes) (d.clk.time + deliveryMargin) 1

/-- Whether a message can be sent now: over the return lane within the limit per epoch, and never in SAFE or HEARTH (R234, R339). [log 53 DEDUCED] -/
def Device.canMessage (v : Via) (d : Device) : Bool :=
  match v with
  | .returnLane => decide (d.port.messages < messageLimit) && decide (d.pw.mode ≠ .safe) && decide (d.pw.mode ≠ .hearth)
  | _ => true

/-- Send an answer that does not go through a mailbox; one for which no cart can be formed now waits (R339). [log 53 DEDUCED] -/
def Device.sendMessage (v : Via) (bytes : List Byte) (d : Device) : Device :=
  match v with
  | .mailbox _ => d
  | .returnLane =>
    if d.port.replies = [] ∧ d.canMessage .returnLane then d.messageCart bytes
    else { d with port := { d.port with replies := d.port.replies ++ [bytes] } }
  | .fabric peer => d.send (.message peer bytes)

/-- The waiting answers go out as far as the limit allows (R339). -/
def Device.sendReplies : Nat → Device → Device
  | 0, d => d
  | n + 1, d =>
    match d.port.replies with
    | [] => d
    | l :: ls => if d.canMessage .returnLane then ({ d with port := { d.port with replies := ls } }.messageCart l).sendReplies n else d

/-- The way to a session's host. -/
def Session.via (s : Session) : Via :=
  match s.transport with
  | 0 => .mailbox s.mbx
  | 1 => .returnLane
  | _ => .fabric s.peer

/-- Keep an answer beside its request tag for a repeated frame (R340). -/
def Device.rememberAnswer (session : Nat) (tag : Word) (bytes : List Byte) (d : Device) : Device :=
  d.setSession session fun s =>
    { s with remembered := s.remembered.map fun (t, a) => if t = tag ∧ a = none then (t, some bytes) else (t, a) }

/-- Queue a completion in its session, or discard it when the session has closed (R337, R343). Sessions over the return lane and the fabric are sent theirs as messages, oldest first. -/
def Device.complete (w : Waiter) (status : BitVec 16) (payload : List Byte) (d : Device)
    (epoch : Option Nat := none) : Device :=
  let c : Completion := ⟨status, w.tag, epoch.getD d.epoch, w.command, w.session, w.txn, payload⟩
  match (d.session? w.session).filter fun s => s.serial == w.serial with
  | none => d
  | some s =>
    let d := d.setSession w.session fun s => { s with running := s.running - 1, queue := s.queue ++ [c] }
    match s.transport with
    | 0 => d
    | _ =>
      if s.queue = [] && d.canMessage s.via then
        let d := d.setSession w.session fun s => { s with queue := [] }
        d.sendMessage s.via (d.completionBytes c)
      else d

/-- Complete for a waiter that may be absent. -/
def Device.completeOpt (w : Option Waiter) (status : BitVec 16) (payload : List Byte) (d : Device) : Device :=
  match w with
  | none => d
  | some w => d.complete w status payload

/-- A long command starts for a session (R337). -/
def Device.startLong (session : Nat) (d : Device) : Device :=
  d.setSession session fun s => { s with running := s.running + 1 }

/-- The FABRIC commits of a session that wait for their batch: they count as running (R337). -/
def Device.commitsComing (session : Nat) (d : Device) : Nat :=
  (d.fw.txns.filter fun t => t.session == session && t.coord.isNone && t.fabric && decide (t.state = .waiting) && !t.prepared).length

/-- R337: the session's queue and its running long commands number 16. [log 51 DEDUCED] -/
def Device.longFull (session : Nat) (d : Device) : Bool :=
  match d.session? session with
  | none => false
  | some s => decide (16 ≤ s.queue.length + s.running + d.commitsComing session)

/-! ### Mailboxes -/

/-- Write bytes from offset 0 of a buffer of 1 KiB. -/
def bufWrite (b : Tbl Byte) (bytes : List Byte) : Tbl Byte := tputList 0#8 b 0 (bytes.take 1024)

def State.mailbox (s : State) (m : Nat) : Mailbox := tget Mailbox.init s.mbx m

def State.setMailbox (m : Nat) (f : Mailbox → Mailbox) (s : State) : State :=
  { s with mbx := tmod Mailbox.init s.mbx m f }

/-- R334 step 4: the firmware writes a response and hands the buffers back. -/
def Mailbox.answer (bytes : List Byte) (b : Mailbox) : Mailbox :=
  { b with response := bufWrite b.response bytes, rspLen := BitVec.ofNat 11 bytes.length,
           rspValid := true, reqBusy := false, placed := false, taken := false }

/-- R337: a completion is placed in an idle mailbox. -/
def Mailbox.place (bytes : List Byte) (b : Mailbox) : Mailbox :=
  { b with response := bufWrite b.response bytes, rspLen := BitVec.ofNat 11 bytes.length,
           rspValid := true, placed := true }

/-- R324: `MBX_CTL.RSP_DONE` releases the response buffer. -/
def Mailbox.release (b : Mailbox) : Mailbox := { b with rspValid := false, placed := false }

/-- Answer a request: a mailbox's in its buffer with `EVT_MBX.RESPONSE_READY`; a frame's as a message, kept beside its tag (R334, R339, R340). -/
def State.respond (via : Via) (session : Nat) (tag : Word) (a : Ans) (s : State) : State :=
  let bytes := s.dev.answerBytes a.status tag (a.epoch.getD s.dev.epoch) a.payload
  match via with
  | .mailbox m =>
    if (s.mailbox m).reqBusy then
      { s.setMailbox m (Mailbox.answer bytes) with dev := s.dev.raise evMbx (ebit m) }
    else s
  | v => { s with dev := (s.dev.rememberAnswer session tag bytes).sendMessage v bytes }

/-- Deliver the answers of a step to the requests that waited for them. -/
def State.respondAll : List Reply → State → State
  | [], s => s
  | r :: rs, s => (s.respond r.waiter.via r.waiter.session r.waiter.tag r.ans).respondAll rs

/-- R324: ASYNC_PENDING of a mailbox. -/
def State.asyncPending (s : State) (m : Nat) : Bool :=
  ((s.mailbox m).rspValid && (s.mailbox m).placed) ||
    s.dev.fw.sessions.any fun x => x.transport == 0 && x.mbx == m && !x.queue.isEmpty

/-- The `MBX_STAT` register of mailbox m (R324). -/
def State.mbxStat (s : State) (m : Nat) : Word :=
  let b := s.mailbox m
  b.overruns ++ ((0#13 ++ BitVec.ofBool (s.asyncPending m)) ++ (BitVec.ofBool b.rspValid ++ BitVec.ofBool b.reqBusy) : BitVec 16)

/-- The firmware takes requests: not before boot's end (R448), not while it restarts (R25), and not within the atomic step that decides a batch (R347). -/
def Device.serves (d : Device) : Bool := d.pw.booted && !d.work.lockstep && d.fw.deciding.isNone

/-- The place of a request that arrives now: requests of one BUS cycle rank by `rank`, which is m for mailbox m, 4 for the return lane and 5 for the fabric (R336). [log 243 DESIGN CHOICE] -/
def Device.arrive (rank : Nat) (d : Device) : Nat × Device :=
  let cycle := d.clk.time / 16
  let n := if d.fw.arrival.1 = cycle then d.fw.arrival.2 else d.fw.arrival.2 + 1
  (6 * n + rank, { d with fw := { d.fw with arrival := (cycle, n) } })

/-- A refused request: counted and reported (R304, R324). -/
def State.overrun (m : Nat) (s : State) : State :=
  let s := s.setMailbox m fun b => { b with overruns := b.overruns + 1#16 }
  { s with dev := s.dev.raise evMbx (ebit (4 + m)) }

end Sys2Proof.Machine
end

