-- ==== Sys2Proof/Machine/Operands.lean ====
section
/-! DEFINITION. Operand forms: the records of the staging commands as bytes (R357 to R359, R117, R145, R159, R167, R175, R201, R215, R239, R246, R367), each read with the range checks that are made at staging, and each written back for the queries. A reader answers the entity's number with its record, or none where a value is refused with BAD_FIELD. -/

namespace Sys2Proof.Machine

/-- One byte of a layout. -/
def u8 (l : List Byte) (off : Nat) : Nat := field l off 1
def u16 (l : List Byte) (off : Nat) : Nat := field l off 2
def u32 (l : List Byte) (off : Nat) : Nat := field l off 4
def u64 (l : List Byte) (off : Nat) : Nat := field l off 8
def f32At (l : List Byte) (off : Nat) : F32 := BitVec.ofNat 32 (field l off 4)
def f64At (l : List Byte) (off : Nat) : F64 := BitVec.ofNat 64 (field l off 8)
def leF32 (x : F32) : List Byte := leBytes 4 x.toNat
def leF64 (x : F64) : List Byte := leBytes 8 x.toNat
def leWord (x : Word) : List Byte := leBytes 4 x.toNat
def bit01 (b : Bool) : Nat := if b then 1 else 0

/-- Answer the record when the checks hold. -/
def guardRec {α : Type} (ok : Bool) (x : α) : Option α := if ok then some x else none

/-- One byte that carries a code, not a flag. -/
def byteOf (n : Nat) : List Byte := leBytes 1 n

/-! ### Channel and enable records (R358) -/

def subforms (mode : Nat) : Nat :=
  match mode with
  | 0 => 1
  | 1 => 2
  | 2 => 3
  | 3 => 2
  | _ => 0

def readChan (l : List Byte) : Option (Nat × ChanCfg) :=
  let n := u16 l 0
  let c : ChanCfg := ⟨u8 l 2, u8 l 3, u8 l 4, u8 l 5, u16 l 6, u8 l 8, u8 l 9, u16 l 10, false⟩
  guardRec
    (decide (n < 128) && decide (c.subform < subforms c.mode) && [1, 2, 4, 8, 16, 32].contains c.cf
      && [1, 2, 4, 8].contains c.gl && [16, 32, 64, 128, 256, 512].contains c.gh && decide (c.range ≤ 2)
      && decide (c.fch ≤ 6) && [2, 4, 8, 16, 32, 64, 128, 256].contains c.nswap)
    (n, c)

def writeChan (n : Nat) (c : ChanCfg) : List Byte :=
  leBytes 2 n ++ byteOf c.mode ++ byteOf c.subform ++ byteOf c.cf ++ byteOf c.gl ++ leBytes 2 c.gh
    ++ byteOf c.range ++ byteOf c.fch ++ leBytes 2 c.nswap

def readEnable (l : List Byte) : Option (Nat × Bool) :=
  guardRec (decide (u16 l 0 < 128) && decide (u8 l 2 ≤ 1) && allZero l 3 1) (u16 l 0, u8 l 2 == 1)

/-! ### Point record (R359) -/

/-- R52: the frequency words a record may carry. -/
def freqMin : Nat := 37529997
def freqMax : Nat := 9007199254740

def readPoint (l : List Byte) : Option (Nat × PointCfg) :=
  let p := u16 l 0
  let c : PointCfg := ⟨u8 l 2 == 1, u8 l 3, u64 l 4, u16 l 12, u16 l 14, u32 l 16, u8 l 20, u8 l 21, u8 l 22⟩
  guardRec
    (decide (p < 1024) && decide (u8 l 2 ≤ 1) && decide (c.assign ≤ 3)
      && (c.f == 0 || (decide (freqMin ≤ c.f) && decide (c.f ≤ freqMax)))
      && decide (20 ≤ c.d) && decide (c.d ≤ 1048576) && decide (c.response ≤ 2)
      && decide (1 ≤ c.word0) && decide (c.word0 ≤ 5) && decide (c.word1 ≤ 5) && (c.word0 != c.word1)
      && allZero l 23 1)
    (p, c)

def writePoint (p : Nat) (c : PointCfg) : List Byte :=
  leBytes 2 p ++ byteOf (bit01 c.enable) ++ byteOf c.assign ++ leBytes 8 c.f ++ leBytes 2 c.a ++ leBytes 2 c.ph
    ++ leBytes 4 c.d ++ byteOf c.response ++ byteOf c.word0 ++ byteOf c.word1 ++ zeros 1

/-! ### Linearisation set (R117, R114, R116) -/

def f32List (l : List Byte) (off : Nat) : Nat → List F32
  | 0 => []
  | n + 1 => f32At l off :: f32List l (off + 4) n

def readLin (l : List Byte) : Option (Nat × Option LinSet) :=
  let p := u16 l 0
  let c : LinSet := ⟨u8 l 2, u8 l 3, u16 l 4, u8 l 6, fieldInt l 8 4, f32At l 12, f32At l 16, f32List l 20 24,
    BitVec.ofNat 32 (u32 l 116)⟩
  if u8 l 7 = 1 then guardRec (decide (p < 1024)) (p, none)
  else
    guardRec
      (decide (p < 1024) && u8 l 7 == 0 && decide (c.xsel ≤ 1)
        && (match c.tkind with
            | 0 => c.tsrc == 0
            | 1 => decide (c.tsrc < 16)
            | 2 => decide (c.tsrc < 1024)
            | _ => false)
        && (decide (c.unit < 18) || decide (128 ≤ c.unit))
        && F32.isFinite c.t0 && F32.isFinite c.dt && (c.dt &&& 0x7FFFFFFF#32 != 0#32)
        && c.c.all F32.isFinite)
      (p, some c)

def writeLin (p : Nat) (s : Option LinSet) : List Byte :=
  match s with
  | none => leBytes 2 p ++ zeros 5 ++ byteOf 1 ++ zeros 112
  | some c =>
    leBytes 2 p ++ byteOf c.xsel ++ byteOf c.tkind ++ leBytes 2 c.tsrc ++ byteOf c.unit ++ byteOf 0
      ++ leInt 4 c.phi ++ leF32 c.t0 ++ leF32 c.dt ++ c.c.flatMap leF32 ++ leWord c.label

/-! ### Stream and port records (R239) -/

/-- A stream record, or the port record with its N and FILL_TO. -/
def readStream (l : List Byte) : Option Item :=
  let s := u16 l 0
  let c : StreamCfg := ⟨u8 l 3, u16 l 4, u16 l 6, u32 l 8, u32 l 12⟩
  let isPort := s == 0xFFF
  if !(isPort || streamExists s) || decide (1 < u8 l 2) then none
  else if u8 l 2 = 1 then some (if isPort then .port 8 3000000 else .stream s StreamCfg.init)
  else if isPort then
    guardRec (c.dest == 0 && [1, 2, 4, 8].contains c.spc && c.fabAddr == 0 && decide (3000 ≤ c.fillTo) && c.rate == 0)
      (.port c.spc c.fillTo)
  else
    let paced := (streamType s == 8 || streamType s == 4) && c.dest != 0
    guardRec
      (decide (c.dest < 8) && decide (1 ≤ c.spc) && decide (c.spc ≤ 256)
        && (if c.dest / 4 % 2 = 1 then decide (1 ≤ c.fabAddr) && decide (c.fabAddr ≤ 0xFFE) else c.fabAddr == 0)
        && decide (3000 ≤ c.fillTo)
        && (if paced then decide (1 ≤ c.rate) && decide (c.rate ≤ 186170) else c.rate == 0))
      (.stream s c)

def writeStream (s : Nat) (c : StreamCfg) : List Byte :=
  leBytes 2 s ++ byteOf 0 ++ byteOf c.dest ++ leBytes 2 c.spc ++ leBytes 2 c.fabAddr ++ leBytes 4 c.fillTo
    ++ leBytes 4 c.rate

/-! ### Region record (R201, R202) -/

def readRegion (l : List Byte) : Option (Nat × RegionCfg) :=
  let r := u8 l 0
  let c : RegionCfg := ⟨u8 l 1, u16 l 2, u16 l 4, u32 l 8, u64 l 16⟩
  if c.type = 0 then guardRec (decide (r < 64)) (r, RegionCfg.init)
  else
    guardRec
      (decide (r < 64) && decide (c.type ≤ 5) && allZero l 6 2 && allZero l 12 4
        && (if c.type ≤ 2 then decide (1 ≤ c.count) && decide (c.count ≤ 1024) else c.first == 0 && c.count == 0)
        && (if c.type = 2 then decide (1 ≤ c.slots) && decide (c.slots ≤ 65536) else c.slots == 1)
        && (match c.type with
            | 3 => decide (256 ≤ c.capacity) && decide (c.capacity < 2 ^ 32)
            | 4 => c.capacity % 65536 == 0
            | 5 => c.capacity % 65536 == 0
            | _ => true))
      (r, c)

def writeRegion (r : Nat) (c : RegionCfg) : List Byte :=
  byteOf r ++ byteOf c.type ++ leBytes 2 c.first ++ leBytes 2 c.count ++ zeros 2 ++ leBytes 4 c.slots ++ zeros 4
    ++ leBytes 8 c.capacity

/-! ### Tally record (R215) -/

def readTally (l : List Byte) : Option (Nat × TallyCfg) :=
  let ctl := u8 l 2
  let c : TallyCfg := ⟨ctl % 2 == 1, ctl / 2 % 2 == 1, ctl / 4 % 2 == 1, u8 l 3, f32At l 4, u16 l 8⟩
  guardRec
    (decide (u16 l 0 < 1024) && decide (ctl < 8) && (if c.toRegion then decide (c.region < 64) else c.region == 0)
      && F32.isFinite c.deadband && F32.le 0#32 c.deadband && decide (1 ≤ c.heartbeat) && decide (c.heartbeat ≤ 1400)
      && allZero l 10 2)
    (u16 l 0, c)

/-! ### Analogue output record (R246) -/

def readAout (l : List Byte) : Option (Nat × AoutCfg) :=
  let ctl := u8 l 1
  let c : AoutCfg := ⟨ctl % 2 == 1, ctl / 2 % 2 == 1, ctl / 4 % 2 == 1, u16 l 2, f32At l 4, f32At l 8, u32 l 12⟩
  guardRec
    (decide (u8 l 0 < 16) && decide (ctl < 8) && decide (c.point < 1024) && F32.isFinite c.scale
      && F32.isFinite c.offset && decide (c.safe ≤ 1048575))
    (u8 l 0, c)

/-! ### Mill job record and table segments (R145, R159, R363) -/

def readJob (l : List Byte) : Option (Nat × Option JobCfg) :=
  let j := u16 l 0
  let ctl := u8 l 2
  let c : JobCfg := ⟨ctl % 2 == 1, ctl / 4 % 2 == 1, u8 l 3, u16 l 4, u16 l 6, u8 l 8, u8 l 9, u8 l 10, u8 l 11,
    f32At l 12, u8 l 16, u8 l 17, u16 l 18, u8 l 20, u8 l 21, u8 l 22, u8 l 23, u32 l 24, u32 l 28, u32 l 32, u16 l 36,
    u8 l 38, u8 l 39⟩
  let replay := decide (2 ≤ c.srcKind)
  if ctl / 8 ≠ 0 then none
  else if ctl / 2 % 2 = 1 then guardRec (decide (j < 128)) (j, none)
  else
    guardRec
      (decide (j < 128) && decide (c.srcKind ≤ 3)
        && (match c.srcKind with
            | 0 => decide (c.src < 128)
            | 1 => decide (c.src < 1024)
            | _ => decide (c.src < 64))
        && (replay || c.slot == 0) && decide (8 ≤ c.log2n) && decide (c.log2n ≤ 16) && decide (c.window ≤ 5)
        && (if c.window = 5 then decide (c.wsel ≤ 3) else c.wsel == 0) && decide (c.overlap ≤ 7)
        && (if c.window = 4 then F32.within c.beta ⟨0, 1⟩ ⟨20, 1⟩ else c.beta == 0#32)
        && decide (c.avg ≤ 3) && (if c.avg = 2 then decide (1 ≤ c.expK) && decide (c.expK ≤ 16) else c.expK == 0)
        && (if c.avg = 0 then c.avgN == 1 else decide (1 ≤ c.avgN)) && decide (c.out < 32)
        && (if replay then decide (c.shift ≤ 6) else c.shift == 0) && decide (c.decRule ≤ 1)
        && decide (1 ≤ c.decM) && decide (c.decM ≤ 64) && (c.out % 8 != 0 || c.binCnt == 0)
        && decide (c.decC ≤ 1024) && decide (c.nbands ≤ 64) && decide (c.mask ≤ 1) && allZero l 40 8)
      (j, some c)

def writeJob (j : Nat) (s : Option JobCfg) : List Byte :=
  match s with
  | none => leBytes 2 j ++ zeros 46
  | some c =>
    leBytes 2 j ++ byteOf (bit01 c.enable + 4 * bit01 c.peakReset) ++ byteOf c.srcKind ++ leBytes 2 c.src
      ++ leBytes 2 c.slot ++ byteOf c.log2n ++ byteOf c.window ++ byteOf c.wsel ++ byteOf c.overlap ++ leF32 c.beta
      ++ byteOf c.avg ++ byteOf c.expK ++ leBytes 2 c.avgN ++ byteOf c.out ++ byteOf c.shift ++ byteOf c.decRule
      ++ byteOf c.decM ++ leBytes 4 c.binLo ++ leBytes 4 c.binCnt ++ leBytes 4 c.decLo ++ leBytes 2 c.decC
      ++ byteOf c.nbands ++ byteOf c.mask ++ zeros 8

/-- Entry size of a segment kind: 1 BANDS, 2 MASK, 3 WINDOW; 0 for none. -/
def segEntry (kind : Nat) : Nat :=
  match kind with
  | 1 => 8
  | 2 => 4
  | 3 => 4
  | _ => 0

def readPairs (l : List Byte) (off : Nat) : Nat → List (Nat × Nat)
  | 0 => []
  | n + 1 => (u32 l off, u32 l (off + 4)) :: readPairs l (off + 8) n

def readMasks (l : List Byte) (off : Nat) : Nat → List (Int × Int)
  | 0 => []
  | n + 1 => (fieldInt l off 2, fieldInt l (off + 2) 2) :: readMasks l (off + 4) n

/-- A table segment; its length has been matched with its COUNT (R363). -/
def readSegment (l : List Byte) : Option Item :=
  let t := u16 l 0
  let first := u32 l 4
  let n := u32 l 8
  if !(allZero l 3 1) then none else
  match u8 l 2 with
  | 1 => guardRec (decide (t < 128) && decide (1 ≤ n) && decide (n ≤ 64) && decide (first + n ≤ 64))
      (.bands t first (readPairs l 12 n))
  | 2 => guardRec (decide (t < 128) && decide (1 ≤ n) && decide (n ≤ 224) && decide (first + n ≤ 1024))
      (.mask t first (readMasks l 12 n))
  | 3 => guardRec (decide (t < 4) && decide (1 ≤ n) && decide (n ≤ 224) && decide (first + n ≤ 32769))
      (.window t first (f32List l 12 n))
  | _ => none

/-! ### Density map record (R167) -/

/-- The record and whether it clears the counters. -/
def readMap (l : List Byte) : Option (Nat × MapCfg × Bool) :=
  let ctl := u8 l 1
  let c : MapCfg := ⟨ctl % 2 == 1, ctl / 4 % 2 == 1, u16 l 2, u16 l 4, u16 l 6, fieldInt l 8 2, u16 l 10, u8 l 12,
    u16 l 14, u32 l 16⟩
  guardRec
    (decide (u8 l 0 < 16) && decide (ctl < 8) && decide (c.job < 128) && decide (c.region < 64)
      && decide (1 ≤ c.subsample) && decide (1 ≤ c.step) && decide (c.step ≤ 2000) && decide (c.decay ≤ 1)
      && allZero l 13 1 && decide (1 ≤ c.streamEvery) && decide (1 ≤ c.halveEvery) && decide (c.halveEvery ≤ 86400000))
    (u8 l 0, c, ctl / 2 % 2 == 1)

def writeMap (m : Nat) (s : Option MapCfg) : List Byte :=
  match s with
  | none => byteOf m ++ zeros 19
  | some c =>
    byteOf m ++ byteOf (bit01 c.enable + 4 * bit01 c.stream) ++ leBytes 2 c.job ++ leBytes 2 c.region
      ++ leBytes 2 c.subsample ++ leInt 2 c.floor ++ leBytes 2 c.step ++ byteOf c.decay ++ zeros 1
      ++ leBytes 2 c.streamEvery ++ leBytes 4 c.halveEvery

/-! ### Trigger unit record (R175) -/

/-- *Unit parameters by type*, but for the relations that are checked at commit. -/
def unitFits (c : UnitCfg) : Bool :=
  let zeroAB := c.a == 0#32 && c.b == 0#32
  let zeroP := c.p1 == 0 && c.p2 == 0
  let pos (x : F32) : Bool := F32.lt 0#32 x
  let strm := decide (c.word ≤ 5) && (if c.word = 5 then decide (c.src < 128) else decide (c.src < 1024))
  match c.type with
  | 0 => strm && decide (c.sel ≤ 1) && c.b == 0#32 && c.m == 0 && zeroP
  | 1 => strm && decide (c.sel ≤ 2) && F32.le 0#32 c.b && c.m == 0 && zeroP
  | 2 => strm && decide (c.sel ≤ 1) && c.m == 0 && zeroP
  | 3 => strm && decide (c.sel ≤ 1) && c.b == 0#32 && decide (1 ≤ c.m) && zeroP
  | 4 => c.word == 0 && c.sel == 0 && decide (c.src < 128) && zeroAB && decide (1 ≤ c.m) && decide (c.m ≤ 255) && zeroP
  | 5 => c.word == 0 && decide (c.sel ≤ 1) && decide (c.src < 128) && pos c.a && F32.le 0x3F800000#32 c.b
      && decide (c.m ≤ 63) && zeroP
  | 6 => c.word == 0 && c.sel == 0 && (decide (c.src < 128) || c.src == 0xFFFF) && zeroAB && decide (c.m < 64) && zeroP
  | 7 => c.word == 0 && decide (c.sel ≤ 2) && decide (c.src < 4) && zeroAB && zeroP
  | 8 => c.word == 0 && c.sel == 0 && c.src == 0 && zeroAB && decide (c.m < 256) && decide (1 ≤ c.p1) && decide (c.p1 ≤ 0xFFF)
  | 9 => c.word == 0 && c.src == 0 && zeroAB && c.m == 0
      && (match c.sel with
          | 0 => decide (1 ≤ c.p1)
          | 1 => c.p1 == 0
          | _ => false)
  | 10 => c.word == 0 && decide (c.sel < 8) && c.src == 0 && zeroAB && c.m == 0 && zeroP
  | _ => false

def readUnit (l : List Byte) : Option (Nat × Option UnitCfg) :=
  let u := u8 l 0
  let ctl := u8 l 1
  let c : UnitCfg := ⟨ctl % 2 == 1, ctl / 4 % 2 == 1, ctl / 8 % 2 == 1, u8 l 2, u8 l 3, u16 l 4, u8 l 6, f32At l 8,
    f32At l 12, u16 l 16, u32 l 20, u32 l 24, u32 l 28, u8 l 32, u8 l 33, u16 l 34, u32 l 36, u8 l 40, u8 l 41, u8 l 42,
    u8 l 43, u32 l 44, u32 l 48, u8 l 52, u16 l 54⟩
  if ctl / 16 ≠ 0 then none
  else if ctl / 2 % 2 = 1 then guardRec (decide (u < 32)) (u, none)
  else
    guardRec
      (decide (u < 32) && F32.isFinite c.a && F32.isFinite c.b && unitFits c && allZero l 7 1 && allZero l 18 2
        && decide (c.seqmode ≤ 3)
        && (if c.seqmode = 1 ∨ c.seqmode = 2 then decide (c.seqin < 32) else c.seqin == 0)
        && (if c.seqmode = 3 then decide (1 ≤ c.seqn) else c.seqn == 0)
        && decide (c.rgrp < 8) && decide (c.act < 64) && decide (c.outpins < 16)
        && (if c.act / 4 % 2 = 1 then decide (c.region < 64) else c.region == 0)
        && decide (30 ≤ c.outWidth) && decide (c.outWidth ≤ 16777215)
        && (if c.act / 16 % 2 = 1 then decide (1 ≤ c.bcDest) && decide (c.bcDest ≤ 0xFFF) else true)
        && allZero l 53 1 && allZero l 56 8)
      (u, some c)

def writeUnit (u : Nat) (s : Option UnitCfg) : List Byte :=
  match s with
  | none => byteOf u ++ zeros 63
  | some c =>
    byteOf u ++ byteOf (bit01 c.enable + 4 * bit01 c.oneshot + 8 * bit01 c.skipSettle) ++ byteOf c.type ++ byteOf c.sel
      ++ leBytes 2 c.src ++ byteOf c.word ++ zeros 1 ++ leF32 c.a ++ leF32 c.b ++ leBytes 2 c.m ++ zeros 2
      ++ leBytes 4 c.p1 ++ leBytes 4 c.p2 ++ leBytes 4 c.holdoff ++ byteOf c.seqmode ++ byteOf c.seqin
      ++ leBytes 2 c.seqn ++ leBytes 4 c.seqt ++ byteOf c.rgrp ++ byteOf c.act ++ byteOf c.outpins ++ byteOf c.region
      ++ leBytes 4 c.outDelay ++ leBytes 4 c.outWidth ++ byteOf c.bcId ++ zeros 1 ++ leBytes 2 c.bcDest ++ zeros 8

/-! ### Shepherd record (R367, R143) -/

def readShepherd (l : List Byte) : Option Item :=
  let i := u16 l 2
  match u8 l 0 with
  | 0 =>
    let c : ShepCfg := ⟨u8 l 4, f32At l 8, f32At l 12, f32At l 16, f32At l 20, f32At l 24, f32At l 28⟩
    let action := u8 l 1
    guardRec
      (decide (i < 128) && decide (action ≤ 3) && decide (c.fsh ≤ 3) && allZero l 5 3
        && F32.within c.zopen ⟨10000, 1⟩ ⟨1000000000, 1⟩ && F32.within c.zshort ⟨1, 10⟩ ⟨1000, 1⟩
        && F32.within c.cmin ⟨1, 10 ^ 14⟩ ⟨1, 10 ^ 11⟩ && F32.within c.gshort ⟨1, 10 ^ 8⟩ ⟨1, 1000⟩
        && F32.within c.gleak ⟨1, 10 ^ 9⟩ ⟨1, 10 ^ 4⟩ && F32.within c.dr ⟨1, 1000⟩ ⟨1, 1⟩
        && (action == 2 || allZero l 32 32))
      (.shepChan i c action (f32List l 32 8))
  | 1 => guardRec (decide (i < 32) && u8 l 1 == 0 && decide (u8 l 4 ≤ 1) && allZero l 5 1 && allZero l 8 56)
      (.shepGroup i ⟨u8 l 4 == 1, u16 l 6⟩)
  | 2 => guardRec (i == 0 && u8 l 1 == 0 && allZero l 4 4 && decide (10 ≤ u32 l 8) && decide (u32 l 8 ≤ 10000)
        && allZero l 12 52)
      (.shepDevice (u32 l 8))
  | _ => none

end Sys2Proof.Machine
end

