-- ==== Sys2Proof/Machine/Items.lean ====
section
/-! DEFINITION. Staged items: what each writes in a configuration, when one replaces another and which entity it touches (R345). -/

namespace Sys2Proof.Machine

/-- A table that has no default: none removes the entry. -/
def tset {α : Type} (t : Tbl α) (k : Nat) (x : Option α) : Tbl α :=
  match x with
  | none => terase t k
  | some v => tinsert t k v

def bandKey (j b : Nat) : Nat := 64 * j + b
def maskKey (j c : Nat) : Nat := 1024 * j + c
def windowKey (w i : Nat) : Nat := 32769 * w + i

/-- The mask entry that was never written (R159). -/
def maskDefault : Int × Int := (0x7FFF, -0x8000)

def insertList {α : Type} : Tbl α → Nat → List α → Tbl α
  | t, _, [] => t
  | t, k, x :: xs => insertList (tinsert t k x) (k + 1) xs

/-- The configuration that an item leaves. -/
def Item.apply (i : Item) (c : Cfg) : Cfg :=
  match i with
  | .chan n x => { c with chans := tmod ChanCfg.init c.chans n fun o => { x with enable := o.enable } }
  | .enable n on => { c with chans := tmod ChanCfg.init c.chans n fun o => { o with enable := on } }
  | .point p x => { c with points := tput PointCfg.init c.points p x }
  | .lin p x => { c with lins := tset c.lins p x }
  | .stream s x => { c with streams := tput StreamCfg.init c.streams s x }
  | .port n f => { c with portN := n, portFill := f }
  | .region r x => { c with regions := tput RegionCfg.init c.regions r x }
  | .tally p x => { c with tallies := tput TallyCfg.init c.tallies p x }
  | .aout a x => { c with aouts := tput AoutCfg.init c.aouts a x }
  | .job j x => { c with jobs := tset c.jobs j x }
  | .bands j f l => { c with bands := insertList c.bands (bandKey j f) l }
  | .mask j f l => { c with masks := tputList maskDefault c.masks (maskKey j f) l }
  | .window w f l => { c with windows := tputList 0#32 c.windows (windowKey w f) l }
  | .map m x _ => { c with maps := tinsert c.maps m x }
  | .unit u x => { c with units := tset c.units u x }
  | .shepChan n x _ _ => { c with sheps := tput ShepCfg.init c.sheps n x }
  | .shepGroup g x => { c with groups := tput GroupCfg.init c.groups g x }
  | .shepDevice n => { c with pchk := n }

def applyItems (l : List Item) (c : Cfg) : Cfg := l.foldl (fun c i => i.apply c) c

/-- What an item replaces in its transaction: kind, index and, for a table segment, its first entry. -/
def Item.key : Item → Nat × Nat × Nat
  | .chan n _ => (0, n, 0)
  | .enable n _ => (1, n, 0)
  | .point p _ => (2, p, 0)
  | .lin p _ => (3, p, 0)
  | .stream s _ => (4, s, 0)
  | .port _ _ => (5, 0, 0)
  | .region r _ => (6, r, 0)
  | .tally p _ => (7, p, 0)
  | .aout a _ => (8, a, 0)
  | .job j _ => (9, j, 0)
  | .bands j f _ => (10, j, f)
  | .mask j f _ => (11, j, f)
  | .window w f _ => (12, w, f)
  | .map m _ _ => (13, m, 0)
  | .unit u _ => (14, u, 0)
  | .shepChan n _ _ _ => (15, n, 0)
  | .shepGroup g _ => (16, g, 0)
  | .shepDevice _ => (17, 0, 0)

/-- The entity an item touches (R345, R363): a channel's record and its enable are one entity, and so are a job's bands and mask. -/
def Item.entity : Item → Nat × Nat
  | .chan n _ => (0, n)
  | .enable n _ => (0, n)
  | .point p _ => (2, p)
  | .lin p _ => (3, p)
  | .stream s _ => (4, s)
  | .port _ _ => (5, 0)
  | .region r _ => (6, r)
  | .tally p _ => (7, p)
  | .aout a _ => (8, a)
  | .job j _ => (9, j)
  | .bands j _ _ => (10, j)
  | .mask j _ _ => (10, j)
  | .window w _ _ => (12, w)
  | .map m _ _ => (13, m)
  | .unit u _ => (14, u)
  | .shepChan n _ _ _ => (15, n)
  | .shepGroup g _ => (16, g)
  | .shepDevice _ => (17, 0)

def itemsHold (l : List Item) (i : Item) : Bool := l.any fun x => x.key == i.key

/-- R345: stage one item: it replaces an earlier one of the same key in its place, or is appended. -/
def stageItem (l : List Item) (i : Item) : List Item :=
  if itemsHold l i then l.map fun x => if x.key = i.key then i else x else l ++ [i]

/-- R345: the largest number of items of a transaction. -/
def itemLimit : Nat := 4096

def itemsTouch (a b : List Item) : Bool := a.any fun x => b.any fun y => x.entity == y.entity

/-! ### Enabled entities of a configuration (R16) -/

/-- A point runs only when it and its channel are enabled (R2). -/
def Cfg.pointOn (c : Cfg) (p : Nat) : Bool := (c.point p).enable && (c.chan (p / 8)).enable
def Cfg.chanOn (c : Cfg) (n : Nat) : Bool := (c.chan n).enable
def Cfg.jobOn (c : Cfg) (j : Nat) : Bool := (c.job j).any (·.enable)
def Cfg.mapOn (c : Cfg) (m : Nat) : Bool := (c.map m).any (·.enable)
def Cfg.unitOn (c : Cfg) (u : Nat) : Bool := (c.unit u).any (·.enable)

/-- A stream's producer is enabled (R16, R202, R239). -/
def Cfg.streamOn (c : Cfg) (s : Nat) : Bool :=
  match streamType s with
  | 1 => c.pointOn s
  | 2 => c.chanOn (s - 0x400)
  | 3 => c.jobOn (s - 0x500)
  | 4 => c.mapOn (s - 0x600)
  | 5 => (c.tally (s - 0x800)).enable && (c.tally (s - 0x800)).toStream
  | 6 => c.unitOn (s - 0x700)
  | 7 => true
  | 8 => (c.region (s - 0xC00)).type != 0
  | _ => false

/-- The enabled points of a channel, in increasing order. -/
def Cfg.pointsOf (c : Cfg) (n : Nat) : List Nat :=
  (List.range 8).filterMap fun k => if c.pointOn (8 * n + k) then some (8 * n + k) else none

end Sys2Proof.Machine
end

