-- ==== Sys2Proof/Machine/Status.lean ====
section
/-! DEFINITION. The status words of the register map as the host reads them (R234, R245, R286, R322 to R329), the event summary and the interrupt (R315), and the holding window (R317, R320). -/

namespace Sys2Proof.Machine

/-- A field of a register at a bit position. -/
def at_ (pos : Nat) (v : Nat) : Word := BitVec.ofNat 32 (v * 2 ^ pos)
def bitAt (pos : Nat) (b : Bool) : Word := if b then at_ pos 1 else 0#32

/-! ### Clocks, supplies, boot -/

def SynState.code : SynState → Nat
  | .off => 0
  | .search => 1
  | .acquire => 2
  | .align => 3
  | .ready => 4
  | .active => 5
  | .coast => 6
  | .unlocked => 7

def Disc.code : Disc → Nat
  | .free => 0
  | .acquiring => 1
  | .locked => 2
  | .holdover => 3
  | .slewing => 4
  | .awaitStep => 5
  | .held => 6

def Clock.stat (c : Clock) : Word :=
  at_ 24 c.disc.code ||| at_ 22 c.source ||| at_ 20 c.refMult ||| bitAt 19 c.taiSet ||| bitAt 18 c.coasting
    ||| bitAt 17 c.activeB ||| bitAt 16 c.xoOk ||| bitAt 15 c.refPresent ||| at_ 12 c.synB.state.code
    ||| at_ 8 c.synA.state.code

/-- The first tick of the present BUS cycle (R286). -/
def Clock.busTime (c : Clock) : Nat := c.time / 16 * 16

def Power.supStat (p : Power) : Word :=
  at_ 8 p.lastBrownout.toNat ||| bitAt 7 (decide (p.warn ≠ 0#6)) ||| bitAt 6 p.vrefOk ||| at_ 0 p.warn.toNat

def Power.bootStat (p : Power) : Word :=
  at_ 24 p.bootMs ||| at_ 16 p.stage ||| bitAt 11 p.selIgnored ||| at_ 9 p.bootSel.toNat ||| bitAt 8 p.linOk
    ||| bitAt 7 p.ownerOk ||| bitAt 6 p.factoryOk ||| bitAt 5 p.dramOk ||| bitAt 4 p.selftestFail ||| bitAt 3 p.sigFail
    ||| bitAt 2 p.fallback ||| bitAt 1 p.fwBankB ||| bitAt 0 p.idReady

/-! ### The data port -/

def laneCode : Nat → Nat
  | 1 => 0
  | 2 => 1
  | 4 => 2
  | _ => 3

def PortSt.ctl (p : PortSt) : Word :=
  bitAt 12 p.force ||| at_ 9 p.forceLane.toNat ||| bitAt 8 p.hostFailEn ||| at_ 4 p.txPreset.toNat
    ||| at_ 2 (laneCode p.lanes) ||| bitAt 1 p.rxEnable ||| bitAt 0 p.enable

def PortSt.stat (p : PortSt) : Word :=
  at_ 24 p.mapGen.toNat ||| at_ 16 p.spareFor.toNat ||| bitAt 15 p.rxLock ||| bitAt 14 p.hostOk ||| at_ 0 p.failed.toNat

/-- `CART_LEVEL`; an empty FIFO stands at a cart's start (its reset value). -/
def PortSt.level (p : PortSt) : Word :=
  let atStart := match p.fifo with
    | [] => true
    | (_, b) :: _ => b
  at_ 24 p.ovf.toNat ||| bitAt 16 atStart ||| at_ 0 p.fifo.length

/-! ### Events (R315) -/

def Device.anyEvent (l : List Nat) (d : Device) : Bool := l.any fun i => decide ((d.evt i).bits ≠ 0#24)

/-- `EVT_TOP`'s bits in order: the event registers each summarises. -/
def topGroups : List (List Nat) :=
  [[evSys], [evClk], [evSupply], [3, 4, 5, 6, 7, 8, 9, 10], [evRange], [evTrig0, evTrig1], [evGran], [evMill], [evFab],
   [evMbx], [evCal], [evParity], [evViol]]

def Device.evtTop (d : Device) : Word :=
  BitVec.ofNat 32 (ofBits (topGroups.map fun g => d.anyEvent g))
where
  ofBits : List Bool → Nat
    | [] => 0
    | b :: l => (if b then 1 else 0) + 2 * ofBits l

/-- `INT_N` is driven low (R315): never before 5 ms after leaving RESET. -/
def Device.intLow (d : Device) : Bool :=
  d.pw.idReady && decide (d.evtTop &&& d.regs.intMask.setWidth 32 ≠ 0#32)

/-! ### Posted accesses (R329) -/

def portIndex : Port → Nat
  | .control => 0
  | .fabric => 1
  | .ammond => 2

def postKey (p : Port) (t : Nat) : Nat := 4 * portIndex p + t
def Regs.post (r : Regs) (p : Port) (t : Nat) : Posted := tget Posted.init r.posted (postKey p t)
def Device.setPost (p : Port) (t : Nat) (f : Posted → Posted) (d : Device) : Device :=
  { d with regs := { d.regs with posted := tmod Posted.init d.regs.posted (postKey p t) f } }

def Regs.postStat (r : Regs) (p : Port) : Word :=
  (List.range 4).foldl (fun w t =>
    let x := r.post p t
    w ||| bitAt (8 + t) x.nack ||| bitAt (4 + t) x.valid ||| bitAt t x.busy) 0#32

/-! ### The Bell and the holding window -/

/-- What every block samples at a Bell tick (R317, R320). -/
def Device.snapshot (tick : Nat) (sources : BitVec 5) (d : Device) : Snapshot where
  time := tick
  count := d.bell.count
  sources := sources
  epoch := BitVec.ofNat 32 (tick / Config.epochTicks)
  mode := d.modeWord
  clkStat := d.clk.stat
  supStat := d.pw.supStat
  tags := d.fw.committed ++ d.fw.effective
  dlStat := d.port.stat
  cartLevel := d.port.level
  counters := d.cnt

/-- The word of a window table of `stride` bytes per entry at a base offset. -/
def tableWord (t : Tbl Word) (base stride n per off : Nat) : Option Word :=
  if base ≤ off ∧ off < base + stride * n then
    if (off - base) % stride / 4 < per then some (tget 0#32 t ((off - base) / stride * per + (off - base) % stride / 4))
    else some 0#32
  else none

/-- A listed word of the holding window by its offset; none for an offset R320 does not list. -/
def Snapshot.word (s : Snapshot) (off : Nat) : Option Word :=
  let c := s.counters
  match off with
  | 0x0000 => some (BitVec.ofNat 32 (s.time / 2 ^ 32))
  | 0x0004 => some (BitVec.ofNat 32 s.time)
  | 0x0008 => some s.count
  | 0x000C => some (s.sources.setWidth 32)
  | 0x0010 => some s.epoch
  | 0x0014 => some s.mode
  | 0x0018 => some s.clkStat
  | 0x001C => some s.supStat
  | 0x0020 => some s.tags
  | 0x0024 => some s.dlStat
  | 0x0028 => some s.cartLevel
  | 0x0040 => some c.cartsDiscarded
  | 0x0044 => some c.returnBadCrc
  | 0x0048 => some c.fifoOverflows
  | 0x004C => some c.parityRepairs
  | 0x0050 => some c.lockstepRepairs
  | 0x0054 => some c.violations
  | 0x0058 => some c.bellsDropped
  | 0x005C => some c.synSwitches
  | 0x0060 => some c.bellInEdges
  | 0x2400 => some c.corrected
  | 0x2404 => some c.uncorrected
  | 0x2408 => some c.scrubPasses
  | _ =>
    (tableWord c.mbxAccepted 0x0070 4 4 1 off).orElse fun _ =>
    (tableWord c.chan 0x0100 32 128 8 off).orElse fun _ =>
    (tableWord c.job 0x1100 16 128 4 off).orElse fun _ =>
    (tableWord c.map 0x1900 8 16 2 off).orElse fun _ =>
    (tableWord c.unit 0x1980 16 32 4 off).orElse fun _ =>
    (tableWord c.pin 0x1B80 4 4 1 off).orElse fun _ =>
    (tableWord c.region 0x1C00 32 64 5 off).orElse fun _ =>
    tableWord c.fport 0x2500 32 4 8 off

/-- The window before the first Bell since reset reads zero (R317). -/
def Snapshot.zero : Snapshot := ⟨0, 0#32, 0#5, 0#32, 0#32, 0#32, 0#32, 0#32, 0#32, 0#32, Counters.init⟩

def Bell.shown (b : Bell) : Snapshot := b.window.getD Snapshot.zero

/-- `BELL_CTL` as it reads (R326). -/
def Bell.ctl (b : Bell) : Word :=
  at_ 24 b.drops.toNat ||| at_ 16 b.shown.sources.toNat ||| bitAt 9 b.inEdge ||| bitAt 8 b.inEn ||| at_ 4 b.outSrc.toNat

/-! ### Ringing (R316) -/

def srcRing : BitVec 5 := 1#5
def srcBellIn : BitVec 5 := 2#5
def srcFabric : BitVec 5 := 4#5
def srcTrigger : BitVec 5 := 8#5
def srcSnap : BitVec 5 := 16#5

/-- Bells that fall on one tick are one Bell with every source. -/
def bellInsert (x : BellDue) : List BellDue → List BellDue
  | [] => [x]
  | y :: l =>
    if y.tick = x.tick then ⟨y.tick, y.sources ||| x.sources⟩ :: l
    else if x.tick < y.tick then x :: y :: l
    else y :: bellInsert x l

def Device.ringBell (tick : Nat) (sources : BitVec 5) (d : Device) : Device :=
  { d with bell := { d.bell with due := bellInsert ⟨tick, sources⟩ d.bell.due } }

/-- The first multiple of 16 at or after an instant. -/
def busUp (t : Nat) : Nat := (t + 15) / 16 * 16

end Sys2Proof.Machine
end

