-- ==== Sys2Proof/Machine/Lanes.lean ====
section
/-! DEFINITION. The words on the lanes: 64b/66b blocks and their scramblers (R227), the stripe and its markers (R228, R229), parity (R230), and the frames of the return lane (R233). -/

namespace Sys2Proof.Machine

/-! ### Blocks (R227) -/

/-- One bit through x^58 + x^39 + 1: the scrambled bit, and the register with it as its newest. -/
def scrambleBit (s : BitVec 58) (b : Bool) : Bool × BitVec 58 :=
  let x := b ^^ (s.getLsbD 38 ^^ s.getLsbD 57)
  (x, (s <<< 1) ||| (if x then 1#58 else 0#58))

/-- The payload of a data block, bit 0 first, and the register after it. -/
def scrambleWord (s : BitVec 58) (w : BitVec 64) : BitVec 64 × BitVec 58 :=
  forNat 64 (fun i x =>
    let y := scrambleBit x.2 (w.getLsbD i)
    (if y.1 then x.1 ||| (1#64 <<< i) else x.1, y.2)) (0#64, s)

/-- A block as it leaves, bit 0 first: sync header, then payload. -/
def blockOf (sync : BitVec 2) (payload : BitVec 64) : BitVec 66 := payload ++ sync
def syncData : BitVec 2 := 0b01#2
def syncControl : BitVec 2 := 0b10#2

/-- A lane is held in electrical idle: it has failed, and a marker has acted on that (R231). -/
def PortSt.idle (p : PortSt) (lane : Nat) : Bool := p.failed.getLsbD lane && !(p.failing.contains lane)

/-- A data block on a physical lane, through its own scrambler. [log 181 DESIGN CHOICE] -/
def PortSt.dataBlock (lane : Nat) (w : BitVec 64) (p : PortSt) : PortSt :=
  if p.idle lane then p
  else
    let x := scrambleWord (tget 0#58 p.scramble lane) w
    { p with scramble := tput 0#58 p.scramble lane x.2, blocks := p.blocks ++ [(lane, blockOf syncData x.1)] }

/-- A marker on a physical lane: unscrambled, past the scrambler. [log 181 DESIGN CHOICE] -/
def PortSt.controlBlock (lane : Nat) (payload : List Byte) (p : PortSt) : PortSt :=
  if p.idle lane then p
  else { p with blocks := p.blocks ++ [(lane, blockOf syncControl (BitVec.ofNat 64 (ofLe payload)))] }

/-! ### The stripe (R229, R230) -/

/-- The physical lane that carries a logical lane now (R231). -/
def PortSt.physical (p : PortSt) (logical : Nat) : Nat := if p.spareFor.toNat = logical then 8 else logical

/-- Words in pairs, the lower-offset one in bits [31:0]; an odd last one has a zero pad word. -/
def stripePairs : List Word → List (BitVec 64)
  | [] => []
  | [a] => [0#32 ++ a]
  | a :: b :: l => (b ++ a) :: stripePairs l

/-- The stripe words of a cart. -/
def cartStripe (c : Cart) : List (BitVec 64) := stripePairs (cartWords c)

def xorWords (l : List (BitVec 64)) : BitVec 64 := l.foldl (· ^^^ ·) 0#64

/-- The next stripe word: word k on logical lane k mod N, and parity once the block index is complete. -/
def PortSt.stripeWord (w : BitVec 64) (p : PortSt) : PortSt :=
  let p := p.dataBlock (p.physical p.row.length) w
  let row := p.row ++ [w]
  let p := { p with stripe := p.stripe + 1, row := row }
  if row.length < p.lanes then p
  else
    let p := if p.parity then p.dataBlock 8 (xorWords row) else p
    { p with row := [] }

/-- Blocks between two markers. -/
def markerBlocks : Nat := 16383

/-- Stripe words between two markers. -/
def PortSt.interval (p : PortSt) : Nat := markerBlocks * p.lanes

/-- A cart's words go on the stripe, up to the next marker; the others follow it. -/
def PortSt.sendWords (ws : List (BitVec 64)) (p : PortSt) : PortSt :=
  let p := { p with blocks := [] }
  if p.carry ≠ [] then { p with carry := p.carry ++ ws }
  else
    let room := p.interval - p.stripe
    let p := (ws.take room).foldl (fun p w => p.stripeWord w) p
    { p with carry := ws.drop room, carryPtr := if room = 0 then 0 else (ws.drop room).length }

/-- PTR of the marker that comes next (R228): stripe words from it to the first cart that begins at or after it. -/
def PortSt.ptr (p : PortSt) : Nat := if p.stopping ∨ p.interval ≤ p.carryPtr then 0xFFFF else p.carryPtr

/-- The payload of a marker on a physical lane (R228). -/
def PortSt.markerBytes (p : PortSt) (lane ptr : Nat) : List Byte :=
  let logical := if lane = 8 then p.spareFor.toNat else lane
  let b := [BitVec.ofNat 8 0xE1, BitVec.ofNat 8 (lane + 16 * logical), BitVec.ofNat 8 (laneCode p.lanes), p.mapGen] ++ leBytes 2 ptr ++ [p.markerCount]
  b ++ [crc8 b]

/-- A marker on every lane in use, the spare included, and then the words that it has cut off. -/
def PortSt.sendMarker (ptr : Nat) (p : PortSt) : PortSt :=
  let lanes := (List.range p.lanes).filter (fun l => p.spareFor.toNat != l) ++ [8]
  let p := lanes.foldl (fun p l => p.controlBlock l (p.markerBytes l ptr)) { p with blocks := [], stripe := 0, row := [] }
  if p.stopping then { p with carry := [], carryPtr := 0 }
  else { p.carry.foldl (fun p w => p.stripeWord w) p with carry := [], carryPtr := 0 }

/-! ### Frames of the return lane (R233) -/

/-- A frame: its KIND and its payload. -/
structure LaneFrame where
  kind : Nat
  payload : List Byte
  deriving DecidableEq, Repr

/-- Bytes of header and payload of a frame: LEN counts words. -/
def laneBody (l : List Byte) : Nat := 16 + 4 * (u32 l 0 % 2 ^ 16)

/-- A frame has its trailer's CRC-32, over header and payload, and a pad word when LEN is even. -/
def laneCrcOk (l : List Byte) : Bool :=
  let n := laneBody l
  l.length == n + (if n / 4 % 2 = 0 then 8 else 4) && BitVec.ofNat 32 (u32 l n) == crc32 (l.take n)

/-- A frame that is sound and of version 1. -/
def laneFrame (l : List Byte) : Option LaneFrame :=
  if laneCrcOk l && decide (u32 l 0 / 2 ^ 28 = 1) then
    some ⟨u32 l 0 / 2 ^ 24 % 16, (l.take (laneBody l)).drop 16⟩
  else none

/-- A HEALTH payload. -/
def healthOf (l : List Byte) : Health :=
  ⟨BitVec.ofNat 16 (u16 l 0), BitVec.ofNat 16 (u16 l 2), BitVec.ofNat 16 (u16 l 4), BitVec.ofNat 16 (u16 l 6), l.getD 8 0#8⟩

end Sys2Proof.Machine
end

