-- ==== Sys2Proof/Machine/Requests.lean ====
section
/-! DEFINITION. How the firmware takes a request: the table of R356, the checks of R333 in their order, repeated frames (R340), the session timer (R343) and the way from a request's source to its answer. -/

namespace Sys2Proof.Machine

/-! ### The table of R356 -/

def allModes : Nat := 0xFC

/-- The modes a known command is permitted in, one bit for each mode code; none for an unknown code. -/
def cmdModes : Nat → Option Nat
  | 0x0101 => some allModes
  | 0x0102 => some allModes
  | 0x0103 => some allModes
  | 0x0104 => some allModes
  | 0x0201 => some 0x6C
  | 0x0202 => some 0x6C
  | 0x0203 => some 0x6C
  | 0x0204 => some allModes
  | 0x0301 => some 0x6C
  | 0x0302 => some allModes
  | 0x0303 => some 0x6C
  | 0x0401 => some 0x6C
  | 0x0402 => some allModes
  | 0x0403 => some 0x6C
  | 0x0501 => some 0x6C
  | 0x0502 => some allModes
  | 0x0503 => some 0x2C
  | 0x0601 => some 0x4C
  | 0x0602 => some allModes
  | 0x0603 => some 0x6C
  | 0x0604 => some 0x6C
  | 0x0605 => some 0x6C
  | 0x0606 => some 0x6C
  | 0x0607 => some 0x6C
  | 0x0608 => some 0x6C
  | 0x0701 => some 0x4C
  | 0x0702 => some allModes
  | 0x0703 => some 0x4C
  | 0x0704 => some 0x6C
  | 0x0801 => some 0x4C
  | 0x0802 => some allModes
  | 0x0803 => some 0x08
  | 0x0901 => some 0x20
  | 0x0902 => some 0x20
  | 0x0903 => some 0x20
  | 0x0904 => some 0x20
  | 0x0905 => some allModes
  | 0x0906 => some 0x6C
  | 0x0A01 => some 0x44
  | 0x0A02 => some allModes
  | 0x0A03 => some 0x6C
  | 0x0A04 => some allModes
  | 0x0A05 => some 0x7C
  | 0x0B01 => some allModes
  | 0x0B02 => some 0x7C
  | 0x0B03 => some allModes
  | 0x0B04 => some 0x7C
  | 0x0B05 => some 0x7C
  | 0x0C01 => some allModes
  | 0x0C02 => some allModes
  | 0x0C03 => some 0x0C
  | 0x0C04 => some allModes
  | 0x0D01 => some 0x40
  | 0x0D02 => some 0x40
  | 0x0D03 => some allModes
  | 0x0E01 => some 0x4C
  | 0x0E02 => some 0x44
  | 0x0E03 => some allModes
  | _ => none

/-- The commands session 0 may use (R342). -/
def sessionFree : List Nat :=
  [0x0101, 0x0104, 0x0302, 0x0402, 0x0502, 0x0602, 0x0702, 0x0802, 0x0204, 0x0A02, 0x0A04, 0x0C02, 0x0C04, 0x0E03,
   0x0B01, 0x0B03, 0x0905, 0x0D03]

/-- The twelve staging commands (R345). -/
def stagingCodes : List Nat :=
  [0x0301, 0x0303, 0x0401, 0x0501, 0x0601, 0x0603, 0x0607, 0x0608, 0x0701, 0x0703, 0x0801, 0x0906]

/-- A set lock covers the command (R312). -/
def Device.lockCovers (code : Nat) (d : Device) : Bool :=
  (d.regs.lockDbg && code == 0x0D02) ||
  (d.regs.lockCal && [0x0901, 0x0903, 0x0503].contains code) ||
  (d.regs.lockFw && [0x0E01, 0x0E02].contains code)

/-- What the boot ROM's responder answers itself (R405). [log 185 DESIGN CHOICE] -/
def responderCodes : List Nat := [0x0101, 0x0102, 0x0103, 0x0104, 0x0C02, 0x0E03, 0x0C04, 0x0D03]

/-- The mailboxes are served by the responder in the boot ROM (R405). -/
def Device.halted (d : Device) : Bool := d.pw.mode = .safe && d.pw.stage == 0xE0

/-! ### Requests -/

/-- A request as it arrives: its bytes and whether its size agrees with its LENGTH field (R333 step 1). -/
structure Raw where
  via : Via
  bytes : List Byte
  sized : Bool
  /-- the epoch in which it arrived (R347) -/
  epoch : Nat
  deriving DecidableEq, Repr

/-- [log 52 DEDUCED] -/
def Raw.length (r : Raw) : Nat := u16 r.bytes 0
def Raw.code (r : Raw) : Nat := u16 r.bytes 2
def Raw.tag (r : Raw) : Word := BitVec.ofNat 32 (u32 r.bytes 4)
/-- [log 54 DEDUCED] -/
def Raw.session (r : Raw) : Nat := u16 r.bytes 8
def Raw.flags (r : Raw) : Nat := u16 r.bytes 10
def Raw.txn (r : Raw) : Nat := u32 r.bytes 12

/-- The request in mailbox m's buffer. -/
def State.rawMailbox (m : Nat) (s : State) : Raw :=
  let b := s.mailbox m
  let bytes := tgetList 0#8 b.request 0 1024
  ⟨.mailbox m, bytes, u16 bytes 0 + 16 == b.reqLen.toNat && decide (u16 bytes 0 ≤ 1008), b.epoch⟩

/-- A frame's request: its payload is padded to a whole word (R338). [log 52 DEDUCED] -/
def rawFrame (via : Via) (frame : List Byte) (epoch : Nat) : Raw :=
  ⟨via, frame, (u16 frame 0 + 16 + 3) / 4 * 4 == frame.length && decide (u16 frame 0 ≤ 1008), epoch⟩

/-- The transport of R341 that carries a request. [log 54 DEDUCED] -/
def Via.transport : Via → Nat
  | .mailbox _ => 0
  | .returnLane => 1
  | .fabric _ => 2

/-- The open session a request names, on its own transport (R333 step 4, R341). [log 54 DEDUCED] -/
def Device.sessionOf (r : Raw) (d : Device) : Option Session :=
  match d.session? r.session with
  | some x => if x.transport = r.via.transport then some x else none
  | none => none

def Raw.req (r : Raw) (d : Device) : Req :=
  ⟨r.via, r.code, r.tag, r.session, r.txn, (r.bytes.drop 16).take r.length, ((d.sessionOf r).map (·.serial)).getD 0, r.epoch⟩

/-- R395: the linked transaction a fabric session's TXN names: those of its partner come first. -/
def Device.linkedTxn (x : Session) (id : Nat) (d : Device) : Option Txn :=
  if x.transport = 2 then d.fw.txns.find? fun t => t.id == id && decide (t.coord = some x.peer) else none

/-- The open transaction a TXN field names for a session and a command (R333 step 5, R395). Of a linked transaction in doubt only `txn.abort` may speak (R397). -/
def Device.openTxn (code session id : Nat) (d : Device) : Option Txn :=
  match d.session? session with
  | none => none
  | some x =>
    match d.linkedTxn x id with
    | some t =>
      if t.state = .open_ ∧ t.prepared = false ∨ t.state = .inDoubt ∧ code = 0x0203 then some t else none
    | none =>
      d.fw.txns.find? fun t =>
        t.id == id && t.session == session && t.coord.isNone && !t.prepared && decide (t.state = .open_ ∨ t.state = .waiting)

/-- The configuration a query sees: that of the transaction named, if accepted alone now, else the live one (R346). -/
def Device.cfgSeen (r : Req) (d : Device) : Cfg :=
  if r.txn = 0 then d.fw.live
  else
    match d.openTxn r.code r.session r.txn with
    | some t => (applyItems t.items d.fw.live).withStored d.gran.regions
    | none => d.fw.live

/-- R333 steps 1 to 7: the first failure; of a known command that the boot ROM's responder does not serve, its answer (R405). -/
def Device.headerFails (r : Raw) (d : Device) : Option (BitVec 16) :=
  if !r.sized then some stBadLength
  else
    match cmdModes r.code with
    | none => some stBadCommand
    | some modes =>
      if d.halted && !(responderCodes.contains r.code) then some (if r.code = 0x0C01 then stDenied else stInternal)
      else if r.flags ≠ 0 then some stBadField
      else if (if r.session = 0 then !(sessionFree.contains r.code) else (d.sessionOf r).isNone) then some stNoSession
      else if r.txn ≠ 0 && (d.openTxn r.code r.session r.txn).isNone then some stTxnStale
      else if !(hasBitOf modes d.pw.mode.code) then some stWrongMode
      else if d.lockCovers r.code then some stLocked
      else none
where
  hasBitOf (x k : Nat) : Bool := x / 2 ^ k % 2 == 1

/-- The staging response (R357). -/
def stagingAnswer (status : BitVec 16) (staged items failed : Nat) : Ans :=
  ⟨status, leBytes 4 staged ++ leBytes 2 items ++ leBytes 2 failed, none⟩

/-- The items of the open transaction a header names. -/
def Device.itemCount (code session txn : Nat) (d : Device) : Nat :=
  match d.openTxn code session txn with
  | some t => t.items.length
  | none => 0

/-- A refusal without the command: a staging command still gets its staging response (R357). -/
def Device.refusal (code session txn : Nat) (st : BitVec 16) (d : Device) : Ans :=
  if stagingCodes.contains code then stagingAnswer st 0 (d.itemCount code session txn) 0xFFFF else Ans.st st

/-- R343: every request naming an open session restarts its timer. -/
def Device.touchSession (r : Raw) (d : Device) : Device :=
  match d.sessionOf r with
  | none => d
  | some x => d.setSession x.id fun y => { y with deadline := d.clk.time + y.keepalive * Config.epochTicks }

/-! ### Handlers -/

/-- What a command does once its header has passed: the answer (none: it comes later) and the device after it. -/
abbrev Handler := Req → Device → Option Ans × Device

/-- Answer without an effect. -/
def refuse (st : BitVec 16) (d : Device) : Option Ans × Device := (some (Ans.st st), d)

/-- Refuse when a check fails, else go on. -/
def require (ok : Bool) (st : BitVec 16) (d : Device) (k : Option Ans × Device) : Option Ans × Device :=
  if ok then k else refuse st d

/-- R354: a request whose payload must have a fixed length. -/
def sizedTo (n : Nat) (h : Handler) : Handler := fun r d =>
  if r.body.length = n then h r d else refuse stBadLength d

/-- Accept a long command (R337): refused while the session's queue and running long commands number 16. [log 51 DEDUCED] -/
def acceptLong (r : Req) (d : Device) (k : Device → Device) : Option Ans × Device :=
  if d.longFull r.session then refuse stDenied d
  else (some (Ans.st stAccepted), k (d.startLong r.session))

/-- Deliver what a handler answers, or keep the mailbox for a later answer. -/
def State.deliver (r : Req) (a : Option Ans × Device) (s : State) : State :=
  match a.1 with
  | some x => { s with dev := a.2 }.respond r.via r.session r.tag x
  | none =>
    match r.via with
    | .mailbox m => { s with dev := a.2 }.setMailbox m fun b => { b with taken := true }
    | _ => { s with dev := a.2 }

/-- The mailbox of a request whose answer is still to come (R347, R349, R387, R395). -/
def Device.awaits (m : Nat) (d : Device) : Bool :=
  (d.fw.deciding.any fun x => x.answers.any fun y => decide (y.1.via = .mailbox m)) || d.fw.txns.any fun t =>
    decide (t.state = .waiting ∨ t.state = .aborted ∨ (t.state = .open_ ∧ t.fabric = true)) &&
      (match t.waiter with
       | some w => decide (w.via = .mailbox m)
       | none => false)

/-- A request that will be answered to no one frees its mailbox (R343). -/
def State.settleMailboxes (s : State) : State :=
  forNat 4 (fun m s =>
    if (s.mailbox m).taken && !(s.dev.awaits m) then
      s.setMailbox m fun b => { b with taken := false, reqBusy := false }
    else s) s

/-- Check the header and run a command. -/
def State.execute (h : Handler) (r : Raw) (s : State) : State :=
  let d := s.dev.touchSession r
  let s := { s with dev := d }
  match d.headerFails r with
  | some st => s.respond r.via r.session r.tag (d.refusal r.code r.session r.txn st)
  | none => (s.deliver (r.req d) (h (r.req d) d)).settleMailboxes

/-! ### Frames (R338 to R340) -/

/-- Whether frames of a transport are taken now: the return lane in lock, never in SAFE or HEARTH (R339, R407), and within R339's limit. [log 53 DEDUCED] -/
def Device.takesFrames (via : Via) (d : Device) : Bool :=
  d.pw.booted &&
  (match via with
   | .returnLane => d.port.rxEnable && d.port.rxLock && decide (d.pw.mode ≠ .safe) && decide (d.pw.mode ≠ .hearth) && d.canMessage via
   | .fabric peer => decide (d.fab.address ≠ 0) && decide (peer ≠ d.fab.address)
   | .mailbox _ => false)

/-- The request that a return-lane frame carries: the payload of KIND 0x2; another frame carries none (R233, R338). -/
def laneRequest (frame : List Byte) : List Byte :=
  match laneFrame frame with
  | some x => if x.kind = 2 then x.payload else []
  | none => []

/-- R340: remember a request's tag among the session's last 16. -/
def Device.rememberTag (r : Raw) (d : Device) : Device :=
  match d.sessionOf r with
  | none => d
  | some x =>
    d.setSession x.id fun y =>
      { y with remembered := (y.remembered ++ [(r.tag, none)]).drop (y.remembered.length + 1 - 16) }

/-- A frame's request: a repeated tag is answered again or dropped, another is executed. -/
def State.executeFrame (h : Handler) (r : Raw) (s : State) : State :=
  match (s.dev.sessionOf r).bind fun x => x.remembered.find? (·.1 == r.tag) with
  | some (_, some bytes) => { s with dev := (s.dev.touchSession r).sendMessage r.via bytes }
  | some (_, none) => { s with dev := s.dev.touchSession r }
  | none => { s with dev := s.dev.rememberTag r }.execute h r

/-- The requests that stand, by their places: those of mailboxes, and frames that can still be taken (R336). -/
def State.standing (s : State) : List Nat :=
  (((List.range 4).filter fun k => (s.mailbox k).reqBusy && !(s.mailbox k).taken).map fun k => (s.mailbox k).arrived)
    ++ ((s.dev.fw.frames.filter fun f => s.dev.takesFrames f.via).map (·.arrived))

/-- R336: no request that stands has an earlier place. [log 225 DEDUCED] -/
def State.turn (place : Nat) (s : State) : Bool := s.standing.all fun k => decide (place ≤ k)

/-- R336: the request of mailbox m is the next. -/
def State.oldest (m : Nat) (s : State) : Bool := s.turn (s.mailbox m).arrived

/-- The command meets a fault of the firmware's own: no effect, and an entry in the log (R355). [log 185 DESIGN CHOICE] -/
def internalFault : Handler := fun r d => (some (d.refusal r.code r.session r.txn stInternal), d.logPut 9 [r.code])

/-- R336: a frame's rank among requests of one BUS cycle. -/
def Via.rank : Via → Nat
  | .mailbox m => m
  | .returnLane => 4
  | .fabric _ => 5

/-- A frame that waited is taken. -/
def State.dropFrame (f : FrameWait) (s : State) : State :=
  { s with dev := { s.dev with fw := { s.dev.fw with frames := s.dev.fw.frames.erase f } } }

/-- A firmware command whose request comes in a frame: it is executed at once when it is its turn; else it waits for its turn, and is executed when its row comes again (R336). [log 225 DEDUCED] -/
def State.frameRow (code : Nat) (h : Handler) (via : Via) (bytes : List Byte) (s : State) : State :=
  let r := rawFrame via bytes s.dev.epoch
  if !(s.dev.takesFrames via && !bytes.isEmpty && (r.code == code || (cmdModes r.code).isNone)) then s
  else
    match s.dev.fw.frames.find? fun f => decide (f.via = via) && f.bytes == bytes with
    | some f =>
      if s.dev.serves && s.turn f.arrived then
        (s.dropFrame f).executeFrame h (rawFrame via bytes f.epoch)
      else s
    | none =>
      if s.dev.serves && s.standing.isEmpty then s.executeFrame h r
      else
        let x := s.dev.arrive via.rank
        { s with dev := { x.2 with fw := { x.2.fw with frames := x.2.fw.frames ++ [⟨via, bytes, x.1, s.dev.epoch⟩] } } }

/-- A firmware command of the table: the request is taken from its source when that source holds a request for it and it is its turn. A request with an unknown code is answered by any of them. -/
def fwRow (code : Nat) (h : Handler) (src : ReqSource) (s : State) : Host.Outcome State Fault Refusal :=
  match src with
  | .mailbox m =>
    let b := s.mailbox m.val
    let r := s.rawMailbox m.val
    if s.dev.serves && b.reqBusy && !b.taken && s.oldest m.val && (r.code == code || (cmdModes r.code).isNone) then .next (s.execute h r)
    else .next s
  | .returnLane frame => .next (s.frameRow code h .returnLane (laneRequest frame))
  | .fabric peer frame => .next (s.frameRow code h (.fabric peer) frame)
  | .faulted src => fwRow code internalFault src s

end Sys2Proof.Machine
end

