-- ==== Sys2Proof/Machine/Sessions.lean ====
section
/-! DEFINITION. Sessions and transactions as the firmware's commands open, report and close them (R341 to R345, R350, R358 to R360, R395). -/

namespace Sys2Proof.Machine

/-! ### Transactions as entries -/

/-- Change the transaction of a key: its coordinator (none for one of this device) and its id. -/
def Device.setTxn (coord : Option Nat) (id : Nat) (f : Txn → Txn) (d : Device) : Device :=
  { d with fw := { d.fw with txns := d.fw.txns.map fun t => if t.coord = coord ∧ t.id = id then f t else t } }

/-- Keep the last 16 closed transactions of each session (R350); a linked transaction counts under its coordinator. -/
def trimClosed (s : Nat) (c : Option Nat) (l : List Txn) : List Txn :=
  let mine := l.filter fun t => t.session = s ∧ t.coord = c
  if mine.length ≤ 16 then l
  else
    match mine with
    | [] => l
    | t :: _ => l.filter fun u => !(u.session == t.session && decide (u.coord = t.coord) && u.id == t.id)

/-- A transaction leaves the open ones, with its last state. -/
def Device.retire (t : Txn) (d : Device) : Device :=
  { d with fw := { d.fw with
      txns := d.fw.txns.filter fun u => !(decide (u.coord = t.coord) && u.id == t.id),
      closed := trimClosed t.session t.coord (d.fw.closed ++ [t]) } }

/-- A transaction that its acceptance has closed leaves those that wait, and its report shows its last state (R347, R350). -/
def Device.settleTxn (st : TxnState) (t : Txn) (d : Device) : Device :=
  let same (u : Txn) : Bool := decide (u.coord = t.coord) && u.id == t.id
  { d with fw := { d.fw with
      txns := d.fw.txns.filter fun u => !same u,
      closed := d.fw.closed.map fun u => if same u then { u with state := st } else u } }

/-- Frames to every participant of a fabric transaction. -/
def Device.toParts (t : Txn) (f : Nat → OutFrame) (d : Device) : Device :=
  forList t.parts (fun p d => d.send (f p.addr)) d

/-- A coordinator's decision: told to every participant, and remembered until each has acknowledged (R396). -/
def Device.announce (t : Txn) (commit closed : Bool) (d : Device) : Device :=
  let d := d.toParts t fun a => .decision a d.fab.address t.id commit closed
  let x : Decided := ⟨none, t.id, commit, closed, d.epoch, t.parts.map (·.addr)⟩
  { d with fw := { d.fw with decided := (d.fw.decided.filter fun y => !(y.coord.isNone && y.txn == t.id)) ++ [x] } }

/-- Abort a transaction: its items are discarded, and every linked one is aborted too (R350, R395). [log 59 DEDUCED] -/
def Device.abortTxn (t : Txn) (d : Device) : Device :=
  let d := if t.fabric && t.coord.isNone then d.announce t false true else d
  d.retire { t with state := .aborted, items := [], waiter := none }

/-! ### Sessions -/

/-- [log 86 DESIGN CHOICE] -/
def sessionIds : List Nat := (List.range 16).map (· + 1)

/-- The ids no session holds. [log 86 DESIGN CHOICE] -/
def Device.freeIds (d : Device) : List Nat := sessionIds.filter fun i => (d.session? i).isNone

def sessionInsert (x : Session) : List Session → List Session
  | [] => [x]
  | y :: l => if x.id < y.id then x :: y :: l else y :: sessionInsert x l

/-- R341, R358. Which free id a session gets is not stated: a free value. [log 86 DESIGN CHOICE] -/
def sessionOpen : Handler := sizedTo 20 fun r d =>
  let mbx := u8 r.body 0
  let keep := u16 r.body 2
  let own := match r.via with
    | .mailbox m => if mbx = 0xFF then some m else if mbx ≤ 3 then some mbx else none
    | _ => if mbx = 0xFF then some 0xFF else none
  let peer := match r.via with
    | .fabric p => p
    | _ => 0
  match own with
  | none => refuse stBadField d
  | some m =>
    require (u8 r.body 1 == 0 && (keep == 0 || (decide (100 ≤ keep) && decide (keep ≤ 60000)))) stBadField d <|
    match d.freeIds with
    | [] => refuse stDenied d
    | i :: is =>
      let ids := i :: is
      let id := ids.getD (Config.freeNat d.free % ids.length) i
      let k := if keep = 0 then 10000 else keep
      let x : Session := ⟨id, r.via.transport, m, peer, k, d.clk.time + k * Config.epochTicks, r.body.drop 4, [], 0, [], d.fw.opened⟩
      (some (Ans.ok (leBytes 2 id ++ byteOf m ++ zeros 1 ++ leBytes 4 k)),
        { d with fw := { d.fw with sessions := sessionInsert x d.fw.sessions, opened := d.fw.opened + 1 }, free := d.free + 1 })

/-- R343: what closing a session does. -/
def Device.closeSession (id : Nat) (d : Device) : Device :=
  let gone := d.fw.txns.filter fun t => t.session = id ∧ t.coord = none ∧ !t.prepared ∧ (t.state = .open_ ∨ t.state = .waiting)
  let d := forList gone Device.abortTxn d
  { d with fw := { d.fw with sessions := d.fw.sessions.filter fun x => x.id != id } }

def sessionClose : Handler := sizedTo 0 fun r d => (some (Ans.ok []), d.closeSession r.session)

/-- R343: the request itself has restarted the timer. -/
def sessionKeepalive : Handler := sizedTo 0 fun _ d => (some (Ans.ok []), d)

/-- Open transactions of a session: a fabric one stays open until its COMMIT is decided (R344, R398). -/
def Device.openCount (id : Nat) (d : Device) : Nat :=
  (d.fw.txns.filter fun t => t.session = id ∧ t.coord = none ∧ t.decision ≠ some true ∧ (t.state = .open_ ∨ t.state = .waiting)).length

/-- [log 48 DEDUCED] -/
def Device.sessionEntry (x : Session) (d : Device) : List Byte :=
  leBytes 2 x.id ++ byteOf x.transport ++ byteOf x.mbx ++ leBytes 2 x.peer ++ byteOf (d.openCount x.id)
    ++ byteOf x.queue.length ++ leBytes 4 x.keepalive
    ++ leBytes 4 (ceilDiv (x.deadline - d.clk.time) Config.epochTicks) ++ zeros 4 ++ x.label.take 12

def sessionList : Handler := sizedTo 0 fun _ d =>
  (some (Ans.ok (leBytes 4 d.fw.sessions.length ++ d.fw.sessions.flatMap fun x => d.sessionEntry x)), d)

/-! ### Transactions -/

def addrsOf (l : List Byte) (off : Nat) : Nat → List Nat
  | 0 => []
  | n + 1 => u16 l off :: addrsOf l (off + 2) n

def noRepeat : List Nat → Bool
  | [] => true
  | a :: l => !(l.contains a) && noRepeat l

/-- A partner is reachable when it is a member of this device's Commons. -/
def Device.reaches (a : Nat) (d : Device) : Bool := d.fab.members.any (·.addr == a)

/-- A new transaction takes the next id and ticket (R344). [log 49 DEDUCED] -/
def Device.newTxn (r : Req) (parts : List Nat) (d : Device) : Txn :=
  { id := d.fw.nextTxn, session := r.session, coord := none, ticket := d.fw.tickets + 1, fabric := !parts.isEmpty,
    items := [], state := .open_, effect := 0, tag := 0#16, parts := parts.map fun a => ⟨a, false, none, false⟩,
    target := 0, decision := none, prepared := false, waiter := if parts.isEmpty then none else some r.waiter,
    arrived := d.epoch, doubtEnd := none, closing := false }

/-- The answer to a txn.begin that has opened its transaction. [log 49 DEDUCED] -/
def Txn.begun (t : Txn) : Ans := Ans.ok (leBytes 4 t.id ++ leBytes 8 t.ticket)

def Device.addTxn (t : Txn) (d : Device) : Device :=
  { d with fw := { d.fw with txns := d.fw.txns ++ [t], nextTxn := d.fw.nextTxn + 1, tickets := d.fw.tickets + 1 } }

/-- R344, R359, R395. -/
def txnBegin : Handler := fun r d =>
  let scope := u8 r.body 0
  let n := u16 r.body 2
  let parts := addrsOf r.body 4 n
  require (decide (4 ≤ r.body.length) && r.body.length == 4 + 2 * n) stBadLength d <|
  require (decide (scope ≤ 1) && u8 r.body 1 == 0 &&
      (if scope = 0 then n == 0
       else decide (1 ≤ n) && decide (n ≤ 64) && noRepeat parts
         && parts.all fun a => decide (1 ≤ a) && decide (a ≤ 0xFFE))) stBadField d <|
  require (decide (d.openCount r.session < 4)) stTxnLimit d <|
  require (parts.all d.reaches) stBadField d <|
  let t := d.newTxn r parts
  let d := d.addTxn t
  if scope = 0 then (some t.begun, d) else (none, d.toParts t fun a => .txnOpen a t.id t.ticket parts)

/-- R350; of a linked transaction in doubt, the host ends the doubt at the next boundary and keeps the configuration (R397). A commit that still waits is answered when its batch is decided. [log 50 DEDUCED] -/
def txnAbort : Handler := sizedTo 0 fun r d =>
  match d.openTxn r.code r.session r.txn with
  | none => refuse stTxnStale d
  | some t =>
    if t.state = .inDoubt then
      (some (Ans.ok []), d.setTxn t.coord t.id fun t =>
        { t with decision := some false, doubtEnd := some (d.epoch + 1), closing := true })
    else if t.state = .waiting then
      let d := if t.fabric then d.announce t false true else d
      (some (Ans.ok []), d.setTxn t.coord t.id fun t => { t with state := .aborted, items := [] })
    else (some (Ans.ok []), d.abortTxn t)

def TxnState.code : TxnState → Nat
  | .open_ => 0
  | .waiting => 0
  | .accepted => 1
  | .effective => 2
  | .aborted => 3
  | .inDoubt => 4

def Device.skewCode (d : Device) : Nat := if d.fw.skew = 0 then 0 else 1

/-- R360. -/
def Device.statusReport (t : Txn) (d : Device) : List Byte :=
  byteOf t.state.code ++ byteOf (bit01 (t.fabric || t.coord.isSome)) ++ leBytes 2 t.items.length ++ leBytes 8 t.ticket
    ++ ep32 t.effect ++ leBytes 2 t.tag.toNat ++ byteOf d.skewCode ++ zeros 1

/-- The transaction `txn.status` speaks of: a session's own or linked ones, any for session 0 (R342, R395). -/
def Device.reported (session id : Nat) (d : Device) : Option Txn :=
  let all := (d.fw.txns.filter fun t => decide (t.state ≠ .accepted)) ++ d.fw.closed
  let own := all.find? fun t => t.id == id && t.coord.isNone && (session == 0 || t.session == session)
  match d.session? session with
  | some x =>
    if x.transport = 2 then
      (all.find? fun t => t.id == id && decide (t.coord = some x.peer)).orElse fun _ => own
    else own
  | none => own.orElse fun _ => all.find? fun t => t.id == id

def txnStatus : Handler := sizedTo 4 fun r d =>
  let id := u32 r.body 0
  if id = 0 then (some (Ans.ok (byteOf 0xFF ++ zeros 17 ++ byteOf d.skewCode ++ zeros 1)), d)
  else
    match d.reported r.session id with
    | none => refuse stTxnStale d
    | some t => (some (Ans.ok (d.statusReport t)), d)

/-- The target epoch a FABRIC commit names (R396). -/
def commitTarget (now v : Nat) : Option Nat :=
  if v = 0 then some (now + 8)
  else
    match epochNamed now v with
    | some t => if now + 8 ≤ t ∧ t ≤ now + 1000 then some t else none
    | none => none

/-- R347, R360, R396: the commit waits for the batch of the epoch in which its request arrived; one with no items closes at once. [log 50 DEDUCED, 59 DEDUCED] -/
def txnCommit : Handler := sizedTo 4 fun r d =>
  let v := u32 r.body 0
  match d.openTxn r.code r.session r.txn with
  | none => refuse (if r.txn = 0 then stBadField else stTxnStale) d
  | some t =>
    require t.coord.isNone stBadField d <|
    require (decide (t.state = .open_)) stDenied d <|
    if t.fabric then
      match commitTarget d.epoch v with
      | none => refuse stBadField d
      | some target =>
        require (!d.longFull r.session) stDenied d
          (none, d.setTxn none t.id fun t =>
            { t with state := .waiting, target := target, arrived := Min.min r.epoch d.epoch, waiter := some r.waiter })
    else
      require (v == 0) stBadField d <|
      if t.items = [] then
        (some (Ans.ok []), d.retire { t with state := .effective, effect := d.epoch, tag := d.fw.committed })
      else
        (none, d.setTxn none t.id fun t =>
          { t with state := .waiting, arrived := Min.min r.epoch d.epoch, waiter := some r.waiter })

/-! ### The rows -/

def execSessionOpen (src : ReqSource) (s : State) : Host.Outcome State Fault Refusal := fwRow 0x0101 sessionOpen src s
def execSessionClose (src : ReqSource) (s : State) : Host.Outcome State Fault Refusal := fwRow 0x0102 sessionClose src s
def execSessionKeepalive (src : ReqSource) (s : State) : Host.Outcome State Fault Refusal :=
  fwRow 0x0103 sessionKeepalive src s
def execSessionList (src : ReqSource) (s : State) : Host.Outcome State Fault Refusal := fwRow 0x0104 sessionList src s
def execTxnBegin (src : ReqSource) (s : State) : Host.Outcome State Fault Refusal := fwRow 0x0201 txnBegin src s
def execTxnCommit (src : ReqSource) (s : State) : Host.Outcome State Fault Refusal := fwRow 0x0202 txnCommit src s
def execTxnAbort (src : ReqSource) (s : State) : Host.Outcome State Fault Refusal := fwRow 0x0203 txnAbort src s
def execTxnStatus (src : ReqSource) (s : State) : Host.Outcome State Fault Refusal := fwRow 0x0204 txnStatus src s

end Sys2Proof.Machine
end

