-- ==== Sys2Proof/Machine/Plan.lean ====
section
/-! DEFINITION. The carrier plan: its rules, in binary64, and the PLAN_CLASH report (R40, R52, R56 to R59, R62, R69 to R74). -/

namespace Sys2Proof.Machine

/-- Carrier frequency in Hz (R52), rounded once. -/
def carrierHz (f : Nat) : F64 := F64.ofScaled ((f * 750000000 : Nat) : Int) (-48)

/-- Output rate of a point (R70). -/
def foutHz (d : Nat) : F64 := F64.ofFrac (Frac.mk' 62500000 d)

/-- Decimal constants of the plan rules in binary64. -/
def dec (num : Int) (den : Nat) : F64 := F64.ofFrac ⟨num, den⟩

/-- Passband and exclusion half-widths (R71). -/
def passWidth (c : PointCfg) : F64 :=
  F64.mul (if c.response = 1 then dec 1 10 else dec 4 10) (foutHz c.d)
def exclWidth (c : PointCfg) : F64 :=
  F64.mul (if c.response = 1 then F64.one else dec 6 10) (foutHz c.d)

/-- Chopper frequency in Hz: 0 for OFF (R40). -/
def fchHz (code : Nat) : Nat :=
  match code with
  | 1 => 187500
  | 2 => 375000
  | 3 => 750000
  | 4 => 1500000
  | 5 => 3000000
  | 6 => 6000000
  | _ => 0

/-- Shepherd band centre in Hz (R72). -/
def fshHz (code : Nat) : F64 :=
  match code with
  | 0 => dec 234375 10
  | 1 => dec 46875 1
  | 2 => dec 93750 1
  | _ => dec 468750 1

/-- A number of 10 mV, as binary64 holds it. -/
def tenMillivolts (n : Int) : F64 := F64.ofFrac (Frac.mk' n 100)

/-- R58: the planning reference from a measured VREF: rounded up to a multiple of 10 mV, times 1.02. A measurement that is binary64's value of a multiple is kept. [log 226 DEDUCED] -/
def vrefCheck (vref : F64) : F64 :=
  let v := (F64.val vref).frac
  let n := -((-(v.num * 100)) / (v.den : Int))
  F64.mul (if tenMillivolts (n - 1) = vref then vref else tenMillivolts n) (dec 102 100)

/-- Whether a point's drive pins include DA (pin 0) or DB (pin 1) (R56). -/
def drives (ch : ChanCfg) (c : PointCfg) (pin : Nat) : Bool :=
  match c.assign with
  | 0 => pin == 0 || (ch.mode == 2 && decide (1 ≤ ch.subform))
  | 1 => pin == 1
  | _ => true

/-- The assignment is one the mode allows (R56, R57). -/
def assignOk (ch : ChanCfg) (c : PointCfg) : Bool :=
  match ch.mode with
  | 2 => c.assign == 0
  | 3 => c.assign == 3
  | _ => decide (c.assign < 3)

/-- One PLAN_CLASH record (R74). -/
structure ClashRec where
  point : Nat
  rule : Nat
  order : Nat
  other : Nat
  chan : Nat
  required : F64
  actual : F64
  deriving DecidableEq, Repr

def F64.max (a b : F64) : F64 := if F64.le a b then b else a
def F64.absDiff (a b : F64) : F64 := F64.abs (F64.sub a b)

/-- The failing records of one enabled point, by rule (R73 but for HEADROOM, CHOP_OFF and SWAP_LIMIT). -/
def pointClashes (c : Cfg) (n : Nat) (ps : List Nat) (p : Nat) : List ClashRec :=
  let ch := c.chan n
  let x := c.point p
  let f := carrierHz x.f
  let w := exclWidth x
  let pw := passWidth x
  let r (rule order other : Nat) (req act : F64) : ClashRec := ⟨p, rule, order, other, n, req, act⟩
  let edge := (if F64.le w f then [] else [r 1 0 0xFFFF w f])
    ++ (if F64.le (F64.add f pw) (dec 25000000 1) then [] else [r 1 1 0xFFFF (F64.sub (dec 25000000 1) pw) f])
  let sep := ps.filterMap fun q =>
    if q ≤ p then none else
    let y := c.point q
    let need := F64.max (F64.add w (passWidth y)) (F64.add (exclWidth y) pw)
    let d := F64.absDiff f (carrierHz y.f)
    if F64.le need d then none else some (r 2 0 q need d)
  let share (q : Nat) : Bool :=
    (drives ch x 0 && drives ch (c.point q) 0) || (drives ch x 1 && drives ch (c.point q) 1)
  let harm := [2, 3, 4, 5].flatMap fun h => ps.filterMap fun q =>
    if !(share q) then none else
    let y := c.point q
    let need := F64.add w (F64.mul (F64.ofNat h) (passWidth y))
    let d := F64.absDiff f (F64.mul (F64.ofNat h) (carrierHz y.f))
    if F64.le need d then none else some (r 3 h q need d)
  let chop := if fchHz ch.fch = 0 then [] else (List.range 76).filterMap fun i =>
    let m := 2 * i + 1
    let need := F64.add w (dec 500 1)
    let d := F64.absDiff f (F64.mul (F64.ofNat m) (F64.ofNat (fchHz ch.fch)))
    if F64.le need d then none else some (r 4 m 0xFFFF need d)
  let fsh := fshHz (c.shep n).fsh
  let shep :=
    let need := F64.add w (dec 3000 1)
    let d := F64.absDiff f fsh
    if F64.le need d then [] else [r 5 0 0xFFFF need d]
  let asg := if assignOk ch x then [] else [r 8 0 0xFFFF F64.zero F64.zero]
  edge ++ sep ++ harm ++ chop ++ shep ++ asg

/-- Summed peak of a drive pin: volts, or amperes for current drive (R59). -/
def pinPeak (c : Cfg) (n : Nat) (ps : List Nat) (pin : Nat) (vref : F64) : F64 :=
  let ch := c.chan n
  (ps.filter fun p => drives ch (c.point p) pin).foldl
    (fun s p =>
      let v := F64.mul (F64.ofScaled ((c.point p).a : Nat) (-16)) vref
      F64.add s (if ch.mode = 2 then F64.div v (dec 500 1) else v)) F64.zero

/-- R59's limit of a drive pin. -/
def pinLimit (ch : ChanCfg) : F64 := if ch.mode = 2 then dec 1 100 else dec 225 100

def lowestF (c : Cfg) : List Nat → F64
  | [] => F64.zero
  | [p] => carrierHz (c.point p).f
  | p :: ps =>
    let m := lowestF c ps
    if F64.le (carrierHz (c.point p).f) m then carrierHz (c.point p).f else m

/-- HEADROOM, CHOP_OFF and SWAP_LIMIT records of a channel, each under the lowest-numbered point it names. -/
def chanClashes (c : Cfg) (n : Nat) (ps : List Nat) (vchk : F64) : List ClashRec :=
  let ch := c.chan n
  match ps with
  | [] => []
  | first :: _ =>
    let head := [0, 1].filterMap fun pin =>
      match ps.filter fun p => drives ch (c.point p) pin with
      | [] => none
      | p0 :: _ =>
        let s := pinPeak c n ps pin vchk
        if F64.le s (pinLimit ch) then none else some (⟨p0, 6, pin, 0xFFFF, n, pinLimit ch, s⟩ : ClashRec)
    let off :=
      if ch.fch = 0 ∧ ps.any (fun p => F64.le (carrierHz (c.point p).f) (dec 1000000 1)) = true then
        [(⟨first, 7, 0, 0xFFFF, n, dec 1000000 1, lowestF c ps⟩ : ClashRec)]
      else []
    let swap :=
      if ch.mode = 2 ∧ 1 ≤ ch.subform ∧
          (1 < ps.length ∨ ps.any (fun p => !(F64.le (carrierHz (c.point p).f) (dec 250000 1))) = true) then
        [(⟨first, 9, 0, 0xFFFF, n, F64.zero, F64.zero⟩ : ClashRec)]
      else []
    head ++ off ++ swap

/-- The failing records of a channel, ordered by point, then rule, then order, then other (R74). -/
def channelClashes (c : Cfg) (n : Nat) (vchk : F64) : List ClashRec :=
  if !(c.chanOn n) then [] else
  let ps := c.pointsOf n
  let ch := chanClashes c n ps vchk
  ps.flatMap fun p =>
    let mine := pointClashes c n ps p ++ ch.filter (·.point == p)
    (List.range 10).flatMap fun rule => mine.filter (·.rule == rule)

/-- The failing records of a range of channels (R69). -/
def planClashes (c : Cfg) (first count : Nat) (vref : F64) : List ClashRec :=
  let v := vrefCheck vref
  (List.range count).flatMap fun i => channelClashes c (first + i) v

def writeClash (r : ClashRec) : List Byte :=
  leBytes 2 r.point ++ byteOf r.rule ++ byteOf r.order ++ leBytes 2 r.other ++ leBytes 2 r.chan
    ++ leF32 (F64.toF32 r.required) ++ leF32 (F64.toF32 r.actual)

/-- The PLAN_CLASH report (R74): at most 62 records. -/
def clashReport (l : List ClashRec) : List Byte :=
  leBytes 4 l.length ++ leBytes 4 (Min.min l.length 62) ++ (l.take 62).flatMap writeClash

end Sys2Proof.Machine
end

