-- ==== Sys2Proof/Machine/Budget.lean ====
section
/-! DEFINITION. Budgets: the demands and sums of R80, R162, R204, R220, R243 and R244, exactly in rational arithmetic, and the OVER_BUDGET report. -/

namespace Sys2Proof.Machine

/-! ### The Mill's figures -/

/-- A job's source is real (R146). -/
def JobCfg.real (j : JobCfg) : Bool := j.srcKind % 2 == 0
def JobCfg.replay (j : JobCfg) : Bool := decide (2 ≤ j.srcKind)
def JobCfg.size (j : JobCfg) : Nat := 2 ^ j.log2n
/-- Hop in samples (R147). -/
def JobCfg.hop (j : JobCfg) : Nat := j.size * (8 - j.overlap) / 8
/-- Bins of a transform (R151). -/
def JobCfg.bins (j : JobCfg) : Nat := if j.real then j.size / 2 + 1 else j.size
def hasBit (x k : Nat) : Bool := x / 2 ^ k % 2 == 1
/-- Result words (R160). -/
def JobCfg.words (j : JobCfg) : Nat :=
  2 + 2 * j.binCnt * bit01 (hasBit j.out 0) + j.binCnt * bit01 (hasBit j.out 1)
    + (j.binCnt + 1) / 2 * bit01 (hasBit j.out 2) + j.nbands * bit01 (hasBit j.out 3)
    + (j.decC + 1) / 2 * bit01 (hasBit j.out 4)
/-- Fragments of a result (R237). -/
def JobCfg.frags (j : JobCfg) : Nat := ceilDiv j.words 4093

/-- The decimation factor of a job's live source, or that at which a replay's was stored: 1 for a wideband one. A replay reads the region's first member. -/
def Cfg.jobD (c : Cfg) (j : JobCfg) : Nat :=
  match j.srcKind with
  | 1 => (c.point j.src).d
  | 3 => if (c.region j.src).first < 0x400 then tget (c.point (c.region j.src).first).d c.stored j.storedKey else 1
  | _ => 1

/-- Source sample period in ticks, before a replay's shift (R146). -/
def Cfg.jobTs (c : Cfg) (j : JobCfg) : Nat := 48 * c.jobD j

/-- r_j (R146). -/
def Cfg.jobRate (c : Cfg) (j : JobCfg) : Frac :=
  Frac.mk' ((62500000 * (if j.replay then 2 ^ j.shift else 1) : Nat) : Int) (c.jobD j)

/-- L_j (R162). -/
def Cfg.jobLoad (c : Cfg) (j : JobCfg) : Frac :=
  let r := Frac.mul (c.jobRate j) ⟨8, 1⟩
  Frac.divNat r ((8 - j.overlap) * (if j.real then 2 else 1))

/-- e_j (R162). -/
def Cfg.jobEmit (c : Cfg) (j : JobCfg) : Frac := Frac.divNat (c.jobRate j) (j.hop * j.avgN)

def Cfg.jobOut (c : Cfg) (j : JobCfg) : Frac := Frac.mul (Frac.ofNat (4 * j.words)) (c.jobEmit j)
def Cfg.jobReplay (c : Cfg) (j : JobCfg) : Frac :=
  if j.replay then Frac.mul (c.jobRate j) (Frac.ofNat (if j.srcKind = 2 then 3 else 16)) else Frac.zero

/-- The enabled jobs with a figure of each. -/
def Cfg.jobTerms (c : Cfg) (f : JobCfg → Frac) : List (Nat × Frac) :=
  c.jobs.filterMap fun (i, j) => if j.enable then some (i, f j) else none

/-- e_j/SUBSAMPLE of each enabled map (R162). -/
def Cfg.densityTerms (c : Cfg) : List (Nat × Frac) :=
  c.maps.filterMap fun (i, m) =>
    if m.enable then (c.job m.job).map fun j => (i, Frac.divNat (c.jobEmit j) m.subsample) else none

/-! ### Streams -/

/-- Output rate of a point as a fraction (R79). -/
def Cfg.fout (c : Cfg) (p : Nat) : Frac := Frac.mk' 62500000 (c.point p).d

/-- c_s of a sampled stream (R243). -/
def cartRate (e : Frac) (per fillTo : Nat) : Frac :=
  Frac.add (Frac.ofNat 1000)
    (Frac.min e (Frac.add (Frac.divNat e per) (Frac.mk' 3000000000 fillTo)))

/-- e·b + 352·c. -/
def rateOf (e b c : Frac) : Frac := Frac.add (Frac.mul e b) (Frac.mul (Frac.ofNat 352) c)

/-- The enabled units of a group. -/
def Cfg.groupUnits (c : Cfg) (g : Nat) : List (Nat × UnitCfg) :=
  c.units.filter fun (_, u) => u.enable && u.rgrp == g

/-- R_s of a stream (R243); 0 when DEST is 0. -/
def Cfg.demand (c : Cfg) (s : Nat) : Frac :=
  let r := c.stream s
  if r.dest = 0 then Frac.zero else
  match streamType s with
  | 1 =>
    let e := c.fout s
    rateOf e (Frac.ofNat (if (c.point s).word1 = 0 then 64 else 96)) (cartRate e r.spc r.fillTo)
  | 2 => rateOf (Frac.ofNat 62500000) (Frac.ofNat 24) (cartRate (Frac.ofNat 62500000) r.spc r.fillTo)
  | 3 =>
    match c.job (s - 0x500) with
    | none => Frac.zero
    | some j =>
      let e := c.jobEmit j
      let w := j.words
      if j.frags ≤ 1 then
        rateOf e (Frac.ofNat (32 * w + 96)) (cartRate e (Min.min r.spc (4096 / (w + 3))) r.fillTo)
      else
        rateOf e (Frac.ofNat (32 * w + 96 * j.frags))
          (Frac.add (Frac.ofNat 1000) (Frac.mul (Frac.ofNat j.frags) e))
  | 4 => Frac.ofNat (1000000 * r.rate)
  | 5 =>
    let e := c.fout (s - 0x800)
    rateOf e (Frac.ofNat 96) (cartRate e r.spc r.fillTo)
  | 6 =>
    match c.unit (s - 0x700) with
    | none => Frac.zero
    | some u =>
      let g := c.groupUnits u.rgrp
      if !(c.units.any fun (_, v) => v.rgrp == u.rgrp && hasBit v.act 0) then Frac.zero else
      let e := Frac.add (Frac.ofNat 1000) (Frac.mk' 3000000000 (Max.max u.holdoff 48))
      rateOf e (Frac.ofNat (32 * (8 + 4 * g.length))) e
  | 7 => rateOf (Frac.ofNat 1000) (Frac.ofNat 704) (Frac.ofNat 1000)
  | 8 => Frac.ofNat (1000000 * r.rate)
  | _ => Frac.zero

/-- The demands of the streams that name a destination: bit 0 DATA_PORT, 1 CART_FIFO, 2 FABRIC. -/
def Cfg.streamTerms (c : Cfg) (bit : Nat) : List (Nat × Frac) :=
  c.streams.filterMap fun (s, r) => if hasBit r.dest bit then some (s, c.demand s) else none

def termSum (l : List (Nat × Frac)) : Frac := Frac.sum (l.map (·.2))

/-- R244: the LANE ceiling for N lanes. [log 108 DEDUCED] -/
def laneLimit (n : Nat) : Frac := Frac.mk' ((95 * n * 24000000000 * 64 * 16383 : Nat) : Int) (100 * 66 * 16384)

/-- Bits of one snapshot: 256 carts of 33,184 bits, per second of epochs (R244). -/
def snapshotBits : Nat := 8495104000

/-- R244: PACE's demand of a DENSITY stream, when it is checked. -/
def Cfg.paceDemand (c : Cfg) (s : Nat) : Option Frac :=
  match c.map (s - 0x600) with
  | some m => if m.stream then some (Frac.mk' (snapshotBits : Nat) m.streamEvery) else none
  | none => none

/-- The smallest 10^6·RATE that satisfies PACE for a DENSITY stream, else 0 (`stream.query`). -/
def Cfg.paceNeed (c : Cfg) (s : Nat) : Nat :=
  if streamType s = 4 ∧ (c.stream s).dest ≠ 0 then
    match c.paceDemand s with
    | some f => ceilDiv f.num.toNat (f.den * 1000000) * 1000000
    | none => 0
  else 0

/-! ### The Granary -/

/-- Block length of a member stream (R203): 256 point records, 1,250 wideband samples. -/
def blockLen (s : Nat) : Nat := if s < 0x400 then 256 else 1250

/-- Bytes a region occupies, in whole pages (R204). -/
def regionBytes (r : RegionCfg) : Nat :=
  let raw :=
    match r.type with
    | 0 => 0
    | 3 => 12 * r.capacity
    | 4 => r.capacity
    | 5 => r.capacity
    | _ =>
      if 0x500 ≤ r.first then r.count * 4 * r.capacity
      else if 0x400 ≤ r.first then r.count * r.slots * (3 * r.capacity + 16 * r.capacity / 1250)
      else r.count * r.slots * (16 * r.capacity + 16 * r.capacity / 256)
  ceilDiv raw 65536 * 65536

/-- R204: bytes all regions may occupy. -/
def granaryBytes : Nat := 17112760320

def Cfg.regionTotal (c : Cfg) : Nat := (c.regions.map fun (_, r) => regionBytes r).sum

/-- Write rate of a member stream (R220). -/
def Cfg.memberRate (c : Cfg) (s : Nat) : Frac :=
  if s < 0x400 then Frac.mul (Frac.ofNat 16) (c.fout s) else Frac.ofNat 187500000

def addTerm (t : List (Nat × Frac)) (s : Nat) (f : Frac) : List (Nat × Frac) :=
  match t with
  | [] => [(s, f)]
  | (k, g) :: t => if k = s then (k, Frac.add g f) :: t else if s < k then (s, f) :: (k, g) :: t else (k, g) :: addTerm t s f

/-- GRANARY_WRITE's contribution of each stream (R220). -/
def Cfg.granaryTerms (c : Cfg) : List (Nat × Frac) :=
  c.regions.foldl (fun t (_, r) =>
    if (r.type = 1 ∨ r.type = 2) ∧ r.first < 0x500 then
      (List.range r.count).foldl (fun t i =>
        addTerm t (r.first + i) (Frac.mul (Frac.ofNat r.type) (c.memberRate (r.first + i)))) t
    else t) []

def Cfg.tallyTerms (c : Cfg) : List (Nat × Frac) :=
  c.tallies.filterMap fun (p, t) => if t.enable then some (p, c.fout p) else none

/-- Σ fout over the enabled points of a channel (R80). -/
def Cfg.demodSum (c : Cfg) (n : Nat) : Frac := Frac.sum ((c.pointsOf n).map c.fout)

/-! ### The check (R244) -/

/-- A budget that fails: its code, scope, largest contributor, limit and demand. -/
structure OverRec where
  budget : Nat
  scope : Nat
  top : Nat
  limit : F64
  demand : F64
  deriving DecidableEq, Repr

/-- The entity with the largest contribution, lowest number on a tie. [log 140 DEDUCED] -/
def topOf : List (Nat × Frac) → Nat
  | [] => 0xFFFF
  | (k, f) :: t => (t.foldl (fun (b : Nat × Frac) x => if Frac.lt b.2 x.2 then x else b) (k, f)).1

/-- A device-wide sum against its limit. -/
def sumCheck (code : Nat) (terms : List (Nat × Frac)) (limit : Frac) (next : Option OverRec) : Option OverRec :=
  let s := termSum terms
  if Frac.le s limit then next else some ⟨code, 0xFFFF, topOf terms, F64.ofFrac limit, F64.ofFrac s⟩

/-- A term of its own against its limit, the lowest-numbered failing entity first. -/
def eachCheck (code : Nat) (terms : List (Nat × Frac × Frac)) (next : Option OverRec) : Option OverRec :=
  match terms.find? fun (_, d, l) => !(Frac.le d l) with
  | none => next
  | some (k, d, l) => some ⟨code, k, 0xFFFF, F64.ofFrac l, F64.ofFrac d⟩

def demodLimit : Frac := ⟨12500000, 1⟩
def densityLimit : Frac := ⟨31250, 1⟩

/-- LANE: the device's own streams, and those of partners that end at it (R244, R386). -/
def laneCheck (c : Cfg) (ending : Frac) (next : Option OverRec) : Option OverRec :=
  let s := Frac.add (termSum (c.streamTerms 0)) ending
  if Frac.le s (laneLimit c.portN) then next
  else some ⟨9, 0xFFFF, topOf (c.streamTerms 0), F64.ofFrac (laneLimit c.portN), F64.ofFrac s⟩

/-- The first failing budget of a configuration, in code order (R244), at a device where reserved streams of a sum end; FABRIC_LINK is the Bellringer's (R387). -/
def overBudget (ending : Frac) (c : Cfg) : Option OverRec :=
  let chans := (c.chans.filter fun (_, x) => x.enable).map fun (n, _) => (n, c.demodSum n, demodLimit)
  let pace := c.streams.filterMap fun (s, r) =>
    if streamType s = 4 ∧ r.dest ≠ 0 then (c.paceDemand s).map fun f => (s, f, Frac.ofNat (1000000 * r.rate)) else none
  eachCheck 1 chans <|
  sumCheck 2 (c.jobTerms c.jobLoad) ⟨48000000000, 1⟩ <|
  sumCheck 3 (c.jobTerms fun j => Frac.ofNat (8 * j.size)) ⟨41943040, 1⟩ <|
  sumCheck 4 (c.jobTerms c.jobOut) ⟨5500000000, 1⟩ <|
  sumCheck 5 (c.jobTerms c.jobReplay) ⟨64000000000, 1⟩ <|
  eachCheck 6 (c.densityTerms.map fun (m, f) => (m, f, densityLimit)) <|
  sumCheck 7 c.granaryTerms ⟨49600000000, 1⟩ <|
  sumCheck 8 c.tallyTerms ⟨58000000, 1⟩ <|
  laneCheck c ending <|
  sumCheck 10 (c.streamTerms 1) ⟨320000000, 1⟩ <|
  eachCheck 11 pace none

/-- The OVER_BUDGET report (R244). -/
def overReport (r : OverRec) : List Byte :=
  leBytes 2 r.budget ++ leBytes 2 r.scope ++ leBytes 2 r.top ++ zeros 2 ++ leF64 r.limit ++ leF64 r.demand

end Sys2Proof.Machine
end

