-- ==== Sys2Proof/Machine/Timing.lean ====
section
/-! DEFINITION. Instants: carrier periods, group delays, windows and ready instants of points (R64, R77, R79, R82, R91, R120), detector lags (R127, R129), the decision bounds S and Λ (R187), close delays (R189) and the history guard (R209). -/

namespace Sys2Proof.Machine

/-- The fixed delay of the wideband pipeline (R77). -/
def wideDelay : Nat := 2016

/-- Ticks of a ramp-down that the modulators still convert (R49, R50). -/
def rampTicks : Nat := 30000

/-- A carrier period in ticks, 2^50/F, as a fraction; 0 for an unset word (R52). -/
def carrierPeriod (f : Nat) : Frac := if f = 0 then Frac.zero else Frac.mk' (2 ^ 50) f

/-- Whole ticks of a fraction, down and up. -/
def Frac.floor (a : Frac) : Int := a.num / (a.den : Int)
def Frac.ceil (a : Frac) : Int := -((-a.num) / (a.den : Int))

/-- Nswap·Tp of a point on a W3 or W4 channel that swaps every nswap periods, else 0 (R64). -/
def Cfg.swapDelay (c : Cfg) (p nswap : Nat) : Frac :=
  let ch := c.chan (p / 8)
  if ch.mode = 2 ∧ 1 ≤ ch.subform then Frac.mul (Frac.ofNat nswap) (carrierPeriod (c.point p).f) else Frac.zero

/-- Nswap of a point's channel in a configuration. -/
def Cfg.nswapOf (c : Cfg) (p : Nat) : Nat := (c.chan (p / 8)).nswap

/-- Group delay without the swap-pair term (R82). -/
def groupDelay (x : PointCfg) : Nat :=
  match x.response with
  | 1 => 120 * x.d
  | 2 => 1200 * x.d
  | _ => 1008 * x.d

/-- Ticks of a filter's window before and after its instant, without the swap pair (R82). -/
def filterBefore (x : PointCfg) : Nat := if x.response = 1 then 264 * x.d else if x.response = 2 then 1200 * x.d else 1008 * x.d
def filterAfter (x : PointCfg) : Nat := groupDelay x

/-- Ticks of a sample's window before and after its aligned instant, with the swap pair's halves (R82), in whole ticks that lie inside it. -/
def Cfg.windowBefore (c : Cfg) (p nswap : Nat) : Nat := filterBefore (c.point p) + (c.swapDelay p nswap).floor.toNat
def Cfg.windowAfter (c : Cfg) (p nswap : Nat) : Nat := filterAfter (c.point p) + (c.swapDelay p nswap).floor.toNat

/-- r − t of R91, rounded up to a whole tick. -/
def Cfg.readyDelay (c : Cfg) (p nswap : Nat) : Nat :=
  (Frac.add (Frac.ofNat (wideDelay + groupDelay (c.point p) + 192)) (c.swapDelay p nswap)).ceil.toNat

/-- The point that gives a point its temperature, when one does (R114). -/
def Cfg.tempPoint (c : Cfg) (p : Nat) : Option Nat :=
  match c.lin p with
  | some s => if s.tkind = 2 then some s.tsrc else none
  | none => none

/-- Output period in ticks (R79). -/
def Cfg.tout (c : Cfg) (p : Nat) : Nat := 48 * (c.point p).d

/-- The latest instant of a grid of a spacing, shifted by the steps of device time, at or before t (R79, R90). -/
def gridAt (spacing : Nat) (shift : Int) (t : Nat) : Nat :=
  ((((t : Int) - shift) / (spacing : Int)) * (spacing : Int) + shift).toNat

/-- The first instant of a grid at or after t. -/
def gridFrom (spacing : Nat) (shift : Int) (t : Nat) : Nat :=
  (-((-((t : Int) - shift)) / (spacing : Int)) * (spacing : Int) + shift).toNat

/-- The largest r(t) − t of a point. -/
def Cfg.maxDelay (c : Cfg) : Nat → Nat → Nat
  | 0, p => c.readyDelay p (c.nswapOf p)
  | k + 1, p =>
    match c.tempPoint p with
    | none => c.readyDelay p (c.nswapOf p)
    | some q => Max.max (c.readyDelay p (c.nswapOf p)) (c.maxDelay k q + 96)

/-- R121: links a chain may have. -/
def chainLimit : Nat := 4

/-! ### Detectors -/

def overloadLag : Nat := 3000
def overloadHold : Nat := 2400

/-- Hold H of a point's envelope detector in ticks (R129). -/
def envHold (f : Nat) : Nat := (Frac.max (Frac.mul ⟨3, 1⟩ (carrierPeriod f)) ⟨600, 1⟩).ceil.toNat

/-- Lag L of a point's envelope detector, rounded up to a whole tick (R129). -/
def envLag (f : Nat) : Nat :=
  (Frac.add (Frac.add (Frac.divNat (carrierPeriod f) 2) (Frac.max (Frac.mul ⟨3, 1⟩ (carrierPeriod f)) ⟨600, 1⟩))
    ⟨96, 1⟩).ceil.toNat

/-- The largest detector lag on a channel (R187). -/
def Cfg.chanLag (c : Cfg) (n : Nat) : Nat :=
  if c.chanOn n then (c.pointsOf n).foldl (fun m p => Max.max m (envLag (c.point p).f)) overloadLag else 0

/-! ### Decision bounds (R187) -/

def Cfg.fsSpread (c : Cfg) (x : UnitCfg) : Nat :=
  match x.type with
  | 4 =>
    match c.job x.src with
    | none => 0
    | some j =>
      if j.replay then ceilDiv ((x.m - 1) * j.hop * j.avgN * c.jobTs j) (2 ^ j.shift)
      else (x.m - 1) * j.hop * j.avgN * c.jobTs j
  | 5 => 0
  | 6 =>
    if hasBit x.m 0 then
      (if x.src = 0xFFFF then (c.chans.map (·.1)).foldl (fun m n => Max.max m (c.chanLag n)) 0 else c.chanLag x.src)
    else 0
  | 7 => 0
  | 8 => x.p2
  | 9 => 0
  | 10 => 0
  | _ => if x.word = 5 then 48 else 48 * (c.point x.src).d

/-- The ready delay of a job's last source sample, from its instant. -/
def Cfg.jobDelay (c : Cfg) (j : JobCfg) : Nat :=
  if j.srcKind = 1 then c.maxDelay chainLimit j.src else wideDelay

/-- Λ of a unit's type. -/
def Cfg.typeWait (c : Cfg) (x : UnitCfg) : Nat :=
  match x.type with
  | 6 => if hasBit x.m 4 || hasBit x.m 5 then 2112 else 96
  | 7 => x.m + 120
  | 8 => 48096
  | 9 => 0
  | 10 => 48
  | 4 =>
    match c.job x.src with
    | none => 0
    | some j =>
      (if j.replay then 0 else (j.size - 1) * c.jobTs j / 2 + c.jobDelay j) + 2 * j.size + 6000 + 96
  | 5 =>
    match c.job x.src with
    | none => 0
    | some j =>
      (if j.replay then 0 else (j.size - 1) * c.jobTs j / 2 + c.jobDelay j) + 2 * j.size + 6000 + 96
  | _ => if x.word = 5 then 2112 else c.maxDelay chainLimit x.src + 96

/-- S_u and Λ_u along at most four sequencer links. -/
def Cfg.unitBounds (c : Cfg) : Nat → Nat → Nat × Nat
  | 0, u =>
    match c.unit u with
    | none => (0, 0)
    | some x => (c.fsSpread x, c.typeWait x)
  | k + 1, u =>
    match c.unit u with
    | none => (0, 0)
    | some x =>
      let s := c.fsSpread x
      let w := c.typeWait x
      match x.seqmode with
      | 1 =>
        let a := c.unitBounds k x.seqin
        (s, Max.max w (a.1 + a.2))
      | 2 =>
        let a := c.unitBounds k x.seqin
        (s, Max.max w (a.1 + a.2 + x.seqt))
      | _ => (s, w)

/-- S_G and Λ_G of a group (R188). -/
def Cfg.groupBounds (c : Cfg) (g : Nat) : Nat × Nat :=
  (c.groupUnits g).foldl (fun (m : Nat × Nat) (x : Nat × UnitCfg) =>
    let b := c.unitBounds chainLimit x.1
    (Max.max m.1 b.1, Max.max m.2 b.2)) (0, 0)

/-- C of a record of a group by its key (R188). -/
def Cfg.closeAt (c : Cfg) (g key : Nat) : Nat := 48 * (key + 1) + (c.groupBounds g).2 + 96

/-- Δc_R (R189). -/
def Cfg.closeDelay (c : Cfg) (r : Nat) : Nat :=
  (c.units.filter fun (_, u) => u.enable && hasBit u.act 2 && u.region == r).foldl
    (fun m x => Max.max m (144 + (c.groupBounds x.2.rgrp).2 + (c.groupBounds x.2.rgrp).1)) 0

/-- Sample period of a capture region's members in ticks. -/
def Cfg.memberTs (c : Cfg) (r : Nat) : Nat :=
  let s := (c.region r).first
  if s < 0x400 then 48 * (c.point s).d else 48

/-- G_R (R209). -/
def Cfg.guardOf (c : Cfg) (r : Nat) : Nat := ceilDiv (c.closeDelay r) (c.memberTs r) + 1

/-- CAPACITY − Bk: what P + max(Q, G_R) may reach (R209). -/
def Cfg.fitOf (c : Cfg) (r : Nat) : Nat := (c.region r).capacity - blockLen (c.region r).first

def Cfg.armFits (c : Cfg) (r p q : Nat) : Bool := decide (p + Max.max q (c.guardOf r) ≤ c.fitOf r)

end Sys2Proof.Machine
end

