-- ==== Sys2Proof/Machine/Granary.lean ====
section
/-! DEFINITION. The Granary: rings, capture slots, the writes of samples, the start and end of captures, readouts, errors (R200 to R214, R221 to R226). -/

namespace Sys2Proof.Machine

/-! ### Counters and blocks -/

def cntWritten : Nat := 0
def cntWraps : Nat := 1
def cntStarted : Nat := 2
def cntTruncated : Nat := 3
def cntSkipped : Nat := 4

/-- Count for a region (R226). -/
def Device.countRegion (r i : Nat) (d : Device) (n : Nat := 1) : Device :=
  { d with cnt := { d.cnt with region := tbump d.cnt.region (5 * r + i) n } }

def granDone : BitVec 24 := ebit 0
def granWrapped : BitVec 24 := ebit 1
def granFixed : BitVec 24 := ebit 2
def granBad : BitVec 24 := ebit 3
def granOut : BitVec 24 := ebit 4

/-- A RING or CAPTURE region holds a stream. -/
def RegionCfg.holds (r : RegionCfg) (s : Nat) : Bool :=
  (r.type == 1 || r.type == 2) && decide (r.first ≤ s) && decide (s < r.first + r.count)

def RegionCfg.members (r : RegionCfg) : List Nat := (List.range r.count).map (r.first + ·)

/-- Sample spacing of a point or wideband stream. -/
def Cfg.streamTs (c : Cfg) (s : Nat) : Nat := if s < 0x400 then 48 * (c.point s).d else 48

/-- Places an element takes in the order of writing: a Mill result's words, else one. -/
def Elem.units (s : Nat) (e : Elem) : Nat := if 0x500 ≤ s then e.data.length / 4 else 1

/-- Whether an element begins a block of its member (R203): aligned groups of 1,250 wideband samples, 256 point records, one Mill result. -/
def Store.begins (s : Nat) (cut : Bool) (e : Elem) (x : Store) : Bool :=
  match x.blocks.getLast? with
  | none => true
  | some b => cut || (if s < 0x400 then decide (256 ≤ b.count) else if s < 0x480 then e.idx / 1250 != b.group else true)

/-- The last block takes one more sample. -/
def growBlock (e : Elem) : List Block → List Block
  | [] => []
  | [b] => [{ b with flags := b.flags ||| e.flags, count := b.count + 1 }]
  | b :: l => b :: growBlock e l

/-- Descriptors of which no element is held are forgotten. -/
def Store.trim (x : Store) : Store :=
  match x.elems with
  | [] => { x with blocks := x.blocks.drop (x.blocks.length - 1) }
  | e :: _ => { x with blocks := x.blocks.dropWhile fun b => decide (b.no < e.blk) }

/-- A member's store takes an element (R203). -/
def Store.push (s : Nat) (cut : Bool) (e : Elem) (x : Store) : Store :=
  let no := (x.blocks.getLast?.map (·.no)).getD 0
  if x.begins s cut e then
    { elems := x.elems ++ [{ e with serial := x.next, blk := no + 1 }],
      blocks := x.blocks ++ [⟨no + 1, e.idx / 1250, e.t, e.flags, 1, e.tag, false⟩], next := x.next + e.units s }
  else { elems := x.elems ++ [{ e with serial := x.next, blk := no }], blocks := growBlock e x.blocks, next := x.next + e.units s }

def elemWords (l : List Elem) : Nat := (l.map fun e => e.data.length / 4).sum

/-- Drop the oldest results until the words fit. -/
def dropWords (cap : Nat) : List Elem → List Elem
  | [] => []
  | e :: l => if elemWords (e :: l) ≤ cap then e :: l else dropWords cap l

/-- A ring takes an element; the oldest are overwritten (R207). -/
def pushRing (cap s : Nat) (cut : Bool) (e : Elem) (x : Store) : Store :=
  let y := x.push s cut e
  { y with elems := if 0x500 ≤ s then dropWords cap y.elems else y.elems.drop (y.elems.length - cap) }.trim

/-- Release oldest complete blocks until a history holds at most a number of samples (R209). -/
def releaseBlocks (most : Nat) : Nat → List Elem → List Elem
  | 0, l => l
  | k + 1, l =>
    if l.length ≤ most then l
    else
      match l with
      | [] => []
      | e :: t => releaseBlocks most k (t.dropWhile fun f => f.blk == e.blk)

/-- A RECORDING slot's member takes a sample. -/
def pushHistory (most s : Nat) (cut : Bool) (e : Elem) (x : Store) : Store :=
  ({ x with elems := if x.begins s cut e then releaseBlocks most x.elems.length x.elems else x.elems }.push s cut e).trim

/-! ### Slots (R208 to R213) -/

/-- A sample precedes the capture instant, which is in 1/256 tick. -/
def beforeT (time : Int) (e : Elem) : Bool := decide ((256 * e.inst : Int) < time)

/-- What a slot keeps of a member at its close and after: the last P samples before the instant and the first Q others (R212). [log 69 DEDUCED] -/
def keepFill (x : Slot) (y : Store) : Store :=
  let pre := y.elems.filter (beforeT x.time)
  let post := y.elems.filter fun e => !(beforeT x.time e)
  { y with elems := pre.drop (pre.length - x.p) ++ post.take x.q }.trim

def Slot.store (x : Slot) (s : Nat) : Store := tget Store.init x.members s
def Slot.member (x : Slot) (s : Nat) : List Elem := (x.store s).elems
def Slot.preHeld (x : Slot) (s : Nat) : Nat := ((x.member s).filter (beforeT x.time)).length
def Slot.postHeld (x : Slot) (s : Nat) : Nat := ((x.member s).filter fun e => !(beforeT x.time e)).length

/-- A FILLING slot keeps a sample of its members: none from the instant it stops at on, the first Q after the capture instant, and any before it that is ready after its history began (R212). -/
def Slot.takes (s : Nat) (w : Waiting) (x : Slot) : Bool :=
  x.streams.contains s && x.stop.all (fun b => decide (w.elem.inst < b))
    && (if beforeT x.time w.elem then decide (0 < x.p) && decide (x.hist < w.ready) else decide (x.postHeld s < x.q))

/-- [log 69 DEDUCED] -/
def Slot.fill (s : Nat) (cut : Bool) (e : Elem) (x : Slot) : Slot :=
  { x with members := tput Store.init x.members s (keepFill x ((x.store s).push s cut e)) }

def Slot.full (x : Slot) (members : List Nat) : Bool := members.all fun s => decide (x.q ≤ x.postHeld s)

def RegionRun.slot (x : RegionRun) (k : Nat) : Slot := tget Slot.init x.slots k
def RegionRun.setSlot (k : Nat) (f : Slot → Slot) (x : RegionRun) : RegionRun :=
  { x with slots := tmod Slot.init x.slots k f }

/-- Every sample of a stream before an instant has been written. -/
def Device.drained (s b : Nat) (d : Device) : Bool :=
  !(d.gran.waiting.any fun w => w.stream == s && decide (w.elem.inst < b)) &&
  (if s < 0x400 then
    (d.pt s).filters.all fun f =>
      decide (b ≤ f.next) || f.stop.any fun e => decide (e ≤ f.next)
  else
    let x := d.chan (s - 0x400)
    let next := Max.max x.wstart (x.wlast + 48)
    decide (b ≤ next) || x.wstop.any fun e => decide (e ≤ next))

/-- A FILLING slot that has all it waits for becomes DONE (R212, R213). -/
def Device.settleSlot (r k : Nat) (d : Device) : Device :=
  let x := (d.region r).slot k
  let members := x.streams
  if x.state ≠ .filling then d
  else if x.full members then
    (d.setRegion r fun y => y.setSlot k fun x => { x with state := .done }).raise evGran granDone
  else
    match x.stop with
    | none => d
    | some b =>
      if members.all fun s => decide (x.q ≤ x.postHeld s) || d.drained s b then
        ((d.setRegion r fun y => y.setSlot k fun x => { x with state := .done, truncated := true }).countRegion r cntTruncated).raise
          evGran granDone
      else d

/-- The slots of a region in a state. -/
def RegionRun.slotsIn (x : RegionRun) (st : SlotState) : List Nat :=
  (x.slots.filter fun (_, y) => y.state == st).map (·.1)

def Device.settleRegion (r : Nat) (d : Device) : Device :=
  forList ((d.region r).slotsIn .filling) (fun k d => d.settleSlot r k) d

/-- The head of the armed queue records while the device is in RUN (R208). [log 80 DEDUCED] -/
def Device.promote (r from_ : Nat) (d : Device) : Device :=
  match (d.region r).queue with
  | [] => d
  | k :: _ =>
    if d.pw.mode = .run ∧ ((d.region r).slot k).state = .armed then
      d.setRegion r fun y => { y.setSlot k (fun x => { x with state := .recording }) with histFrom := from_ }
    else d

/-- A record starts a capture in a region at its close C (R190, R194, R212): whether a slot took it. Of a record that closes after the device has left RUN, the capture takes the samples before that boundary. [log 68 DEDUCED] -/
def Device.startCapture (r : Nat) (time : Int) (recno : Word) (late : Bool) (close : Nat) (d : Device) : Bool × Device :=
  match (d.region r).queue with
  | [] => (false, d)
  | k :: q =>
    let stop := match d.marks.runs with
      | (_, some b) :: _ => if d.pw.mode = .run then none else some b
      | _ => none
    let take := fun (x : Slot) =>
      let x := { x with state := SlotState.filling, time := time, recno := recno, late := late, stop := stop,
                        streams := (d.fw.eff.region r).members, hist := (d.region r).histFrom }
      { x with members := x.members.map fun (s, l) => (s, keepFill x l) }
    let d := d.setRegion r fun y => { y.setSlot k take with queue := q }
    let d := (d.countRegion r cntStarted).settleSlot r k
    let d := d.promote r close
    (true, if q = [] then d.raise evGran granOut else d)

/-! ### Writes (R206, R207) -/

/-- A ring of a region wraps: counted, and reported the first time under its record (R207, R226). [log 73 DEDUCED] -/
def Device.wrap (r : Nat) (wraps : Bool) (d : Device) : Device :=
  if !wraps then d
  else
    let first := !(d.region r).wrapped
    let d := (d.setRegion r fun y => { y with wrapped := true }).countRegion r cntWraps
    if first then d.raise evGran granWrapped else d

/-- A ring of a region takes an element. -/
def Device.writeRing (r s : Nat) (cut : Bool) (e : Elem) (d : Device) : Device :=
  let cap := (d.fw.eff.region r).capacity
  let x := tget Store.init (d.region r).rings s
  let y := pushRing cap s cut e x
  let wraps := decide (0 < x.next) && decide ((x.next - 1) / cap < (y.next - 1) / cap)
  ((d.setRegion r fun z => { z with rings := tput Store.init z.rings s y }).countRegion r cntWritten).wrap r wraps

/-- The RECORDING slot of a region takes a sample that is ready after its history begins. -/
def Device.writeHistory (r s : Nat) (cut : Bool) (w : Waiting) (d : Device) : Device :=
  let c := d.fw.eff.region r
  match (d.region r).slotsIn .recording with
  | k :: _ =>
    if (d.region r).histFrom < w.ready then
      (d.setRegion r fun y => y.setSlot k fun x =>
        { x with members := tput Store.init x.members s (pushHistory (c.capacity - blockLen s) s cut w.elem (x.store s)) }).countRegion
          r cntWritten
    else d
  | [] => d

/-- A FILLING slot is offered a sample; what it does not keep is not written (R213, R226). -/
def Device.writeFilling (r k s : Nat) (cut : Bool) (w : Waiting) (d : Device) : Device :=
  if ((d.region r).slot k).takes s w then
    ((d.setRegion r fun y => y.setSlot k (Slot.fill s cut w.elem)).countRegion r cntWritten).settleSlot r k
  else d.settleSlot r k

/-- A region takes an element of a stream; of earlier instants than its record, only slots that a change of the record left to fill (R205, R213). -/
def Device.writeRegion (r s : Nat) (cut : Bool) (w : Waiting) (d : Device) : Device :=
  let c := d.fw.eff.region r
  let filling := (d.region r).slotsIn .filling
  let d :=
    if !(c.holds s) || decide (w.at_ < (d.region r).eff) then d
    else if c.type = 1 then d.writeRing r s cut w.elem
    else d.writeHistory r s cut w
  forList filling (fun k d => d.writeFilling r k s cut w) d

/-- Regions that hold a stream now, and those of which a slot still gathers it. -/
def Device.holders (s : Nat) (d : Device) : List Nat :=
  (d.fw.eff.regions.filter fun (r, c) =>
    c.holds s || (d.region r).slots.any fun (_, x) => decide (x.state = .filling) && x.streams.contains s).map (·.1)

/-- A sample or result of a region's stream waits to be written (R206): only what runs in RUN (R200). -/
def Device.toGranary (s ready at_ : Nat) (e : Elem) (d : Device) : Device :=
  if inSpans d.marks.runs at_ && !(d.holders s).isEmpty then
    { d with gran := { d.gran with waiting := d.gran.waiting ++ [⟨s, ready, at_, e⟩] } }
  else d

/-- The first waiting element of a stream, and the others. -/
def takeWaiting (s : Nat) : List Waiting → Option (Waiting × List Waiting)
  | [] => none
  | w :: l => if w.stream = s then some (w, l) else (takeWaiting s l).map fun (x, l) => (x, w :: l)

/-! ### Readouts (R222, R223, R241) -/

/-- An element's flags as it is delivered (R224). -/
def Elem.out (e : Elem) : BitVec 14 := if e.bad then e.flags ||| 1#14 else e.flags

/-- Set INVALID in a stored record's flags field, whose low byte stands at an offset. -/
def spoil (off : Nat) (l : List Byte) : List Byte := l.take off ++ ((l.drop off).take 1).map (· ||| 1#8) ++ l.drop (off + 1)

/-- An element as it is delivered: an unreadable point record carries INVALID in its status word. -/
def Elem.bytes (s : Nat) (e : Elem) : List Byte := if e.bad && decide (s < 0x400) then spoil 12 e.data else e.data
def TallyRec.out (x : TallyRec) : List Byte := if x.bad then spoil 10 x.bytes else x.bytes

/-- The descriptor of an element's block. -/
def Store.blockOf (x : Store) (e : Elem) : Block :=
  (x.blocks.find? fun b => b.no == e.blk).getD ⟨e.blk, 0, e.t, e.flags, 1, e.tag, false⟩

/-- The flags of a block by its descriptor; an unreadable one marks every sample (R224). -/
def Block.out (b : Block) : BitVec 14 := if b.bad then b.flags ||| 1#14 else b.flags

/-- Split a Mill result into its words. -/
def wordPieces : Nat → List Byte → List (List Byte)
  | 0, _ => []
  | n + 1, l => if l = [] then [] else l.take 4 :: wordPieces n (l.drop 4)

def orFlags (l : List (BitVec 14)) : BitVec 14 := l.foldl (· ||| ·) 0#14

/-- The flags of the samples that a store holds (R222). -/
def Store.heldFlags (x : Store) : BitVec 14 := orFlags (x.elems.map fun e => ({ e with bad := e.bad || (x.blockOf e).bad } : Elem).out)

/-- The elements of a member's store, oldest first, with the flags and the tag of their blocks' descriptors (R203, R222). -/
def readElems (s : Nat) (x : Store) : List ReadElem :=
  x.elems.flatMap fun e =>
    let b := x.blockOf e
    let e := { e with bad := e.bad || b.bad }
    if 0x500 ≤ s then (wordPieces e.data.length e.data).zipIdx.map fun (l, i) => ⟨e.serial + i, e.t, e.out, e.tag, l⟩
    else [⟨e.serial, e.t, b.out ||| flag0 e.bad, b.tag, e.bytes s⟩]
where
  /-- INVALID of an unreadable sample -/
  flag0 (b : Bool) : BitVec 14 := if b then 1#14 else 0#14

/-- KIND of a CAPTURE cart (R237). -/
def readKind (c : RegionCfg) : Nat :=
  match c.type with
  | 3 => 2
  | 5 => 4
  | _ => if c.first < 0x400 then 1 else if c.first < 0x480 then 0 else 3

/-- What a reader of a region's member and slot finds, from an index on and at most a number of elements. A STAGING region's elements are its bytes. -/
def Device.readFrom (r member slot from_ count : Nat) (d : Device) : List ReadElem :=
  let c := d.fw.eff.region r
  let x := d.region r
  match c.type with
  | 1 => ((readElems member (tget Store.init x.rings member)).drop from_).take count
  | 2 => ((readElems member ((x.slot slot).store member)).drop from_).take count
  | 3 => ((x.tally.map fun t => (⟨t.serial, 0, if t.bad then t.flags ||| 1#14 else t.flags, d.tag, t.out⟩ : ReadElem)).drop from_).take count
  | _ => (List.range (Min.min count (c.capacity - from_))).map fun i =>
      ⟨from_ + i, 0, if x.badWords.contains ((from_ + i) / 8) then 1#14 else 0#14, d.tag, [tget 0#8 x.bytes (from_ + i)]⟩

/-- What is left of a readout: the elements that were held when it began, from the next one on (R223). -/
def Device.readRest (r : Nat) (x : Readout) (d : Device) : List ReadElem :=
  if x.kind = 4 then d.readFrom r x.member x.slot x.next (x.upto - x.next)
  else (d.readFrom r x.member x.slot 0 (2 ^ 64)).filter fun e => decide (x.next ≤ e.key) && decide (e.key < x.upto)

/-- The elements of one cart: at most SPC, of one tag, within LEN. -/
def cartTake (tag : BitVec 16) : Nat → Nat → List ReadElem → List ReadElem × List ReadElem
  | 0, _, l => ([], l)
  | _ + 1, _, [] => ([], [])
  | n + 1, room, e :: l =>
    if e.tag = tag ∧ e.data.length ≤ room then
      let x := cartTake tag n (room - e.data.length) l
      (e :: x.1, x.2)
    else ([], e :: l)

/-- Bytes of payload beside the CAPTURE descriptor's three words. -/
def captureRoom : Nat := 4 * 4093

/-- When the next cart of a readout is due: s_0 + B/(10^6·RATE) (R241). -/
def Readout.due (x : Readout) (rate : Nat) : Nat := x.from_ + ceilDiv (x.bits * 3000) rate

/-- Form the next cart of a readout; elements a write has overwritten are skipped (R223). -/
def Device.readCart (r : Nat) (x : Readout) (d : Device) : Device :=
  let s := d.fw.eff.stream (0xC00 + r)
  let rest := d.readRest r x
  let first := (rest.head?.map (·.key)).getD x.upto
  let gone := first - x.next
  let d := if gone = 0 then d else d.countRegion r cntSkipped gone
  match rest with
  | [] => d.setRegion r fun y => { y with readout := some { x with next := x.upto, skipped := x.skipped + gone, index := x.index + gone } }
  | e :: _ =>
    let took := cartTake e.tag s.spc captureRoom rest
    let n := took.1.length
    let index := x.index + gone
    let body := leBytes 2 x.member ++ byteOf x.kind ++ zeros 1 ++ leBytes 4 x.slot ++ leBytes 4 index
      ++ took.1.flatMap (·.data)
    let words := wordsOf body
    let flags := took.1.foldl (fun f e => f ||| e.flags) 0#14
    let d := d.formCart 8 (0xC00 + r) (if x.kind ≤ 1 then e.t else 0) e.tag flags n words (x.due s.rate + deliveryMargin) s.dest
    let x' : Readout :=
      { x with next := first + n, index := index + n, bits := x.bits + 352 + 32 * words.length, sent := x.sent + n, skipped := x.skipped + gone }
    d.setRegion r fun y => { y with readout := some x' }

/-- Form every cart of a region's readout that is due. -/
def Device.pumpRegion (r now : Nat) : Nat → Device → Device
  | 0, d => d
  | n + 1, d =>
    match (d.region r).readout with
    | none => d
    | some x =>
      if x.upto ≤ x.next ∨ now < x.due (d.fw.eff.stream (0xC00 + r)).rate then d
      else Device.pumpRegion r now n (d.readCart r x)

/-- A cart to be formed at an instant takes its place among those that wait. -/
def pacedInsert (x : Paced) : List Paced → List Paced
  | [] => [x]
  | y :: l => if y.due ≤ x.due then y :: pacedInsert x l else x :: y :: l

/-- Form the paced carts that are due: those of readouts, of density snapshots and of event reports (R240, R241). -/
def Device.pumpPaced (now : Nat) : List Paced → Device → Device
  | [], d => { d with port := { d.port with paced := [] } }
  | p :: l, d =>
    if p.due ≤ now then
      Device.pumpPaced now l (d.formCart p.type p.stream p.time p.tag p.flags p.count p.words (p.due + deliveryMargin) p.dests)
    else { d with port := { d.port with paced := p :: l } }

def Device.readouts (d : Device) : List (Nat × Readout) :=
  d.gran.regions.filterMap fun (r, x) => x.readout.map fun y => (r, y)

def Device.pump (now : Nat) (d : Device) : Device :=
  let d := forList d.readouts (fun x d => d.pumpRegion x.1 now (x.2.upto - x.2.next)) d
  d.pumpPaced now d.port.paced

/-- Streams stop at the entry to HEARTH or SAFE (R234): a readout ends with what it has sent, and of the carts that wait for their instant only those of `keep` stay. [log 242 DESIGN CHOICE] -/
def Device.endSending (keep : Paced → Bool) (d : Device) : Device :=
  let d := forList d.readouts (fun x d =>
    (d.setRegion x.1 fun z => { z with readout := none }).complete x.2.waiter stOk (leBytes 8 x.2.sent ++ leBytes 8 x.2.skipped)) d
  let d := forList d.maps (fun x d =>
    match x.2.waiter with
    | none => d
    | some (w, e) => (d.setMap x.1 fun y => { y with waiter := none }).complete w stOk (ep32 e)) d
  { d with port := { d.port with paced := d.port.paced.filter keep } }

/-- The oldest waiting element of a stream is written into every region that holds it, before a read of the same instant (R221). -/
def Device.granWrite (s : Nat) (d : Device) : Device :=
  match takeWaiting s d.gran.waiting with
  | none => d
  | some (w, l) =>
    let d := d.pump (d.clk.time - 1)
    let at_ := w.at_
    let cut := cutBy d.gran.cuts s at_
    let d := { d with gran := { d.gran with waiting := l, cuts := cutDone d.gran.cuts s at_ } }
    forList (d.holders s) (fun r d => d.writeRegion r s cut w) d

def execGranaryWrite (stream t : Nat) (s : State) : Host.Outcome State Fault Refusal :=
  if s.dev.gran.selfRefresh then .next s else onDev (fun d => (d.tickTo t).granWrite stream) s

/-- The last cart of a STREAM readout has been sent (R222). -/
def execCaptureReadoutDone (region : Fin 64) (s : State) : Host.Outcome State Fault Refusal :=
  onDev (fun d =>
    match (d.region region.val).readout with
    | none => d
    | some x =>
      let last := x.from_ + (x.bits + 131424 * (x.upto - x.next + 1)) * 3000
      let d := d.pumpRegion region.val last (x.upto - x.next)
      match (d.region region.val).readout with
      | none => d
      | some y =>
        (d.setRegion region.val fun z => { z with readout := none }).complete y.waiter stOk (leBytes 8 y.sent ++ leBytes 8 y.skipped)) s

/-! ### Errors (R224) -/

/-- Mark elements of a store by index. -/
def Store.strike (first count : Nat) (x : Store) : Store :=
  { x with elems := x.elems.zipIdx.map fun (e, i) => if first ≤ i ∧ i < first + count then { e with bad := true } else e }

/-- Mark the descriptor of a block by index. -/
def Store.strikeBlock (i : Nat) (x : Store) : Store :=
  { x with blocks := x.blocks.zipIdx.map fun (b, k) => if k = i then { b with bad := true } else b }

/-- A replay that has still to read samples of a slot reads them unreadable. -/
def Device.strikeReplay (r k m first count : Nat) (d : Device) : Device :=
  forNat 128 (fun j d =>
    match tfind d.fw.eff.jobs j with
    | none => d
    | some c =>
      if 2 ≤ c.srcKind ∧ c.src = r ∧ c.slot = k ∧ (d.fw.eff.region r).first = m then
        d.setJob j fun x => { x with buf := x.buf.map fun y =>
          if ((first : Nat) : Int) ≤ y.idx ∧ y.idx < ((first + count : Nat) : Int) ∧ y.pad = false then { y with flags := y.flags ||| 1#14 } else y }
      else d) d

/-- The places, among a store's elements, of those of a block: the first, and how many. -/
def Store.span (i : Nat) (x : Store) : Nat × Nat :=
  match x.blocks[i]? with
  | none => (0, 0)
  | some b => ((x.elems.takeWhile fun e => decide (e.blk < b.no)).length, (x.elems.filter fun e => e.blk == b.no).length)

/-- A row of a snapshot that has still to leave is formed from the struck counters: the counter reads as zero, and the cart carries INVALID (R224). -/
def Device.strikeRow (m c : Nat) (d : Device) : Device :=
  match (d.map m).snap with
  | none => d
  | some (e, _) =>
    { d with port := { d.port with paced := d.port.paced.map fun x =>
        if x.stream = 0x600 + m ∧ x.time = boundary e ∧ (x.words.head?.map fun w => w.toNat / 256 % 256) = some (c / 1024) then
          { x with flags := x.flags ||| 1#14, words := x.words.set (2 + c % 1024) 0#32 }
        else x } }

/-- A word of a region becomes unreadable. [log 71 DESIGN CHOICE] -/
def Device.strike (r : Nat) (x : Struck) (d : Device) : Device :=
  match x with
  | .nothing => d
  | .ring m a n => d.setRegion r fun y => { y with rings := tmod Store.init y.rings m (Store.strike a n) }
  | .ringBlock m i => d.setRegion r fun y => { y with rings := tmod Store.init y.rings m (Store.strikeBlock i) }
  | .slot k m a n =>
    (d.setRegion r fun y => y.setSlot k fun z => { z with members := tmod Store.init z.members m (Store.strike a n) }).strikeReplay r k m a n
  | .slotBlock k m i =>
    let p := (((d.region r).slot k).store m).span i
    (d.setRegion r fun y => y.setSlot k fun z => { z with members := tmod Store.init z.members m (Store.strikeBlock i) }).strikeReplay
      r k m p.1 p.2
  | .tally a n => d.setRegion r fun y =>
      { y with tally := y.tally.zipIdx.map fun (t, i) => if a ≤ i ∧ i < a + n then { t with bad := true } else t }
  | .staging w => d.setRegion r fun y => { y with badWords := if y.badWords.contains w then y.badWords else w :: y.badWords }
  | .counter m c snapshot =>
    if snapshot then
      (d.setMap m fun y => { y with snap := y.snap.map fun (e, t) => (e, terase t c), snapBad := c :: y.snapBad }).strikeRow m c
    else d.setMap m fun y => { y with counts := terase y.counts c, bad := c :: y.bad }

/-- One error that a read or the scrubber finds: corrected, or marked and logged. -/
def Device.scrubError (e : ScrubErr) (d : Device) : Device :=
  if !e.double then
    { d with cnt := { d.cnt with corrected := d.cnt.corrected + 1#32 } }.raise evGran granFixed
  else
    let d := { d with cnt := { d.cnt with uncorrected := d.cnt.uncorrected + 1#32 } }.raise evGran granBad
    match e.region with
    | none => d.logPut 2 [0xFFFF, e.offset]
    | some r => (d.strike r.val e.struck).logPut 2 [r.val, e.offset]

/-- The errors that a read finds (R24, R26, R224). -/
def Device.foundErrors (errs : List ScrubErr) (d : Device) : Device := forList errs Device.scrubError d

/-- Reads of the stack find errors, unless it is in self-refresh (R224). -/
def Device.findErrors (errs : List ScrubErr) (d : Device) : Device := if d.gran.selfRefresh then d else d.foundErrors errs

/-- The scrubber pauses in HEARTH, from H on (R224). -/
def Device.scrubs (d : Device) : Bool := !d.gran.selfRefresh && d.pw.mode != .hearth

def execGranaryScrubPass (errs : List ScrubErr) (s : State) : Host.Outcome State Fault Refusal :=
  if !s.dev.scrubs then .next s
  else onDev (fun d =>
    let d := d.foundErrors errs
    { d with cnt := { d.cnt with scrubPasses := d.cnt.scrubPasses + 1#32 } }) s

end Sys2Proof.Machine
end

