-- ==== Sys2Proof/Machine/Triggers.lean ====
section
/-! DEFINITION. The trigger engine: detections, firings, sequencers, records, actions, pulses and pins (R174 to R199, R364). Times are in 1/256 tick, instants in ticks. -/

namespace Sys2Proof.Machine

/-! ### Units by instant (R196) -/

/-- The state of a unit for an instant: that of the first change of its record after the instant, else the present one. -/
def Device.unitAt (u t : Nat) (d : Device) : UnitRun :=
  match d.trig.olds.find? fun (v, b, _) => v == u && decide (t < b) with
  | some (_, _, r) => r
  | none => d.unit u

/-- Change the first entry of a unit that an instant precedes; none where there is no such entry. -/
def setOld (u t : Nat) (r : UnitRun) : List (Nat × Nat × UnitRun) → Option (List (Nat × Nat × UnitRun))
  | [] => none
  | (v, b, x) :: l => if v = u ∧ t < b then some ((v, b, r) :: l) else (setOld u t r l).map ((v, b, x) :: ·)

def Device.setUnitAt (u t : Nat) (r : UnitRun) (d : Device) : Device :=
  match setOld u t r d.trig.olds with
  | some l => { d with trig := { d.trig with olds := l } }
  | none => d.setUnit u fun _ => r

/-- A unit starts afresh at a boundary (R174, R196); a one-shot state stays unless its record changed (R184), and so does the count of forced firings (R243). -/
def Device.resetUnit (changed : Bool) (b u : Nat) (d : Device) : Device :=
  let r := d.unit u
  let r' : UnitRun := { UnitRun.init with eff := b, shot := !changed && r.shot, forceEpoch := r.forceEpoch,
                                          forceUsed := r.forceUsed, forceHeld := r.forceHeld }
  { d.setUnit u (fun _ => r') with trig := { (d.setUnit u fun _ => r').trig with olds := d.trig.olds ++ [(u, b, r)] } }

/-! ### Counters (R199) -/

/-- [log 62 DEDUCED, 65 DEDUCED] -/
def Device.countUnit (u i : Nat) (d : Device) : Device :=
  { d with cnt := { d.cnt with unit := tbump d.cnt.unit (4 * u + i) } }

/-! ### Records (R188) -/

def Device.addFiring (grp key inst close : Nat) (late forced : Bool) (f : Firing) (d : Device) : Device :=
  let recs := d.trig.recs
  let recs :=
    if recs.any fun r => r.grp == grp && r.key == key && r.inst == inst then
      recs.map fun r =>
        if r.grp = grp ∧ r.key = key ∧ r.inst = inst then
          { r with fires := r.fires ++ [f], late := r.late || late, forced := r.forced || forced }
        else r
    else recs ++ [⟨grp, key, inst, close, [f], late, forced⟩]
  { d with trig := { d.trig with recs := recs } }

/-- What a condition gives: time, decision instant, VALUE and flags. -/
structure Detection where
  t : Int
  td : Nat
  value : Word
  flags : BitVec 14
  deriving DecidableEq, Repr

/-! ### Firings (R184, R185) -/

def insertTime (t : Int) : List Int → List Int
  | [] => [t]
  | x :: l => if t < x then t :: x :: l else x :: insertTime t l

/-- The sequencer units that take a unit's firings as input. -/
def Cfg.sequencedBy (c : Cfg) (u : Nat) : List Nat :=
  (c.units.filter fun (_, x) => x.enable && (x.seqmode == 1 || x.seqmode == 2) && x.seqin == u).map (·.1)

/-- A unit fires: counted, known to its sequencers, and gathered into its group's record, or into a record of its own when it arrives late; the state and the configuration it meets are those of its decision instant, of a late one those of its arrival (R182). [log 62 DEDUCED] -/
def Device.fire (u : Nat) (x : UnitCfg) (late : Option Nat) (lateMark forced : Bool) (det : Detection) (d : Device) : Device :=
  let d := d.countUnit u 1
  let at_ := late.getD det.td
  let r := d.unitAt u at_
  let d := d.setUnitAt u at_ { r with lastFire := some det.t, shot := true, dets := [] }
  let c := d.cfgAt at_
  let d := forList (c.sequencedBy u) (fun v d =>
    let r := d.unitAt v at_
    d.setUnitAt v at_ { r with inbox := insertTime det.t r.inbox }) d
  let f : Firing := ⟨u, x.type, det.t, det.td, det.value, det.flags⟩
  match late with
  | some arrival => d.addFiring x.rgrp arrival arrival (arrival + 96) true forced f
  | none =>
    let key := det.td / 48
    d.addFiring x.rgrp key (48 * key) (c.closeAt x.rgrp key) lateMark forced f

/-- What the sequencer answers to a detection, and the unit's state after it (R185). [log 61 DEDUCED] -/
def sequence (x : UnitCfg) (t : Int) (r : UnitRun) : Bool × UnitRun :=
  match x.seqmode with
  | 1 =>
    match r.inbox.find? fun a => decide (t - 256 * x.seqt ≤ a) && decide (a ≤ t) with
    | some a => (true, { r with inbox := r.inbox.erase a })
    | none => (false, r)
  | 2 =>
    match r.inbox.find? fun a => decide (t - 256 * x.seqt ≤ a) && decide (a ≤ t + 256 * x.seqt) with
    | some a => (true, { r with inbox := r.inbox.erase a })
    | none => (false, r)
  | 3 =>
    let dets := (r.dets ++ [t]).filter fun a => x.seqt == 0 || decide (t - a ≤ 256 * x.seqt)
    (decide (x.seqn ≤ dets.length), { r with dets := dets })
  | _ => (true, r)

/-- R184: the detection falls inside the holdoff of the last firing, or the one-shot unit has fired. -/
def UnitRun.holds (r : UnitRun) (x : UnitCfg) (t : Int) : Bool :=
  (match r.lastFire with
   | some f => decide (t < f + 256 * x.holdoff)
   | none => false) || (x.oneshot && r.shot)

/-- A detection: it fires, or it is discarded or waits in the sequencer. Only what lies in RUN is detected (R174). [log 61 DEDUCED] -/
def Device.detect (u : Nat) (x : UnitCfg) (det : Detection) (d : Device) (late : Option Nat := none)
    (lateMark : Bool := false) : Device :=
  let at_ := late.getD det.td
  if !(inSpans d.marks.runs at_) then d
  else
    let d := d.countUnit u 0
    let r := d.unitAt u at_
    if r.holds x det.t then d
    else
      let q := sequence x det.t r
      let d := d.setUnitAt u at_ q.2
      if q.1 then d.fire u x late lateMark false det else d

/-! ### Conditions on streams (R176 to R178) -/

/-- A previous sample that is consecutive with the one at t. -/
def justBefore (p : Option (Nat × F64)) (ts t : Nat) : Option F64 :=
  p.bind fun (u, y) => if u + ts = t then some y else none

/-- R178: the interpolated time between t − Ts and t. -/
def crossing (ts t : Nat) (bound y0 y1 : F64) : Int :=
  let off := F64.div (F64.mul (F64.ofNat ts) (F64.sub bound y0)) (F64.sub y1 y0)
  let n := F64.roundInt (F64.mul off (F64.ofNat 256))
  256 * ((t - ts : Nat) : Int) + (if n = 0 then 1 else n)

/-- The time of a firing: interpolated when the previous value lay on the far side of the bound. -/
def fireTime (ts t : Nat) (far : F64 → Bool) (bound : F64 → F64) (prev : Option F64) (y : F64) : Int :=
  match prev with
  | some y0 => if far y0 then crossing ts t (bound y0) y0 y else 256 * (t : Int)
  | none => 256 * (t : Int)

/-- LEVEL, WINDOW, SLOPE: the condition of SEL on a value (R177). -/
def UnitCfg.cond (x : UnitCfg) (y : F64) : Bool :=
  let a := F64.ofF32 x.a
  let b := F64.ofF32 x.b
  if x.type = 2 then
    let inside := F64.le a y && F64.le y b
    if x.sel = 0 then inside else F64.lt y a || F64.lt b y
  else if x.sel = 0 then F64.le a y
  else F64.le y a

/-- The bound that a LEVEL, WINDOW or SLOPE firing crosses, from the previous and the present value. -/
def UnitCfg.crossed (x : UnitCfg) (y y0 : F64) : F64 :=
  let a := F64.ofF32 x.a
  let b := F64.ofF32 x.b
  if x.type = 2 then
    if x.sel = 0 then (if F64.lt y0 a then a else b) else (if F64.lt y a then a else b)
  else a

/-- LEVEL, WINDOW and SLOPE on a value: whether it fires, and its time. -/
def levelStep (x : UnitCfg) (ts t : Nat) (before : Option F64) (y : F64) (prev : Option Bool) : Option Int :=
  if x.cond y && (prev != some true) then some (fireTime ts t (fun y0 => !(x.cond y0)) (x.crossed y) before y) else none

/-- EDGE: the times of the machines that fire, and the arming after the sample. -/
def edgeStep (x : UnitCfg) (ts t : Nat) (before : Option F64) (y : F64) (r : UnitRun) : List Int × UnitRun :=
  let a := F64.ofF32 x.a
  let h := F64.ofF32 x.b
  let rise := (x.sel == 0 || x.sel == 2) && r.armR && F64.le a y
  let fall := (x.sel == 1 || x.sel == 2) && r.armF && F64.le y a
  let r' := { r with armR := !rise && (r.armR || F64.le y (F64.sub a h)), armF := !fall && (r.armF || F64.le (F64.add a h) y) }
  ((if rise then [fireTime ts t (fun y0 => F64.lt y0 a) (fun _ => a) before y] else [])
    ++ (if fall then [fireTime ts t (fun y0 => F64.lt a y0) (fun _ => a) before y] else []), r')

/-- The slope's history: consecutive samples, at most M + 1. -/
def slopeHist (m ts t : Nat) (x : F64) (l : List (Nat × F64)) : List (Nat × F64) :=
  match l.getLast? with
  | some (u, _) => if u + ts = t then (l ++ [(t, x)]).drop (l.length - m) else [(t, x)]
  | none => [(t, x)]

/-- s_k, once samples k − M to k stand (R177). -/
def slopeOf (m ts : Nat) (l : List (Nat × F64)) (x : F64) : Option F64 :=
  match l with
  | (_, x0) :: _ =>
    if l.length = m + 1 then some (F64.div (F64.mul (F64.sub x x0) (F64.ofNat 3000000000)) (F64.ofNat (m * ts))) else none
  | [] => none

/-- One evaluated sample on a unit: the detections' times with their VALUE, and the state after. -/
def streamStep (x : UnitCfg) (ts t : Nat) (v : F64) (r : UnitRun) : List (Int × F64) × UnitRun :=
  let prevX := justBefore r.prevX ts t
  let jump := x.word == 3 && prevX.any fun p => F64.lt (F64.div F64.one (F64.ofNat 2)) (F64.absDiff v p)
  let r' := { r with prevX := some (t, v) }
  match x.type with
  | 1 =>
    let e := edgeStep x ts t (if jump then none else prevX) v r'
    (e.1.map fun t => (t, v), e.2)
  | 3 =>
    let hist := slopeHist x.m ts t v r.hist
    match slopeOf x.m ts hist v with
    | none => ([], { r' with hist := hist, prevS := none })
    | some s =>
      let f := levelStep x ts t (if jump then none else justBefore r.prevS ts t) s r.prev
      ((f.map fun t => (t, s)).toList, { r' with hist := hist, prevS := some (t, s), prev := some (x.cond s) })
  | _ =>
    let f := levelStep x ts t (if jump then none else prevX) v r.prev
    ((f.map fun t => (t, v)).toList, { r' with prev := some (x.cond v) })

/-- The stream units that watch a source in a configuration. -/
def Cfg.watchers (c : Cfg) (wide : Bool) (src : Nat) : List (Nat × UnitCfg) :=
  c.units.filter fun (_, x) => x.enable && decide (x.type ≤ 3) && ((x.word == 5) == wide) && x.src == src

/-- A stream's sample is offered to the units that watch it. `value` gives the word a unit watches. -/
def Device.offer (wide : Bool) (src ts t : Nat) (flags : BitVec 14) (value : Nat → F64) (d : Device) : Device :=
  if flags.getLsbD 0 || !(inSpans d.marks.runs t) then d
  else
    forList ((d.cfgAt t).watchers wide src) (fun (u, x) d =>
      if x.skipSettle && flags.getLsbD 3 then d
      else
        let e := streamStep x ts t (value x.word) (d.unitAt u t)
        let d := d.setUnitAt u t e.2
        forList e.1 (fun (time, y) d => d.detect u x ⟨time, t, F64.toF32 y, flags⟩) d) d

/-! ### FAULT units (R180) -/

/-- An occurrence of a cause on a channel. -/
def Device.occur (ch bit : Nat) (t td : Nat) (flags : BitVec 14) (d : Device) : Device :=
  let units := (d.cfgAt td).units.filter fun (_, x) =>
    x.enable && x.type == 6 && hasBit x.m bit && (x.src == 0xFFFF || x.src == ch)
  forList units (fun (u, x) d => d.detect u x ⟨256 * (t : Int), td, BitVec.ofNat 32 bit, flags⟩) d

/-! ### Closing a record (R189 to R195) -/

/-- The record's firings with one entry for each unit, the earliest of each, in unit order. [log 64 DEDUCED] -/
def OpenRec.entries (r : OpenRec) : List Firing :=
  (List.range 32).filterMap fun u =>
    (r.fires.filter fun f => f.unit == u).foldl (fun (b : Option Firing) f =>
      match b with
      | none => some f
      | some g => if f.t < g.t then some f else some g) none

/-- The record's time and primary unit (R189). -/
def primaryOf : List Firing → Option Firing
  | [] => none
  | f :: l =>
    match primaryOf l with
    | none => some f
    | some g => if g.t < f.t then some g else some f

/-- [log 64 DEDUCED] -/
def firedMask (l : List Firing) : Nat := (l.map fun f => 2 ^ f.unit).sum

/-- Whole ticks and fraction of a time. -/
def wholeOf (t : Int) : Nat := (t / 256).toNat
def fracOf (t : Int) : Nat := (t % 256).toNat

def entryBytes (f : Firing) : List Byte :=
  byteOf f.unit ++ byteOf f.type ++ byteOf (fracOf f.t) ++ zeros 1 ++ hiLo (wholeOf f.t) ++ leWord f.value

/-- TRIGGER payload (R195). -/
def recordBytes (grp : Nat) (prime : Firing) (l : List Firing) (recno : Word) (flags : BitVec 14) (rflags close : Nat) : List Byte :=
  hiLo (wholeOf prime.t) ++ byteOf (fracOf prime.t) ++ byteOf prime.unit ++ byteOf grp ++ byteOf l.length
    ++ leBytes 4 (firedMask l) ++ leWord recno ++ leBytes 4 flags.toNat ++ leBytes 4 rflags
    ++ leBytes 4 (Min.min (close - wholeOf prime.t) 0xFFFFFFFF) ++ l.flatMap entryBytes

/-- Schedule a pulse on each pin a unit names: whether an edge had to wait for C + 48 (R191). -/
def pulsesOf (x : UnitCfg) (t : Int) (close : Nat) : List (Nat × Nat × Nat) × Bool :=
  let s := wholeOf (t + 128) + x.outDelay
  let rise := if s < close + 48 then close + 48 else s
  ((List.range 4).filterMap fun p => if hasBit x.outpins p then some (p, rise, rise + x.outWidth) else none,
    decide (s < close + 48) && decide (x.outpins % 16 ≠ 0))

/-- The captures of a record, one for each distinct region: whether one was missed. [log 68 DEDUCED] -/
def Device.captures (regions : List Nat) (time : Int) (recno : Word) (late : Bool) (close : Nat) (d : Device) : Bool × Device :=
  regions.foldl (fun (m, d) r =>
    let x := d.startCapture r time recno late close
    (m || !x.1, x.2)) (false, d)

/-- A record closes: it carries out the union of its units' actions. [log 60 DEDUCED, 65 DEDUCED] -/
def Device.closeRecord (r : OpenRec) (d : Device) : Device :=
  let d := { d with trig := { d.trig with recs := d.trig.recs.erase r } }
  let l := r.entries
  match primaryOf l with
  | none => d
  | some prime =>
    let c := d.cfgAt r.inst
    let rec_ : List (Firing × UnitCfg) := l.filterMap fun f => (c.unit f.unit).map fun x => (f, x)
    let acts (k : Nat) := rec_.filter fun (_, x) => hasBit x.act k
    let regions := ((acts 2).map fun (_, x) => x.region).eraseDups
    let late := r.late || regions.any fun g => decide (prime.t + 256 * (c.closeDelay g : Int) < 256 * (r.close : Int))
    let recno := d.trig.recno
    let flags := r.fires.foldl (fun f x => f ||| x.flags) 0#14
    let caps := d.captures regions prime.t recno late r.close
    let outs : List (List (Nat × Nat × Nat) × Bool) := (acts 5).map fun (f, x) => pulsesOf x f.t r.close
    let outLate := outs.any fun x => x.2
    let pulses : List (Nat × Nat × Nat) := outs.flatMap fun x => x.1
    let rflags := bit01 late + 2 * bit01 outLate + 4 * bit01 caps.1 + 8 * bit01 r.forced
    let d := caps.2
    let msgs := ((acts 4).map fun (_, x) => (x.bcId, x.bcDest)).eraseDups.map fun (i, dest) =>
      (r.close + 96, dest, (⟨d.fab.address, i, wholeOf prime.t, fracOf prime.t, r.close, flags⟩ : TrigMsg))
    let d := { d with trig := { d.trig with recno := recno + 1#32, pulses := d.trig.pulses ++ pulses,
                                            msgs := d.trig.msgs ++ msgs } }
    let d := if (acts 3).isEmpty then d else d.ringBell (busUp r.close) srcTrigger
    let evs := firedMask ((acts 1).map (·.1))
    let d := d.raise evTrig0 (BitVec.ofNat 24 (evs % 65536 + 65536 * (rflags % 2) + 131072 * bit01 outLate + 262144 * bit01 caps.1))
    let d := d.raise evTrig1 (BitVec.ofNat 24 (evs / 65536))
    let d := d.countUnit prime.unit 2
    let d := if late then forList l (fun f d => d.countUnit f.unit 3) d else d
    if (acts 0).isEmpty then d
    else
      let s := 0x700 + prime.unit
      d.formCart 6 s (wholeOf prime.t) (d.tagAt (wholeOf prime.t)) flags 1
        (wordsOf (recordBytes r.grp prime l recno flags rflags r.close)) (r.close + deliveryMargin) (c.stream s).dest

/-- An instant lies before the next boundary. -/
def Device.inEpoch (t : Nat) (d : Device) : Bool := decide (t < boundary (d.epoch + 1))

def execRecordClose (grp : Fin 8) (key : Nat) (s : State) : Host.Outcome State Fault Refusal :=
  match s.dev.trig.recs.find? fun r => r.grp == grp.val && r.key == key with
  | some r => if s.dev.inEpoch r.close then onDev (fun d => (d.tickTo r.close).closeRecord r) s else .next s
  | none => .next s

/-! ### Pins (R181, R191) -/

/-- TRIG_OUT pins as the scheduled pulses drive them at an instant. -/
def Trig.drive (t : Nat) (x : Trig) : Trig :=
  let high (p : Nat) : Bool := x.pulses.any fun (q, a, b) => q == p && decide (a ≤ t) && decide (t < b)
  { x with outs := BitVec.ofNat 4 (bit01 (high 0) + 2 * bit01 (high 1) + 4 * bit01 (high 2) + 8 * bit01 (high 3)),
           pulses := x.pulses.filter fun (_, _, b) => decide (t < b) }

/-- A pulse of the pin has an edge at the instant. -/
def execTrigOutPulse (pin : Fin 4) (t : Nat) (s : State) : Host.Outcome State Fault Refusal :=
  if s.dev.trig.pulses.any fun (q, a, b) => q == pin.val && (a == t || b == t) then
    onDev (fun d => { d.tickTo t with trig := (d.tickTo t).trig.drive t }) s
  else .next s

/-- A level change that held 30 ticks: it passes, or it is dropped within 96 ticks of the last that passed. [log 66 DEDUCED] -/
def Device.pinEdge (pin : Nat) (rising : Bool) (t : Nat) (d : Device) : Device :=
  match tfind d.trig.pinLast pin with
  | some l =>
    if t < l + 96 then
      { d with cnt := { d.cnt with pin := tbump d.cnt.pin pin } }.raise evTrig0 (ebit 19)
    else pass d
  | none => pass d
where
  pass (d : Device) : Device :=
    { d with trig := { d.trig with pinLast := tinsert d.trig.pinLast pin t,
                                   pinLevel := if rising then d.trig.pinLevel ||| (1#4 <<< pin) else d.trig.pinLevel &&& ~~~(1#4 <<< pin) } }

/-- [log 67 DEDUCED] -/
def execTrigInEdge (pin : Fin 4) (rising : Bool) (t : Nat) (s : State) : Host.Outcome State Fault Refusal :=
  if inSpans s.dev.marks.runs t then onDev (fun d => (d.tickTo t).pinEdge pin.val rising t) s else .next s

/-- The last edge that its pin passed has held for the unit's filter. [log 67 DEDUCED] -/
def execExternalEdgeAccepted (u : Fin 32) (rising : Bool) (t : Nat) (s : State) : Host.Outcome State Fault Refusal :=
  match (s.dev.cfgAt t).unit u.val with
  | some x =>
    if x.enable && x.type == 7 && (x.sel == 2 || (x.sel == 0) == rising) && decide (tfind s.dev.trig.pinLast x.src = some t)
        && (s.dev.trig.pinLevel.getLsbD x.src == rising) then
      onDev (fun d => (d.tickTo (t + x.m)).detect u.val x ⟨256 * (t : Int), t, BitVec.ofNat 32 (bit01 rising), 0#14⟩) s
    else .next s
  | none => .next s

/-! ### Fabric messages (R182, R193) -/

/-- A TRIGGER message is offered to the FABRIC units. [log 67 DEDUCED] -/
def Device.trigMessage (m : TrigMsg) (t : Nat) (d : Device) : Device :=
  let late := decide (m.close + 48096 < t)
  let units := (d.cfgAt (if late then t else m.close)).units.filter fun (_, x) =>
    x.enable && x.type == 8 && x.m == m.id && (x.p1 == 0xFFF || x.p1 == m.origin)
  forList units (fun (u, x) d =>
    let time : Int := 256 * (m.time : Int) + m.frac
    d.detect u x ⟨time, m.close, BitVec.ofNat 32 m.id, m.flags⟩ (if late then some t else none)
      (decide (time + 256 * (x.p2 : Int) < 256 * (m.close : Int)))) d

def execFabricTriggerMessage (m : TrigMsg) (t : Nat) (s : State) : Host.Outcome State Fault Refusal :=
  if s.dev.fab.address = 0 then .next s else onDev (fun d => ((d.tickTo t).ctlRx m.origin).trigMessage m t) s

/-- Messages whose C + 96 has come leave; a broadcast reaches this device's own units too (R182). -/
def Device.sendTriggers (t : Nat) (d : Device) : Device :=
  let go := d.trig.msgs.filter fun (a, _, _) => decide (a ≤ t)
  let d := { d with trig := { d.trig with msgs := d.trig.msgs.filter fun (a, _, _) => !decide (a ≤ t) } }
  let d := forList (go.filter fun (_, dest, _) => dest != d.fab.address) (fun (_, dest, m) d => d.send (.trigger dest m)) d
  forList (go.filter fun (_, dest, _) => dest == 0xFFF || dest == d.fab.address) (fun (a, _, m) d => d.trigMessage m a) d

def execFabricTriggerSend (t : Nat) (s : State) : Host.Outcome State Fault Refusal :=
  onDev (fun d => (d.tickTo t).sendTriggers t) s

/-! ### trig.force and trig.query (R187, R197, R199, R243, R364) -/

/-- Force a unit at an instant. [log 63 DEDUCED] -/
def Device.forceAt (u : Nat) (x : UnitCfg) (t : Nat) (d : Device) : Device :=
  let d := { d with free := d.free + 1 }
  d.fire u x none false true ⟨256 * (t : Int), t, Config.freeWord (d.free - 1), 0#14⟩

/-- Requests of this epoch for a unit: a request held from the last epoch counts as one. -/
def UnitRun.forcedIn (e : Nat) (r : UnitRun) : Nat :=
  if r.forceEpoch = e then r.forceUsed else if r.forceHeld ∧ r.forceEpoch + 1 = e then 1 else 0

def trigForce : Handler := sizedTo 4 fun r d =>
  let u := u8 r.body 0
  match d.fw.eff.unit u with
  | none => refuse stBadField d
  | some x =>
    require (allZero r.body 1 3 && decide (u < 32) && x.enable) stBadField d <|
    let used := (d.unit u).forcedIn d.epoch
    match used with
    | 0 =>
      let t := (d.clk.time + 47) / 48 * 48
      let d := d.setUnit u fun y => { y with forceEpoch := d.epoch, forceUsed := 1, forceHeld := false }
      (some (Ans.ok (leBytes 8 t)), d.forceAt u x t)
    | 1 =>
      (some (Ans.ok (leBytes 8 (boundary (d.epoch + 1)))),
        d.setUnit u fun y => { y with forceEpoch := d.epoch, forceUsed := 2, forceHeld := true })
    | _ => refuse stDenied d

def unitCounters (u : Nat) (d : Device) : List Byte :=
  (List.range 4).flatMap fun i => leWord (tget 0#32 d.cnt.unit (4 * u + i))

def trigQuery : Handler := sizedTo 4 fun r d =>
  let i := u16 r.body 2
  let c := d.cfgSeen r
  if u8 r.body 1 ≠ 0 then refuse stBadField d
  else
    match u8 r.body 0 with
    | 0 =>
      require (decide (i < 32)) stBadField d <|
      let b := c.unitBounds chainLimit i
      let g := c.groupBounds ((c.unit i).map (·.rgrp) |>.getD 0)
      (some (Ans.ok (writeUnit i (c.unit i) ++ leBytes 8 b.1 ++ leBytes 8 b.2 ++ leBytes 8 g.2 ++ leBytes 8 g.1
        ++ unitCounters i d)), d)
    | 1 =>
      require (decide (i < 64)) stBadField d <|
      (some (Ans.ok (if (c.region i).type = 2 then leBytes 8 (c.closeDelay i) ++ leBytes 4 (c.guardOf i) else zeros 12)), d)
    | 2 =>
      (some (Ans.ok ((List.range 4).flatMap fun p => leWord (tget 0#32 d.cnt.pin p))), d)
    | _ => refuse stBadField d

def execTrigForce (src : ReqSource) (s : State) : Host.Outcome State Fault Refusal := fwRow 0x0803 trigForce src s
def execTrigQuery (src : ReqSource) (s : State) : Host.Outcome State Fault Refusal := fwRow 0x0802 trigQuery src s

end Sys2Proof.Machine
end

