-- ==== Sys2Proof/Machine/Bell.lean ====
section
/-! DEFINITION. The Bell (R316 to R318, R326) and Bells over the fabric (R371, R394). -/

namespace Sys2Proof.Machine

/-- R318: the least spacing of latched Bells, and the length of a `BELL_OUT` pulse (R316). -/
def bellSpacing : Nat := 3000

/-- R318: a Bell is latched unless one was latched less than 3,000 ticks ago, or it is local and a scheduled fabric Bell follows within 3,000 ticks. -/
def Bell.latches (b : Bell) (x : BellDue) : Bool :=
  (match b.lastLatched with
   | some t => decide (t + bellSpacing ≤ x.tick)
   | none => true) &&
  (decide (x.sources &&& srcFabric ≠ 0#5) ||
    !(b.due.any fun y => decide (y.sources &&& srcFabric ≠ 0#5) && decide (x.tick < y.tick) && decide (y.tick < x.tick + bellSpacing)))

/-- The copied half comes into view; it has by the time that another Bell can be latched (R317, R318). -/
def Bell.switch (b : Bell) : Bell :=
  match b.idleHalf with
  | some w => { b with window := some w, idleHalf := none }
  | none => b

/-- The latch, or the count of what is not latched. -/
def Device.latchBell (x : BellDue) (d : Device) : Device :=
  if d.bell.latches x then
    let d := { d with bell := d.bell.switch }
    { d with bell := { d.bell with idleHalf := some (d.snapshot x.tick x.sources), lastLatched := some x.tick } }
  else
    { d with bell := { d.bell with drops := d.bell.drops + 1#8 }, cnt := { d.cnt with bellsDropped := d.cnt.bellsDropped + 1#32 } }

/-- BELL units take RING, `BELL_IN` and fabric Bells (R183). [log 122 DEDUCED] -/
def unitSources : BitVec 5 := 7#5

/-- The lowest set bit below n, or n. [log 122 DEDUCED] -/
def lowestBit (n : Nat) (v : Nat) : Nat := ((List.range n).find? fun k => v / 2 ^ k % 2 == 1).getD n

/-- The units that a Bell fires: VALUE is the source's bit number. [log 122 DEDUCED] -/
def Device.fireBellUnits (x : BellDue) (d : Device) : Device :=
  let units := (d.cfgAt x.tick).units.filter fun (_, u) => u.enable && u.type == 10
  forList units (fun (k, u) d =>
    let m := (x.sources &&& unitSources &&& BitVec.ofNat 5 u.sel).toNat
    if m = 0 then d
    else d.detect k u ⟨256 * (x.tick : Int), x.tick, BitVec.ofNat 32 (lowestBit 5 m), 0#14⟩) d

/-- The pulse of `BELL_OUT`. -/
def Device.pulseBell (x : BellDue) (d : Device) : Device :=
  if (x.sources.setWidth 4) &&& d.bell.outSrc = 0#4 then d
  else { d with bell := { d.bell with outUntil := Max.max d.bell.outUntil (x.tick + bellSpacing) } }

/-- A Bell at its tick (R316, R317): counted, latched or not; a Bell of SNAP alone does nothing more. -/
def Device.ringAt (x : BellDue) (d : Device) : Device :=
  let d := d.pump d.clk.time
  let d := { d with bell := { d.bell with due := d.bell.due.erase x, count := d.bell.count + 1#32 } }
  let d := d.latchBell x
  if x.sources = srcSnap then d else (d.fireBellUnits x).pulseBell x

/-- `BELL_OUT` at an instant. -/
def Device.bellOut (t : Nat) (d : Device) : Bool := decide (t < d.bell.outUntil)

/-- The Bell due at a tick rings; at a boundary the boundary's own step rings it (R20). -/
def execBellTick (tick : Nat) (s : State) : Host.Outcome State Fault Refusal :=
  match s.dev.bell.due.find? (·.tick == tick) with
  | some x => if s.dev.clk.counting && s.dev.inEpoch tick then onDev (fun d => (d.tickTo tick).ringAt x) s else .next s
  | none => .next s

/-- R317: the copied half comes into view. -/
def execHoldingWindowSwitch (s : State) : Host.Outcome State Fault Refusal :=
  match s.dev.bell.idleHalf with
  | some _ => onDev (fun d => { d with bell := d.bell.switch }) s
  | none => .next s

/-- The edge of the sense `BELL_CTL.IN_EDGE` chooses, while `IN_EN` is set. -/
def execBellInEdge (rising : Bool) (t : Nat) (s : State) : Host.Outcome State Fault Refusal :=
  if s.dev.clk.counting && s.dev.pw.idReady && s.dev.bell.inEn && (rising != s.dev.bell.inEdge) then
    onDev (fun d =>
      let d := d.tickTo t
      { d with cnt := { d.cnt with bellInEdges := d.cnt.bellInEdges + 1#32 } }.ringBell (busUp (t + 48)) srcBellIn) s
  else .next s

/-! ### Bells over the fabric -/

/-- A partner's frame: held before its TICK, the Bell is due and acknowledged; later it is neither. -/
def execFabricBell (src : Nat) (tick : Nat) (s : State) : Host.Outcome State Fault Refusal :=
  if s.dev.fab.address = 0 then .next s
  else if s.dev.clk.time < tick then
    onDev (fun d => ((d.ctlRx src).ringBell tick srcFabric).send (.bellAck src tick)) s
  else onDev (Device.ctlRx src) s

/-- Missing addresses, at most 64 (R371). [log 121 DEDUCED] -/
def BellSched.missing (x : BellSched) : List Nat := (x.dests.filter fun a => !(x.acked.contains a)).take 64

/-- A scheduled Bell ends: OK, or what is missing. -/
def Device.endSched (x : BellSched) (d : Device) : Device :=
  let d := { d with bell := { d.bell with sched := d.bell.sched.erase x } }
  let miss := x.missing
  let st := if miss = [] then stOk else if miss.all d.reaches then stFabTimeout else stFabUnreachable
  d.completeOpt x.waiter st (miss.flatMap (leBytes 2))

def BellSched.done (x : BellSched) : Bool := x.missing.isEmpty

def execFabricBellAck (src : Nat) (tick : Nat) (s : State) : Host.Outcome State Fault Refusal :=
  match s.dev.bell.sched.find? fun x => x.tick == tick && x.dests.contains src with
  | none => .next s
  | some x =>
    onDev (fun d =>
      let d := d.ctlRx src
      let y := { x with acked := x.acked ++ [src] }
      let d := { d with bell := { d.bell with sched := d.bell.sched.map fun z => if z = x then y else z } }
      if y.done then d.endSched y else d) s

/-- The longest way of a frame: 64 hops of 750 ticks (R394). -/
def fabricSpan : Nat := 48000

/-- At a boundary: scheduled Bells whose acknowledgements can no longer come end; the others are sent again (R377). [log 121 DEDUCED] -/
def Device.boundaryScheds (b : Nat) (d : Device) : Device :=
  let missed := d.bell.sched.filter fun x => decide (x.tick + fabricSpan ≤ b)
  let d := forList missed Device.endSched { d with bell := { d.bell with planned := d.bell.planned.filter fun t => decide (b < t) } }
  forList d.bell.sched (fun x d =>
    if x.tick ≤ b then d
    else forList (x.dests.filter fun a => !(x.acked.contains a)) (fun a d => d.send (.bell a x.tick)) d) d

/-- R318: a Bell that waits at partners is scheduled until its tick, whoever has acknowledged it. Two fabric Bells lie within 3,000 ticks of each other. [log 121 DEDUCED] -/
def bellsClose (a b : Nat) : Bool := decide (a < b + bellSpacing) && decide (b < a + bellSpacing)

/-- R371. [log 120 DEDUCED] -/
def bellSchedule : Handler := sizedTo 16 fun r d =>
  let tick := u64 r.body 0
  let dest := u16 r.body 8
  let held := d.bell.planned ++ ((d.bell.due.filter fun x => decide (x.sources &&& srcFabric ≠ 0#5)).map (·.tick))
  require (decide (boundary (d.epoch + 4) ≤ tick) && tick % 16 == 0 && !(held.any (bellsClose tick)) && decide (1 ≤ dest)
      && decide (dest ≤ 0xFFF) && allZero r.body 10 6) stBadField d <|
  acceptLong r d fun d =>
    let dests := if dest = 0xFFF then d.fab.members.map (·.addr) else [dest]
    let x : BellSched := ⟨tick, dests, [], some r.waiter⟩
    let d := { d with bell := { d.bell with sched := d.bell.sched ++ [x] } }
    if dests = [] then d.endSched x
    else if dest ≠ 0xFFF ∧ !(d.reaches dest) then d.endSched x
    else { d with bell := { d.bell with planned := d.bell.planned ++ [tick] } }.send (.bell dest tick)

def execBellSchedule (src : ReqSource) (s : State) : Host.Outcome State Fault Refusal := fwRow 0x0B05 bellSchedule src s

end Sys2Proof.Machine
end

