-- ==== Sys2Proof/Machine/Demod.lean ====
section
/-! DEFINITION. From the wideband stream to a point's complex value: the accumulator's phase (R53, R54), the swap state and its sign (R63 to R65), the nulls of a NOTCH (R83), mixing and filtering over the window (R78 to R82, R94, R108, R449), the servo's response (R30), and the low-path fraction and CLIP of the window (R86, R87). -/

namespace Sys2Proof.Machine

/-! ### The accumulator (R53, R54) -/

/-- F·⌊t/4⌋ + P·2^32, with t less the steps of device time since the accumulator took its word. -/
def Nco.total (x : Nco) (t : Nat) : Nat := x.f * (((t : Int) - x.dds).toNat / 4) + x.ph * 2 ^ 32

/-- acc_p(t), in 2^−48 turn (R53). -/
def Nco.acc (x : Nco) (t : Nat) : Nat := x.total t % 2 ^ 48

/-- c(t), the number of accumulator wraps (R63). -/
def Nco.cycle (x : Nco) (t : Nat) : Nat := x.total t / 2 ^ 48

/-- The first instant at which the cycle count reaches a number. -/
def Nco.instant (x : Nco) (c : Nat) : Nat := ((4 * ceilDiv (c * 2 ^ 48 - x.ph * 2 ^ 32) x.f : Nat) + x.dds).toNat

/-- The settings at an instant: those of the last word taken at or before it. -/
def PointRun.ncoAt (x : PointRun) (t : Nat) : Option Nco := x.ncos.find? fun n => decide (n.from_ ≤ t)

/-- The accumulator takes a point's word and phase at an instant (R14, R47, R67); the exact relation of R53 holds again. -/
def PointRun.load (t : Nat) (c : PointCfg) (x : PointRun) : PointRun :=
  { x with ncos := ⟨t, c.f, c.ph, 0⟩ :: x.ncos.filter fun n => decide (n.from_ < t) }

/-! ### Current swapping (R63 to R65) -/

/-- The channel swaps currents: I mode, W3 or W4. -/
def ChanCfg.swaps (c : ChanCfg) : Bool := c.mode == 2 && decide (1 ≤ c.subform)

/-- Nswap at an instant. -/
def Device.nswapAt (n t : Nat) (d : Device) : Nat :=
  match (d.chan n).nswaps.find? fun x => decide (x.1 ≤ t) with
  | some x => x.2
  | none => ((d.cfgAt t).chan n).nswap

/-- s(t) of a cycle count. -/
def swapState (cycle nswap : Nat) : Nat := cycle / nswap % 2

/-- The demodulator's sign (R63): a W4 channel reads the reversed current with −1. -/
def demodSign (ch : ChanCfg) (s : Nat) : Int := if ch.mode = 2 ∧ ch.subform = 2 ∧ s = 1 then -1 else 1

/-! ### Windows and ready instants of a sample, with the Nswap in force (R64, R65, R82, R91) -/

def Device.winBefore (p t : Nat) (d : Device) : Nat := (d.cfgAt t).windowBefore p (d.nswapAt (p / 8) t)
def Device.winAfter (p t : Nat) (d : Device) : Nat := (d.cfgAt t).windowAfter p (d.nswapAt (p / 8) t)
def Device.pointDelay (p t : Nat) (d : Device) : Nat := (d.cfgAt t).readyDelay p (d.nswapAt (p / 8) t)

/-- Offsets, in wideband samples, of the instants in a window that begins `before` ticks before its instant and ends before the instant `after` ticks later. [log 186 DEDUCED] -/
def windowOffsets (before after : Nat) : List Int :=
  (List.range ((before + after) / 48)).map fun i => (i : Int) - (before / 48 : Nat)

/-! ### Nulls of a NOTCH (R83) -/

/-- Insert by magnitude, after those of the same magnitude. [log 187 DESIGN CHOICE] -/
def insertNull (x : Int) : List Int → List Int
  | [] => [x]
  | y :: l => if x.natAbs < y.natAbs then x :: y :: l else if x = y then y :: l else y :: insertNull x l

/-- The chopper products of a carrier word and a chopper frequency in Hz that receive nulls, in 2^−48 Hz: the 32 nearest of magnitude 0.45·fout to 31.25 MHz. -/
def notchNulls (f fch dec : Nat) : List Int :=
  let carrier : Int := 750000000 * f
  let all := (List.range 150).flatMap fun i =>
    let m : Int := (2 * i + 1) * fch * 2 ^ 48
    [m - carrier, -m - carrier, m, -m]
  let ok := all.filter fun x => decide (x.natAbs ≤ 31250000 * 2 ^ 48) && decide (562500000 * 2 ^ 48 ≤ 20 * dec * x.natAbs)
  (ok.foldl (fun l x => insertNull x l) []).take 32

/-- The nulls of a point: none but on a NOTCH whose channel chops. -/
def Cfg.nullsOf (c : Cfg) (p : Nat) : List Int :=
  let x := c.point p
  let fch := fchHz (c.chan (p / 8)).fch
  if x.response = 2 ∧ x.enable ∧ fch ≠ 0 then notchNulls x.f fch x.d else []

/-- The nulls computed for a configuration in force at an instant. -/
def PointRun.nullsAt (x : PointRun) (t : Nat) : List Int :=
  match x.nulls.find? fun n => decide (n.1 ≤ t) with
  | some n => n.2
  | none => []

/-- The nulls of a channel's points are held from the boundary of the commit that they were computed for. -/
def Device.holdNulls (n b : Nat) (d : Device) : Device :=
  forNat 8 (fun k d =>
    let p := 8 * n + k
    let l := d.fw.eff.nullsOf p
    if (d.pt p).nullsAt b = l then d else d.setPt p fun x => { x with nulls := (b, l) :: x.nulls }) d

/-! ### Mixing and filtering (R78 to R82) -/

/-- The filter that gives the sample of an instant. -/
def PointRun.filterAt (x : PointRun) (t : Nat) : Option Filter := x.filters.find? fun f => decide (f.born ≤ t)

/-- A wideband instant enters a filter as zero: before it began (R68, R94), or after a ramp-down (R449). -/
def Filter.blanks (f : Filter) (u : Nat) : Bool := decide (u < f.born) || f.zeroAfter.any fun z => decide (z < u)

/-- The converted sample that enters a filter at an instant, if one does. -/
def ChanRun.wideFor (c : ChanRun) (f : Filter) (u : Nat) : Option WideRec :=
  if f.blanks u then none else c.wides.find? fun w => w.t == u

/-- The instant whose configuration a filter's sample at an instant belongs to: in the ramp-down of its channel, those before its boundary (R49, R449). -/
def Filter.configAt (f : Filter) (u : Nat) : Nat :=
  match f.zeroAfter with
  | some z => Min.min u (z - rampTicks - 1)
  | none => u

/-- One wideband sample mixed with the point's accumulator: 2j·x·e^(−jθ), in FS_L/2^24 and 256 fraction bits; x against the full scale of gain gl (R78, R108), with the sign of the swap state (R63), which in a ramp-down is that of the old settings (R449). -/
def Device.mixed (p gl : Nat) (f : Filter) (u : Nat) (d : Device) : Int × Int :=
  let n := p / 8
  match (d.chan n).wideFor f u, (d.pt p).ncoAt u with
  | some w, some o =>
    let ch := (d.cfgAt u).chan n
    let v := f.configAt u
    let sign := demodSign ((d.cfgAt v).chan n) (swapState (o.cycle u) (d.nswapAt n v))
    let v : Int := 2 * sign * w.value * (8 * gl / ch.gl : Nat)
    (v * sinTurnFix 48 (o.acc u), v * cosTurnFix 48 (o.acc u))
  | _, _ => (0, 0)

def pairAdd (a b : Int × Int) : Int × Int := (a.1 + b.1, a.2 + b.2)

/-- The swap pair's average about an instant: the mean over the wideband instants from `half` ticks before it to before `half` ticks after it; without swapping, the instant's own mixed sample (R64). [log 186 DEDUCED] -/
def Device.pairMean (p gl half : Nat) (f : Filter) (v : Int) (d : Device) : Int × Int :=
  let l := windowOffsets half half
  match l with
  | [] => d.mixed p gl f v.toNat
  | _ =>
    let s := l.foldl (fun a k => pairAdd a (d.mixed p gl f (v + 48 * k).toNat)) (0, 0)
    (s.1 / (l.length : Int), s.2 / (l.length : Int))

/-- A free coefficient of a point's response at an offset but zero: a NOTCH without nulls has FLAT's; FLAT and NOTCH have linear phase, with the same coefficient at the opposite offset and none at or beyond the ends of their windows (R81 to R83). -/
def designTap (x : PointCfg) (nulls : List Int) (k : Int) : Int :=
  let r := if x.response = 2 ∧ nulls = [] then 0 else x.response
  if r = 1 then Config.filterTap r x.d nulls k
  else if (if r = 2 then 25 else 21) * x.d ≤ k.natAbs then 0
  else Config.filterTap r x.d nulls k.natAbs

/-- The coefficient of a point's response at an offset: that of the offset zero makes the gain there unity (R81). -/
def tapOf (x : PointCfg) (nulls : List Int) (k : Int) : Int :=
  if k = 0 then
    2 ^ 60 - (((windowOffsets (filterBefore x) (filterAfter x)).filter fun i => decide (i ≠ 0)).map fun i => designTap x nulls i).sum
  else designTap x nulls k

/-- What the servo of a Q-mode channel does to a carrier, divided out: 1 − j·2 Hz/f_p (R30). [log 188 DEDUCED] -/
def servoInverse (f : Nat) : Cplx := ⟨F64.one, F64.neg (F64.ofFrac (Frac.mk' (2 * 2 ^ 48) (750000000 * f)))⟩

/-- What the demodulator gives for a sample: its complex value before the owner correction, the sum of the window's low-path weights in 1/32, the number of its wideband samples, and whether one is tagged CLIP. -/
structure Demod where
  z : Cplx
  lp : Nat
  n : Nat
  clip : Bool
  deriving DecidableEq, Repr

/-- z (R78): the filtered mixed samples, rounded once to binary64, with the servo's response divided out in Q mode. [log 189 DESIGN CHOICE] -/
def Device.filtered (p t : Nat) (f : Filter) (d : Device) : Cplx :=
  let c := d.cfgAt t
  let x := c.point p
  let ch := c.chan (p / 8)
  let half := (c.swapDelay p (d.nswapAt (p / 8) t)).floor.toNat
  let nulls := (d.pt p).nullsAt t
  let s := (windowOffsets (filterBefore x) (filterAfter x)).foldl (fun a k =>
    let h := tapOf x nulls k
    let y := d.pairMean p ch.gl half f ((t : Int) + 48 * k)
    pairAdd a (h * y.1, h * y.2)) (0, 0)
  let z : Cplx := ⟨F64.ofScaled s.1 (-340), F64.ofScaled s.2 (-340)⟩
  if ch.mode = 1 then Cplx.mul z (servoInverse x.f) else z

/-- The demodulated sample at t (R78, R86, R87). -/
def Device.demod (p t : Nat) (f : Filter) (d : Device) : Demod :=
  let l := windowOffsets (d.winBefore p t) (d.winAfter p t)
  let ws := l.filterMap fun k => (d.chan (p / 8)).wideFor f ((t : Int) + 48 * k).toNat
  { z := d.filtered p t f, lp := (ws.map (·.weight)).sum, n := l.length, clip := ws.any (·.clip) }

/-- The channel has converted every wideband sample that enters the window of the sample at t. -/
def Device.windowTaken (p t : Nat) (f : Filter) (d : Device) : Bool :=
  let last := t + 48 * ((d.winBefore p t + d.winAfter p t) / 48 - d.winBefore p t / 48) - 48
  let w := (d.chan (p / 8)).wlast
  decide (last ≤ w) || f.zeroAfter.any fun z => decide (z < w + 48)

end Sys2Proof.Machine
end

