-- ==== Sys2Proof/Machine/Streams.lean ====
section
/-! DEFINITION. What every stream shares: flags by instant (R87), open carts and their closing (R21, R240, R241), tallies (R215 to R219) and analogue outputs (R246 to R248). -/

namespace Sys2Proof.Machine

/-! ### Flags (R87) -/

def fInvalid : Nat := 0
def fClip : Nat := 1
def fLow : Nat := 2
def fSettle : Nat := 3
def fCal : Nat := 4
def fCoast : Nat := 5
def fClksw : Nat := 6
def fHoldover : Nat := 7
def fSlewing : Nat := 8
def fTone : Nat := 9
def fChange : Nat := 10
def fDoubt : Nat := 11
def fSupply : Nat := 12
def fParity : Nat := 13

def flag (k : Nat) (b : Bool) : BitVec 14 := if b then 1#14 <<< k else 0#14

/-- The flags that an aligned instant alone decides (R27, R87). -/
def Device.instantFlags (t : Nat) (d : Device) : BitVec 14 :=
  let m := d.marks
  let e := t / Config.epochTicks
  flag fInvalid (m.vref.contains e) ||| flag fCoast (inSpans m.coast t) ||| flag fHoldover (inSpans m.holdover t)
    ||| flag fSlewing (inSpans m.slewing t) ||| flag fDoubt (inSpans m.indoubt t) ||| flag fSupply (inSpans m.warn t)
    ||| flag fClksw (m.clksw.any fun x => x == e || x + 1 == e)

/-- PARITY_REPAIRED for a channel, and for a point of it (R87, R307). [log 176 DEDUCED] -/
def Device.parityMark (n : Nat) (p : Option Nat) (t : Nat) (d : Device) : Bool :=
  d.marks.parity.any fun (e, c, q) =>
    e == t / Config.epochTicks && ((c == some n && (q.isNone || q == p)) || (q.isSome && q == p))

/-- A stream's sample is its first after a swap that affects it (R21, R87). -/
def Device.isCut (s t : Nat) (d : Device) : Bool := cutBy d.port.cuts s t

/-! ### Open carts (R240) -/

/-- Period of a job's results in ticks, rounded up. -/
def Cfg.jobPeriod (c : Cfg) (j : JobCfg) : Nat :=
  ceilDiv (j.hop * j.avgN * c.jobTs j) (if j.replay then 2 ^ j.shift else 1)

/-- Spacing of a stream's elements (R241). -/
def Cfg.elemSpacing (c : Cfg) (s : Nat) : Nat :=
  if s < 0x480 then c.streamTs s else if s < 0x580 then ((c.job (s - 0x500)).map c.jobPeriod).getD 0 else 0

/-- Delivery bound of a cart of points, wideband samples, results or tally records (R241). -/
def Cfg.cartBound (c : Cfg) (s : Nat) (o : OpenCart) : Nat :=
  let x := c.stream s
  o.ready + deliveryMargin + (if 0x800 ≤ s then x.fillTo else Min.min (x.spc * c.elemSpacing s) x.fillTo)

/-- Close a stream's open cart. -/
def Device.shut (s : Nat) (d : Device) : Device := d.closeCart s fun o => (d.cfgAt o.at_).cartBound s o

/-- Two samples of a point's stream come from different filters, and so from different sides of a restart (R21, R94). -/
def Device.apart (s t u : Nat) (d : Device) : Bool :=
  let born (v : Nat) : Option Nat := ((d.pt s).filterAt v).map (·.born)
  decide (s < 0x400) && born t != born u

/-- Before an element of n bytes at t: a swap's cut, an element from the other side of a filter restart and the length limit close the open cart. -/
def Device.makeRoom (s t n : Nat) (d : Device) : Device :=
  let cut := d.isCut s t || (tfind d.port.open_ s).any fun o => d.apart s o.at_ t
  let long := (tfind d.port.open_ s).any fun o => decide (4 * 4096 < o.bytes.length + n)
  let d := if cut || long then d.shut s else d
  { d with port := { d.port with cuts := cutDone d.port.cuts s t } }

/-- Append an element at t, which follows the configuration of the instant `at_`, to a stream's open cart, or begin one. -/
def Device.pushElem (s t at_ ready : Nat) (flags : BitVec 14) (bytes : List Byte) (d : Device) : Device :=
  let o := match tfind d.port.open_ s with
    | some o => { o with flags := o.flags ||| flags, count := o.count + 1, bytes := o.bytes ++ bytes }
    | none => ⟨t, at_, ready, d.tagAt at_, flags, 1, bytes⟩
  let d := { d with port := { d.port with open_ := tinsert d.port.open_ s o } }
  if ((d.cfgAt o.at_).stream s).spc ≤ o.count then d.shut s else d

/-- In HEARTH every stream has ended at H (R406). -/
def Device.hearthEnds (next : Nat) (d : Device) : Bool :=
  decide (d.pw.mode = .hearth) && (match d.marks.runs with
    | (_, some e) :: _ => decide (e ≤ next)
    | _ => false)

/-- The last sample before a swap that affects the stream, or before H, has gone (R21, R406). [log 162 DEDUCED] -/
def Device.cutAfter (s next : Nat) (d : Device) : Device :=
  if cutBy d.port.cuts s next || d.hearthEnds next then d.shut s else d

/-- An element of a stream for its carts: a stream with no destination forms none. -/
def Device.appendElem (s t ready : Nat) (flags : BitVec 14) (bytes : List Byte) (d : Device) : Device :=
  let d := d.makeRoom s t bytes.length
  if ((d.cfgAt t).stream s).dest = 0 then d else d.pushElem s t t ready flags bytes

/-- R240: FILL_TO ticks have passed since the first element's ready instant. -/
def execCartFillTimeout (stream t : Nat) (s : State) : Host.Outcome State Fault Refusal :=
  match tfind s.dev.port.open_ stream with
  | some o =>
    if o.ready + ((s.dev.cfgAt o.at_).stream stream).fillTo ≤ t then onDev (fun d => (d.tickTo t).shut stream) s
    else .next s
  | none => .next s

/-! ### Tallies -/

/-- The state of a point's tally for an instant. -/
def Device.tallyAt (p t : Nat) (d : Device) : TallyRun :=
  match d.gran.oldTallies.find? fun (v, b, _) => v == p && decide (t < b) with
  | some (_, _, r) => r
  | none => tget TallyRun.init d.gran.tallies p

def setOldTally (p t : Nat) (r : TallyRun) : List (Nat × Nat × TallyRun) → Option (List (Nat × Nat × TallyRun))
  | [] => none
  | (v, b, x) :: l => if v = p ∧ t < b then some ((v, b, r) :: l) else (setOldTally p t r l).map ((v, b, x) :: ·)

def Device.setTallyAt (p t : Nat) (r : TallyRun) (d : Device) : Device :=
  match setOldTally p t r d.gran.oldTallies with
  | some l => { d with gran := { d.gran with oldTallies := l } }
  | none => { d with gran := { d.gran with tallies := tput TallyRun.init d.gran.tallies p r } }

/-- A record of 12 bytes (R217). -/
def tallyBytes (delta : Nat) (value : Word) (p flags : Nat) : List Byte :=
  leBytes 4 delta ++ leWord value ++ leBytes 2 p ++ leBytes 2 flags

/-- Write one record to a TALLY region, a ring of records (R218); in self-refresh the stack keeps its contents (R200). -/
def Device.tallyWrite (r : Nat) (bytes : List Byte) (flags : BitVec 14) (d : Device) : Device :=
  if d.gran.selfRefresh then d
  else
  let cap := (d.fw.eff.region r).capacity
  let x := d.region r
  let wraps := decide (0 < x.serial) && x.serial % cap == 0
  let all := x.tally ++ [⟨bytes, x.serial, flags, false⟩]
  let d := d.setRegion r fun y => { y with tally := all.drop (all.length - cap), serial := y.serial + 1 }
  (d.countRegion r cntWritten).wrap r wraps

/-- Store a record of a point to its tally's destinations (R218, R219). -/
def Device.tallyStore (p t ready : Nat) (c : TallyCfg) (first hb : Bool) (value : Word) (flags : BitVec 14) (d : Device) : Device :=
  let r := d.tallyAt p t
  let escape := first || !r.any || r.step || decide (255 ≤ r.count)
  let word := flags.toNat + (if hb then 16384 else 0)
  let d :=
    if c.toRegion && decide ((d.fw.eff.region c.region).type = 3) && decide ((d.region c.region).eff ≤ t) then
      let d := d.pump (d.clk.time - 1)
      let d := if escape then d.tallyWrite c.region (tallyBytes (t / 2 ^ 32) (BitVec.ofNat 32 t) p 32768) 0#14 else d
      d.tallyWrite c.region (tallyBytes (if escape then 0 else t - r.tPrev) value p word) flags
    else d
  let s := 0x800 + p
  let d :=
    if c.toStream then
      let fl := flags ||| flag fChange (d.isCut s t)
      let d := d.makeRoom s t 12
      if ((d.cfgAt t).stream s).dest = 0 then d
      else
        let delta := if (tfind d.port.open_ s).isSome then t - r.cartT else 0
        d.pushElem s t t ready fl (tallyBytes delta value p word)
    else d
  let inv := flags.getLsbD fInvalid
  d.setTallyAt p t
    { r with any := true, tPrev := t, eLast := if inv then r.eLast else some value, count := if escape then 1 else r.count + 1,
             step := false, cartT := t }

/-- One sample of a point on its tally (R216). [log 72 DEDUCED] -/
def Device.tallySample (p t ready ts : Nat) (fresh : Bool) (e : F32) (flags : BitVec 14) (d : Device) : Device :=
  let c := (d.cfgAt t).tally p
  if !c.enable || !(inSpans d.marks.runs t) then d
  else
    let r := d.tallyAt p t
    let inv := flags.getLsbD fInvalid
    let first := !r.any || fresh
    let turned := r.any && (inv != r.inv)
    let moved := !inv && r.eLast.any fun l => F64.lt (F64.ofF32 c.deadband) (F64.absDiff (F64.ofF32 e) (F64.ofF32 l))
    let hb := decide (Config.epochTicks * c.heartbeat ≤ t - r.tPrev)
    let d :=
      if first || turned || moved || hb then
        d.tallyStore p t ready c first (!(first || turned || moved)) (if inv then F32.qnan else e) flags
      else d
    let r := d.tallyAt p t
    (d.setTallyAt p t { r with inv := inv }).cutAfter (0x800 + p) (t + ts)

/-! ### Analogue outputs -/

/-- The code an output computes from E (R247). -/
def aoutCode (c : AoutCfg) (e : F32) : Nat :=
  let u := F64.add (F64.mul (F64.ofF32 c.scale) (F64.ofF32 e)) (F64.ofF32 c.offset)
  let v := F64.mul u (F64.ofNat 1048576)
  if F64.isFinite v then (clampInt 0 1048575 (F64.roundInt v)).toNat
  else if v.getLsbD 63 then 0 else 1048575

/-- Ticks from a sample's ready instant to the settled output (R92). -/
def aoutTicks : Nat := 2400

/-- What an output drives at an instant: the newest code that has reached it. -/
def PortSt.aoutAt (x : PortSt) (a t : Nat) : Nat :=
  x.aoutNext.foldl (fun v y => if y.2.1 = a ∧ y.1 ≤ t then y.2.2.1 else v) (tget 524288 x.aouts a)

/-- Codes whose instant has come have reached their outputs. -/
def Device.aoutReach (t : Nat) (d : Device) : Device :=
  let aouts := (d.port.aoutNext.filter fun y => decide (y.1 ≤ t)).foldl (fun l y => tput 524288 l y.2.1 y.2.2.1) d.port.aouts
  { d with port := { d.port with aouts := aouts, aoutNext := d.port.aoutNext.filter fun y => decide (t < y.1) } }

/-- An output takes a new code: a value, or SAFE. -/
def Device.aoutPut (a due code : Nat) (value : Bool) (d : Device) : Device :=
  { d with port := { d.port with aoutNext := d.port.aoutNext ++ [(due, a, code, value)], driven := tput false d.port.driven a value } }

/-- A point's sample on the outputs that follow it, in RUN: they reach the new value at r + 2,400. -/
def Device.aoutSample (p t ready : Nat) (e : F32) (flags : BitVec 14) (d : Device) : Device :=
  if d.pw.mode ≠ .run ∨ !(inSpans d.marks.runs t) then d
  else
    forList ((d.cfgAt t).aouts.filter fun (a, c) => c.enable && c.point == p && (d.fw.eff.aout a).enable) (fun (a, c) d =>
      let bad := flags.getLsbD fInvalid || (c.settleAsInvalid && flags.getLsbD fSettle)
      if bad then (if c.onInvalidSafe then d.aoutPut a (ready + aoutTicks) c.safe false else d)
      else d.aoutPut a (ready + aoutTicks) (aoutCode c e) true) (d.aoutReach d.clk.time)

/-- An output stands at its SAFE code, and nothing is on its way to it. -/
def Device.aoutSafe (a code : Nat) (d : Device) : Device :=
  { d with port := { d.port with aouts := tput 524288 d.port.aouts a code, driven := tput false d.port.driven a false,
                                 aoutNext := d.port.aoutNext.filter fun y => y.2.1 != a } }

/-- Every output that is disabled, or outside RUN, drives its SAFE code; so does one in RUN that no value has yet driven (R247, R248). -/
def Device.settleAouts (d : Device) : Device :=
  forNat 16 (fun a d =>
    let c := d.fw.eff.aout a
    if d.pw.mode = .run ∧ c.enable ∧ (tget false d.port.driven a || d.port.aoutNext.any (·.2.1 == a)) then d else d.aoutSafe a c.safe) (d.aoutReach d.clk.time)

end Sys2Proof.Machine
end

