-- ==== Sys2Proof/Machine/CalRun.lean ====
section
/-! DEFINITION. The measurements of a running `cal.point`: their spans, what they count and the restarts that samples force (R257). -/

namespace Sys2Proof.Machine

/-- The measurement whose span holds a sample's window. -/
def Cal.spanOf (c : Cal) (p a b : Nat) : Option (Nat × Nat × Nat × Nat) :=
  c.spans.find? fun (q, _, x, y) => q == p && decide (x ≤ a) && decide (b ≤ y)

/-- A measurement that follows another: of its point, or on the bus of a later point of its channel. [log 173 DEDUCED] -/
def Cal.follows (c : Cal) (p half q h : Nat) : Bool :=
  (q == p && decide (half < h)) || (!c.inSitu && q / 8 == p / 8 && decide (p < q))

/-- A measurement starts again at a boundary; those that follow move back by the same amount. -/
def Cal.restart (x : Nat × Nat × Nat × Nat) (b : Nat) (c : Cal) : Cal :=
  let finish := b + c.dwell * Config.epochTicks
  let shift := finish - x.2.2.2
  let n := c.restarts + 1
  { c with
    spans := c.spans.map fun y =>
      if y = x then (x.1, x.2.1, b, finish)
      else if c.follows x.1 x.2.1 y.1 y.2.1 then (y.1, y.2.1, y.2.2.1 + shift, y.2.2.2 + shift)
      else y
    sums := c.sums.filter fun y => !(y.1 == 2 * x.1 + x.2.1 || c.follows x.1 x.2.1 (y.1 / 2) (y.1 % 2))
    restarts := n
    restartPt := if n = 3 then x.1 else c.restartPt }

/-- A measurement counts a sample, whose value is added in binary64 as the samples come; its half is that of its instant. [log 215 DESIGN CHOICE] -/
def CalSum.count (first low bad : Bool) (z : Cplx) (x : CalSum) : CalSum :=
  let x := { x with n := x.n + 1, sum := Cplx.add x.sum z, low := x.low || low, bad := x.bad || bad }
  if first then { x with n1 := x.n1 + 1, sum1 := Cplx.add x.sum1 z } else { x with n2 := x.n2 + 1, sum2 := Cplx.add x.sum2 z }

/-- Warning thresholds of the rails in volts (R410). -/
def warnLevels : List F64 := [dec 76 100, dec 855 1000, dec 171 100, dec 171 100, dec 475 100, dec 1045 1000]

/-- The lowest rail in warning. -/
def Device.warnRail (d : Device) : Nat := ((List.range 6).find? fun i => d.pw.warn.getLsbD i).getD 0

/-- The threshold of a rail, and its voltage as last measured (R261). [log 217 DEDUCED] -/
def Device.supplyFound (rail : Nat) (d : Device) : F64 × F64 := (warnLevels.getD rail 0#64, F64.ofF32 (d.pw.rails.getD rail 0#32))

/-- The SUPPLY check fails on a channel, where it does not already fail on a lower one. -/
def Cal.supplyLow (n : Nat) (v : F64 × F64) (c : Cal) : Cal :=
  if c.supply.any fun x => decide (x.1 ≤ n) then c else { c with supply := some (n, c.warned.getD v) }

/-- A sample of a calibrated point that counts restarts its measurement when it carries `CLKSW`, `TIMEBASE_COAST` or `PARITY_REPAIRED`, and else enters it. -/
def Device.calSample (p t lpf : Nat) (z : Cplx) (flags : BitVec 14) (d : Device) : Device :=
  match d.work.cal with
  | none => d
  | some c =>
    if c.level.isNone || flags.getLsbD fSettle then d
    else
      match c.spanOf p (t - d.winBefore p t) (t + d.winAfter p t) with
      | none => d
      | some x =>
        let c := if flags.getLsbD fClksw || flags.getLsbD fCoast || flags.getLsbD fParity then c.restart x (boundary (d.epoch + 1))
          else
            let enter := CalSum.count (decide (2 * t < x.2.2.1 + x.2.2.2)) (lpf != 0) (flags.getLsbD fInvalid || flags.getLsbD fClip) z
            let c := { c with sums := tmod CalSum.zero c.sums (2 * p + x.2.1) enter }
            if flags.getLsbD fSupply then c.supplyLow (p / 8) (d.supplyFound d.warnRail) else c
        { d with work := { d.work with cal := some c } }

end Sys2Proof.Machine
end

