-- ==== Sys2Proof/Machine/Validate.lean ====
section
/-! DEFINITION. Whether a whole configuration is valid, with the failures in the order of R347 step 5: relations (R16 and every relation rule), WRONG_MODE (R232), DEPENDENCY_CYCLE (R121, R186), PLAN_CLASH (R69), OVER_BUDGET (R244), MEMORY_SHORT (R204, R211). -/

namespace Sys2Proof.Machine

/-! ### Dependency graphs: each node names at most one source -/

/-- Follow sources from a node for at most a number of links. -/
def walk (next : Nat → Option Nat) : Nat → Nat → List Nat
  | 0, p => [p]
  | k + 1, p =>
    match next p with
    | none => [p]
    | some q => p :: walk next k q

/-- The cycle through a node, from that node in the order of its sources. -/
def cycleAt (next : Nat → Option Nat) (fuel p : Nat) : Option (List Nat) :=
  let rec go : Nat → Nat → Option (List Nat)
    | 0, _ => none
    | k + 1, q =>
      match next q with
      | none => none
      | some r => if r = p then some [q] else (go k r).map (q :: ·)
  go fuel p

/-- The first cycle among nodes, from its lowest node. -/
def firstCycle (next : Nat → Option Nat) (fuel : Nat) : List Nat → Option (List Nat)
  | [] => none
  | p :: ps =>
    match cycleAt next fuel p with
    | some c => some c
    | none => firstCycle next fuel ps

/-- A chain off every cycle has more than four links (R121, R186). -/
def chainTooLong (next : Nat → Option Nat) (fuel : Nat) (p : Nat) : Bool :=
  let w := walk next fuel p
  decide (chainLimit + 1 < w.length) && (w.getLast?.any fun e => (next e).isNone)

/-- The temperature source of an enabled point. -/
def Cfg.tempNext (c : Cfg) (p : Nat) : Option Nat := if c.pointOn p then c.tempPoint p else none

def Cfg.linkedPoints (c : Cfg) : List Nat := (c.lins.map (·.1)).filter fun p => (c.tempNext p).isSome

/-- The sequencer input of an enabled unit. -/
def Cfg.seqNext (c : Cfg) (u : Nat) : Option Nat :=
  match c.unit u with
  | some x => if x.enable && (x.seqmode == 1 || x.seqmode == 2) then some x.seqin else none
  | none => none

def Cfg.linkedUnits (c : Cfg) : List Nat := (c.units.map (·.1)).filter fun u => (c.seqNext u).isSome

def Cfg.tempCycle (c : Cfg) : Option (List Nat) :=
  firstCycle c.tempNext (c.linkedPoints.length + 1) c.linkedPoints
def Cfg.tempTooLong (c : Cfg) : Bool :=
  c.linkedPoints.any (chainTooLong c.tempNext (c.linkedPoints.length + 1))
def Cfg.seqCycle (c : Cfg) : Option (List Nat) := firstCycle c.seqNext (c.linkedUnits.length + 1) c.linkedUnits
def Cfg.seqTooLong (c : Cfg) : Bool := c.linkedUnits.any (chainTooLong c.seqNext (c.linkedUnits.length + 1))

/-- The list of a cycle: its length and at most 16 of its nodes (R121). -/
def cycleReport (l : List Nat) : List Byte := leBytes 4 l.length ++ (l.take 16).flatMap (leBytes 2)

/-! ### Relations -/

/-- Window sum S1 of a user table at size N, in binary64 (R149, R150). -/
def userS1 (t : Tbl F32) (w n : Nat) : F64 :=
  (List.range n).foldl (fun s i =>
    F64.add s (F64.ofF32 (tget 0#32 t (windowKey w (if i ≤ n / 2 then i else n - i))))) F64.zero

def userWindowOk (t : Tbl F32) (w n : Nat) : Bool :=
  (List.range (n / 2 + 1)).all (fun i => F32.isFinite (tget 0#32 t (windowKey w i))) && F64.lt F64.zero (userS1 t w n)

/-- A replay job's slot holds a completed capture, in a region the commit does not discard (R166, R205); a job that the commit leaves as it is names no slot anew. -/
def replayOk (c live : Cfg) (regions : Tbl RegionRun) (i : Nat) (j : JobCfg) : Bool :=
  let r := c.region j.src
  r.type == 2 && decide (j.slot < r.slots) && decide (live.region j.src = r)
    && ((j.srcKind == 2) == decide (0x400 ≤ r.first))
    && (live.job i == some j || (tget Slot.init (tget RegionRun.init regions j.src).slots j.slot).state == .done)

/-- The relations of a job's own fields and of its user window, of a disabled job too (R145, R150). -/
def Cfg.jobFits (c : Cfg) (i : Nat) (j : JobCfg) : Bool :=
  decide (j.binLo + j.binCnt ≤ j.bins) && decide (j.decLo + j.decC * j.decM ≤ j.bins)
  && !(j.decC == 0 && (j.mask == 1 || hasBit j.out 4)) && !(hasBit j.out 3 && j.nbands == 0)
  && (j.out != 0 || j.mask == 1 || c.maps.any fun (_, m) => m.enable && m.job == i)
  && (j.window != 5 || userWindowOk c.windows j.wsel j.size)

def Cfg.jobOk (c live : Cfg) (regions : Tbl RegionRun) (i : Nat) (j : JobCfg) : Bool :=
  (match j.srcKind with
   | 0 => c.chanOn j.src
   | 1 => c.pointOn j.src
   | _ => replayOk c live regions i j)
  && (List.range j.nbands).all (fun b =>
      match tfind c.bands (bandKey i b) with
      | none => false
      | some (lo, hi) => decide (lo ≤ hi) && decide (hi < j.bins) && decide (hi - lo < 65536))

def Cfg.mapOk (c : Cfg) (i : Nat) (m : MapCfg) : Bool :=
  (match c.job m.job with
   | some j => j.enable && j.decC != 0
   | none => false)
  && (c.region m.region).type == 4 && decide (2097152 ≤ (c.region m.region).capacity)
  && !(c.maps.any fun (k, x) => k != i && x.enable && x.region == m.region)

def Cfg.regionOk (c : Cfg) (i : Nat) (r : RegionCfg) : Bool :=
  let last := r.first + r.count - 1
  let inRange (lo hi : Nat) : Bool := decide (lo ≤ r.first) && decide (last ≤ hi)
  match r.type with
  | 0 => true
  | 3 => true
  | 5 => true
  | 4 => decide (2097152 ≤ r.capacity)
  | t =>
    let members := (List.range r.count).map (r.first + ·)
    (inRange 0 0x3FF || inRange 0x400 0x47F || (t == 1 && inRange 0x500 0x57F))
    && members.all c.streamOn
    && (decide (0x500 ≤ r.first) || r.capacity % blockLen r.first == 0)
    && (t != 2 || decide (0x400 ≤ r.first) || members.all fun s => (c.point s).d == (c.point r.first).d)
    && !(c.regions.any fun (k, x) =>
        k != i && x.type == t && decide (r.first < x.first + x.count) && decide (x.first < r.first + r.count))

/-- R4: the epochs stand in an order, or are equal. -/
def epochOrdered (a b : Nat) : Bool := (a + 2 ^ 32 - b % 2 ^ 32) % 2 ^ 32 != 2 ^ 31

/-- The relations of a unit's own fields, of a disabled unit too (R175, R183). -/
def UnitCfg.fits (effect : Nat) (x : UnitCfg) : Bool :=
  match x.type with
  | 2 => F32.le x.a x.b
  | 9 => if x.sel = 0 then decide (x.p2 < x.p1) else epochOrdered x.p2 effect
  | _ => true

/-- The relations of an enabled unit with its sources (R16, R175). [log 241 DEDUCED] -/
def Cfg.unitOk (c : Cfg) (x : UnitCfg) : Bool :=
  (match x.type with
   | 4 => (c.job x.src).any fun j => j.enable && j.mask == 1
   | 5 => (c.job x.src).any fun j => j.enable && decide (x.m < j.nbands)
   | 6 => x.src == 0xFFFF || c.chanOn x.src
   | 7 => true
   | 8 => true
   | 9 => true
   | 10 => true
   | _ => if x.word = 5 then c.chanOn x.src else c.pointOn x.src)
  && (!(x.seqmode == 1 || x.seqmode == 2) || c.unitOn x.seqin)

/-- R16 and every relation rule. `effect` is the epoch at which the commit would take effect. -/
def relationsOk (c live : Cfg) (regions : Tbl RegionRun) (effect : Nat) : Bool :=
  c.chans.all (fun (_, x) => decide (8 * x.gl ≤ x.gh) && decide (x.gh ≤ 512 * x.gl))
  && c.points.all (fun (_, x) => !x.enable || x.f != 0)
  && c.lins.all (fun (p, s) => !(c.pointOn p && s.tkind == 2) || c.pointOn s.tsrc)
  && !c.tempTooLong
  && c.groups.all (fun (_, g) => decide (g.phi < c.pchk))
  && c.regions.all (fun (i, r) => c.regionOk i r)
  && c.jobs.all (fun (i, j) => c.jobFits i j && (!j.enable || c.jobOk live regions i j))
  && c.maps.all (fun (i, m) => !m.enable || c.mapOk i m)
  && c.units.all (fun (_, u) => u.fits effect && (!u.enable || c.unitOk u))
  && !c.seqTooLong
  && c.tallies.all (fun (p, t) => !t.enable ||
      ((t.toRegion || t.toStream) && c.pointOn p && (!t.toRegion || (c.region t.region).type == 3)))
  && c.aouts.all (fun (_, a) => !a.enable || c.pointOn a.point)
  && c.streams.all (fun (s, r) => r.dest == 0 || c.streamOn s)

/-! ### The whole check -/

/-- A refusal: the status and its report. -/
structure Refused where
  status : BitVec 16
  report : List Byte
  deriving DecidableEq, Repr

/-- R211: every armed slot of a region whose record stays still fits. -/
def armsFit (c live : Cfg) (regions : Tbl RegionRun) : Bool :=
  regions.all fun (r, x) =>
    decide (c.region r ≠ live.region r) ||
      x.slots.all fun (_, s) => !(s.state == .armed || s.state == .recording) || c.armFits r s.p s.q

/-- R347 step 5 over a resulting configuration. -/
def checkCfg (c live : Cfg) (regions : Tbl RegionRun) (mode : Mode) (vref : F64) (ending : Frac) (effect : Nat) : Option Refused :=
  if !(relationsOk c live regions effect) then some ⟨stBadField, []⟩
  else if c.portN ≠ live.portN ∧ mode ≠ .idle ∧ mode ≠ .maintain then some ⟨stWrongMode, []⟩
  else
    match c.tempCycle with
    | some l => some ⟨stDependencyCycle, cycleReport l⟩
    | none =>
      match c.seqCycle with
      | some l => some ⟨stDependencyCycle, cycleReport l⟩
      | none =>
        match planClashes c 0 128 vref with
        | x :: l => some ⟨stPlanClash, clashReport (x :: l)⟩
        | [] =>
          match overBudget ending c with
          | some r => some ⟨stOverBudget, overReport r⟩
          | none =>
            if granaryBytes < c.regionTotal || !(armsFit c live regions) then some ⟨stMemoryShort, []⟩ else none

end Sys2Proof.Machine
end

