-- ==== Sys2Proof/Machine/MillRun.lean ====
section
/-! DEFINITION. The runs of the Mill's jobs: source samples (R146), the transform grid (R147), windows (R149, R150), the exact spectrum and the bound on what is delivered (R151, R152), starts, ends and restarts (R163, R164) and the read schedule of a replay (R165). -/

namespace Sys2Proof.Machine

/-! ### Windows (R149, R150), with 256 fraction bits -/

/-- Cosine coefficients of a built-in window, in units of 10^−9. -/
def windowCosines : Nat → List Int
  | 0 => [1000000000]
  | 1 => [500000000, -500000000]
  | 2 => [358750000, -488290000, 141280000, -11680000]
  | _ => [215578950, -416631580, 277263158, -83578947, 6947368]

/-- Σ (q^k/k!²), term by term. -/
def besselTerms : Nat → Nat → Int → Int → Int → Int
  | 0, _, _, _, acc => acc
  | n + 1, k, q, term, acc =>
    let term := term * q / 2 ^ 256 / (k * k : Nat)
    besselTerms n (k + 1) q term (acc + term)

/-- I0(z) of z²/4. [log 37 DESIGN CHOICE] -/
def besselI0 (q : Int) : Int := besselTerms 100 1 q (2 ^ 256) (2 ^ 256)

/-- A binary32 as a whole number of 2^−256. -/
def F32.fix (x : F32) : Int :=
  let f := FVal.frac (F32.val x)
  f.num * 2 ^ 256 / (f.den : Int)

/-- β²·(1 − (2n/N − 1)²)/4. [log 37 DESIGN CHOICE] -/
def kaiserArg (beta : F32) (size n : Nat) : Int :=
  let f := FVal.frac (F32.val beta)
  let gap : Int := 4 * n * (size - n)
  f.num * f.num * gap * 2 ^ 254 / ((f.den * f.den * (size * size) : Nat) : Int)

/-- w[n] of a job. [log 37 DESIGN CHOICE] -/
def Cfg.windowFix (c : Cfg) (j : JobCfg) (n : Nat) : Int :=
  match j.window with
  | 4 => besselI0 (kaiserArg j.beta j.size n) * 2 ^ 256 / besselI0 (kaiserArg j.beta j.size (j.size / 2))
  | 5 => F32.fix (tget 0#32 c.windows (windowKey j.wsel (if n ≤ j.size / 2 then n else j.size - n)))
  | w => ((windowCosines w).zipIdx.map fun (a, k) => a * cosTurnFix j.log2n (k * n : Nat)).sum / 1000000000

def Cfg.windowList (c : Cfg) (j : JobCfg) : List Int := (List.range j.size).map (c.windowFix j)

/-- The coefficients in binary64, each rounded once. -/
def Cfg.windowF64 (c : Cfg) (j : JobCfg) : List F64 := (c.windowList j).map fun v => F64.ofScaled v (-256)

/-- S1, in binary64, summed in order (R149). -/
def Cfg.windowSum (c : Cfg) (j : JobCfg) : F64 := (c.windowF64 j).foldl F64.add F64.zero

/-- B_w = N·Σw²/S1², in binary64, the sums in order (R149). [log 82 DEDUCED] -/
def Cfg.noiseWidth (c : Cfg) (j : JobCfg) : F64 :=
  let w := c.windowF64 j
  let s1 := c.windowSum j
  let s2 := w.foldl (fun s v => F64.add s (F64.mul v v)) F64.zero
  F64.div (F64.mul (F64.ofNat j.size) s2) (F64.mul s1 s1)

/-! ### The spectrum (R151, R152), with 256 fraction bits -/

/-- A binary64 as a whole number of 2^−256, or none. -/
def F64.fix (x : F64) : Option Int :=
  if F64.isFinite x then
    let f := FVal.frac (F64.val x)
    some (f.num * 2 ^ 256 / (f.den : Int))
  else none

/-- Σ w[n]·x[n]·e^(−j2πkn/N) over windowed samples. -/
def dftSum (b : Nat) (k : Int) (l : List ((Int × Int) × Nat)) : Int × Int :=
  l.foldl (fun a x =>
    let v := x.1
    if v.1 = 0 ∧ v.2 = 0 then a
    else
      let co := cosTurnFix b (k * x.2)
      let si := sinTurnFix b (k * x.2)
      (a.1 + v.1 * co + v.2 * si, a.2 + v.2 * co - v.1 * si)) (0, 0)

/-- X[u] of a job's window of samples, with S1 as computed in binary64. [log 37 DESIGN CHOICE] -/
def Cfg.spectrum (c : Cfg) (j : JobCfg) (w : List MillSample) : List (Int × Int) :=
  let coef := c.windowList j
  let xs := (List.zipWith (fun v (x : MillSample) => (v * x.re, v * x.im)) coef w).zipIdx
  let s1 := (F64.fix (c.windowSum j)).getD 1 * 2 ^ (if j.real then 21 else 31)
  (List.range j.bins).map fun (u : Nat) =>
    let k : Int := if j.real then u else (u : Int) - (j.size / 2 : Nat)
    let cu : Int := if j.real && u != 0 && u != j.size / 2 then 2 else 1
    let s := dftSum j.log2n k xs
    (cu * s.1 / s1, cu * s.2 / s1)

/-- A delivered value lies within an error of the exact one. -/
def nearBin (bound : Int) (e : Int × Int) (x : Cplx) : Bool :=
  match F64.fix x.re, F64.fix x.im with
  | some a, some b => decide ((a - e.1) * (a - e.1) + (b - e.2) * (b - e.2) ≤ bound * bound)
  | _, _ => false

/-- 10^−8.5·X_rms + 2^−60 of a spectrum (R152). -/
def binBound (l : List (Int × Int)) : Int :=
  let power : Nat := (l.map fun x => x.1.natAbs * x.1.natAbs + x.2.natAbs * x.2.natAbs).sum
  let rms := isqrt (power / l.length)
  (isqrt (10 * 2 ^ 512) * rms / 10 ^ 9 / 2 ^ 256 + 2 ^ 196 : Nat)

/-- The delivered bins are as near to the exact ones as R152 says. [log 3 DESIGN CHOICE] -/
def Cfg.binsOk (c : Cfg) (j : JobCfg) (w : List MillSample) (bins : List Cplx) : Bool :=
  let exact := c.spectrum j w
  bins.length == j.bins && (exact.zip bins).all fun x => nearBin (binBound exact) x.1 x.2

/-! ### Restarts and changes of the average (R163, R164) -/

/-- Table entries whose keys fall to an owner. -/
def keysOf {α : Type} (per owner : Nat) (t : Tbl α) : Tbl α := t.filter fun (k, _) => k / per == owner

/-- The entries of the user window that a job uses: 0 to N/2 (R150). -/
def Cfg.userWindow (c : Cfg) (j : JobCfg) : Tbl F32 :=
  if j.window = 5 then (keysOf 32769 j.wsel c.windows).filter fun (k, _) => decide (k % 32769 ≤ j.size / 2) else []

/-- R163. -/
def Cfg.restartsJob (old new : Cfg) (a b : JobCfg) : Bool :=
  a.srcKind != b.srcKind || a.src != b.src || a.slot != b.slot || a.log2n != b.log2n || a.window != b.window || a.wsel != b.wsel
    || a.overlap != b.overlap || a.beta != b.beta || a.shift != b.shift || decide (old.userWindow a ≠ new.userWindow b)
    || (!b.replay && !b.real && (old.point b.src).d != (new.point b.src).d)

/-- The averaging fields (R164). -/
def JobCfg.averageMoves (a b : JobCfg) : Bool :=
  a.avg != b.avg || a.expK != b.expK || a.avgN != b.avgN || a.peakReset != b.peakReset

/-- A commit ends a job's run: it restarts, disables or clears the job. -/
def Cfg.endsJob (i : Nat) (old new : Cfg) : Bool :=
  match old.job i, new.job i with
  | some a, some b => a.enable && (!b.enable || old.restartsJob new a b)
  | some a, none => a.enable
  | none, _ => false

/-- A commit resets a running job's average. -/
def Cfg.resetsJob (i : Nat) (old new : Cfg) : Bool :=
  match old.job i, new.job i with
  | some a, some b => a.averageMoves b
  | _, _ => false

/-- The boundary of the first commit in waiting that does something to the configuration before it. -/
def firstChange (p : Cfg → Cfg → Bool) : Cfg → List Batch → Option Nat
  | _, [] => none
  | c, b :: l => if p c b.cfg then some (boundary b.effect) else firstChange p b.cfg l

def Device.coming (p : Cfg → Cfg → Bool) (d : Device) : Option Nat := firstChange p d.fw.eff d.fw.batches

/-- The boundary at which the device is about to leave RUN: a mode change, HEARTH or SAFE. -/
def Device.runEnds (d : Device) : Option Nat :=
  if d.pw.mode ≠ .run then none
  else if d.pw.declared.isSome then some (boundary (d.epoch + 1))
  else
    match d.pw.pending, d.pw.hearth with
    | some (_, e, _), _ => some (boundary e)
    | none, some (e, _) => some (boundary e)
    | none, none => none

/-- An instant that may be absent lies at or before another. -/
def reached (b : Option Nat) (t : Nat) : Bool := b.any fun x => decide (x ≤ t)

/-! ### Runs -/

/-- The runs of a job, oldest first. -/
def Device.endedRuns (i : Nat) (d : Device) : List JobRun := tget [] d.ended i

/-- The configuration of a run: that before the boundary that ended it, else the one in force. -/
def Device.runCfg (r : JobRun) (d : Device) : Cfg :=
  match r.stop with
  | some b => d.cfgAt (b - 1)
  | none => d.fw.eff

/-- The run of a job ends at an instant, if one has begun; it is kept while a window or an average of it may come. -/
def Device.endRun (i stop : Nat) (d : Device) : Device :=
  let r := d.job i
  if r.fed.isNone && r.start == 0 then d
  else { d with ended := tput [] d.ended i (d.endedRuns i ++ [{ r with stop := some stop }]) }

def JobRun.push (x : MillSample) (r : JobRun) : JobRun := { r with buf := r.buf ++ [x], fed := some (x.idx + 1, x.at_) }

/-- A run takes a sample; where the source's stream has broken off, it ends and another begins. -/
def JobRun.feed (x : MillSample) (r : JobRun) : List JobRun :=
  match r.fed with
  | none => [r.push x]
  | some (idx, at_) =>
    if idx = x.idx then [r.push x]
    else [{ r with stop := some (at_ + 1) }, JobRun.push x { JobRun.init with start := x.at_, stop := r.stop, ts := r.ts }]

/-- A source sample enters the run of its job that its instant lies in: the present one, or one that has ended (R147, R163). [log 212 DESIGN CHOICE] -/
def Device.feedJob (i : Nat) (x : MillSample) (d : Device) : Device :=
  let r := d.job i
  if r.start ≤ x.at_ then
    match r.feed x with
    | [a, b] => ({ d with ended := tput [] d.ended i (d.endedRuns i ++ [a]) }).setJob i fun _ => b
    | l => d.setJob i fun _ => l.headD r
  else
    let mine (r : JobRun) : Bool := decide (r.start ≤ x.at_) && r.stop.any fun b => decide (x.at_ < b)
    { d with ended := tput [] d.ended i ((d.endedRuns i).flatMap fun r => if mine r then r.feed x else [r]) }

/-- A sample of a stream that runs in RUN reaches the jobs whose source it is (R13, R146). `kind`: 0 wideband, 1 point. -/
def Device.toMill (kind src : Nat) (x : MillSample) (d : Device) : Device :=
  if !(inSpans d.marks.runs x.at_) then d
  else
    forList ((d.cfgAt x.at_).jobs.filter fun (_, j) => j.enable && j.srcKind == kind && j.src == src) (fun (i, _) d => d.feedJob i x) d

/-- A sample of the point's stream before an instant is still to come, of a filter that has ended (R94). -/
def PointRun.behind (t : Nat) (x : PointRun) : Bool :=
  x.filters.any fun f => decide (f.next < t) && f.stop.any fun e => decide (f.next < e)

/-- Insert a sample by its instant. -/
def insertSample (x : MillSample) : List MillSample → List MillSample
  | [] => [x]
  | y :: l => if x.at_ < y.at_ then x :: y :: l else y :: insertSample x l

/-- A point's samples reach the Mill in the order of their instants (R147): one of a new filter waits for those of the filter before it (R94). -/
def Device.pointToMill (p : Nat) (x : MillSample) (d : Device) : Device :=
  let l := insertSample x (d.pt p).early
  let now := l.takeWhile fun y => !((d.pt p).behind y.at_)
  forList now (fun y d => d.toMill 1 p y) (d.setPt p fun y => { y with early := l.drop now.length })

/-! ### Replay (R165) -/

/-- The read instant of a slot's sample. -/
def readInstant (b ts shift i : Nat) : Nat := b + 3000000 + ceilDiv (i * ts) (2 ^ shift)

/-- A stored sample's value. -/
def storedValue (s : Nat) (l : List Byte) : Int × Int :=
  if s < 0x400 then (fieldInt l 0 4, fieldInt l 4 4)
  else
    let v : Int := (field l 0 3 % 4194304 : Nat)
    (if v < 2097152 then v else v - 4194304, 0)

/-- Transforms that a slot of a number of samples takes. -/
def replayCount (size hop len : Nat) : Nat := if len = 0 then 0 else if len ≤ size then 1 else ceilDiv (len - size) hop + 1

/-- A replay's run from boundary b: the slot's samples at their read instants, padded with zeros to the end of the last window. [log 213 DEDUCED] -/
def Device.replayRun (b : Nat) (j : JobCfg) (d : Device) : JobRun :=
  let s := (d.fw.eff.region j.src).first
  let y := ((d.region j.src).slot j.slot).store s
  let ts := storeTs (d.fw.eff.jobTs j) y.elems
  let len := y.elems.length
  let at_ (i : Nat) : Nat := readInstant b ts j.shift i
  let real := y.elems.zipIdx.map fun (e, i) =>
    let k := y.blockOf e
    let v := storedValue s e.data
    let flags := (if s < 0x400 then e.out else k.out ||| e.out) ||| (if k.bad then 1#14 else 0#14)
    (⟨(i : Int), e.t, at_ i, at_ i, v.1, v.2, flags, false⟩ : MillSample)
  let pad := (List.range ((replayCount j.size j.hop len - 1) * j.hop + j.size - len)).map fun i =>
    (⟨((len + i : Nat) : Int), 0, at_ (len + i), at_ (len - 1), 0, 0, 0#14, true⟩ : MillSample)
  if len = 0 then { JobRun.init with start := b, ts := ts, idle := true }
  else { JobRun.init with start := b, ts := ts, buf := real ++ pad, fed := some (((len + pad.length : Nat) : Int), at_ (len + pad.length)) }

/-- A job's run begins at b (R147, R165). -/
def Device.beginRun (i b : Nat) (j : JobCfg) (d : Device) : Device :=
  if j.replay then d.setJob i fun _ => d.replayRun b j
  else d.setJob i fun _ => { JobRun.init with start := b, ts := d.fw.eff.jobTs j }

/-! ### The transform grid (R147) -/

/-- The samples of the next window, once all have come and if all lie before the run's end (R147, R163). -/
def JobRun.window (size hop : Nat) (r : JobRun) : Option (List MillSample) :=
  let w := (r.buf.dropWhile fun x => x.idx % (hop : Int) != 0).take size
  match w.getLast? with
  | none => none
  | some x => if w.length = size && !(reached r.stop x.at_) then some w else none

/-- When the first and the last sample of the window after a transform enter the Mill. -/
def JobRun.nextSpan (j : JobCfg) (r : JobRun) (k : Taken) : Nat × Nat :=
  if j.replay then
    let a := ((k.m + 1) * (j.hop : Int)).toNat
    (readInstant r.start r.ts j.shift a, readInstant r.start r.ts j.shift (a + j.size - 1))
  else (k.at_ + j.hop * r.ts, k.at_ + (j.hop + j.size - 1) * r.ts)

/-- The transform taken last is its run's last one: the next window would not end before the run does (R153, R163). -/
def Device.lastOfRun (i : Nat) (j : JobCfg) (r : JobRun) (k : Taken) (d : Device) : Bool :=
  let end_ := (r.nextSpan j k).2
  reached r.stop end_ || (r.stop.isNone && (reached (d.coming (Cfg.endsJob i)) end_ || reached d.runEnds end_))

/-- The transform taken last is the last one before its average is reset (R164). -/
def Device.lastOfAverage (i : Nat) (j : JobCfg) (r : JobRun) (k : Taken) (d : Device) : Bool :=
  let next := (r.nextSpan j k).1
  (r.resets.any fun b => decide (b ≤ next)) || (r.stop.isNone && reached (d.coming (Cfg.resetsJob i)) next)

end Sys2Proof.Machine
end

