-- ==== Sys2Proof/Machine/Points.lean ====
section
/-! DEFINITION. A point sample: its owner correction (R263), words (R85, R86), linearisation (R112 to R120), ready instant (R91, R120), flags (R87) and consumers (R13). -/

namespace Sys2Proof.Machine

/-! ### Filters and ready instants -/

/-- An instant is one of a filter's samples. -/
def Filter.gives (f : Filter) (t : Nat) : Bool :=
  decide (f.start ≤ t) && f.stop.all (fun e => decide (t < e)) && ((t : Int) - f.grid) % (f.ts : Int) == 0

/-- The point runs: its newest filter has no end. -/
def PointRun.on (x : PointRun) : Bool := x.filters.head?.any fun f => f.stop.isNone

/-- The source's sample with the latest instant at or before t, of the filter that runs or last ran then (R118); none before the first sample of that filter (R119). -/
def PointRun.pairOf (x : PointRun) (t : Nat) : Option Nat :=
  (x.filterAt t).bind fun f =>
    let s := gridAt f.ts f.grid (Min.min t ((f.stop.getD (t + 1)) - 1))
    if f.start ≤ s then some s else none

/-- Links that a chain of paired samples can have: four in each configuration (R121), and an older configuration for each earlier source sample. -/
def Device.chainFuel (d : Device) : Nat := 5 * (d.fw.past.length + 1)

/-- The ready instant of a point's sample along its temperature links (R91, R120). -/
def Device.readyVia : Nat → Nat → Nat → Device → Nat
  | 0, p, t, d => t + d.pointDelay p t
  | k + 1, p, t, d =>
    let base := t + d.pointDelay p t
    match (d.cfgAt t).tempPoint p with
    | none => base
    | some q =>
      match (d.pt q).pairOf t with
      | none => base
      | some s => Max.max base (Device.readyVia k q s d + 96)

def Device.readyAt (p t : Nat) (d : Device) : Nat := d.readyVia d.chainFuel p t

/-! ### Words -/

/-- An I or Q word: v/2^31, to nearest, ties to even, saturated (R85). -/
def wordQ31 (v : F64) : Int :=
  let x := F64.mul v (F64.ofNat 2147483648)
  if F64.isFinite x then clampInt (-2147483648) 2147483647 (F64.roundInt x)
  else if x.getLsbD 63 then -2147483648 else 2147483647

/-- The record's context is the point's settings (R263). -/
def OwnerRec.inForce (o : OwnerRec) (c : Cfg) (p : Nat) : Bool :=
  let ch := c.chan (p / 8)
  o.mode == ch.mode && o.subform == ch.subform && (o.cf == (if ch.mode = 1 then ch.cf else 0)) && o.gl == ch.gl
    && o.f == (c.point p).f

/-- z′ (R263). -/
def ownerApply (o : Option OwnerRec) (c : Cfg) (p : Nat) (z : Cplx) : Cplx :=
  match o with
  | none => z
  | some o =>
    if o.inForce c p then
      Cplx.mul ⟨F64.ofF32 o.kre, F64.ofF32 o.kim⟩ (Cplx.sub z ⟨F64.ofF32 o.ore, F64.ofF32 o.oim⟩)
    else z

/-- LPF (R86) of a sum of weights in 1/32 over n samples: f is lp/(32·n), and a tie of 255·f rounds to even. [log 190 DESIGN CHOICE] -/
def lpfOf (lp n : Nat) : Nat :=
  if lp = 0 then 0
  else if 32 * n ≤ lp then 255
  else (clampInt 1 254 (rdivEven (255 * lp) (32 * n))).toNat

/-! ### Linearisation (R112 to R115) -/

/-- k_n (R113). -/
def scaleOf (ch : ChanCfg) : F64 :=
  F64.ofFrac (Frac.mk' ((if ch.mode = 1 then ch.cf else 1 : Nat) : Int) ch.gl)

/-- x of a set, or of no set, from the rounded words. -/
def normalised (xsel : Nat) (phi : Int) (ch : ChanCfg) (i q : Int) : F64 :=
  let a := F64.ofScaled i (-31)
  let b := F64.ofScaled q (-31)
  let x := if xsel = 0 then F64.add (F64.mul a (cosTurn phi)) (F64.mul b (sinTurn phi))
    else F64.sqrt (F64.add (F64.mul a a) (F64.mul b b))
  F64.mul x (scaleOf ch)

/-- One row j of the coefficients at x. -/
def rowAt (c : List F32) (j : Nat) (x : F64) : F64 :=
  let k (i : Nat) : F64 := F64.ofF32 (c.getD (4 * i + j) 0#32)
  [4, 3, 2, 1, 0].foldl (fun a i => F64.add (F64.mul a x) (k i)) (k 5)

/-- y (R115). -/
def LinSet.eval (s : LinSet) (ch : ChanCfg) (i q : Int) (temp : F64) : F64 :=
  let x := normalised s.xsel s.phi ch i q
  let t := if s.tkind = 0 then F64.zero else F64.div (F64.sub temp (F64.ofF32 s.t0)) (F64.ofF32 s.dt)
  [2, 1, 0].foldl (fun y j => F64.add (F64.mul y t) (rowAt s.c j x)) (rowAt s.c 3 x)

/-- A reading of a tile temperature sensor in °C as binary32 (R114): the nearest to the hundredths. [log 191 DEDUCED] -/
def tempWord (hundredths : Int) : F32 := F32.ofFrac (Frac.mk' hundredths 100)

/-- The temperature of a set for a sample at t, and whether its source marks the sample INVALID (R118, R119). With no source sample the sample is INVALID and its value is formed with T = 0. [log 192 DESIGN CHOICE] -/
def Device.tempFor (s : LinSet) (t : Nat) (d : Device) : F64 × Bool :=
  match s.tkind with
  | 1 =>
    match d.marks.temps.find? fun (b, _) => decide (b ≤ t) with
    | some (_, l) => (F64.ofF32 (tempWord (l.getD s.tsrc 0)), false)
    | none => (F64.zero, true)
  | 2 =>
    let q := d.pt s.tsrc
    match q.pairOf t with
    | none => (F64.zero, true)
    | some u =>
      match q.hist.find? fun v => v.t == u with
      | some v => (F64.ofF32 v.e, v.flags.getLsbD fInvalid)
      | none => (F64.zero, true)
  | _ => (F64.zero, false)

/-- E, its unit and whether linearisation marks the sample INVALID. -/
def Device.linearise (c : Cfg) (p : Nat) (i q : Int) (t : Nat) (d : Device) : F32 × Nat × Bool :=
  let ch := c.chan (p / 8)
  match c.lin p with
  | none =>
    let y := normalised 0 0 ch i q
    (F64.toE y, 0, !(F64.isFinite y))
  | some s =>
    let x := d.tempFor s t
    let y := s.eval ch i q x.1
    (F64.toE y, s.unit, x.2 || !(F64.isFinite y))

/-! ### Flags -/

/-- An episode marks a point of its channel: scope, window and ready instant (R131, R132). -/
def Episode.marks (e : Episode) (uses : ChPin → Bool) (a b ready : Nat) : Bool :=
  (match e.pin with
   | none => true
   | some x => uses x) && decide (e.from_ ≤ b) && e.to_.all (fun z => decide (a ≤ z)) && decide (e.mark ≤ ready)

/-- A point's drive pins include a pin (R56). -/
def Cfg.usesPin (c : Cfg) (p : Nat) (x : ChPin) : Bool :=
  match x with
  | .DA => drives (c.chan (p / 8)) (c.point p) 0
  | .DB => drives (c.chan (p / 8)) (c.point p) 1
  | _ => true

/-- A sample from the first instant on, whose window begins before the second, settles. -/
def settling (l : List (Nat × Nat)) (t a : Nat) : Bool := l.any fun (f, u) => decide (f ≤ t) && decide (a < u)

/-- A window overlaps a half-open interval, as one does whose last instant is the interval's first. [log 234 DEDUCED] -/
def overlaps (l : List (Nat × Nat)) (a b : Nat) : Bool := l.any fun (x, y) => decide (x ≤ b) && decide (a < y)

/-- A path is leaving or out of use for a gain change at an instant: from its boundary to its return (R107, R109). -/
def leavingAt (l : List Outage) (x : PathId) (t : Nat) : Bool :=
  l.any fun o => o.path == x && decide (o.from_ ≤ t) && o.to_.all fun e => decide (t < e)

/-- The forced path of a forced mode is out of use at an instant (R107). -/
def Device.forcedOut (n t : Nat) (d : Device) : Bool :=
  match ((d.cfgAt t).chan n).range with
  | 1 => leavingAt (d.chan n).outages .high t
  | 2 => leavingAt (d.chan n).outages .low t
  | _ => false

/-- The flags of a point's sample but for INVALID by linearisation and CONFIG_CHANGE (R87). -/
def Device.pointFlags (c : Cfg) (p t ready lpf : Nat) (clip : Bool) (d : Device) : BitVec 14 :=
  let n := p / 8
  let x := d.pt p
  let ch := d.chan n
  let a := t - d.winBefore p t
  let b := t + d.winAfter p t
  let e := t / Config.epochTicks
  let bad := (d.marks.drive.any fun (k, l) => k == e && l.contains n)
    || ch.episodes.any fun y => y.marks (c.usesPin p) a b ready
  d.instantFlags t ||| flag fInvalid bad ||| flag fClip clip ||| flag fLow (lpf != 0)
    ||| flag fSettle (settling x.settles t a || settling ch.settles t a || overlaps x.spans a b || d.forcedOut n t)
    ||| flag fCal (meetsSpans ch.cals a b) ||| flag fTone (meetsSpans ch.tones a b)
    ||| flag fParity (d.parityMark n (some p) t)

/-! ### The sample -/

/-- A value word of a point (R85). -/
def valueWord (k : Nat) (i q : Int) (e : F32) : Word :=
  match k with
  | 1 => BitVec.ofInt 32 i
  | 2 => BitVec.ofInt 32 q
  | 3 => BitVec.ofNat 32 (magWord i q)
  | 4 => BitVec.ofInt 32 (phaseWord i q)
  | _ => e

/-- What a trigger unit watches (R176). -/
def watchedPoint (i q : Int) (e : F32) (word : Nat) : F64 :=
  match word with
  | 0 => F64.ofScaled i (-31)
  | 1 => F64.ofScaled q (-31)
  | 2 => F64.ofScaled (magWord i q) (-31)
  | 3 => F64.ofScaled (phaseWord i q) (-32)
  | _ => F64.ofF32 e

/-- The source's sample that a set pairs with the instant has been taken (R120). -/
def Device.sourceTaken (p t : Nat) (d : Device) : Bool :=
  match (d.cfgAt t).tempPoint p with
  | none => true
  | some q => ((d.pt q).pairOf t).all fun u => (d.pt q).hist.any fun v => v.t == u

/-- The index of a point's sample on its grid (R79, R90). -/
def PointRun.indexAt (x : PointRun) (t : Nat) : Int :=
  match x.filterAt t with
  | some f => ((t : Int) - f.grid) / (f.ts : Int)
  | none => 0

/-- A sample that its filter gives next, once the wideband samples of its window and its temperature have come; the samples of a filter that has ended come in their own order beside those of the one that follows it (R94). -/
def Device.pointDue (p t : Nat) (d : Device) : Bool :=
  let x := d.pt p
  ((x.filterAt t).any fun f => decide (f.next = t) && f.gives t && d.windowTaken p t f) && d.sourceTaken p t

/-- The filter that gives the sample of an instant has given it. -/
def markGiven (t : Nat) : List Filter → List Filter
  | [] => []
  | f :: l => if f.born ≤ t then { f with last := some t } :: l else f :: markGiven t l

/-- What the demodulator gives for a sample that is due. -/
def Device.demodAt (p t : Nat) (d : Device) : Demod :=
  match (d.pt p).filterAt t with
  | some f => d.demod p t f
  | none => ⟨Cplx.zero, 0, 1, false⟩

/-- Samples that a later sample or a query can still ask for: those of the horizon, and the newest. -/
def keepHist (t : Nat) : List PointRec → List PointRec
  | [] => []
  | x :: l => x :: l.filter fun y => decide (t < y.t + markHorizon)

/-- A point sample reaches its ready instant and every consumer. -/
def Device.pointSample (x : PointIn) (d : Device) : Device :=
  let p := x.p.val
  let t := x.t
  let c := d.cfgAt t
  let pc := c.point p
  let past := d.pastAt t
  let dm := d.demodAt p t
  let z := ownerApply (tfind past.owner p) c p dm.z
  let i := wordQ31 z.re
  let q := wordQ31 z.im
  let lin := d.linearise c p i q t
  let lpf := lpfOf dm.lp dm.n
  let ready := d.readyAt p t
  let flags := d.pointFlags c p t ready lpf dm.clip ||| flag fInvalid lin.2.2 ||| flag fChange (d.isCut p t)
  let unit := if pc.word0 = 5 ∨ pc.word1 = 5 then lin.2.1 else 0
  let status := BitVec.ofNat 32 (unit * 2 ^ 24 + lpf * 2 ^ 16 + flags.toNat)
  let words := [valueWord pc.word0 i q lin.1] ++ (if pc.word1 = 0 then [] else [valueWord pc.word1 i q lin.1]) ++ [status]
  let ts := 48 * pc.d
  let run := d.pt p
  let fresh := run.fresh.any fun b => decide (b ≤ t)
  let settle := flags.getLsbD fSettle
  let d := d.setPt p fun y =>
    { y with last := t, filters := markGiven t y.filters, lastFlags := flags, lastE := lin.1, lastI := i, lastQ := q,
             hist := keepHist t (⟨t, i, q, lin.1, flags⟩ :: y.hist),
             fresh := y.fresh.filter fun b => !decide (b ≤ t),
             armed := y.armed || (!settle && y.full && d.pw.mode = .run && !(d.chan (p / 8)).cal) }
  let d := d.appendElem p t ready flags (words.flatMap leWord)
  let d := d.cutAfter p (t + ts)
  let data := leWord (BitVec.ofInt 32 i) ++ leWord (BitVec.ofInt 32 q) ++ leWord lin.1 ++ leWord status
  let d := d.toGranary p ready t (Elem.fresh t data flags (d.tagAt t) (run.indexAt t))
  let d := d.pointToMill p ⟨run.indexAt t, t, t, ready, i, q, flags, false⟩
  let d := d.tallySample p t ready ts fresh lin.1 flags
  let d := d.aoutSample p t ready lin.1 flags
  (d.offer false p ts t flags (watchedPoint i q lin.1)).calSample p t lpf dm.z flags

/-- The samples of a point come in order, each at its ready instant. -/
def execPointSampleReady (x : PointIn) (s : State) : Host.Outcome State Fault Refusal :=
  if s.dev.pointDue x.p.val x.t then
    onDev (fun d => (d.tickTo (d.readyAt x.p.val x.t)).pointSample x) s
  else .next s

end Sys2Proof.Machine
end

