-- ==== Sys2Proof/Machine/Combiner.lean ====
section
/-! DEFINITION. The combiner and its wideband samples (R76, R96 to R103, R107, R110, R111), modulator overloads (R43) and gain changes (R107 to R109). -/

namespace Sys2Proof.Machine

/-! ### Range events and counters (R110, R111) -/

def cntClipEp : Nat := 0
def cntClip : Nat := 1
def cntCut : Nat := 2
def cntToLow : Nat := 3
def cntHigh : Nat := 4
def cntFast : Nat := 5
def cntCheck : Nat := 6
def cntFault : Nat := 7

def Device.countChan (n i : Nat) (d : Device) : Device :=
  { d with cnt := { d.cnt with chan := tbump d.cnt.chan (8 * n + i) } }

/-- `EVT_RANGE` takes each bit once per epoch. -/
def Device.raiseRange (bit : Nat) (d : Device) : Device :=
  if (d.evt evRange).epoch.getLsbD bit then d else d.raise evRange (ebit bit)

/-! ### Usability (R97) -/

/-- No instant of the path's overload spans lies in the window of an instant. A span ends before its last instant, recovery + 1,536: a window that begins there is clear. [log 199 DEDUCED] -/
def clearOf (l : List OvlSpan) (t : Nat) : Bool :=
  l.all fun s => decide (t + 768 < s.from_) || s.to_.any fun e => decide (e < t - 768 ∨ (e ≤ t - 768 ∧ 768 ≤ t))

/-- A path is out of use for a gain change from B + 768 to its return. [log 172 DEDUCED] -/
def outAt (l : List Outage) (x : PathId) (t : Nat) : Bool :=
  l.any fun o => o.path == x && decide (o.from_ + 768 ≤ t) && o.to_.all fun e => decide (t < e)

/-- Full scale of either path in a decimated sample's units. -/
def fullScale : Nat := 2 ^ 27

/-- A path is usable for the sample at an instant, of a decimated value; a saturated amplifier overloads both (R34, R97). [log 193 DEDUCED] -/
def ChanRun.usable (c : ChanRun) (x : PathId) (v : Int) (sat : Bool) (t : Nat) : Bool :=
  let spans := match x with
    | .low => c.spanLow
    | .high => c.spanHigh
  !(outAt c.outages x t) && clearOf spans t && decide (v.natAbs ≤ fullScale) && !sat

/-! ### The look-ahead and the predictor (R77, R98) -/

/-- Samples of look-ahead. -/
def lookAhead : Nat := 24

/-- Bitstream instants of the predictor's sliding window: 96 ticks. -/
def predictorWindow : Nat := 96

/-- The predictor's estimates at each of the first n instants of a list of modulator outputs, newest first: sums over the window that ends with the instant. [log 229 DEDUCED] -/
def windowSums : Nat → List Int → List Int
  | 0, _ => []
  | n + 1, l => (l.take predictorWindow).sum :: windowSums n l.tail

/-- Instants at which an estimate's magnitude exceeds a number of hundredths of FS_H: `t` is that of the newest estimate. -/
def hotInstants (hundredths t : Nat) (sums : List Int) : List Nat :=
  (sums.zipIdx.filter fun (v, _) => decide (hundredths * fullScale * predictorWindow < 100 * v.natAbs)).map fun (_, k) => t - k

/-- What has newly come in joins the look-ahead of the sample at t, with its at-risk and busy instants; those before the sample's high-path window are done with. -/
def ChanRun.intake (t : Nat) (l : List RawIn) (c : ChanRun) : ChanRun :=
  let look := c.look ++ l
  let newest := t + 48 * (look.length - 1)
  let outs := l.reverse.flatMap (·.outs) ++ c.outputs
  let sums := windowSums (48 * l.length) outs
  { c with look := look, outputs := outs.take predictorWindow,
           risks := (c.risks ++ hotInstants 90 newest sums).filter fun r => decide (t ≤ r + 768),
           busys := (c.busys ++ hotInstants 80 newest sums).filter fun r => decide (t ≤ r + 768) }

/-- An at-risk instant lies at or before 48·(j + 24), from the start of sample j's high-path window on (R100). -/
def ChanRun.atRisk (c : ChanRun) (t : Nat) : Bool := c.risks.any fun r => decide (t ≤ r + 768) && decide (r ≤ t + 48 * lookAhead)

/-- A busy instant lies in the high-path window. -/
def ChanRun.busyAt (c : ChanRun) (t : Nat) : Bool := c.busys.any fun r => decide (t ≤ r + 768) && decide (r ≤ t + 768)

/-- The sample at the front leaves the look-ahead. -/
def ChanRun.advance (h : Int) (c : ChanRun) : ChanRun := { c with look := c.look.tail, back := (h :: c.back).take lookAhead }

/-! ### Ratio, delay and background gain (R96, R104, R253) -/

/-- What the combiner applies at an instant. -/
def ChanRun.appliedAt (c : ChanRun) (t : Nat) : Applied :=
  match c.applied.find? fun x => decide (x.from_ ≤ t) with
  | some x => x
  | none => ⟨0, c.rho, c.delta, c.gamma⟩

/-- New values are applied from an instant on. -/
def ChanRun.apply (t : Nat) (c : ChanRun) : ChanRun :=
  { c with applied := ⟨t, c.rho, c.delta, c.gamma⟩ :: c.applied.filter fun x => decide (x.from_ < t) }

/-- δ in 1/256 tick within ±96 ticks (R96). -/
def delaySteps (delta : F64) : Int := clampInt (-24576) 24576 (F64.roundInt (F64.mul delta (F64.ofNat 256)))

/-- The high-path sample `k` places after the front of the look-ahead. -/
def ChanRun.highAt (c : ChanRun) (k : Int) : Int :=
  if 0 ≤ k then (c.look[k.toNat]?.map (·.h)).getD 0 else c.back.getD ((-k).toNat - 1) 0

/-- Ticks from a gain change's boundary to the switch of the analogue gain (R107). -/
def gainSwitchTicks : Nat := 2304

/-- The gain that a path converts at at an instant: the old one until its analogue gain has switched (R107, R108). -/
def ChanRun.gainAt (c : ChanRun) (x : PathId) (gain t : Nat) : Nat :=
  match c.outages.find? fun o => o.path == x && decide (o.from_ ≤ t) && decide (t < o.from_ + gainSwitchTicks) with
  | some o => o.gain
  | none => gain

/-- A value against the full scale of one gain, against that of another; gains are powers of two (R32, R108). -/
def rescale (v : Int) (from_ to_ : Nat) : Int := rdivEven (v * to_) (Max.max 1 from_)

/-- The high path's sample delayed by a number of steps, against the FS_H of a gain; a delay of zero leaves it as it is. [log 194 DESIGN CHOICE] -/
def ChanRun.delayed (c : ChanRun) (gh t : Nat) (steps : Int) : Int :=
  let high (k : Int) : Int := rescale (c.highAt k) (c.gainAt .high gh ((t : Int) + 48 * k).toNat) gh
  if steps = 0 then high 0
  else
    let l := (List.range (2 * lookAhead + 1)).map fun i => (i : Int) - lookAhead
    rdivEven (l.foldl (fun a k => a + Config.delayTap steps k * high k) 0) (2 ^ 30)

/-- v·num/(den·r) to the nearest whole number, ties to even; a divisor that is not a positive number leaves v·num/den. [log 195 DEDUCED] -/
def divideBy (v : Int) (num den : Nat) (r : F64) : Int :=
  let f := (F64.val r).frac
  if f.num ≤ 0 then rdivEven (v * num) den else rdivEven (v * num * f.den) (den * f.num.toNat)

/-- The two samples that the combiner weighs, against the FS_L/2^27 in force: H′ of the delayed and scaled high path, and L, each from the gain that its path converts at; both divided by γ (R96, R108, R253). -/
def ChanRun.aligned (c : ChanRun) (ch : ChanCfg) (t : Nat) : Int × Int :=
  let a := c.appliedAt t
  let l := (c.look.head?.map (·.l)).getD 0
  (divideBy (c.delayed ch.gh t (delaySteps a.delta)) ch.gl ch.gh (F64.mul a.rho a.gamma),
   divideBy (rescale l (c.gainAt .low ch.gl t) ch.gl) 1 1 a.gamma)

/-! ### The weight (R99 to R101, R103, R107) -/

/-- One step of the crossfade away from a path. -/
def fadeStep (away : PathId) (w : Nat) : Nat :=
  match away with
  | .high => if w = 0 then 1 else if 31 ≤ w then 32 else w + 2
  | .low => if 32 ≤ w then 31 else w - 2

/-- What the state machine gives a sample: the state after it (with its weight), and what it counts. -/
structure CombOut where
  run : ChanRun
  cut : Bool := false
  toLow : Bool := false
  arrived : Bool := false

/-- A weight toward the low path: 1 enters LOW with c = 0. -/
def ChanRun.rise (c : ChanRun) : ChanRun :=
  let w := fadeStep .high c.w
  if w = 32 then { c with w := 32, comb := .low, clean := 0 } else { c with w := w, comb := .toLow }

/-- The states of R100, for a sample with an at-risk instant in its span or not, clean or not. LOW is left by the sample that follows the one on which c has reached 64: its own span is that of 48·(j + 25). [log 174 DEDUCED] -/
def ChanRun.auto (c : ChanRun) (risk clean : Bool) : CombOut :=
  match c.comb with
  | .high => if risk then { run := { c with w := 1, comb := .toLow }, toLow := true } else { run := { c with w := 0 } }
  | .toLow => { run := c.rise }
  | .low =>
    if 64 ≤ c.clean ∧ !risk then { run := { c with w := 31, comb := .toHigh } }
    else { run := { c with w := 32, clean := if clean then c.clean + 1 else 0 } }
  | .toHigh =>
    if risk then { run := c.rise, toLow := true }
    else
      let w := fadeStep .low c.w
      if w = 0 then { run := { c with w := 0, comb := .high }, arrived := true } else { run := { c with w := w } }

/-- A path that is leaving or out of use: the crossfade away from it runs its full grid, then the other path carries every sample. The state is LOW or HIGH from B on, while w is still on the grid; the crossfade is no entry to TO_LOW and its end no arrival in HIGH, no more than a jump into a forced mode is. [log 174 DEDUCED, 196 DESIGN CHOICE] -/
def ChanRun.away (c : ChanRun) (x : PathId) : ChanRun :=
  let target := match x with
    | .high => 32
    | .low => 0
  let w := if c.fadeFrom = some x then fadeStep x c.w else target
  { c with w := w, fadeFrom := if w = target then none else c.fadeFrom,
           comb := match x with
             | .high => Comb.low
             | .low => Comb.high,
           clean := 0 }

/-- The path whose outage or leaving rules an instant, if any. -/
def ChanRun.leaving (c : ChanRun) (t : Nat) : Option PathId :=
  if leavingAt c.outages .high t then some .high
  else if leavingAt c.outages .low t then some .low
  else none

/-- The weight of a sample before R102 (R100, R101, R103, R107). A forced mode leaves the machine in the state from which a later AUTO starts. A sample that enters TO_LOW and is cut at once counts as both. [log 172 DEDUCED, 197 DESIGN CHOICE] -/
def ChanRun.weigh (c : ChanRun) (range t : Nat) (high : Bool) : CombOut :=
  match range, c.leaving t with
  | 0, none =>
    let o := c.auto (c.atRisk t) (high && !(c.busyAt t))
    if !high && decide (o.run.w < 32) then { run := { o.run with w := 32, comb := .low, clean := 0 }, cut := true, toLow := o.toLow }
    else o
  | 0, some p => { run := c.away p }
  | 1, some .high => { run := c.away .high }
  | 1, _ => { run := { c with w := 0, comb := .high, clean := 0 } }
  | _, some .low => { run := c.away .low }
  | _, _ => { run := { c with w := 32, comb := .low, clean := 0 } }

/-! ### The sample (R76, R96, R102) -/

def tagHigh : Nat := 0
def tagLow : Nat := 1
def tagCross : Nat := 2
def tagClip : Nat := 3

/-- Weight used and tag. -/
def decideTag (permHigh permLow high low : Bool) (w : Nat) : Nat × Nat :=
  let h := permHigh && high
  let l := permLow && low
  if (h || w == 32 || !permHigh) && (l || w == 0 || !permLow) && (h || l) then
    (w, if w = 0 then tagHigh else if w = 32 then tagLow else tagCross)
  else if l && !h then (32, tagLow)
  else if h && !l then (0, tagHigh)
  else (32, tagClip)

/-- VALUE of a weight, in units of FS_L/2^21: the weighted sum of two 28-bit samples, each a whole number of FS_L/2^27, rounded once. [log 195 DEDUCED] -/
def blend (w : Nat) (h l : Int) : Int := rdivEven ((32 - (w : Int)) * h + w * l) 2048

/-- VALUE of a CLIP sample: that of the permitted path with the larger full scale. -/
def clipValue (low : Bool) (gl gh : Nat) (h l : Int) : Int :=
  if low then clampInt (-2097152) 2097151 (rdivEven l 64)
  else clampInt (-((2097152 * gl / gh : Nat) : Int)) ((2097152 * gl / gh : Nat) : Int) (rdivEven h 64)

/-- TAG and VALUE of a sample, with the weight it carries. -/
structure WideOut where
  tag : Nat
  value : Int
  weight : Nat
  deriving DecidableEq, Repr

def wideOut (permHigh permLow high low : Bool) (w : Nat) (ch : ChanCfg) (h l : Int) : WideOut :=
  let u := decideTag permHigh permLow high low w
  if u.2 = tagClip then ⟨tagClip, clipValue permLow ch.gl ch.gh h l, 32⟩
  else
    let v := blend u.1 h l
    let s := clampInt (-2097152) 2097151 v
    if s = v then ⟨u.2, v, u.1⟩ else ⟨tagClip, s, 32⟩

/-- The stored and sent form of a sample: 24 bits, three bytes. -/
def wideBytes (o : WideOut) : List Byte := leBytes 3 (o.tag * 2 ^ 22 + (o.value % 4194304).toNat)

/-- The aligned instant of index j on a channel's grid (R77, R90). -/
def ChanRun.instantOf (c : ChanRun) (j : Nat) : Nat :=
  let t := ((48 * j : Int) + c.gridOld % 48).toNat
  if t < c.anchor then t else ((48 * j : Int) + c.grid % 48).toNat

/-- The index of the sample at an instant on a channel's grid (R77, R90). -/
def ChanRun.indexAt (c : ChanRun) (t : Nat) : Int := ((t : Int) - (if t < c.anchor then c.gridOld else c.grid)) / 48

/-- Flags of a wideband sample at its own instant (R87, R131). -/
def Device.wideFlags (n t : Nat) (o : WideOut) (d : Device) : BitVec 14 :=
  let ch := d.chan n
  let bad := ch.episodes.any fun e => e.pin.isNone && e.marks (fun _ => true) t t (t + wideDelay)
  d.instantFlags t ||| flag fInvalid bad ||| flag fClip (o.tag == tagClip) ||| flag fLow (o.weight != 0)
    ||| flag fSettle (settling ch.settles t t || d.forcedOut n t) ||| flag fCal (inSpans ch.cals t)
    ||| flag fTone (inSpans ch.tones t) ||| flag fParity (d.parityMark n none t)
    ||| flag fChange (d.isCut (0x400 + n) t)

/-- Samples that were not CLIP before the one at t: enough for an episode when it is the first of a start (R110). -/
def ChanRun.sinceAt (c : ChanRun) (last t : Nat) : Nat := if last < c.from_ ∧ c.from_ ≤ t then 64 else c.sinceClip

/-- Counts and events of a sample (R110, R111), with its occurrences for FAULT units (R180). -/
def Device.rangeNews (n t since : Nat) (o : CombOut) (clip : Bool) (flags : BitVec 14) (d : Device) : Device :=
  let d := if o.toLow then d.countChan n cntToLow else d
  let d := if o.arrived then d.countChan n cntHigh else d
  let d := if o.cut then ((d.countChan n cntCut).raiseRange 1).occur n 5 t t flags else d
  if clip then
    let d := (d.countChan n cntClip).setChan n fun c => { c with sinceClip := 0 }
    if 64 ≤ since then ((d.countChan n cntClipEp).raiseRange 0).occur n 4 t t flags else d
  else d.setChan n fun c => { c with sinceClip := Min.min 64 (since + 1) }

/-- What the pairs of an epoch count of a sample (R104, R253). -/
def PairCount.add (high low busy : Bool) (x : PairCount) : PairCount :=
  ⟨x.all + 1, x.pairs + bit01 (high && low && !busy), x.low + bit01 low, x.high + bit01 high⟩

/-- The combiner's work on a sample at t: the channel's state after it, what it counts, TAG and VALUE. -/
structure Combined where
  out : CombOut
  wide : WideOut


/-- The combiner on the sample at the front of the look-ahead (R96 to R103). -/
def ChanRun.combine (c : ChanRun) (ch : ChanCfg) (sat : Bool) (t : Nat) : Combined :=
  let raw := (c.look.head?).getD ⟨0, 0, []⟩
  let high := c.usable .high raw.h sat t
  let low := c.usable .low raw.l sat t
  let a := c.aligned ch t
  let o := c.weigh ch.range t high
  let permHigh := ch.range != 2 || (c.leaving t == some .low)
  let permLow := ch.range != 1 || (c.leaving t == some .high)
  let y := wideOut permHigh permLow high low o.run.w ch a.1 a.2
  let run := o.run.advance raw.h
  { out := { o with run := { run with wlast := t, epochPairs := run.epochPairs.add high low (c.busyAt t),
                                      wides := ⟨t, y.value, y.weight, y.tag == tagClip⟩ :: run.wides } },
    wide := y }

/-- A sample that the channel's stream carries reaches every consumer (R13). -/
def Device.wideConsume (n t : Nat) (y : WideOut) (flags : BitVec 14) (d : Device) : Device :=
  let s := 0x400 + n
  let d := d.appendElem s t (t + wideDelay) flags (wideBytes y)
  let d := d.cutAfter s (t + 48)
  let j := (d.chan n).indexAt t
  let d := d.toGranary s (t + wideDelay) t (Elem.fresh t (wideBytes y) flags (d.tagAt t) j)
  let d := d.toMill 0 n ⟨j, t, t, t + wideDelay, y.value, 0, flags, false⟩
  d.offer true n 48 t flags fun _ => F64.ofScaled y.value (-21)

/-- One wideband sample: the combiner, then every consumer. What is converted after the stream's end enters the points' windows alone (R449). -/
def Device.wideSample (x : WideIn) (t : Nat) (d : Device) : Device :=
  let n := x.ch.val
  let c := (d.chan n).intake t x.raws
  let u := c.combine ((d.cfgAt t).chan n) x.sat t
  let d := d.setChan n fun _ => u.out.run
  if c.wstop.any fun e => decide (e ≤ t) then d
  else
    let flags := d.wideFlags n t u.wide
    let settled := !flags.getLsbD fSettle && d.pw.mode = .run && !c.cal && decide (c.phase = .running) && decide (c.from_ ≤ t)
    let d := if settled then d.setChan n fun c => { c with armed := true } else d
    (d.rangeNews n t (c.sinceAt c.wlast t) u.out (u.wide.tag == tagClip) flags).wideConsume n t u.wide flags

/-- The instant of the next sample. -/
def ChanRun.wideNext (c : ChanRun) : Nat := if c.wlast < c.wstart then gridFrom 48 (c.grid % 48) c.wstart else c.wlast + 48

/-- The samples of a channel come in order and without a gap, from the stream's first on until the end of its last ramp-down, each with its look-ahead. -/
def ChanRun.wideDue (c : ChanRun) (x : WideIn) : Bool :=
  c.instantOf x.j == c.wideNext && (c.wstop.all fun e => decide (c.wideNext ≤ e + rampTicks)) && decide (c.wstart ≤ c.wideNext)
    && decide (lookAhead < c.look.length + x.raws.length) && x.raws.all fun r => r.outs.length == 48

/-! ### Overloads (R43) -/

/-- The Shepherd's overload condition: every permitted path in use has its overload detector asserted, or the guard of a Q-mode channel is in current limit (R127). -/
def Device.overloaded (n : Nat) (d : Device) : Bool :=
  let c := d.chan n
  let r := (d.fw.eff.chan n).range
  let guarded := (d.fw.eff.chan n).mode == 1 && (d.fw.eff.chan n).enable && (d.group (n / 4)).limit
  let useHigh := (r != 2 || c.outLow.isSome) && c.outHigh.isNone
  let useLow := (r != 1 || c.outHigh.isSome) && c.outLow.isNone
  guarded || ((useHigh || useLow) && (!useHigh || c.ovlHigh) && (!useLow || c.ovlLow))

/-- The condition of R127 is looked at again at an instant at which something it rests on has changed. -/
def Device.watch (n t : Nat) (d : Device) : Device :=
  let on := d.overloaded n
  if on = (d.chan n).ovlCond then d else d.setChan n fun c => { c with ovlCond := on, ovlAt := t }

def Device.watchAll (l : List Nat) (t : Nat) (d : Device) : Device := forList l (fun n d => d.watch n t) d

/-- A path's input passes ±1.05·FS at t; its detector asserts. -/
def Device.overload (n : Nat) (p : PathId) (t : Nat) (d : Device) : Device :=
  (d.setChan n fun c =>
    match p with
    | .low => { c with ovlLow := true, ovlCount := c.ovlCount + 1#32, spanLow := c.spanLow ++ [⟨t, none⟩] }
    | .high => { c with ovlHigh := true, ovlCount := c.ovlCount + 1#32, spanHigh := c.spanHigh ++ [⟨t, none⟩] }).watch n t

/-- End the open span of a path 1,536 ticks after the modulator's recovery; older spans that no later window meets are dropped. -/
def endSpan (t : Nat) (l : List OvlSpan) : List OvlSpan :=
  ((l.map fun s => if s.to_.isNone then { s with to_ := some (t + 1536) } else s).filter fun s =>
    s.to_.any fun e => decide (t < e + 30000))

def Device.recover (n : Nat) (p : PathId) (t : Nat) (d : Device) : Device :=
  (d.setChan n fun c =>
    match p with
    | .low => { c with ovlLow := false, spanLow := endSpan t c.spanLow }
    | .high => { c with ovlHigh := false, spanHigh := endSpan t c.spanHigh }).watch n t

/-- The modulators of a channel convert (R42, R47). -/
def Device.converts (n : Nat) (d : Device) : Bool := (d.chan n).released

/-- The detector's assertion, for an input that passed ±1.05·FS at t. -/
def execModulatorOverload (ch : Fin 128) (path : PathId) (t : Nat) (s : State) : Host.Outcome State Fault Refusal :=
  let c := s.dev.chan ch.val
  let on := match path with
    | .low => c.ovlLow
    | .high => c.ovlHigh
  if s.dev.converts ch.val && !on then onDev (fun d => (d.tickTo t).overload ch.val path t) s else .next s

/-- The modulator has recovered at t. -/
def execModulatorRecovered (ch : Fin 128) (path : PathId) (t : Nat) (s : State) : Host.Outcome State Fault Refusal :=
  let c := s.dev.chan ch.val
  let on := match path with
    | .low => c.ovlLow
    | .high => c.ovlHigh
  if on then onDev (fun d => (d.tickTo t).recover ch.val path t) s else .next s

/-! ### One path's gain (R107 to R109) -/

/-- A path's open outage ends at an instant. -/
def endOutages (t : Nat) (l : List Outage) : List Outage :=
  l.map fun o => if o.to_.isNone then { o with to_ := some t } else o

/-- A commit changes the gain of path X alone at B from `old`: X leaves use, or stays out of use if it was (R109). -/
def Device.gainChange (n : Nat) (x : PathId) (b old : Nat) (d : Device) : Device :=
  d.setChan n fun c => -- the condition of R127 is looked at by the swap, which has the new ranges
    -- a path that carries no weight ends its crossfade with the first sample
    let out := c.outages.any fun o => o.path == x && o.to_.isNone
    let c := { c with fadeFrom := some x, switched := false, outages := if out then c.outages else ⟨x, b, none, old⟩ :: c.outages }
    match x with
    | .high => { c with outHigh := some b }
    | .low => { c with outLow := some b }

/-- The path that is out of use, and its change boundary. -/
def ChanRun.outPath (c : ChanRun) : Option (PathId × Nat) :=
  match c.outHigh, c.outLow with
  | some b, _ => some (.high, b)
  | none, some b => some (.low, b)
  | none, none => none

def gainSettledTicks : Nat := 18840
def gainEndTicks : Nat := 3018840

/-- The newest tile reading beside a channel, in 0.01 °C (R44). -/
def Device.tileTemp (n : Nat) (d : Device) : Int :=
  match d.marks.temps with
  | (_, l) :: _ => l.getD (n / 8) 0
  | [] => 0

/-- The analogue gain switches, and the estimator starts afresh: the factory values of the new pair, with the difference that the old pair's tracked values had from its own (R107). [log 198 DEDUCED] -/
def Device.gainSwitch (n : Nat) (d : Device) : Device :=
  let ch := d.fw.eff.chan n
  let temp := d.tileTemp n
  let f := d.factory
  d.setChan n fun c =>
    { c with switched := true, ratioGl := ch.gl, ratioGh := ch.gh,
             rho := F64.add (Factory.rho f n ch.gl ch.gh temp) (F64.sub c.rho (Factory.rho f n c.ratioGl c.ratioGh temp)),
             delta := F64.add (Factory.delta f n ch.gl ch.gh temp) (F64.sub c.delta (Factory.delta f n c.ratioGl c.ratioGh temp)) }

/-- B + 2,304: the analogue gain switches. -/
def execGainSwitch (ch : Fin 128) (t : Nat) (s : State) : Host.Outcome State Fault Refusal :=
  match (s.dev.chan ch.val).outPath with
  | some (_, b) =>
    if t = b + gainSwitchTicks ∧ !(s.dev.chan ch.val).switched then onDev (fun d => (d.tickTo t).gainSwitch ch.val) s
    else .next s
  | none => .next s

/-- Epochs of normal tracking that a re-acquired estimator counts as done: it reaches its limits within a further 1,000 (R105, R107). -/
def trackedAfterGain : Nat := 3000

/-- One step of a first-order tracker with a time constant of k steps, each operation rounded in binary64. [log 207 DEDUCED] -/
def trackTo (k : Nat) (now target : F64) : F64 := F64.add now (F64.div (F64.sub target now) (F64.ofNat k))

/-- The re-acquisition's time constant of 100 µs in wideband samples (R107). -/
def reacquireSamples : Nat := 6250

/-- What the re-acquisition has reached after n samples whose pairs show a target (R107). [log 230 DESIGN CHOICE] -/
def reacquire : Nat → F64 → F64 → F64
  | 0, now, _ => now
  | n + 1, now, target => reacquire n (trackTo reacquireSamples now target) target

/-- X returns to use at t with what the re-acquisition has reached from its start value toward what the pairs show; the machine stays as the outage held it (R107). While X is out of use `chan.query` shows the estimator's state of before B. [log 230 DESIGN CHOICE, 231 DESIGN CHOICE] -/
def Device.gainReady (n t : Nat) (found : Option (F64 × F64)) (d : Device) : Device :=
  let temp := d.tileTemp n
  (d.setChan n fun c =>
    let steps := c.outPath.elim 0 fun x => (t - (x.2 + gainSettledTicks)) / 48
    let r := found.elim (c.rho, c.delta) fun m => (reacquire steps c.rho m.1, reacquire steps c.delta m.2)
    ChanRun.apply t
      { c with outHigh := none, outLow := none, fadeFrom := none, switched := false, rho := r.1, delta := r.2,
               heldRho := r.1, heldDelta := r.2, heldTemp := temp, est := .tracking, tracked := trackedAfterGain, skipped := 0,
               outages := endOutages t c.outages }).watch n t |>.raiseRange 2

/-- When the re-acquisition's own uncertainty is small enough, from the settled output at B + 18,840 on; at B + 3,018,840 in any case. -/
def execGainReady (ch : Fin 128) (t : Nat) (found : Option (F64 × F64)) (settled : Bool) (s : State) : Host.Outcome State Fault Refusal :=
  match (s.dev.chan ch.val).outPath with
  | some (_, b) =>
    if (s.dev.chan ch.val).switched && decide (b + gainSettledTicks ≤ t) && decide (t ≤ b + gainEndTicks)
        && (settled || decide (t = b + gainEndTicks)) then
      onDev (fun d => (d.tickTo t).gainReady ch.val t found) s
    else .next s
  | none => .next s

/-- A re-acquisition that has not ended by B + 3,018,840 ends there with the values reached (R107). -/
def Device.forceGain (n now : Nat) (d : Device) : Device :=
  match (d.chan n).outPath with
  | some (_, b) =>
    if b + gainEndTicks ≤ now then
      (if (d.chan n).switched then d else d.gainSwitch n).gainReady n (b + gainEndTicks) none
    else d
  | none => d

def Device.forceGains (now : Nat) (d : Device) : Device := forList (d.chans.map (·.1)) (fun n d => d.forceGain n now) d

/-! ### The wideband sample -/

def execWidebandSample (x : WideIn) (s : State) : Host.Outcome State Fault Refusal :=
  let c := s.dev.chan x.ch.val
  if c.wideDue x then onDev (fun d => ((d.tickTo (c.wideNext + wideDelay)).forceGain x.ch.val c.wideNext).wideSample x c.wideNext) s
  else .next s

end Sys2Proof.Machine
end

