-- ==== Sys2Proof/Machine/Pins.lean ====
section
/-! DEFINITION. What a channel's pins, amplifier, chopper, guard and pilot do at each moment, from the mode, the configuration and the channel's phase (R28, R29, R31, R38, R41, R47, R56, R63, R252). -/

namespace Sys2Proof.Machine

/-! ### Connections of an input mode (R29, R36) -/

/-- A sense pin. -/
inductive SensePin where
  /-- high impedance, protection clamps only -/
  | highZ
  /-- isolation switch open, 10 MΩ to VMID, monitored -/
  | isolated
  /-- sensed at high impedance -/
  | sensed
  /-- sensed, with 100 kΩ to VMID -/
  | biased
  /-- virtual ground at guard potential -/
  | virtualGround
  /-- held internally at guard potential, without charge -/
  | guarded
  /-- the common return at VMID -/
  | common
  deriving DecidableEq, Repr

/-- What the amplifier reads. -/
inductive AmpInput where
  | none
  /-- SP − SN -/
  | difference
  /-- charge into SP minus charge into SN -/
  | chargeDifference
  /-- charge into SP -/
  | charge
  /-- Kelvin taps at the DA and DB pads -/
  | driveTaps
  /-- SP against the internal drive midpoint -/
  | midpoint
  /-- the tile's calibration bus, before the current measurement asks anything of it -/
  | calBus
  /-- both inputs on `CALN` -/
  | calZero
  /-- `CALP` and `CALN`, reversed in polarity or direct -/
  | calPair (reversed : Bool)
  deriving DecidableEq, Repr

/-- A drive pin. -/
inductive DrivePin where
  | highZ
  /-- driver off, 100 kΩ to VMID -/
  | off
  | vmid
  /-- the sum of the tones of these points, each as it is or negated -/
  | tones (l : List (Nat × Bool))
  /-- 2·VMID less the other pin at every DAC sample -/
  | complement
  /-- current source 1 or 2 -/
  | source (k : Nat)
  /-- low-impedance return at VMID -/
  | sink
  deriving DecidableEq, Repr

/-- Sense pins and amplifier of a mode and sub-form, with the switches closed. -/
def ChanCfg.connection (c : ChanCfg) : AmpInput × SensePin × SensePin :=
  match c.mode, c.subform with
  | 0, _ => (.difference, .sensed, .sensed)
  | 1, 0 => (.chargeDifference, .virtualGround, .virtualGround)
  | 1, _ => (.charge, .virtualGround, .guarded)
  | 2, 0 => (.driveTaps, .isolated, .isolated)
  | 2, 1 => (.driveTaps, .isolated, .common)
  | 2, _ => (.difference, .sensed, .sensed)
  | _, 0 => (.difference, .biased, .biased)
  | _, _ => (.midpoint, .sensed, .isolated)

/-- The tones on a pin: a DIFF point's is negated on DB; a pin that carries none holds VMID (R56). -/
def pinTones (ch : ChanCfg) (l : List (Nat × PointCfg)) (k : Nat) : DrivePin :=
  let on := (l.filter fun x => drives ch x.2 k).map fun x => (x.1, decide (k = 1) && x.2.assign == 2)
  if on = [] then .vmid else .tones on

/-- Drive pins of a channel on which these points sound: in I mode by the swap state (R63), in L mode as a complementary pair, else the tones that are assigned to them (R56). -/
def ChanCfg.driven (ch : ChanCfg) (l : List (Nat × PointCfg)) (s : Nat) : DrivePin × DrivePin :=
  if l = [] then (.vmid, .vmid)
  else
    match ch.mode, ch.subform with
    | 2, 0 => (.source 1, .sink)
    | 2, 1 => if s = 0 then (.source 1, .source 2) else (.source 2, .source 1)
    | 2, _ => if s = 0 then (.source 1, .sink) else (.sink, .source 1)
    | 3, _ => (pinTones ch l 0, .complement)
    | _, _ => (pinTones ch l 0, pinTones ch l 1)

/-- Pins a mode's amplifier or return uses (R29): those that the closed switches do not leave isolated or held apart. [log 84 DEDUCED] -/
def ChanCfg.usesSense (c : ChanCfg) (x : ChPin) : Bool :=
  let used (p : SensePin) : Bool := !(p == .isolated || p == .guarded)
  match x with
  | .SP => used c.connection.2.1
  | .SN => used c.connection.2.2
  | _ => false

/-! ### The pins of a channel now (R28, R47, R49, R50) -/

/-- Neither in RESET nor in BOOT. -/
def Device.powered (d : Device) : Bool := !(decide (d.pw.mode = .reset) || decide (d.pw.mode = .boot))

/-- The sense pins: isolated but where the mode's connection joins them through closed switches. R28 counts a ramp-down as not running, while R49 and R50 keep the excitation on its pins and the switches closed until the ramp-down has ended: the switches stay closed and the drivers on until then. The connection of a restart that changes mode or sub-form is the new one from the boundary on (R29). [log 227 DESIGN CHOICE, 228 DESIGN CHOICE] -/
def Device.sensePins (n : Nat) (d : Device) : SensePin × SensePin :=
  if !d.powered then (.highZ, .highZ)
  else if (d.chan n).isoClosed then (d.fw.eff.chan n).connection.2
  else (.isolated, .isolated)

/-- The point of a channel that the running measurement is routed to, with its level: from its routing boundary to its end (R257). -/
def Device.calRouted (n : Nat) (d : Device) : Option (Nat × Nat) :=
  d.work.cal.bind fun c => c.level.bind fun level =>
    (c.spans.find? fun (p, _, a, b) => p / 8 == n && decide (a ≤ d.clk.time + 3000) && decide (d.clk.time < b)).map fun x => (x.1, level)

/-- What the calibration bus presents: both inputs on `CALN` for ZERO; for SPAN the pair, direct while acc_p < 2^47 and reversed otherwise (R258). -/
def Device.busInput (n : Nat) (d : Device) : AmpInput :=
  match d.calRouted n with
  | none => .calBus
  | some (_, 0) => .calZero
  | some (p, _) =>
    match (d.pt p).ncoAt d.clk.time with
    | some o => .calPair (!decide (o.acc d.clk.time < 2 ^ 47))
    | none => .calBus

/-- The amplifier's input. -/
def Device.ampInput (n : Nat) (d : Device) : AmpInput :=
  if !d.powered then .none
  else if (d.chan n).calClosed then d.busInput n
  else if (d.chan n).isoClosed then (d.fw.eff.chan n).connection.1
  else .none

/-- The settings that a point sounds with on its pins: those it ramps down under until they leave its pins (R49, R50, R67), then its own, unless its ramp-up is still to come. -/
def Device.sounds (p : Nat) (d : Device) : Option PointCfg :=
  let x := d.pt p
  let own := if (d.chan (p / 8)).phase = .running ∧ d.fw.eff.pointOn p ∧ x.phase2 = false then some (d.fw.eff.point p) else none
  match x.held with
  | some (u, c) => if d.clk.time < u then some c else own
  | none => own

def Device.sounding (n : Nat) (d : Device) : List (Nat × PointCfg) :=
  ((List.range 8).map fun k => 8 * n + k).filterMap fun p => (d.sounds p).map fun c => (p, c)

/-- The channel's record that its drivers follow: in a ramp-down the one before its boundary (R49, R50). [log 228 DESIGN CHOICE] -/
def Device.driveCfg (n : Nat) (d : Device) : ChanCfg :=
  let c := d.chan n
  if c.phase = .rampOff ∨ c.phase = .rampRestart then (d.cfgAt (c.from_ - 1)).chan n else d.fw.eff.chan n

/-- The drive pins: off when the channel is stopped or on the calibration bus (R256), at VMID from tick 0 to the release of the modulators, as the mode drives them until the end of a ramp-down. [log 227 DESIGN CHOICE] -/
def Device.drivePins (n : Nat) (d : Device) : DrivePin × DrivePin :=
  let c := d.chan n
  if !d.powered then (.highZ, .highZ)
  else if c.phase = .stopped ∨ c.calBus ∨ c.calClosed then (.off, .off)
  else if c.phase = .starting then (.vmid, .vmid)
  else (d.driveCfg n).driven (d.sounding n) c.swap

/-- The isolation switch of a sense pin is closed. -/
def Device.joinsPin (n : Nat) (x : ChPin) (d : Device) : Bool := (d.chan n).isoClosed && (d.fw.eff.chan n).usesSense x

/-! ### Guard drivers (R38) -/

inductive GuardPin where
  | highZ
  /-- driver off, 100 kΩ to VMID -/
  | off
  | vmid
  /-- the mean of (SP + SN)/2 over these channels -/
  | mean (chans : List Nat)
  deriving DecidableEq, Repr

def groupChans (g : Nat) : List Nat := (List.range 4).map fun k => 4 * g + k

/-- Enabled channels of a group that are in Q mode. -/
def Cfg.guardChans (c : Cfg) (g : Nat) : List Nat := (groupChans g).filter fun n => c.chanOn n && (c.chan n).mode == 1

/-- `GD<g>`: at VMID beside a channel under BUS calibration (R256); else its source follows the configuration in force, and so changes at a configuration boundary. [log 184 DESIGN CHOICE, 200 DEDUCED] -/
def Device.guardPin (g : Nat) (d : Device) : GuardPin :=
  if !d.powered then .highZ
  else if (groupChans g).any fun n => (d.chan n).calBus then .vmid
  else if d.pw.mode = .run ∨ d.pw.mode = .calibrate then
    (if d.fw.eff.guardChans g = [] then .vmid else .mean (d.fw.eff.guardChans g))
  else .off

/-! ### The chopper (R41) -/

/-- Half-period in ticks of a chopper frequency in Hz. -/
def chopHalf (hz : Nat) : Nat := 1500000000 / hz

/-- The polarity at a device time: positive when ⌊time/h⌋ is even. -/
def chopPositive (h t : Nat) : Bool := t / h % 2 == 0

/-- The chopper of a channel, from the release of its modulators to their stop: its polarity now, none when it is OFF or not running. -/
def Device.chopper (n : Nat) (d : Device) : Option Bool :=
  let hz := fchHz (d.fw.eff.chan n).fch
  if (d.chan n).released && decide (0 < hz) then some (chopPositive (chopHalf hz) d.clk.time) else none

/-! ### The pilot tone (R252) -/

/-- How the pilot is injected: a divider that follows GL, or a capacitor, in units of 0.01 pF, trimmed against Cf. -/
inductive PilotNet where
  | divider (gl : Nat)
  | capacitor (size cf : Nat)
  deriving DecidableEq, Repr

/-- The pilot's level at the amplifier's input: 2^−14 of FS_L. -/
def pilotLevel : F64 := F64.ofScaled 1 (-14)

/-- A pilot tone: its frequency in half Hz, its level at the amplifier's input as a part of FS_L, its network, and the trim of that network. -/
structure Pilot where
  half : Nat
  level : F64
  net : PilotNet
  trim : F64
  deriving DecidableEq, Repr

/-- The Shepherd's band centre in half Hz (R72, R143). -/
def fshHalf : Nat → Nat
  | 0 => 46875
  | 1 => 93750
  | 2 => 187500
  | _ => 937500

/-- The injection capacitor in Q mode: 0.25 pF. -/
def pilotCapacitor : Nat := 25

def ChanCfg.pilotNet (c : ChanCfg) : PilotNet := if c.mode = 1 then .capacitor pilotCapacitor c.cf else .divider c.gl

/-- The pilot of a channel: in RUN and CALIBRATE, from tick 15,000 of a start to the ramp-down. -/
def Device.pilot (n : Nat) (d : Device) : Option Pilot :=
  let ch := d.fw.eff.chan n
  if (d.chan n).phase = .running ∧ (d.pw.mode = .run ∨ d.pw.mode = .calibrate) then
    some ⟨fshHalf (d.fw.eff.shep n).fsh + 3000, pilotLevel, ch.pilotNet, tget F64.one d.factory.pilots (64 * n + (if ch.mode = 1 then ch.cf else ch.gl))⟩
  else none

end Sys2Proof.Machine
end

