-- ==== Sys2Proof/Machine/FrontEnd.lean ====
section
/-! DEFINITION. A channel's front end: start, restart and disable (R28, R36, R47 to R51), the changes of its points (R65 to R68, R94), current swapping (R63, R65) and the guard's current limit (R39). -/

namespace Sys2Proof.Machine

/-! ### Instants of a start sequence (R47) -/

def closeTicks : Nat := 3000
def releaseTicks : Nat := 15000
def settleTicks : Nat := 16536
def servoTicks : Nat := 315000

/-- Length of a ramp of a carrier word: max(8·Tp, 30,000), rounded up to a whole tick. -/
def rampLength (f : Nat) : Nat := Max.max rampTicks (Frac.mul ⟨8, 1⟩ (carrierPeriod f)).ceil.toNat

/-- Settle instant of a channel after tick 0. -/
def ChanCfg.settle (c : ChanCfg) : Nat := if c.mode = 1 then servoTicks else settleTicks

/-! ### Points of a channel that starts, restarts or stops -/

/-- The channel's wideband samples after an instant enter the windows of samples before a boundary as zero (R449). -/
def PointRun.blankAfter (z : Nat) (x : PointRun) : PointRun :=
  { x with filters := x.filters.map fun f => if f.zeroAfter.isNone then { f with zeroAfter := some z } else f }

/-- End the running filter at a boundary. -/
def PointRun.endFilter (b : Nat) (x : PointRun) : PointRun :=
  { x with filters := match x.filters with
      | f :: l => (if f.stop.isNone then { f with stop := some b } else f) :: l
      | [] => [] }

/-- A filter begins at a boundary on a grid (R79, R94). -/
def PointRun.beginFilter (b ts : Nat) (grid : Int) (x : PointRun) : PointRun :=
  { x with filters := ⟨b, gridFrom ts grid b, none, grid, ts, none, none⟩ :: (x.endFilter b).filters }

/-- A point that sounds at b goes on doing so under the settings `c` until `up`; one whose ramp-up an earlier commit's phase still keeps back sounds as that phase has it (R49, R50, R67). -/
def PointRun.hold (b up : Nat) (c : PointCfg) (x : PointRun) : PointRun :=
  { x with held := if x.phase2 then (match x.held with
      | some (u, o) => if b < u then some (up, o) else none
      | none => none) else some (up, c) }

/-- A channel's start or restart at b, tick 0 at tick0: the point's excitation, filter and SETTLE (R47 to R49). -/
def PointRun.start (b tick0 : Nat) (ch : ChanCfg) (c : PointCfg) (x : PointRun) : PointRun :=
  let up := tick0 + releaseTicks
  let done := up + rampLength c.f
  let x := ((x.blankAfter (b + rampTicks)).beginFilter b (48 * c.d) 0).load up c
  { x with rampFrom := up, rampEnd := done, full := false, phase2 := false, armed := false, e0 := [],
           spans := (b, Max.max (tick0 + ch.settle) done) :: x.spans, fresh := x.fresh ++ [b] }

/-- The channel's ramp-down at b: the samples that reach past b settle (R449). -/
def PointRun.stop (b : Nat) (x : PointRun) : PointRun :=
  { (x.endFilter b).blankAfter (b + rampTicks) with full := false, phase2 := false, armed := false, e0 := [],
                                                    spans := (b, b + rampTicks) :: x.spans }

def Device.setPoints (l : List Nat) (f : Nat → PointRun → PointRun) (d : Device) : Device :=
  forList l (fun p d => d.setPt p (f p)) d

/-! ### Channels -/

/-- The report keeps the newest of the episodes that close at an instant (R142). -/
def ChanRun.reported (l : List Episode) (t : Nat) (c : ChanRun) : ChanRun :=
  match l with
  | [] => c
  | e :: _ => { c with cause := e.cause, onset := e.onset, endT := t }

/-- The Shepherd's state of a channel that stops or starts again: no detector asserted, class UNCHECKED, open episodes closed, nothing raised (R51, R134, R140). -/
def ChanRun.quiet (b : Nat) (c : ChanRun) : ChanRun :=
  { c.reported (c.episodes.filter fun e => e.to_.isNone) b with
    armed := false, asserted := [], cls := 0, where_ := 0#8, fastPins := 0#8,
    episodes := c.episodes.map fun e => if e.to_.isNone then { e with to_ := some b, det := none } else e }

/-- What every start sets at its boundary, with tick 0; γ starts at 1 (R253). -/
def ChanRun.begin (b tick0 settle : Nat) (phase : Phase) (nswap : Nat) (c : ChanRun) : ChanRun :=
  ChanRun.apply b
    { c.quiet b with phase := phase, tick0 := tick0, from_ := b, settles := (b, tick0 + settle) :: c.settles, gridOld := c.grid,
                     anchor := b, grid := 0, wstop := none, outHigh := none, outLow := none, fadeFrom := none, switched := false,
                     outages := endOutages b c.outages, epochPairs := PairCount.zero, servoSlow := false, nswaps := (b, nswap) :: c.nswaps,
                     gamma := F64.one, pilotAlarm := false }

/-- A channel becomes running at a boundary: tick 0 (R47). -/
def Device.startChan (n b : Nat) (d : Device) : Device :=
  let c := d.fw.eff
  let d := d.setChan n fun x =>
    { x.begin b b (c.chan n).settle .starting (c.chan n).nswap with wstart := b, isoClosed := false, calClosed := false, released := false, look := [], back := [], outputs := [], risks := [], busys := [] }
  d.setPoints (c.pointsOf n) fun p => PointRun.start b b (c.chan n) (c.point p)

/-- A restart: the ramp-down from b, and the start sequence with tick 0 at b + 30,000 (R49). The points that the commit disables end with it. [log 76 DEDUCED] -/
def Device.restartChan (n b : Nat) (old : Cfg) (d : Device) : Device :=
  let c := d.fw.eff
  let d := d.setChan n fun x => x.begin b (b + rampTicks) (c.chan n).settle .rampRestart (c.chan n).nswap
  let d := d.setPoints (old.pointsOf n) fun p => PointRun.hold b (b + rampTicks) (old.point p)
  let d := d.setPoints ((old.pointsOf n).filter fun p => !(c.pointOn p)) fun _ => PointRun.stop b
  d.setPoints (c.pointsOf n) fun p => PointRun.start b (b + rampTicks) (c.chan n) (c.point p)

/-- A disable, or the end of RUN: the ramp-down from b (R50, R449). -/
def Device.stopChan (n b : Nat) (old : Cfg) (d : Device) : Device :=
  let d := d.setChan n fun x =>
    { x.quiet b with phase := .rampOff, from_ := b, wstop := some b, outHigh := none, outLow := none, fadeFrom := none,
                     switched := false, outages := endOutages b x.outages }
  d.setPoints (old.pointsOf n) fun p x => (x.hold b (b + rampTicks) (old.point p)).stop b

/-- The channel's streams run. -/
def ChanRun.on (c : ChanRun) : Bool := c.wstop.isNone

/-! ### Points of a running channel (R67, R68, R94) -/

/-- What a commit does to one point of a channel that keeps running. -/
inductive PointMove where
  | none
  | enable
  | disable
  | restart
  | amplitude
  deriving DecidableEq, Repr

/-- [log 75 DEDUCED] -/
def pointMove (old new : Cfg) (p : Nat) : PointMove :=
  let a := old.point p
  let b := new.point p
  if !(old.pointOn p) then (if new.pointOn p then .enable else .none)
  else if !(new.pointOn p) then .disable
  else if a.f ≠ b.f ∨ a.ph ≠ b.ph ∨ a.assign ≠ b.assign then .restart
  else if a.a ≠ b.a then .amplitude
  else .none

/-- A point that ramps down in phase 1. -/
def PointMove.rampsDown : PointMove → Bool
  | .disable => true
  | .restart => true
  | _ => false

def PointMove.inPhase1 : PointMove → Bool
  | .disable => true
  | .restart => true
  | .amplitude => true
  | _ => false

/-- One point's change at b, with phase 1 of length tr. A change that meets an earlier commit's phase takes its place: an amplitude transition gives the ramp new ends, and a ramp-up still to come at the earlier B + Tr then comes no more. An asserted envelope detector stays asserted, and its episode open, until it releases. [log 201 DESIGN CHOICE, 202 DESIGN CHOICE] -/
def PointRun.move (m : PointMove) (refilter : Bool) (b tr : Nat) (grid : Int) (c : PointCfg) (x : PointRun) : PointRun :=
  let up := b + tr
  let done := up + rampLength c.f
  let x :=
    match m with
    | .none => x
    | .disable => { x.endFilter b with full := false, armed := false, e0 := [], spans := (b, up) :: x.spans }
    | .amplitude =>
      { x with rampFrom := b, rampEnd := up, full := false, armed := false, spans := (b, up) :: x.spans }
    | .restart =>
      { x.load up c with rampFrom := up, rampEnd := done, full := false, phase2 := true, armed := false, e0 := [],
                         spans := (b, done) :: x.spans, fresh := x.fresh ++ [b] }
    | .enable =>
      let x := (x.beginFilter b (48 * c.d) grid).load up c
      { x with rampFrom := up, rampEnd := done, full := false, phase2 := true, armed := false, e0 := [],
               spans := (up, done) :: x.spans, settles := (b, b) :: x.settles, fresh := x.fresh ++ [b] }
  if refilter then
    { x.beginFilter b (48 * c.d) grid with settles := (b, b) :: x.settles, fresh := x.fresh ++ [b] }
  else x

/-- The points of a channel that keeps running take their new settings at b. [log 75 DEDUCED] -/
def Device.movePoints (n b : Nat) (old : Cfg) (d : Device) : Device :=
  let new := d.fw.eff
  let ps := (List.range 8).map fun k => 8 * n + k
  let moves := ps.map fun p => (p, pointMove old new p)
  let tr := (moves.filter fun x => x.2.inPhase1).foldl (fun m x => Max.max m (rampLength (old.point x.1).f)) rampTicks
  forList moves (fun (p, m) d =>
    let o := old.point p
    let c := new.point p
    let refilter := old.pointOn p && new.pointOn p && (o.d != c.d || o.response != c.response)
    d.setPt p fun x => (if m.rampsDown then x.hold b (b + tr) o else x).move m refilter b tr (d.chan n).grid c) d

/-- The instant whose settings a channel's carrier has at t: in a ramp-down those before its boundary (R49, R50). -/
def Device.carrierInstant (n t : Nat) (d : Device) : Nat :=
  let c := d.chan n
  if c.phase = .rampOff ∨ c.phase = .rampRestart then Min.min t (c.from_ - 1) else t

/-- The cycle count of a channel's one point at an instant (R62, R63). -/
def Device.cycleAt (n t : Nat) (d : Device) : Option (Nat × Nco) :=
  match (d.cfgAt (d.carrierInstant n t)).pointsOf n with
  | p :: _ => ((d.pt p).ncoAt t).map fun o => (p, o)
  | [] => none

/-- The first cycle count after c that is a multiple of twice the larger Nswap (R65). -/
def takeoverCycle (c old new : Nat) : Nat :=
  let m := 2 * Max.max old new
  (c / m + 1) * m

/-- The instant of the takeover cycle after b: of the accumulator that runs at b, or, where a new word comes first, of the one that follows it (R65, R67). -/
def PointRun.takeover (b old new : Nat) (x : PointRun) : Option Nat :=
  let at_ (o : Nco) (t : Nat) : Nat := o.instant (takeoverCycle (o.cycle t) old new)
  match x.ncoAt b, x.ncos.head?.filter fun o => decide (b < o.from_) with
  | some o, none => some (at_ o b)
  | some o, some m => if at_ o b < m.from_ then some (at_ o b) else some (at_ m m.from_)
  | none, some m => some (at_ m m.from_)
  | none, none => none

/-- A new Nswap on a channel that keeps running takes effect at the takeover cycle; the samples whose window holds it settle (R65). A change while an earlier one still waits for its takeover cycle takes its place: the old Nswap is the one in force at b, and the SETTLE span of the earlier cycle stays. [log 233 DESIGN CHOICE] -/
def Device.changeNswap (n b : Nat) (d : Device) : Device :=
  let new := (d.fw.eff.chan n).nswap
  let set (t : Nat) (y : ChanRun) : ChanRun := { y with nswaps := (t, new) :: y.nswaps.filter fun x => decide (x.1 ≤ b) }
  match d.fw.eff.pointsOf n with
  | p :: _ =>
    match (d.pt p).takeover b (d.nswapAt n b) new with
    | some t => (d.setChan n (set t)).setPt p fun y => { y with spans := (t, t + 1) :: y.spans }
    | none => d.setChan n (set b)
  | [] => d.setChan n (set b)

/-- The roles at an instant are those of the swap state of the point's cycle count (R63). -/
def Device.setSwap (n t : Nat) (d : Device) : Device :=
  match d.cycleAt n t with
  | some (_, o) => d.setChan n fun y => { y with swap := swapState (o.cycle t) (d.nswapAt n (d.carrierInstant n t)), swapLast := t }
  | none => d

/-! ### The rows -/

/-- A running channel's estimator is seeded from the factory table, its combiner starts in HIGH, and its chopper runs on the grid of device time (R41, R47, R105). -/
def Device.releaseChan (n : Nat) (d : Device) : Device :=
  let ch := d.fw.eff.chan n
  let temp := d.tileTemp n
  let f := d.factory
  let t := (d.chan n).tick0 + releaseTicks
  let rho := Factory.rho f n ch.gl ch.gh temp
  let delta := Factory.delta f n ch.gl ch.gh temp
  let d := d.setChan n fun c =>
    ChanRun.apply t
      { c with phase := .running, released := true, est := .seeded, tracked := 0, skipped := 0,
               rho := rho, delta := delta, heldRho := rho, heldDelta := delta, heldTemp := temp, ratioGl := ch.gl, ratioGh := ch.gh,
               comb := if ch.range = 2 then .low else .high, w := if ch.range = 2 then 32 else 0, clean := 0,
               ovlLow := false, ovlHigh := false, spanLow := [], spanHigh := [], ratioAlarm := false }
  d.setSwap n t

/-- A channel's switches toward its input are closed. -/
def ChanRun.joined (c : ChanRun) : Bool := c.isoClosed || c.calClosed

/-- Tick 3,000 of a start sequence: the isolation switches, or the calibration-bus switches of a channel under BUS calibration, are closed; never both (R36, R256). [log 173 DEDUCED] -/
def execIsolationSwitchesClosed (ch : Fin 128) (t : Nat) (s : State) : Host.Outcome State Fault Refusal :=
  let c := s.dev.chan ch.val
  if c.phase = .starting ∧ c.joined = false ∧ t = c.tick0 + closeTicks then
    onDev (fun d => (d.tickTo t).setChan ch.val fun c => { c with isoClosed := !c.calBus, calClosed := c.calBus }) s
  else .next s

/-- Tick 15,000. -/
def execModulatorRelease (ch : Fin 128) (t : Nat) (s : State) : Host.Outcome State Fault Refusal :=
  let c := s.dev.chan ch.val
  if c.phase = .starting ∧ c.joined ∧ t = c.tick0 + releaseTicks then
    onDev (fun d => (d.tickTo t).releaseChan ch.val) s
  else .next s

/-- Pin X of point p is monitored when its expected envelope is at least 0.5 % of the pin's scale: FS_L for a sense pin, 10 mA for a drive pin (R128). -/
def Device.monitored (p : Nat) (x : ChPin) (e : F32) (d : Device) : Bool :=
  let c := d.fw.eff
  let ch := c.chan (p / 8)
  let fs := F64.div (F64.div d.pw.vref (F64.ofNat 2)) (F64.ofNat ch.gl)
  let q := if ch.mode = 1 then F64.mul fs (F64.mul (F64.ofNat ch.cf) (dec 1 1000000000000)) else fs
  match x with
  | .DA => c.usesPin p .DA && F64.le (dec 5 100000) (F64.ofF32 e)
  | .DB => c.usesPin p .DB && F64.le (dec 5 100000) (F64.ofF32 e)
  | _ => ch.usesSense x && F64.le (F64.mul (dec 5 1000) q) (F64.ofF32 e)

/-- The excitation is at full amplitude, with the expected envelopes of its pins (R47, R67, R128); under BUS calibration it stays at zero (R256). -/
def execExcitationRampEnd (p : Fin 1024) (t : Nat) (env : List (ChPin × F32)) (s : State) : Host.Outcome State Fault Refusal :=
  let x := s.dev.pt p.val
  if x.full = false ∧ x.phase2 = false ∧ x.on ∧ (s.dev.chan (p.val / 8)).released ∧ (s.dev.chan (p.val / 8)).calBus = false ∧ t = x.rampEnd then
    onDev (fun d => (d.tickTo t).setPt p.val fun y =>
      { y with full := true, e0 := env.filter fun (x, e) => d.monitored p.val x e }) s
  else .next s

/-- Tick 315,000 of a channel in Q mode (R47). -/
def execQServoSettle (ch : Fin 128) (t : Nat) (s : State) : Host.Outcome State Fault Refusal :=
  let c := s.dev.chan ch.val
  if (s.dev.fw.eff.chan ch.val).mode = 1 ∧ c.phase = .running ∧ c.servoSlow = false ∧ t = c.tick0 + servoTicks then
    onDev (fun d => (d.tickTo t).setChan ch.val fun c => { c with servoSlow := true }) s
  else .next s

/-- B + 33,000 of a disable: the isolation switches are open and the pins disabled (R28, R50). -/
def execDisablePinsReleased (ch : Fin 128) (t : Nat) (s : State) : Host.Outcome State Fault Refusal :=
  let c := s.dev.chan ch.val
  if c.phase = .rampOff ∧ c.released = false ∧ t = c.from_ + rampTicks + closeTicks then
    onDev (fun d => (d.tickTo t).setChan ch.val fun c => { c with phase := .stopped, isoClosed := false, calClosed := false, servoSlow := false }) s
  else .next s

/-- B + Tr: the newly enabled and restarting points of a channel begin to ramp up, and their accumulators take their new words (R14, R67). -/
def execPointRampUp (ch : Fin 128) (t : Nat) (s : State) : Host.Outcome State Fault Refusal :=
  let ps := (s.dev.fw.eff.pointsOf ch.val).filter fun p => (s.dev.pt p).phase2 && (s.dev.pt p).rampFrom == t
  if ps = [] then .next s
  else onDev (fun d => ((d.tickTo t).setPoints ps fun _ y => { y with phase2 := false }).setSwap ch.val t) s

/-- A hand-over of roles at a cycle count: the instant of the wrap, when that count is a multiple of the Nswap in force there, no hand-over at or after it has been made and it lies in the present epoch (R63). -/
def Device.swapDue (n cycle : Nat) (d : Device) : Option Nat :=
  match d.cycleAt n d.clk.time with
  | some (_, o) =>
    let t := o.instant cycle
    if o.from_ ≤ t ∧ (d.chan n).swapLast < t ∧ d.inEpoch t ∧ cycle % d.nswapAt n (d.carrierInstant n t) = 0 then some t else none
  | none => none

/-- An accumulator wrap that is a multiple of Nswap: the roles change over (R63, R65). -/
def execCurrentSwap (ch : Fin 128) (cycle : Nat) (s : State) : Host.Outcome State Fault Refusal :=
  let c := s.dev.chan ch.val
  match s.dev.swapDue ch.val cycle with
  | some t =>
    if (s.dev.driveCfg ch.val).swaps && c.released then onDev (fun d => (d.tickTo t).setSwap ch.val t) s else .next s
  | none => .next s

/-- A guard enters or leaves its current limit at t. -/
def Device.setLimit (g t : Nat) (on : Bool) (d : Device) : Device :=
  (d.setGroup g fun x => { x with limit := on }).watchAll (groupChans g) t

/-- R39: the guard's load forces its driver into current limit. -/
def execGuardCurrentLimit (g : Fin 32) (t : Nat) (s : State) : Host.Outcome State Fault Refusal :=
  match s.dev.pw.mode with
  | .run => onDev (fun d => (d.tickTo t).setLimit g.val t true) s
  | .calibrate => onDev (fun d => (d.tickTo t).setLimit g.val t true) s
  | _ => .next s

def execGuardCurrentLimitReleased (g : Fin 32) (t : Nat) (s : State) : Host.Outcome State Fault Refusal :=
  onDev (fun d => (d.tickTo t).setLimit g.val t false) s

/-- B + 30,000: the excitation is at zero; a restart begins its start sequence, a disable stops the converters and opens the switches (R49, R50). -/
def execRampDownEnd (ch : Fin 128) (t : Nat) (s : State) : Host.Outcome State Fault Refusal :=
  let c := s.dev.chan ch.val
  if t ≠ c.from_ + rampTicks then .next s
  else
    match c.phase with
    | .rampOff =>
      onDev (fun d => ((d.tickTo t).setChan ch.val fun c => { c with released := false, ovlLow := false, ovlHigh := false }).watch ch.val t) s
    | .rampRestart =>
      onDev (fun d => ((d.tickTo t).setChan ch.val fun c =>
        { c with phase := .starting, isoClosed := false, calClosed := false, released := false, ovlLow := false, ovlHigh := false }).watch ch.val t) s
    | _ => .next s

end Sys2Proof.Machine
end

