-- ==== Sys2Proof/Machine/Shepherd.lean ====
section
/-! DEFINITION. The Shepherd: fast detections and their episodes (R126 to R133, R450), impedance checks, their classes and baselines (R134 to R138) and their collisions (R139, R140). -/

namespace Sys2Proof.Machine

/-! ### Events and pins -/

def shCh (n : Nat) : BitVec 24 := ebit (n % 16)
def shFast : BitVec 24 := ebit 16
def shFault : BitVec 24 := ebit 17
def shWarn : BitVec 24 := ebit 18
def shCleared : BitVec 24 := ebit 19
def shBaseline : BitVec 24 := ebit 20

def Device.raiseShep (n : Nat) (bits : BitVec 24) (d : Device) : Device := d.raise (evShep (n / 16)) bits

def pinBit : ChPin → BitVec 8
  | .SP => 1#8
  | .SN => 2#8
  | .DA => 4#8
  | .DB => 8#8

def isDrive : ChPin → Bool
  | .DA => true
  | .DB => true
  | _ => false

def guardBit : BitVec 8 := 16#8

/-! ### Episodes (R131, R133) -/

/-- The class invalidates. -/
def badClass (c : Nat) : Bool := decide (2 ≤ c) && decide (c ≤ 4)

/-- The latest class has a location in the episode's scope. -/
def Episode.held (e : Episode) (cls : Nat) (where_ : BitVec 8) : Bool :=
  badClass cls &&
    (match e.pin with
     | none => decide (where_ ≠ 0#8)
     | some x => decide (where_ &&& pinBit x ≠ 0#8))

/-- Open episodes that neither their detector nor the class holds any longer. -/
def ChanRun.loose (c : ChanRun) : List Episode :=
  c.episodes.filter fun e => e.to_.isNone && !(e.det.any fun x => c.asserted.contains x) && !(e.held c.cls c.where_)

/-- Close them at an instant, with CLEARED; each closing is an occurrence for FAULT units (R180). Episodes whose samples are long gone are forgotten. -/
def Device.closeEpisodes (n t : Nat) (d : Device) : Device :=
  let gone := (d.chan n).loose
  let d := d.setChan n fun c =>
    { c with episodes := (c.episodes.map fun e => if gone.contains e then { e with to_ := some t, det := none } else e).filter fun e =>
               e.to_.all fun z => decide (t < z + markHorizon) }
  let d := d.setChan n (ChanRun.reported gone t)
  if gone.isEmpty then d else forList gone (fun _ d => d.occur n 3 t t 0#14) (d.raiseShep n (shCh n ||| shCleared))

/-! ### Checks (R134, R135, R139, R140) -/

def dwellTicks : Nat := 6000000
def phaseTicks : Nat := 1500000
def senseOpens : Nat := 366000
def toneDown : Nat := 150000

/-- Tones cut off at an instant: those that have begun end no later than their ramp-down, those to come do not begin. -/
def cutSpans (t : Nat) (l : List (Nat × Option Nat)) : List (Nat × Option Nat) :=
  (l.filter fun (a, _) => decide (a < t)).map fun (a, b) => (a, some (Min.min (b.getD (t + toneDown)) (t + toneDown)))

/-- A check in progress is abandoned at t: its tones ramp down and it yields no class. -/
def Device.abandonCheck (g t : Nat) (d : Device) : Device :=
  match (d.group g).check with
  | none => d
  | some k =>
    let d := d.setGroup g fun x => { x with check := none }
    forList k.chans (fun n d => d.setChan n fun c => { c with tones := cutSpans t c.tones }) d

/-- R139, R140: a fast detection's urgent check. -/
def Device.urgentCheck (g td : Nat) (d : Device) : Device :=
  match (d.group g).check with
  | none => d.setGroup g fun x => { x with urgent := true }
  | some k =>
    if !k.urgent then (d.abandonCheck g td).setGroup g fun x => { x with urgent := true }
    else if td < k.start + senseOpens then d
    else d.setGroup g fun x => { x with second := true }

/-! ### Fast detections -/

/-- Expected envelope of a pin that is monitored (R128). -/
def PointRun.expected (x : PointRun) (pin : ChPin) : Option F32 := (x.e0.find? fun y => y.1 == pin).map (·.2)

/-- An envelope has stayed below 0.10·E0 for H (R129). -/
def Cfg.envLow (c : Cfg) (p : Nat) (e0 : F32) (x : EnvIn) : Bool :=
  decide (envHold (c.point p).f ≤ x.ticks) && F64.lt (F64.mul (F64.ofNat 10) (F64.ofF32 x.level)) (F64.ofF32 e0)

/-- An envelope has stayed at or above 0.20·E0 for H (R129). -/
def Cfg.envBack (c : Cfg) (p : Nat) (e0 : F32) (x : EnvIn) : Bool :=
  decide (envHold (c.point p).f ≤ x.ticks) && F64.le (F64.ofF32 e0) (F64.mul (F64.ofNat 5) (F64.ofF32 x.level))

/-- The overload condition has held, or been absent, for 2,400 ticks at an instant (R127). -/
def ChanRun.condFor (c : ChanRun) (on : Bool) (t : Nat) : Bool := c.ovlCond == on && decide (c.ovlAt + overloadHold ≤ t)

/-- The detector is armed and fires at t (R126 to R129, R450). [log 203 DEDUCED] -/
def Device.canFire (n : Nat) (x : Detector) (t : Nat) (env : EnvIn) (d : Device) : Bool :=
  let c := d.chan n
  decide (d.pw.mode = .run) && !(c.asserted.contains x) && !c.cal && decide (c.phase = .running) &&
  (match x with
   | .overload => c.armed && c.condFor true t
   | .envelope p pin =>
     let q := d.pt p.val
     p.val / 8 == n && q.armed && q.on && ((q.expected pin).any fun e => d.fw.eff.envLow p.val e env) &&
       (isDrive pin || !(c.asserted.any fun y =>
         match y with
         | .envelope r z => r == p && isDrive z
         | .overload => false)))

/-- A detector's lag (R127, R129). -/
def Device.lagOf (x : Detector) (d : Device) : Nat :=
  match x with
  | .overload => overloadLag
  | .envelope p _ => envLag (d.fw.eff.point p.val).f

/-- A fast detection at td opens a back-dated episode. -/
def Device.fastDetect (n : Nat) (x : Detector) (td : Nat) (d : Device) : Device :=
  let te := td - d.lagOf x
  let pin := match x with
    | .envelope _ y => if isDrive y then some y else none
    | .overload => none
  let cause := match x with
    | .overload => 1
    | .envelope _ _ => 2
  let mask := match x with
    | .overload => 0#8
    | .envelope _ y => pinBit y
  let d := d.setChan n fun c =>
    { c with asserted := c.asserted ++ [x], episodes := ⟨te, none, pin, cause, some x, td + 96, te⟩ :: c.episodes,
             fastPins := c.fastPins ||| mask }
  let d := (d.countChan n cntFast).raiseShep n (shCh n ||| shFast)
  (d.occur n 0 te td 0#14).urgentCheck (n / 4) td

def execFastDetection (ch : Fin 128) (y : Detector) (x : DetectIn) (s : State) : Host.Outcome State Fault Refusal :=
  if s.dev.canFire ch.val y x.t x.env then onDev (fun d => (d.tickTo x.t).fastDetect ch.val y x.t) s else .next s

/-- A detector that is asserted releases at t (R127, R129); one whose pin has no expected envelope any longer, its point disabled or ramping up again, releases whatever the envelope. [log 202 DESIGN CHOICE] -/
def Device.canRelease (n : Nat) (x : Detector) (t : Nat) (env : EnvIn) (d : Device) : Bool :=
  let c := d.chan n
  c.asserted.contains x &&
  (match x with
   | .overload => c.condFor false t
   | .envelope p pin => ((d.pt p.val).expected pin).all fun e => d.fw.eff.envBack p.val e env)

/-- R139: an urgent check after a release, at the first boundary. An urgent check that runs already covers it until its SENSE window opens, and is followed by a second one after that; a periodic one gives way at the boundary. [log 204 DESIGN CHOICE] -/
def Device.urgentAfter (g t : Nat) (d : Device) : Device :=
  match (d.group g).check with
  | some k =>
    if !k.urgent then d.setGroup g fun x => { x with urgent := true }
    else if t < k.start + senseOpens then d
    else d.setGroup g fun x => { x with second := true }
  | none => d.setGroup g fun x => { x with urgent := true }

/-- A detector releases: its episode closes unless the class holds it, and an invalidating class calls for an urgent check (R133, R139). One whose detector releases before its urgent check has ended, while the class does not invalidate, closes at the release. [log 237 DEDUCED] -/
def Device.releaseDetector (n : Nat) (x : Detector) (t : Nat) (d : Device) : Device :=
  let d := (d.setChan n fun c => { c with asserted := c.asserted.erase x }).closeEpisodes n t
  if badClass (d.chan n).cls then d.urgentAfter (n / 4) t else d

def execDetectorRelease (ch : Fin 128) (y : Detector) (x : DetectIn) (s : State) : Host.Outcome State Fault Refusal :=
  if s.dev.canRelease ch.val y x.t x.env then onDev (fun d => (d.tickTo x.t).releaseDetector ch.val y x.t) s else .next s

/-! ### The start of a check (R134, R135) -/

/-- Full-scale current of a drive pin's source as a fraction of VREF: VREF/500 (R55). -/
def driveScale (c : Cfg) (n : Nat) (vref : F64) : F64 := if (c.chan n).mode = 2 then F64.div vref (dec 500 1) else vref

/-- A drive pin's run-time limit (R60). -/
def runLimit (c : Cfg) (n : Nat) (vhv : F64) : F64 :=
  if (c.chan n).mode = 2 then dec 1 100 else F64.sub (F64.div vhv (dec 2 1)) (dec 25 100)

/-- The tone fits on a drive pin at 0.001 of its scale at least (R136). -/
def Device.toneFits (n pin : Nat) (d : Device) : Bool :=
  let c := d.fw.eff
  F64.le (F64.mul (dec 1 1000) (driveScale c n d.pw.vref))
    (F64.sub (runLimit c n d.pw.vhv) (pinPeak c n (c.pointsOf n) pin d.pw.vref))

/-- Phase k puts a tone on channel n: SENSE does not in Q mode, nor across a pin that the mode leaves isolated (L HALF). The GUARD phase measures Y_G in every mode, also where both sense pins are isolated (I W2). [log 238 DEDUCED] -/
def Device.toneIn (n k : Nat) (d : Device) : Bool :=
  match k with
  | 0 => let c := d.fw.eff.chan n
         c.mode != 1 && !(c.mode == 3 && c.subform == 1)
  | 1 => d.toneFits n 0
  | 2 => d.toneFits n 1
  | _ => true

/-- A channel that a check covers: enabled, running and free of wideband SETTLE. -/
def Device.checkable (b n : Nat) (d : Device) : Bool :=
  let c := d.chan n
  d.fw.eff.chanOn n && decide (c.phase = .running) && !(settling c.settles b b) && !(d.forcedOut n b)

/-- Every enabled channel of the group runs free of wideband SETTLE. -/
def Device.groupSettled (g b : Nat) (d : Device) : Bool :=
  let on := (groupChans g).filter d.fw.eff.chanOn
  !on.isEmpty && on.all fun n => d.checkable b n

/-- Begin a check of a group at a boundary. An abandoned urgent check still runs again once all its channels can be checked (R140). -/
def Device.beginCheck (g b : Nat) (urgent : Bool) (d : Device) : Device :=
  let ns := (groupChans g).filter fun n => d.checkable b n
  if ns = [] then d
  else
    let on := ns.flatMap fun n => ((List.range 4).filter fun k => d.toneIn n k).map fun k => (n, k)
    let all := d.groupSettled g b
    let d := d.setGroup g fun x =>
      { x with check := some ⟨b, urgent, 0, ns, on⟩, urgent := x.urgent && !urgent, rerun := x.rerun && !(urgent && all) }
    forList ns (fun n d =>
      let spans := (on.filter fun y => y.1 == n).map fun y => (b + phaseTicks * y.2, some (b + phaseTicks * (y.2 + 1)))
      d.setChan n fun c => { c with tones := spans ++ c.tones.filter fun (_, e) => e.all fun z => decide (b < z + markHorizon) }) d

/-- What a boundary does to a group before checks begin: a dwell that ends leaves its place to the next check, and a second urgent check is due at the first boundary after the end of the first (R140). -/
def GroupRun.turn (b : Nat) (x : GroupRun) : GroupRun :=
  match x.check with
  | some k => if k.start + dwellTicks ≤ b then { x with check := none, ended := some k } else x
  | none => if x.second then { x with urgent := true, second := false } else x

/-- The checks that begin at a boundary, with full 64-bit device time (R134, R139, R140); a periodic one that falls due while an urgent one runs or waits is skipped. -/
def Device.startChecks (b : Nat) (d : Device) : Device :=
  if d.pw.mode ≠ .run then d
  else
    forNat 32 (fun g d =>
      let d := d.setGroup g (GroupRun.turn b)
      let x := d.group g
      let c := d.fw.eff.group g
      if x.check.any fun k => k.urgent then d
      else if x.urgent then (d.abandonCheck g b).beginCheck g b true
      else if x.check.isSome || x.second then d
      else if x.rerun then (if d.groupSettled g b then d.beginCheck g b true else d)
      else if c.periodic && b / Config.epochTicks % d.fw.eff.pchk == c.phi then d.beginCheck g b false
      else d) d

/-! ### Phases (R136) -/

/-- An impedance whose magnitude exceeds 1 GΩ reads +∞. -/
def openAs (z : F32 × F32) : F32 × F32 :=
  if F64.lt (dec 1000000000 1) (Cplx.abs ⟨F64.ofF32 z.1, F64.ofF32 z.2⟩) then (F32.infinity, 0#32) else z

def nanPair : F32 × F32 := (F32.qnan, F32.qnan)

/-- The quantities of phase k as they are kept: in Q mode C_A, C_B stand for Z_S and G_A, G_B beside them. -/
def Imped.measure (k : Nat) (q on : Bool) (x : PhaseMeas) (m : Imped) : Imped :=
  match k with
  | 0 => if q then m else { m with zs := if on then openAs x.a else nanPair }
  | 1 =>
    let m := { m with zda := if on then openAs x.a else nanPair }
    if q then { m with zs := ((if on then x.b.1 else F32.qnan), m.zs.2), g := ((if on then x.b.2 else F32.qnan), m.g.2) } else m
  | 2 =>
    let m := { m with zdb := if on then openAs x.a else nanPair }
    if q then { m with zs := (m.zs.1, if on then x.b.1 else F32.qnan), g := (m.g.1, if on then x.b.2 else F32.qnan) } else m
  | _ => { m with yg := x.a }

/-- The check of a group that phase k comes next in: one whose dwell has ended, or the running one. -/
def GroupRun.inPhase (k : Nat) (x : GroupRun) : Option Check :=
  match x.ended with
  | some c => if c.phase = k then some c else x.check.filter fun c => c.phase == k
  | none => x.check.filter fun c => c.phase == k

/-- A check's next phase is over. -/
def GroupRun.passPhase (k : Nat) (x : GroupRun) : GroupRun :=
  let pass (c : Check) : Check := { c with phase := c.phase + 1 }
  match x.ended with
  | some c => if c.phase = k then { x with ended := some (pass c) } else { x with check := x.check.map pass }
  | none => { x with check := x.check.map pass }

/-- A phase's measurement window has closed. [log 78 DEDUCED] -/
def Device.checkPhase (g : Nat) (c : Check) (ms : List PhaseMeas) (d : Device) : Device :=
  let d := d.setGroup g (GroupRun.passPhase c.phase)
  forList c.chans (fun n d =>
    match ms.find? fun m => m.ch == n with
    | some m =>
      let q := ((d.cfgAt c.start).chan n).mode == 1
      d.setChan n fun y => { y with meas := y.meas.measure c.phase q (c.tones.contains (n, c.phase)) m }
    | none => d) d

def execCheckPhase (g : Fin 32) (k : Fin 4) (meas : List PhaseMeas) (s : State) : Host.Outcome State Fault Refusal :=
  match (s.dev.group g.val).inPhase k.val with
  | some c =>
    if c.chans.all fun n => meas.any fun m => m.ch == n then
      onDev (fun d => (d.tickTo (c.start + phaseTicks * k.val + 1134000)).checkPhase g.val c meas) s
    else .next s
  | none => .next s

/-! ### Classes (R137) -/

def mag (z : F32 × F32) : F64 := Cplx.abs ⟨F64.ofF32 z.1, F64.ofF32 z.2⟩

/-- |a − b| > r·|b|. -/
def drifted (r : F32) (a b : F32 × F32) : Bool :=
  F64.lt (F64.mul (F64.ofF32 r) (mag b))
    (Cplx.abs (Cplx.sub ⟨F64.ofF32 a.1, F64.ofF32 a.2⟩ ⟨F64.ofF32 b.1, F64.ofF32 b.2⟩))

/-- A drive pin is in use: of an enabled point, or the return element DB of W2 and W4; W3 returns by SN (R31). -/
def Cfg.inUse (c : Cfg) (n pin : Nat) : Bool :=
  ((c.pointsOf n).any fun p => drives (c.chan n) (c.point p) pin)
    || ((c.chan n).mode == 2 && (c.chan n).subform != 1 && pin == 1)

def pinBits (l : List (Bool × BitVec 8)) : BitVec 8 := l.foldl (fun m (b, x) => if b then m ||| x else m) 0#8

/-- Class and location of a channel's measurement. DRIFT of Z_S has the location of every condition on Z_S: DA and DB in I W2 and W3. [log 79 DEDUCED, 239 DEDUCED] -/
def classify (c : Cfg) (n : Nat) (m : Imped) (base : Option Imped) : Nat × BitVec 8 :=
  let ch := c.chan n
  let p := c.shep n
  let ua := c.inUse n 0
  let ub := c.inUse n 1
  let above (z : F32 × F32) (lim : F32) : Bool := F64.lt (F64.ofF32 lim) (mag z)
  let under (z : F32 × F32) (lim : F64) : Bool := F64.lt (mag z) lim
  let senseAt : BitVec 8 := if ch.mode = 2 ∧ ch.subform ≤ 1 then 0x0C#8 else 0x03#8
  let q := ch.mode == 1
  let low (x : F32) : Bool := F32.lt x p.cmin
  let openS :=
    if q then pinBits [(ua && low m.zs.1 && !(above m.zda p.zopen), 4#8), (ub && low m.zs.2 && !(above m.zdb p.zopen), 8#8)]
    else if above m.zs p.zopen then senseAt else 0#8
  let openD :=
    if q then pinBits [(ua && low m.zs.1 && above m.zda p.zopen, 4#8), (ub && low m.zs.2 && above m.zdb p.zopen, 8#8)]
    else pinBits [(ua && above m.zda p.zopen, 4#8), (ub && above m.zdb p.zopen, 8#8)]
  let short := pinBits
    [ (!q && under m.zs (F64.ofF32 p.zshort), senseAt),
      (q && F32.lt p.gshort m.g.1, 4#8), (q && F32.lt p.gshort m.g.2, 8#8),
      (ua && under m.zda (dec 10 1), 4#8), (ub && under m.zdb (dec 10 1), 8#8) ]
  let leak := if F32.lt p.gleak m.yg.1 then guardBit else 0#8
  let drift := match base with
    | none => 0#8
    | some b => pinBits
        [ (!q && drifted p.dr m.zs b.zs, senseAt),
          (q && ua && drifted p.dr (m.zs.1, 0#32) (b.zs.1, 0#32), 4#8),
          (q && ub && drifted p.dr (m.zs.2, 0#32) (b.zs.2, 0#32), 8#8),
          (ua && drifted p.dr m.zda b.zda, 4#8), (ub && drifted p.dr m.zdb b.zdb, 8#8) ]
  if openS ≠ 0#8 then (2, openS)
  else if openD ≠ 0#8 then (3, openD)
  else if short ≠ 0#8 then (4, short)
  else if leak ≠ 0#8 then (5, leak)
  else if drift ≠ 0#8 then (6, drift)
  else (1, 0#8)

/-- The scopes of the episodes an invalidating class opens (R131). -/
def classScopes (cls : Nat) (w : BitVec 8) : List (Option ChPin) :=
  if cls = 3 then (if w.getLsbD 2 then [some .DA] else []) ++ (if w.getLsbD 3 then [some .DB] else []) else [none]

/-- A class is judged by the mode and points of the check, and by the limits in force when it is made (R143: from the next class). [log 205 DEDUCED] -/
def Device.classCfg (b : Nat) (d : Device) : Cfg := { d.cfgAt b with sheps := d.fw.eff.sheps }

/-- One checked channel at the end of the dwell that began at b. CAPTURE takes a check that ends after its own boundary (R138). Whether a check opens an episode is decided by the episodes open before it: one that closes at this instant counts as open, and no new one takes its place. An episode that a check opens has no td: it marks samples whose ready instant is 96 ticks after the end of the dwell or later. [log 206 DESIGN CHOICE, 236 DEDUCED] -/
def Device.classifyChan (b n : Nat) (d : Device) : Device :=
  let t := b + dwellTicks
  let c := d.chan n
  let capture := c.capture.any fun e => decide (e < t)
  let x := classify (d.classCfg b) n c.meas (if capture then none else c.base)
  let takes := capture && (x.1 == 1 || x.1 == 5)
  let changed := decide (x.1 ≠ c.cls)
  let open_ := c.episodes.any fun e => e.to_.isNone
  let new : List Episode := if badClass x.1 && !open_ then (classScopes x.1 x.2).map fun p => ⟨b, none, p, 3, none, t + 96, b⟩ else []
  let d := d.setChan n fun c =>
    { c with cls := x.1, where_ := if x.1 = 1 then c.fastPins else x.2 ||| c.fastPins, fastPins := 0#8, lastCheck := t,
             base := if takes then some c.meas else c.base, capture := if takes then none else c.capture,
             episodes := new ++ c.episodes }
  let d := d.countChan n cntCheck
  let d := if badClass x.1 then d.countChan n cntFault else d
  let bits := (if changed then shCh n else 0#24) ||| (if badClass x.1 then shFault else 0#24)
    ||| (if 5 ≤ x.1 then shWarn else 0#24) ||| (if takes then shBaseline else 0#24)
  let d := d.raiseShep n bits
  let d := if changed && badClass x.1 then d.occur n 1 t t 0#14
    else if changed && decide (5 ≤ x.1) then d.occur n 2 t t 0#14 else d
  d.closeEpisodes n t

/-- A check's channel still runs as it did when the check began: neither stopped nor restarted, nor taken for a calibration (R51, R126, R134). -/
def Device.stillRuns (b n : Nat) (d : Device) : Bool :=
  let c := d.chan n
  d.fw.eff.chanOn n && decide (c.phase = .running) && decide (c.from_ ≤ b) && !c.cal

/-- The end of the dwell: every checked channel is classified. -/
def Device.classifyGroup (g : Nat) (c : Check) (d : Device) : Device :=
  let d := d.setGroup g fun x => { x with ended := none }
  forList (c.chans.filter fun n => d.stillRuns c.start n) (fun n d => d.classifyChan c.start n) d

/-- [log 78 DEDUCED] -/
def execCheckClassification (g : Fin 32) (s : State) : Host.Outcome State Fault Refusal :=
  match (s.dev.group g.val).ended with
  | some c => if c.phase = 4 then onDev (Device.classifyGroup g.val c) s else .next s
  | none => .next s

/-! ### Leaving RUN and commits (R138, R140) -/

/-- Every check is abandoned and nothing stays pending. [log 77 DEDUCED] -/
def Device.stopChecks (b : Nat) (d : Device) : Device :=
  forNat 32 (fun g d => (d.abandonCheck g b).setGroup g fun x => { x with ended := none, urgent := false, second := false, rerun := false }) d

/-- A commit touches the group at b. -/
def Device.disturbGroup (g b : Nat) (d : Device) : Device :=
  match (d.group g).check with
  | none => d
  | some k =>
    if k.start + dwellTicks ≤ b then d
    else
      let d := d.abandonCheck g b
      if k.urgent then d.setGroup g fun x => { x with rerun := true, urgent := x.second, second := false } else d

/-- A baseline's four quantities in the layout of R142 (Q mode: C_A and C_B). -/
def Imped.ofFloats (l : List F32) : Imped :=
  let k (i : Nat) : F32 := l.getD i 0#32
  ⟨(k 0, k 1), (k 2, k 3), (k 4, k 5), (k 6, k 7), (0#32, 0#32)⟩

/-- A staged baseline action takes effect at b. A CAPTURE that still waits for its check is dropped by a LOAD, a CLEAR and a commit that clears the baseline. [log 240 DEDUCED] -/
def Device.baselineAction (n action b : Nat) (base : List F32) (d : Device) : Device :=
  d.setChan n fun c =>
    match action with
    | 1 => { c with capture := some b }
    | 2 => { c with base := some (Imped.ofFloats base), capture := none }
    | 3 => { c with base := none, capture := none }
    | _ => c

/-- R142. -/
def Imped.out (m : Imped) : List Byte :=
  [m.zs, m.zda, m.zdb, m.yg].flatMap fun z => leF32 z.1 ++ leF32 z.2

def Device.monitoredPins (n : Nat) (d : Device) : BitVec 8 :=
  (d.fw.eff.pointsOf n).foldl (fun m p => (d.pt p).e0.foldl (fun m x => m ||| pinBit x.1) m) 0#8

def Device.shepReport (n : Nat) (d : Device) : List Byte :=
  let c := d.chan n
  let g := d.group (n / 4)
  -- cause, onset and end of the newest open episode, else of the last closed one
  let (open_, cause, onset, endT) := match c.episodes.find? fun e => e.to_.isNone with
    | some e => (true, e.cause, e.onset, 0)
    | none => (false, c.cause, c.onset, c.endT)
  let running := g.check.any fun k => k.chans.contains n
  let urgent := g.urgent || g.second || g.rerun || g.check.any fun k => k.urgent
  let count (i : Nat) : List Byte := leWord (tget 0#32 d.cnt.chan (8 * n + i))
  leBytes 2 n ++ byteOf c.cls ++ [c.where_] ++ byteOf cause
    ++ byteOf (bit01 open_ + 2 * bit01 c.base.isSome + 4 * bit01 running + 8 * bit01 urgent)
    ++ [d.monitoredPins n] ++ zeros 1 ++ leBytes 8 onset ++ leBytes 8 endT ++ leBytes 8 c.lastCheck
    ++ c.meas.out ++ (match c.base with
      | some b => b.out
      | none => zeros 32)
    ++ count cntFast ++ count cntCheck ++ count cntFault

end Sys2Proof.Machine
end

