-- ==== Sys2Proof/Machine/Queries.lean ====
section
/-! DEFINITION. The query commands of channels, points, plans, linearisation sets, streams, the Ledger, modes, supplies and firmware (R69, R117, R142, R244, R268, R356 to R374). -/

namespace Sys2Proof.Machine

/-! ### Channels and points -/

def chanQuery : Handler := sizedTo 4 fun r d =>
  let n := u16 r.body 0
  require (decide (n < 128) && u16 r.body 2 == 0) stBadField d <|
  let c := (d.cfgSeen r).chan n
  let x := d.chan n
  let out := bit01 x.outLow.isSome + 2 * bit01 x.outHigh.isSome + 4 * bit01 x.on
  let comb := match x.comb with
    | .high => 0
    | .toLow => 1
    | .low => 2
    | .toHigh => 3
  let est := match x.est with
    | .seeded => 0
    | .tracking => 1
    | .converged => 2
    | .held => 3
  (some (Ans.ok (writeChan n c ++ byteOf (bit01 c.enable) ++ byteOf comb ++ byteOf est ++ byteOf out ++ leBytes 2 x.clean ++ zeros 2
    ++ leF64 x.rho ++ leF64 x.delta ++ leF64 x.gamma
    ++ ((List.range 5).flatMap fun i => leWord (tget 0#32 d.cnt.chan (8 * n + i)))
    ++ leBytes 2 x.pinSP ++ leBytes 2 x.pinSN ++ d.shepReport n)), d)

/-- A record of R263; all zero when empty. -/
def writeOwner (p : Nat) (o : Option OwnerRec) : List Byte :=
  match o with
  | none => zeros 32
  | some o =>
    leBytes 2 p ++ byteOf (o.mode + 16 * o.subform) ++ byteOf o.cf ++ byteOf o.gl ++ byteOf (1 + 2 * bit01 o.inSitu) ++ zeros 2
      ++ leBytes 8 o.f ++ leF32 o.kre ++ leF32 o.kim ++ leF32 o.ore ++ leF32 o.oim

/-- [log 109 DEDUCED] -/
def pointQuery : Handler := sizedTo 4 fun r d =>
  let p := u16 r.body 0
  require (decide (p < 1024) && u16 r.body 2 == 0) stBadField d <|
  let c := d.cfgSeen r
  let x := d.pt p
  let o := tfind d.work.owner p
  let state := bit01 x.on + 2 * bit01 (x.lastFlags.getLsbD fSettle) + 4 * bit01 (o.any fun y => y.inForce d.fw.eff p)
    + 8 * bit01 (d.fw.eff.lin p).isSome + 16 * bit01 (d.fw.eff.tally p).enable
  (some (Ans.ok (writePoint p (c.point p) ++ byteOf state ++ zeros 3 ++ leBytes 8 x.last ++ writeOwner p o)), d)

/-! ### Plans and sets -/

/-- The range of channels a request names: COUNT 0 means every channel. -/
def planRange (first count : Nat) : Nat × Nat := if count = 0 then (0, 128) else (first, count)

def carrierPlanCheck : Handler := sizedTo 4 fun r d =>
  let g := planRange (u16 r.body 0) (u16 r.body 2)
  require (decide (g.1 + g.2 ≤ 128)) stBadField d <|
  match planClashes (d.cfgSeen r) g.1 g.2 d.pw.vref with
  | [] => (some (Ans.ok []), d)
  | l => (some ⟨stPlanClash, clashReport l, none⟩, d)

def linQuery : Handler := sizedTo 4 fun r d =>
  let first := u16 r.body 0
  let n := u16 r.body 2
  require (decide (1 ≤ n) && decide (n ≤ 8) && decide (first + n ≤ 1024)) stBadField d <|
  let c := d.cfgSeen r
  (some (Ans.ok ((List.range n).flatMap fun i => writeLin (first + i) (c.lin (first + i)))), d)

/-! ### Streams -/

/-- [log 107 DEDUCED] -/
def streamQuery : Handler := sizedTo 4 fun r d =>
  let s := u16 r.body 0
  require ((streamExists s || s == 0xFFF) && u16 r.body 2 == 0) stBadField d <|
  let c := d.cfgSeen r
  let record := if s = 0xFFF then writeStream s ⟨0, c.portN, 0, c.portFill, 0⟩ else writeStream s (c.stream s)
  let demand := if s = 0xFFF ∨ (c.stream s).dest = 0 then Frac.zero else c.demand s
  let f64 (x : Frac) : List Byte := leF64 (F64.ofFrac x)
  (some (Ans.ok (record ++ f64 demand ++ f64 (Frac.add (termSum (c.streamTerms 0)) d.fab.endingSum) ++ f64 (laneLimit d.fw.eff.portN)
    ++ f64 (termSum (c.streamTerms 1)) ++ leF64 (F64.ofNat (c.paceNeed s)) ++ leWord (tget 0#32 d.port.seqs s)
    ++ leWord (tget 0#32 d.port.discarded s))), d)

/-! ### The Ledger (R268) -/

def Device.ledgerBytes (d : Device) : List Byte :=
  let l := d.work.ownerLedger
  let flags := bit01 l.ownerUnset + 2 * bit01 l.rejectUnset + 4 * bit01 d.work.rejectPending + 8 * bit01 d.work.bankRecovered
    + 16 * bit01 l.lastInSitu
  leWord l.ownerCount ++ leWord l.rejectCount ++ leBytes 8 l.ownerTime ++ leBytes 4 flags ++ leBytes 2 l.rejectCode.toNat
    ++ byteOf l.rejectCheck ++ zeros 1 ++ l.label ++ leBytes 8 l.rejectTime ++ leBytes 8 d.factory.time.toNat
    ++ leBytes 8 d.factory.trimId.toNat ++ leWord d.work.ownerSeq ++ byteOf (bit01 d.work.ownerB) ++ zeros 11

/-- [log 109 DEDUCED] -/
def ledgerRead : Handler := sizedTo 4 fun r d =>
  let first := u16 r.body 0
  let n := u16 r.body 2
  require (decide (n ≤ 28) && decide (first + n ≤ 1024)) stBadField d <|
  (some (Ans.ok (d.ledgerBytes ++ (List.range n).flatMap fun i => writeOwner (first + i) (tfind (d.work.ownerNew.getD d.work.owner) (first + i)))), d)

/-! ### Modes, supplies, firmware (R372, R374) -/

/-- PENDING: the target and its effect epoch. [log 106 DEDUCED] -/
def Power.pendingWord (p : Power) : Word :=
  let word (m : Mode) (e : Nat) : Word := BitVec.ofNat 32 (m.code + 256 * (e % 2 ^ 24))
  match p.pending with
  | some (m, e, _) => word m e
  | none =>
    match p.hearth with
    | some (e, _) => word .hearth e
    | none =>
      match p.wake with
      | some (e, m, _) => word m e
      | none => 0xFFFFFFFF#32

def modeQuery : Handler := sizedTo 0 fun _ d =>
  (some (Ans.ok (leWord d.modeWord ++ leBytes 8 d.pw.modeSince ++ leWord d.pw.pendingWord)), d)

def supplyQuery : Handler := sizedTo 0 fun _ d =>
  (some (Ans.ok (((List.range 6).flatMap fun i => leF32 (d.pw.rails.getD i 0#32) ++ leBytes 4 (bit01 (d.pw.warn.getLsbD i)))
    ++ leF32 (F64.toF32 d.pw.vref) ++ leF32 (F64.toF32 d.pw.refp) ++ leF32 (F64.toF32 d.pw.refn) ++ leWord d.pw.supStat)), d)

def bankEntry (b : FwBank) (inForce : Bool) : List Byte :=
  byteOf (bit01 b.valid) ++ byteOf (bit01 inForce) ++ zeros 2 ++ leWord b.fwVer ++ leBytes 4 b.rollback ++ zeros 4

def fwQuery : Handler := sizedTo 0 fun _ d =>
  (some (Ans.ok (bankEntry d.nv.fwA (!d.nv.fwForceB) ++ bankEntry d.nv.fwB d.nv.fwForceB ++ leBytes 4 d.nv.rollback ++ zeros 4)), d)

/-! ### The rows -/

def execChanQuery (src : ReqSource) (s : State) : Host.Outcome State Fault Refusal := fwRow 0x0302 chanQuery src s
def execPointQuery (src : ReqSource) (s : State) : Host.Outcome State Fault Refusal := fwRow 0x0402 pointQuery src s
def execCarrierPlanCheck (src : ReqSource) (s : State) : Host.Outcome State Fault Refusal := fwRow 0x0403 carrierPlanCheck src s
def execLinQuery (src : ReqSource) (s : State) : Host.Outcome State Fault Refusal := fwRow 0x0502 linQuery src s
def execStreamQuery (src : ReqSource) (s : State) : Host.Outcome State Fault Refusal := fwRow 0x0602 streamQuery src s
def execLedgerRead (src : ReqSource) (s : State) : Host.Outcome State Fault Refusal := fwRow 0x0905 ledgerRead src s
def execModeQuery (src : ReqSource) (s : State) : Host.Outcome State Fault Refusal := fwRow 0x0C02 modeQuery src s
def execSupplyQuery (src : ReqSource) (s : State) : Host.Outcome State Fault Refusal := fwRow 0x0C04 supplyQuery src s
def execFwQuery (src : ReqSource) (s : State) : Host.Outcome State Fault Refusal := fwRow 0x0E03 fwQuery src s

end Sys2Proof.Machine
end

