-- ==== Sys2Proof/Machine/Cal.lean ====
section
/-! DEFINITION. The nonvolatile stores and owner calibration (R124, R255 to R273, R365, R366): bank writes in order of acceptance, `cal.begin`, `cal.point`, `cal.commit`, `cal.abort`, the checks and rejections. -/

namespace Sys2Proof.Machine

/-! ### `EVT_CAL` (R273) -/

/-- [log 170 DEDUCED] -/
def calDone : Nat := 0
def calRejected : Nat := 1
def calWritten : Nat := 2
def calRecovered : Nat := 3
def calPilot : Nat := 4
def calContext : Nat := 5

/-! ### Banks (R124, R270, R271) -/

/-- a is later than b under the rule of R4. -/
def seqLater (a b : Word) : Bool := decide (0 < (a - b).toNat) && decide ((a - b).toNat < 2 ^ 31)

/-- Which of two banks is the valid one with the later SEQ: true is B. -/
def newestBank (va vb : Bool) (sa sb : Word) : Option Bool :=
  match va, vb with
  | true, true => some (seqLater sb sa)
  | true, false => some false
  | false, true => some true
  | false, false => none

/-- MAGIC of a commit record (R270). -/
def commitMagic : Word := 0x4C454447#32

/-- R270, R271: a bank is valid when its commit record matches: its MAGIC and STORE, the header's SEQ and CRC, and the CRC recomputed over the payload. -/
def bankValid (store : Nat) (h : Option BankHeader) (r : Option CommitRec) (payload : List Byte) : Bool :=
  match h, r with
  | some h, some r => r.magic == commitMagic && r.store == store && r.seq == h.seq && r.crc == h.crc && h.crc == crc32c payload
  | _, _ => false

/-- The Ledger's stored bytes, in the form of R268 with zeros for what a bank does not store. [log 216 DESIGN CHOICE] -/
def Ledger.bytes (l : Ledger) : List Byte :=
  leWord l.ownerCount ++ leWord l.rejectCount ++ leBytes 8 l.ownerTime
    ++ leBytes 4 (bit01 l.ownerUnset + 2 * bit01 l.rejectUnset + 16 * bit01 l.lastInSitu) ++ leBytes 2 l.rejectCode.toNat
    ++ byteOf l.rejectCheck ++ zeros 1 ++ l.label ++ leBytes 8 l.rejectTime ++ zeros 32

/-- The payload of an owner bank: the Ledger and the 1,024 records in point order (R270). [log 216 DESIGN CHOICE] -/
def ownerPayload (l : Ledger) (recs : Tbl OwnerRec) : List Byte :=
  l.bytes ++ (List.range 1024).flatMap fun p => writeOwner p (tfind recs p)

/-- The payload of a linearisation bank: the 1,024 slots, empty ones marked (R124). [log 216 DESIGN CHOICE] -/
def linPayload (sets : Tbl LinSet) : List Byte := (List.range 1024).flatMap fun p => writeLin p (tfind sets p)

def OwnerBank.valid (x : OwnerBank) : Bool := bankValid 0 x.header x.record (ownerPayload x.ledger x.recs)
def LinBank.valid (x : LinBank) : Bool := bankValid 1 x.header x.record (linPayload x.sets)

def OwnerBank.seq (x : OwnerBank) : Word := (x.header.map (·.seq)).getD 0#32
def LinBank.seq (x : LinBank) : Word := (x.header.map (·.seq)).getD 0#32

/-- The three steps of a bank write: payload, header, commit record (R270). -/
def OwnerBank.sealed (seq : Word) (l : Ledger) (recs : Tbl OwnerRec) : OwnerBank :=
  let crc := crc32c (ownerPayload l recs)
  ⟨true, some ⟨seq, crc⟩, some ⟨commitMagic, 0, seq, crc⟩, l, recs⟩

def LinBank.sealed (seq : Word) (sets : Tbl LinSet) : LinBank :=
  let crc := crc32c (linPayload sets)
  ⟨true, some ⟨seq, crc⟩, some ⟨commitMagic, 1, seq, crc⟩, sets⟩

def NonVol.newestOwner (nv : NonVol) : Option Bool := newestBank nv.ownerA.valid nv.ownerB.valid nv.ownerA.seq nv.ownerB.seq
def NonVol.newestLin (nv : NonVol) : Option Bool := newestBank nv.linA.valid nv.linB.valid nv.linA.seq nv.linB.seq

/-- The bank a write goes to: the one that does not hold the newest valid commit; A when none does. [log 119 DEDUCED] -/
def targetBank (newest : Option Bool) : Bool := newest == some false

def NonVol.setOwner (b : Bool) (x : OwnerBank) (nv : NonVol) : NonVol := if b then { nv with ownerB := x } else { nv with ownerA := x }
def NonVol.setLin (b : Bool) (x : LinBank) (nv : NonVol) : NonVol := if b then { nv with linB := x } else { nv with linA := x }
def NonVol.owner (b : Bool) (nv : NonVol) : OwnerBank := if b then nv.ownerB else nv.ownerA
def NonVol.lin (b : Bool) (nv : NonVol) : LinBank := if b then nv.linB else nv.linA

/-- The oldest accepted write begins: its bank no longer holds a valid commit. [log 119 DEDUCED] -/
def Device.startWrite (d : Device) : Device :=
  match d.work.writes with
  | [] => d
  | w :: _ =>
    if w.store = 0 then
      let b := targetBank d.nv.newestOwner
      { d with nv := d.nv.setOwner b { d.nv.owner b with written := true, header := none, record := none } }
    else
      let b := targetBank d.nv.newestLin
      { d with nv := d.nv.setLin b { d.nv.lin b with written := true, header := none, record := none } }

/-- Accept a write of a store (R270). -/
def Device.addWrite (w : StoreWrite) (d : Device) : Device :=
  let d' := { d with work := { d.work with writes := d.work.writes ++ [w] } }
  if d.work.writes = [] then d'.startWrite else d'

/-- ⌊TAI⌋, or device time in seconds with the UNSET flag (R267). -/
def Device.ledgerTime (d : Device) : Nat × Bool :=
  let s := d.clk.time / Config.secondTicks
  if d.clk.taiSet then (s, false) else (Max.max 1 s, true)

/-! ### Rejections (R261, R269) -/

/-- The first failing check. -/
structure CalFail where
  chan : Nat
  point : Nat
  code : Nat
  required : F64
  actual : F64
  deriving DecidableEq, Repr

/-- The status each check fails with (R260). -/
def checkStatus (code : Nat) : BitVec 16 :=
  match code with
  | 5 => stCalRepeat
  | 6 => stCalSupplyLow
  | _ => stCalInputOff

def CalFail.report (f : CalFail) (level : Nat) : List Byte :=
  byteOf f.code ++ byteOf level ++ leBytes 2 f.chan ++ leBytes 2 f.point ++ zeros 2 ++ leF64 f.required ++ leF64 f.actual

/-- Whether one failure stands before another: channel, point, check code. [log 112 DEDUCED] -/
def CalFail.before (a b : CalFail) : Bool :=
  decide (a.chan < b.chan) || (a.chan == b.chan && (decide (a.point < b.point) || (a.point == b.point && decide (a.code < b.code))))

/-- [log 112 DEDUCED] -/
def firstFail : List CalFail → Option CalFail
  | [] => none
  | f :: l =>
    match firstFail l with
    | none => some f
    | some g => if g.before f then some g else some f

/-- The records of the owner store: those of its newest valid bank, in effect or not (R264, R269). [log 170 DEDUCED] -/
def Device.storedRecs (d : Device) : Tbl OwnerRec :=
  match d.nv.newestOwner with
  | some b => (d.nv.owner b).recs
  | none => []

/-- Write a pending rejection to the owner store, with the previous coefficients, when no supply is in warning (R269). [log 118 DEDUCED] -/
def Device.persistReject (d : Device) : Device :=
  if d.work.rejectPending && !d.inWarning then
    ({ d with work := { d.work with rejectPending := false } }).addWrite ⟨0, 1, d.work.ownerLedger, d.storedRecs, [], none, false, true⟩
  else d

/-- Count a rejection, and close the calibration at the next boundary. [log 118 DEDUCED] -/
def Device.reject (f : CalFail) (d : Device) : Device :=
  let t := d.ledgerTime
  let l := d.work.ownerLedger
  let l := { l with rejectCount := l.rejectCount + 1#32, rejectCode := checkStatus f.code, rejectCheck := f.code,
                    rejectTime := t.1, rejectUnset := t.2 }
  let cal := d.work.cal.map fun c => { c with closing := true, level := none, waiter := none, committing := false }
  let d := { d with work := { d.work with ownerLedger := l, rejectPending := true, cal := cal } }
  (d.raise evCal (ebit calRejected)).persistReject

/-! ### Ends of bank writes -/

/-- The write's record completes: the new bank comes into force. A committed calibration then waits for its boundary (R264). -/
def Device.writeDone (w : StoreWrite) (d : Device) : Device :=
  let d := { d with work := { d.work with writes := d.work.writes.drop 1 } }
  if w.store = 0 then
    let b := targetBank d.nv.newestOwner
    let seq := d.work.ownerSeq + 1#32
    let t := d.ledgerTime
    let l := if w.kind = 0 then
        { w.ledger with ownerCount := w.ledger.ownerCount + 1#32, ownerTime := t.1, ownerUnset := t.2 }
      else w.ledger
    let now := d.work.ownerLedger
    let live := if w.kind = 0 then
        { now with ownerCount := l.ownerCount, ownerTime := l.ownerTime, ownerUnset := l.ownerUnset,
                   lastInSitu := l.lastInSitu, label := l.label }
      else now
    let d := { d with
      nv := d.nv.setOwner b (OwnerBank.sealed seq l w.recs)
      work := { d.work with ownerSeq := seq, ownerB := b, bankRecovered := d.work.bankRecovered, ownerLedger := live } }
    if w.kind = 0 then
      let wait (c : Cal) : Cal := { c with written := true }
      let d := { d with work := { d.work with ownerNew := some w.recs, calJoin := true, cal := d.work.cal.map wait } }
      let d := (d.raise evCal (ebit calDone ||| ebit calWritten)).startWrite
      d.completeOpt w.waiter stOk d.ledgerBytes
    else (d.raise evCal (ebit calWritten)).startWrite
  else
    let b := targetBank d.nv.newestLin
    let seq := d.work.linSeq + 1#32
    let d := { d with nv := d.nv.setLin b (LinBank.sealed seq w.sets), work := { d.work with linSeq := seq, linB := b } }
    (d.startWrite).completeOpt w.waiter stOk (byteOf (bit01 b) ++ zeros 3 ++ leWord seq)

def execBankWriteDone (store : Fin 2) (s : State) : Host.Outcome State Fault Refusal :=
  match s.dev.work.writes with
  | w :: _ => if w.store = store.val then onDev (Device.writeDone w) s else .next s
  | [] => .next s

/-- The SUPPLY check's failure on a channel. -/
def Device.supplyFail (chan : Nat) (d : Device) : CalFail :=
  let x := d.supplyFound d.warnRail
  ⟨chan, 0xFFFF, 6, x.1, x.2⟩

/-- The lowest channel of a calibration's set. -/
def Cal.first (c : Cal) : Nat := c.chans.headD 0

/-- R271, R411: a warning abandons a write whose commit record has not begun. -/
def Device.abandonWrite (w : StoreWrite) (d : Device) : Device :=
  match w.kind with
  | 0 =>
    let f := d.supplyFail ((d.work.cal.map Cal.first).getD 0)
    (d.reject f).completeOpt w.waiter stCalSupplyLow (f.report 0xFF)
  | 1 => { d with work := { d.work with rejectPending := true } }
  | _ => d.completeOpt w.waiter stCalSupplyLow []

/-- Whether the oldest write's commit record has begun is found out at the first warning that meets it (a free value); one that has begun completes, whatever warning follows (R124, R271). [log 117 DESIGN CHOICE] -/
def Device.findBegun (d : Device) : Device :=
  match d.work.writes with
  | [] => d
  | w :: l =>
    if w.begun then d
    else
      let x := d.takeFree
      { x.2 with work := { x.2.work with writes := { w with begun := Config.freeNat x.1 % 2 == 1 } :: l } }

/-- A warning abandons every write whose record has not begun. [log 21 DEDUCED] -/
def Device.warnWrites (d : Device) : Device :=
  let d := d.findBegun
  let gone := d.work.writes.filter fun w => !w.begun
  forList gone Device.abandonWrite { d with work := { d.work with writes := d.work.writes.filter (·.begun) } }

/-! ### lin.persist (R124) -/

def linPersist : Handler := sizedTo 0 fun r d =>
  require (!d.inWarning) stCalSupplyLow d <|
  require (!(d.work.writes.any fun w => w.store == 1)) stDenied d <|
  acceptLong r d fun d => d.addWrite ⟨1, 2, Ledger.init, [], d.fw.live.lins, some r.waiter, false, false⟩

/-! ### cal.begin (R255, R365) -/

/-- The channels of a 128-bit set. [log 114 DEDUCED] -/
def chanSet (l : List Byte) (off : Nat) : List Nat := (List.range 128).filter fun n => hasBit (u8 l (off + n / 8)) (n % 8)

/-- Samples of a point whose whole windows lie in a measurement, at the least. [log 113 DEDUCED] -/
def Cfg.measured (c : Cfg) (p dwell : Nat) : Nat :=
  (dwell * Config.epochTicks - (c.windowBefore p (c.nswapOf p) + c.windowAfter p (c.nswapOf p))) / c.tout p

/-- A batch that touches a channel has been accepted and is not yet in effect. -/
def Device.batchTouches (n : Nat) (d : Device) : Bool :=
  d.fw.batches.any fun b => b.items.any fun i =>
    match i.entity with
    | (0, m) => m == n
    | (2, p) => p / 8 == n
    | (3, p) => p / 8 == n
    | (15, m) => m == n
    | _ => false

/-- [log 114 DEDUCED] -/
def calBegin : Handler := sizedTo 60 fun r d =>
  let kind := u8 r.body 0
  let tol := f32At r.body 4
  let dwell := u32 r.body 8
  let chans := chanSet r.body 12
  let c := d.fw.eff
  let points := chans.flatMap c.pointsOf
  require (decide (kind ≤ 1) && allZero r.body 1 3 && F32.within tol ⟨1, 10⟩ ⟨100, 1⟩ && decide (10 ≤ dwell) && decide (dwell ≤ 10000)
      && (chans.all fun n => c.chanOn n && !(c.pointsOf n).isEmpty) && (points.all fun p => decide (16 ≤ c.measured p dwell)))
    stBadField d <|
  require (d.work.cal.isNone && !(chans.any d.batchTouches)) stDenied d <|
  let e := d.epoch + 1
  let x : Cal :=
    { inSitu := kind == 1, chans := chans, points := points, tol := tol, dwell := dwell, label := (r.body.drop 28).take 32, bopen := e,
      decl0 := [], decl1 := [], acc0 := [], acc1 := [], level := none, b0 := 0, spans := [], sums := [],
      restarts := 0, restartPt := 0, isoFail := none, supply := none, warned := none, waiter := none, committing := false, written := false,
      closing := false }
  (some (Ans.ok (ep32 e ++ leBytes 4 points.length)), { d with work := { d.work with cal := some x } })

/-! ### cal.point (R257, R258, R366) -/

/-- d1 = (8/π)·GL·ρc (R258). [log 116 DEDUCED] -/
def busSpan (gl : Nat) (rho : F64) : F64 := F64.mul (F64.mul 0x40045F306DC9C883#64 (F64.ofNat gl)) rho

/-- The declarations of a request. [log 116 DEDUCED] -/
def readDecls (l : List Byte) (off : Nat) : Nat → List (Nat × Bool × Cplx)
  | 0 => []
  | n + 1 => (u16 l off, allZero l (off + 2) 6, ⟨f64At l (off + 8), f64At l (off + 16)⟩) :: readDecls l (off + 24) n

def Cal.decl (level : Nat) (c : Cal) : Tbl Cplx := if level = 0 then c.decl0 else c.decl1
def Cal.setDecl (level : Nat) (t : Tbl Cplx) (c : Cal) : Cal := if level = 0 then { c with decl0 := t } else { c with decl1 := t }
def Cal.acc (level : Nat) (c : Cal) : Tbl Cplx := if level = 0 then c.acc0 else c.acc1
def Cal.setAcc (level : Nat) (t : Tbl Cplx) (c : Cal) : Cal := if level = 0 then { c with acc0 := t } else { c with acc1 := t }

/-- The measurements A and B of every calibrated point from B0 (R257). -/
def Cal.schedule (e0 : Nat) (c : Cal) : List (Nat × Nat × Nat × Nat) :=
  c.chans.flatMap fun n =>
    (c.points.filter fun p => p / 8 == n).zipIdx.flatMap fun (p, i) =>
      let br := if c.inSitu then e0 else e0 + i * (1 + 2 * c.dwell)
      let a := boundary (br + 1 + c.dwell)
      [(p, 0, boundary br + 3000, a), (p, 1, a, a + boundary c.dwell)]

/-- A calibration is open and takes commands. -/
def Device.openCal (d : Device) : Option Cal :=
  match d.work.cal with
  | some c => if c.closing || c.committing then none else some c
  | none => none

def calPoint : Handler := fun r d =>
  let level := u8 r.body 0
  let start := u8 r.body 1
  let rho := f64At r.body 8
  let n := (r.body.length - 16) / 24
  require (decide (16 ≤ r.body.length) && (r.body.length - 16) % 24 == 0 && decide (n ≤ 41)) stBadLength d <|
  let decls := readDecls r.body 16 n
  match d.openCal with
  | none => refuse stDenied d
  | some c =>
    let busHigh := !c.inSitu && level == 1
    require (decide (level ≤ 1) && decide (start ≤ 1) && allZero r.body 2 6 && (busHigh || rho == 0#64)
        && (c.inSitu || decls.isEmpty) && (decls.all fun x => x.2.1 && c.points.contains x.1)
        && (!busHigh || c.points.all fun p => F64.le (F64.abs (busSpan (d.fw.eff.chan (p / 8)).gl rho)) (dec 9 10))) stBadField d <|
    let table := if c.inSitu then decls.foldl (fun t x => tinsert t x.1 x.2.2) (c.decl level)
      else c.points.foldl (fun t p => tinsert t p (if level = 0 then Cplx.zero else ⟨busSpan (d.fw.eff.chan (p / 8)).gl rho, 0#64⟩)) []
    require (start == 0 || c.points.all fun p => (tfind table p).isSome) stBadField d <|
    require c.level.isNone stDenied d <|
    if start = 0 then (some (Ans.ok []), { d with work := { d.work with cal := some (if c.inSitu then c.setDecl level table else c) } })
    else
      acceptLong r d fun d =>
        let e0 := Max.max (d.epoch + 1) c.bopen
        let c := { c.setDecl level table with
          level := some level, b0 := e0, spans := c.schedule e0, sums := [], restarts := 0, restartPt := 0, isoFail := none,
          supply := if d.inWarning then some (c.first, d.supplyFound d.warnRail) else none, waiter := some r.waiter }
        { d with work := { d.work with cal := some c } }

/-! ### The checks (R260) -/

/-- A tolerance in units of FS_L: FS_H is GL/GH of it. -/
def Cal.tolerance (c : Cal) (ch : ChanCfg) (low : Bool) : F64 :=
  let t := F64.mul (F64.ofF32 c.tol) (dec 1 1000000)
  if low then t else F64.div (F64.mul t (F64.ofNat ch.gl)) (F64.ofNat ch.gh)

/-- The means of one calibrated point over measurements A and B and over the halves of each (R257, R260), whether a counted sample had LPF ≠ 0 in A and in B, and whether one carried INVALID or CLIP. -/
structure CalMeas where
  point   : Nat
  mA      : Cplx
  mB      : Cplx
  a1      : Cplx
  a2      : Cplx
  b1      : Cplx
  b2      : Cplx
  lowA    : Bool
  lowB    : Bool
  bad     : Bool
  deriving DecidableEq, Repr

/-- The mean of n values in binary64; of none, a free value. [log 215 DESIGN CHOICE] -/
def calMean (free n : Nat) (sum : Cplx) : Cplx :=
  if n = 0 then ⟨Config.freeF64 free, Config.freeF64 (free + 1)⟩ else ⟨F64.div sum.re (F64.ofNat n), F64.div sum.im (F64.ofNat n)⟩

/-- What the measurements of a point give; its free values are the twelve from `free` on. -/
def Cal.meas (c : Cal) (free p : Nat) : CalMeas :=
  let a := tget CalSum.zero c.sums (2 * p)
  let b := tget CalSum.zero c.sums (2 * p + 1)
  ⟨p, calMean free a.n a.sum, calMean (free + 2) b.n b.sum, calMean (free + 4) a.n1 a.sum1, calMean (free + 6) a.n2 a.sum2,
    calMean (free + 8) b.n1 b.sum1, calMean (free + 10) b.n2 b.sum2, a.low, b.low, a.bad || b.bad⟩

/-- SIGNAL, PLAUSIBILITY, STABILITY and REPEAT of one point. [log 111 DESIGN CHOICE] -/
def pointFails (c : Cal) (ch : ChanCfg) (level : Nat) (free : Nat) (m : CalMeas) : List CalFail :=
  let p := m.point
  let gap (x y : Cplx) : F64 := Cplx.abs (Cplx.sub x y)
  let fail (code : Nat) (req act : F64) : List CalFail := if F64.le act req then [] else [⟨p / 8, p, code, req, act⟩]
  let d := (tfind (c.decl level) p).getD Cplx.zero
  let near := F64.mul (dec 5 100) (F64.max (Cplx.abs d) (dec 1 100))
  (if m.bad then [⟨p / 8, p, 2, Config.freeF64 free, Config.freeF64 (free + 1)⟩] else [])
    ++ (if c.inSitu then
      fail 3 near (gap m.mA d) ++ fail 3 near (gap m.mB d)
        ++ fail 4 (c.tolerance ch m.lowA) (gap m.a1 m.a2) ++ fail 4 (c.tolerance ch m.lowB) (gap m.b1 m.b2)
      else [])
    ++ fail 5 (c.tolerance ch (m.lowA || m.lowB)) (gap m.mA m.mB)

/-- ISOLATION, SUPPLY and RESTARTS. [log 110 DEDUCED, 111 DESIGN CHOICE] -/
def calFails (c : Cal) (free : Nat) : List CalFail :=
  (match c.isoFail with
   | some (n, v) => [⟨n, 0xFFFF, 1, dec 5 10, v⟩]
   | none => [])
    ++ (match c.supply with
      | some (n, r, a) => [⟨n, 0xFFFF, 6, r, a⟩]
      | none => [])
    ++ (if 3 ≤ c.restarts then [⟨c.restartPt / 8, c.restartPt, 8, Config.freeF64 (free + 2), Config.freeF64 (free + 3)⟩] else [])

/-- Every span of a point has ended and its samples have come. -/
def Device.measured (c : Cal) (p : Nat) (d : Device) : Bool :=
  (c.spans.filter fun x => x.1 == p).all fun (_, _, _, e) => decide (e ≤ d.clk.time) && d.drained p (e + 1 - d.winAfter p e)

/-- The last measurement of a `cal.point` is complete, or its third restart has come (R257). -/
def Device.measuredAll (c : Cal) (d : Device) : Bool := decide (3 ≤ c.restarts) || c.points.all fun p => d.measured c p

/-- The checks of a `cal.point` whose measurements are over: of points still to be measured after a third restart, SIGNAL alone. -/
def Device.measureFails (c : Cal) (level : Nat) (d : Device) : List CalFail :=
  calFails c d.free ++ c.points.zipIdx.flatMap fun (p, i) =>
    let l := pointFails c (d.fw.eff.chan (p / 8)) level d.free (c.meas (d.free + 4 + 12 * i) p)
    if d.measured c p then l else l.filter fun f => f.code == 2

/-- The measurements of a `cal.point` are complete: every check is applied. [log 110 DEDUCED] -/
def Device.measureDone (c : Cal) (level : Nat) (d : Device) : Device :=
  let fails := d.measureFails c level
  let free := d.free + 4
  let d := { d with free := free + 12 * c.points.length }
  match firstFail fails with
  | some f => (d.reject f).completeOpt c.waiter (checkStatus f.code) (f.report level)
  | none =>
    let acc := c.points.zipIdx.foldl (fun t (p, i) =>
      let m := c.meas (free + 12 * i) p
      tinsert t p (Cplx.half (Cplx.add m.mA m.mB))) (c.acc level)
    ({ d with work := { d.work with cal := some { c.setAcc level acc with level := none, waiter := none, spans := [], sums := [] } } }).completeOpt
      c.waiter stOk []

def execCalMeasurementDone (t : Nat) (s : State) : Host.Outcome State Fault Refusal :=
  match s.dev.work.cal with
  | some c =>
    match c.level with
    | some level => if s.dev.measuredAll c then onDev (fun d => (d.tickTo t).measureDone c level) s else .next s
    | none => .next s
  | none => .next s

/-! ### cal.commit and cal.abort (R262, R264, R265) -/

/-- K_p and O_p (R262). -/
def coefficients (d0 d1 m0 m1 : Cplx) : Cplx × Cplx :=
  let k := Cplx.div (Cplx.sub d1 d0) (Cplx.sub m1 m0)
  (k, Cplx.sub m0 (Cplx.div d0 k))

def Cal.value (t : Tbl Cplx) (p : Nat) : Cplx := (tfind t p).getD Cplx.zero

def Cal.coef (c : Cal) (p : Nat) : Cplx × Cplx :=
  coefficients (Cal.value c.decl0 p) (Cal.value c.decl1 p) (Cal.value c.acc0 p) (Cal.value c.acc1 p)

/-- COEFF (R260): |K| within 1 ± 0.01, and |arg K| at most 0.002 turn. -/
def coefFail (p : Nat) (k : Cplx) : List CalFail :=
  let off := F64.abs (F64.sub (Cplx.abs k) F64.one)
  let turn := F64.lt 0#64 k.re && F64.le (F64.abs k.im) (F64.mul k.re 0x3F89BCBE7FD252A9#64)
  if F64.le off (dec 1 100) && turn then [] else [⟨p / 8, p, 7, dec 1 100, off⟩]

/-- The record of R263 of a calibrated point. -/
def Cal.record (c : Cal) (cfg : Cfg) (p : Nat) : OwnerRec :=
  let ch := cfg.chan (p / 8)
  let x := c.coef p
  ⟨ch.mode, ch.subform, if ch.mode = 1 then ch.cf else 0, ch.gl, c.inSitu, (cfg.point p).f, F64.toF32 x.1.re, F64.toF32 x.1.im,
    F64.toF32 x.2.re, F64.toF32 x.2.im⟩

/-- Every point has both levels, and an in-situ pair of declarations lies 0.01 apart (R259, R262). -/
def Cal.complete (c : Cal) : Bool :=
  c.points.all fun p => (tfind c.acc0 p).isSome && (tfind c.acc1 p).isSome &&
    (!c.inSitu || F64.le (dec 1 100) (Cplx.abs (Cplx.sub (Cal.value c.decl1 p) (Cal.value c.decl0 p))))

def rejectAnswer (f : CalFail) (d : Device) : Option Ans × Device :=
  (some ⟨checkStatus f.code, f.report 0xFF, none⟩, d.reject f)

def calCommit : Handler := sizedTo 0 fun r d =>
  match d.openCal with
  | none => refuse stDenied d
  | some c =>
    require c.complete stBadField d <|
    require c.level.isNone stDenied d <|
    if d.inWarning then rejectAnswer (d.supplyFail c.first) d
    else
      match firstFail (c.points.flatMap fun p => coefFail p (c.coef p).1) with
      | some f => rejectAnswer f d
      | none =>
        acceptLong r d fun d =>
          let recs := c.points.foldl (fun t p => tinsert t p (c.record d.fw.eff p)) d.storedRecs
          let carries := d.work.rejectPending
          let l := { d.work.ownerLedger with label := c.label, lastInSitu := c.inSitu }
          let d := { d with work := { d.work with cal := some { c with committing := true }, rejectPending := false } }
          d.addWrite ⟨0, 0, l, recs, [], some r.waiter, false, carries⟩

/-- An open calibration whose commit record is not complete closes without effect and without a count: what runs for it ends with `DENIED`, and its write is dropped (R265); a rejection that the write carried is pending again (R269). [log 115 DEDUCED] -/
def Device.abortCal (d : Device) : Device :=
  match d.work.cal with
  | none => d
  | some c =>
    if c.closing || c.written then d
    else
      let mine := d.work.writes.filter fun w => w.kind == 0
      let head := d.work.writes.head?.any fun w => w.kind == 0
      let c' := { c with closing := true, level := none, waiter := none, committing := false }
      let d := { d with work := { d.work with cal := some c', writes := d.work.writes.filter fun w => w.kind != 0,
                                              rejectPending := d.work.rejectPending || mine.any (·.carries) } }
      let d := if head then d.startWrite else d
      let d := d.completeOpt c.waiter stDenied []
      forList mine (fun w d => d.completeOpt w.waiter stDenied []) d

/-- A calibration closes at the next boundary, also one that waits for the boundary of its corrections: entry to SAFE (R265). -/
def Device.dropCal (d : Device) : Device :=
  let d := d.abortCal
  { d with work := { d.work with cal := d.work.cal.map fun c => { c with closing := true } } }

def calAbort : Handler := sizedTo 0 fun _ d =>
  match d.work.cal with
  | some c => if c.closing || c.written then refuse stDenied d else (some (Ans.ok []), d.abortCal)
  | none => refuse stDenied d

/-! ### The rows -/

def execLinPersist (src : ReqSource) (s : State) : Host.Outcome State Fault Refusal := fwRow 0x0503 linPersist src s
def execCalBegin (src : ReqSource) (s : State) : Host.Outcome State Fault Refusal := fwRow 0x0901 calBegin src s
def execCalPoint (src : ReqSource) (s : State) : Host.Outcome State Fault Refusal := fwRow 0x0902 calPoint src s
def execCalCommit (src : ReqSource) (s : State) : Host.Outcome State Fault Refusal := fwRow 0x0903 calCommit src s
def execCalAbort (src : ReqSource) (s : State) : Host.Outcome State Fault Refusal := fwRow 0x0904 calAbort src s

end Sys2Proof.Machine
end

