-- ==== Sys2Proof/Machine/DataPort.lean ====
section
/-! DEFINITION. The data port: lanes, markers, failover and the spare (R227 to R232), the return lane (R233), `DL_CTL` (R234, R452) and the delivery of carts (R242). -/

namespace Sys2Proof.Machine

/-- The marker interval (R228). -/
def markerTicks : Nat := 135168

/-- The modes in which the lanes run (R234). [log 148 DEDUCED] -/
def Device.lanesRun (d : Device) : Bool := d.working || decide (d.pw.mode = .safe)

/-- Write the fields of `DL_CTL` (R234) with what setting and clearing ENABLE do (R228, R234). -/
def Device.dlWrite (w : Word) (d : Device) : Device :=
  let p := d.port
  let en := w.getLsbD 0
  let p := { p with force := w.getLsbD 12, forceLane := w.extractLsb' 9 3, hostFailEn := w.getLsbD 8,
                    txPreset := w.extractLsb' 4 4, rxEnable := w.getLsbD 1 }
  let p :=
    if en && !p.enable then
      if p.stopping then { p with enable := true, stopping := false }
      else { p with enable := true, gridAt := some (((d.clk.busTime + markerTicks - 1) / markerTicks * markerTicks : Nat) : Int) }
    else if !en && p.enable then { p with enable := false, stopping := true }
    else p
  { d with port := p }

/-- Discard the carts that wait for the data port, counting each (R234). -/
def Device.dropReady (keep : ReadyCart → Bool) (d : Device) : Device :=
  let gone := d.port.ready.filter fun x => !keep x
  let d := forList gone (fun x d => d.discardCart x.cart.stream) d
  { d with port := { d.port with ready := d.port.ready.filter keep },
           cnt := { d.cnt with cartsDiscarded := d.cnt.cartsDiscarded + BitVec.ofNat 32 gone.length } }

/-- A physical lane fails: `DL_STAT.FAILED` shows it, and the next marker acts on it (R231). [log 46 DEDUCED] -/
def Device.failLane (lane : Nat) (d : Device) : Device :=
  if d.port.failed.getLsbD lane then d
  else { d with port := { d.port with failed := d.port.failed ||| (1#9 <<< lane), failing := d.port.failing ++ [lane] } }

/-- What the first marker after a failure of a lane in use does, once: parity stops, GEN moves, and a data lane's logical lane moves to the spare, unless the spare itself has failed (R231). [log 46 DEDUCED] -/
def PortSt.moveLane (p : PortSt) (lane : Nat) : PortSt :=
  if p.parity ∧ (lane < p.lanes ∨ lane = 8) then
    { p with parity := false, mapGen := p.mapGen + 1#8,
             spareFor := if lane < p.lanes ∧ p.failed.getLsbD 8 = false then BitVec.ofNat 4 lane else p.spareFor }
  else p

/-- FORCE takes effect (R231, R234). -/
def Device.forcedLane (d : Device) : Device :=
  if d.port.force then d.failLane (d.port.physical d.port.forceLane.toNat) else d

/-- The lanes stop at a marker: the carts that wait are discarded, and the one that it cuts off (R234). -/
def Device.stopLanes (cut : Option Cart) (d : Device) : Device :=
  let d := d.dropReady fun _ => false
  let d := match cut with
    | some c => { d.discardCart c.stream with cnt := { d.cnt with cartsDiscarded := d.cnt.cartsDiscarded + 1#32 } }
    | none => d
  { d with port := { d.port with gridAt := none, stopping := false } }

/-- One alignment marker: FORCE and failures act, a new lane count applies, the marker leaves on every lane in use, and a cleared ENABLE stops the lanes (R228, R231, R232, R234). [log 181 DESIGN CHOICE] -/
def Device.marker (d : Device) : Device :=
  let d := d.forcedLane
  let p := d.port
  let p := p.failing.foldl PortSt.moveLane p
  let p := { p with force := false, failing := [], markerCount := p.markerCount + 1#8,
                    lanes := p.newLanes.getD p.lanes, newLanes := none }
  let cutCart := d.port.sent.filter fun _ => p.stopping && decide (p.carry ≠ [])
  let d := { d with port := p.sendMarker p.ptr }
  if p.stopping then d.stopLanes cutCart else d

/-- Whether an instant is a marker of the grid. -/
def Device.onGrid (t : Nat) (d : Device) : Bool :=
  match d.port.gridAt with
  | none => false
  | some g => decide (g ≤ t) && ((t : Int) - g) % markerTicks == 0

def execAlignmentMarker (t : Nat) (s : State) : Host.Outcome State Fault Refusal :=
  if s.dev.lanesRun && s.dev.onGrid t then onDev (fun d => (d.tickTo t).marker) s else .next s

def execLaneFault (lane : Fin 9) (s : State) : Host.Outcome State Fault Refusal :=
  if s.dev.lanesRun then onDev (Device.failLane lane.val) s else .next s

/-! ### The return lane (R233) -/

/-- Every active lane is locked at the host, and the host has deskewed (R234, HOST_OK). -/
def Device.healthGood (h : Health) (d : Device) : Bool :=
  (List.range d.port.lanes).all (fun l => h.lock.getLsbD (d.port.physical l)) && h.state.getLsbD 0

def Device.health (h : Health) (t : Nat) (d : Device) : Device :=
  let d := if d.healthGood h then { d with port := { d.port with hostOk := true, hostGood := some t } } else d
  if d.port.hostFailEn then forNat 9 (fun p d => if h.fail.getLsbD p then d.failLane p else d) d else d

/-- The return lane receives: nothing of the data port runs in HEARTH (R407). -/
def Device.receives (d : Device) : Bool := d.port.rxEnable && d.port.rxLock && d.pw.mode != .hearth

/-- A frame with a bad CRC is discarded and counted. -/
def Device.badFrame (d : Device) : Device := { d with cnt := { d.cnt with returnBadCrc := d.cnt.returnBadCrc + 1#32 } }

/-- KIND 0x1 of the return lane, with its payload of four words. -/
def healthFrame (frame : List Byte) : Option Health :=
  match laneFrame frame with
  | some x => if x.kind = 1 ∧ x.payload.length = 16 then some (healthOf x.payload) else none
  | none => none

def execHealthReport (frame : List Byte) (t : Nat) (s : State) : Host.Outcome State Fault Refusal :=
  if s.dev.receives then
    (match healthFrame frame with
     | some h => onDev (fun d => (d.tickTo t).health h t) s
     | none => if laneCrcOk frame then .next s else onDev Device.badFrame s)
  else .next s

def execReturnLaneBadCrc (s : State) : Host.Outcome State Fault Refusal :=
  if s.dev.receives then onDev Device.badFrame s else .next s

def execReturnLaneLocked (s : State) : Host.Outcome State Fault Refusal :=
  if s.dev.port.rxEnable then onDev (fun d => { d with port := { d.port with rxLock := true } }) s else .next s

def execReturnLaneLockLost (s : State) : Host.Outcome State Fault Refusal :=
  onDev (fun d => { d with port := { d.port with rxLock := false } }) s

/-- Ticks in 2 ms. -/
def hostOkTicks : Nat := 6000000

/-- 2 ms have passed since the last report that qualified. -/
def execHostOkTimeout (s : State) : Host.Outcome State Fault Refusal :=
  match s.dev.port.hostGood with
  | some g =>
    let t := g + hostOkTicks
    if s.dev.clk.reaches t then onDev (fun d => { d.tickTo t with port := { (d.tickTo t).port with hostOk := false, hostGood := none } }) s
    else .next s
  | none => .next s

/-! ### Delivery (R242) -/

/-- A FILL cart: its length is not stated. [log 47 DESIGN CHOICE] -/
def Device.fillCart (d : Device) : Cart :=
  ⟨15, d.fab.address, 0xFFF, 0#32, d.clk.time, d.tag, 0#14, 0, List.replicate (Config.freeNat d.free % 4097) 0#32⟩

/-- The data port sends its next ready cart, or a FILL cart, word by word on the stripe (R229, R242). [log 181 DESIGN CHOICE] -/
def Device.sendPort (d : Device) : Device :=
  match d.port.ready with
  | x :: l => { d with port := { d.port.sendWords (cartStripe x.cart) with ready := l, sent := some x.cart } }
  | [] => { d with port := { d.port.sendWords (cartStripe d.fillCart) with sent := some d.fillCart }, free := d.free + 1 }

/-- Flits of a cart's frame (R376). -/
def cartFlits (c : Cart) : Nat := ceilDiv (16 + 4 * (9 + c.words.length) + 4) 64

/-- A cart leaves along a route; at a link that is down, a stream without a backup stops (R26, R379). -/
def Device.sendCart (dest : Nat) (a : RouteAns) (c : Cart) (d : Device) : Device :=
  match a.primary.head? with
  | some h => if (d.fport h.port).up then (d.countPort h.port fcRes (cartFlits c)).send (.cart dest a.routeId c) else d.countPort h.port fcDropped
  | none => d.send (.cart dest a.routeId c)

/-- The device a stream ends at is in the Commons, under the address the stream was reserved to (R383). -/
def Fabric.reached (r : Route) (f : Fabric) : Bool :=
  f.members.any (·.addr == r.dest) && f.devs.any fun x => x.addr == r.dest && x.uid == r.destUid

/-- A cart enters its reserved route at this device's port (R241, R386); it is kept until acknowledged (R388). -/
def Device.sendFabric (d : Device) : Device :=
  match d.port.fabReady with
  | [] => d
  | x :: l =>
    let d := { d with port := { d.port with fabReady := l } }
    match d.fab.routes.find? (·.stream == x.cart.stream) with
    | none => d.discardCart x.cart.stream
    | some r =>
      if !(d.fab.reached r) then d.discardCart x.cart.stream
      else
        let routes := d.fab.routes.map fun y => if y.stream = r.stream then { y with kept := y.kept ++ [(d.epoch, x.cart)] } else y
        let d := ({ d with fab := { d.fab with routes := routes } }).sendCart r.dest r.ans x.cart
        match r.both with
        | some (_, a) => d.sendCart r.dest a x.cart
        | none => d

/-- The lanes carry PRBS31 in place of carts (`diag.loopback` on the data lanes, R356). [log 148 DEDUCED] -/
def Device.prbs (d : Device) : Bool := d.work.loopback.any fun x => x.target == 1

/-- Device time has moved on, and the paced carts that are due by then have been formed (R241). -/
def Device.pumpTo (t : Nat) (d : Device) : Device := (d.tickTo t).pump (d.tickTo t).clk.time

/-- Destination 0 is the data port, 1 the CART_FIFO (its carts are delivered at their close, R245), 2 the fabric. -/
def execCartDelivery (dest : Fin 3) (x : DeliveryIn) (s : State) : Host.Outcome State Fault Refusal :=
  match dest.val with
  | 0 =>
    if s.dev.lanesRun && !s.dev.prbs && (s.dev.port.gridAt.any fun g => decide (g ≤ (x.t : Int))) then
      onDev (fun d => ((d.findErrors x.errs).pumpTo x.t).sendPort) s
    else .next s
  | 2 => if s.dev.working then onDev (fun d => ((d.findErrors x.errs).pumpTo x.t).sendFabric) s else .next s
  | _ => onDev (fun d => (d.findErrors x.errs).pumpTo x.t) s

end Sys2Proof.Machine
end

