-- ==== Sys2Proof/Machine/Shift.lean ====
section
/-! DEFINITION. What a step of device time does to every recorded instant (R54, R90, R293): the instants that rules compare move by Δ; instants already recorded for the host keep their values. -/

namespace Sys2Proof.Machine

/-- Move of an instant that may be absent. [log 102 DEDUCED] -/
def optMove (delta : Int) (t : Option Nat) : Option Nat := t.map (movedBy delta)

/-- Epochs move with the boundaries they name. [log 102 DEDUCED] -/
def epochMove (de : Int) (e : Nat) : Nat := ((e : Int) + de).toNat

def OvlSpan.shift (delta : Int) (x : OvlSpan) : OvlSpan := ⟨movedBy delta x.from_, optMove delta x.to_⟩

def Episode.shift (delta : Int) (x : Episode) : Episode :=
  { x with from_ := movedBy delta x.from_, to_ := optMove delta x.to_, mark := movedBy delta x.mark }

def Outage.shift (delta : Int) (x : Outage) : Outage := { x with from_ := movedBy delta x.from_, to_ := optMove delta x.to_ }

/-- A change at an instant moves with it. -/
def changeMove {α : Type} (delta : Int) (l : List (Nat × α)) : List (Nat × α) := l.map fun (t, x) => (movedBy delta t, x)

def ChanRun.shift (delta : Int) (x : ChanRun) : ChanRun :=
  { x with
    tick0 := movedBy delta x.tick0, from_ := movedBy delta x.from_, settles := pairMove delta x.settles,
    grid := x.grid + delta, gridOld := x.gridOld + delta, anchor := movedBy delta x.anchor,
    wlast := movedBy delta x.wlast, wstart := movedBy delta x.wstart, wstop := optMove delta x.wstop,
    outages := x.outages.map (Outage.shift delta), tones := spanMove delta x.tones, cals := spanMove delta x.cals,
    outLow := optMove delta x.outLow, outHigh := optMove delta x.outHigh,
    spanLow := x.spanLow.map (OvlSpan.shift delta), spanHigh := x.spanHigh.map (OvlSpan.shift delta), ovlAt := movedBy delta x.ovlAt,
    applied := x.applied.map fun y => { y with from_ := movedBy delta y.from_ },
    wides := x.wides.map fun y => { y with t := movedBy delta y.t },
    risks := x.risks.map (movedBy delta), busys := x.busys.map (movedBy delta),
    swapLast := movedBy delta x.swapLast, nswaps := changeMove delta x.nswaps, capture := optMove delta x.capture,
    episodes := x.episodes.map (Episode.shift delta) }

def Filter.shift (delta : Int) (x : Filter) : Filter :=
  { x with born := movedBy delta x.born, start := movedBy delta x.start, stop := optMove delta x.stop, grid := x.grid + delta, zeroAfter := optMove delta x.zeroAfter, last := optMove delta x.last }

/-- A step moves an accumulator's instants; where it runs already, its phase goes on as before (R54). -/
def Nco.shift (s : Nat) (delta : Int) (x : Nco) : Nco :=
  { x with from_ := movedBy delta x.from_, dds := if x.from_ ≤ s then x.dds + delta else x.dds }

/-- The stored instants of a replay's samples are recorded ones. -/
def MillSample.shift (delta : Int) (x : MillSample) : MillSample :=
  { x with t := if x.t = x.at_ then movedBy delta x.t else x.t, at_ := movedBy delta x.at_, ready := movedBy delta x.ready }

def PointRun.shift (s : Nat) (delta : Int) (x : PointRun) : PointRun :=
  { x with
    rampFrom := movedBy delta x.rampFrom, rampEnd := movedBy delta x.rampEnd, held := x.held.map fun (t, c) => (movedBy delta t, c), ncos := x.ncos.map (Nco.shift s delta), nulls := changeMove delta x.nulls,
    filters := x.filters.map (Filter.shift delta), settles := pairMove delta x.settles, spans := pairMove delta x.spans,
    last := movedBy delta x.last, hist := x.hist.map fun y => { y with t := movedBy delta y.t }, fresh := x.fresh.map (movedBy delta), early := x.early.map (MillSample.shift delta) }

def GroupRun.shift (delta : Int) (x : GroupRun) : GroupRun :=
  let move (c : Check) : Check := { c with start := movedBy delta c.start }
  { x with check := x.check.map move, ended := x.ended.map move }

def UnitRun.shift (delta de : Int) (x : UnitRun) : UnitRun :=
  { x with
    eff := movedBy delta x.eff, prevX := x.prevX.map fun (t, y) => (movedBy delta t, y),
    prevS := x.prevS.map fun (t, y) => (movedBy delta t, y), hist := x.hist.map fun (t, y) => (movedBy delta t, y),
    lastFire := x.lastFire.map (· + 256 * delta), dets := x.dets.map (· + 256 * delta),
    inbox := x.inbox.map (· + 256 * delta), runT := movedBy delta x.runT, forceEpoch := epochMove de x.forceEpoch }

def Firing.shift (delta : Int) (x : Firing) : Firing := { x with t := x.t + 256 * delta, td := movedBy delta x.td }

def OpenRec.shift (delta : Int) (x : OpenRec) : OpenRec :=
  { x with
    key := if x.inst = x.key then movedBy delta x.key else ((x.key : Int) + delta / 48).toNat,
    inst := movedBy delta x.inst, close := movedBy delta x.close, fires := x.fires.map (Firing.shift delta) }

/-- [log 104 DEDUCED] -/
def Trig.shift (delta de : Int) (x : Trig) : Trig :=
  { x with
    units := tmap UnitRun.init (UnitRun.shift delta de) x.units
    olds := x.olds.map fun (u, b, r) => (u, movedBy delta b, r.shift delta de)
    recs := x.recs.map (OpenRec.shift delta)
    pulses := x.pulses.map fun (p, a, b) => (p, movedBy delta a, movedBy delta b)
    pinLast := x.pinLast.map fun (p, t) => (p, movedBy delta t)
    msgs := x.msgs.map fun (t, m) => (movedBy delta t, m) }

def Elem.shift (delta : Int) (x : Elem) : Elem := { x with moved := x.moved + delta }

def Store.shift (delta : Int) (x : Store) : Store := { x with elems := x.elems.map (Elem.shift delta) }

/-- A slot that has not completed compares its samples and its record time with instants to come. -/
def Slot.shift (delta : Int) (x : Slot) : Slot :=
  match x.state with
  | .recording => { x with members := x.members.map fun (s, y) => (s, y.shift delta) }
  | .filling =>
    { x with time := x.time + 256 * delta, stop := optMove delta x.stop, hist := movedBy delta x.hist,
             members := x.members.map fun (s, y) => (s, y.shift delta) }
  | _ => x

/-- [log 104 DEDUCED] -/
def RegionRun.shift (delta : Int) (x : RegionRun) : RegionRun :=
  { x with
    eff := movedBy delta x.eff, histFrom := movedBy delta x.histFrom, slots := tmap Slot.init (Slot.shift delta) x.slots,
    readout := x.readout.map fun y => { y with from_ := movedBy delta y.from_ } }

/-- A tally's next record is an escape (R218). -/
def TallyRun.shift (delta : Int) (x : TallyRun) : TallyRun :=
  { x with tPrev := movedBy delta x.tPrev, cartT := movedBy delta x.cartT, step := true }

def Granary.shift (delta : Int) (x : Granary) : Granary :=
  { x with
    regions := tmap RegionRun.init (RegionRun.shift delta) x.regions
    tallies := tmap TallyRun.init (TallyRun.shift delta) x.tallies
    oldTallies := x.oldTallies.map fun (p, b, y) => (p, movedBy delta b, y.shift delta)
    waiting := x.waiting.map fun w => { w with ready := movedBy delta w.ready, at_ := movedBy delta w.at_, elem := w.elem.shift delta }
    cuts := x.cuts.map fun (s, b) => (s, movedBy delta b) }

def Taken.shift (delta : Int) (x : Taken) : Taken :=
  { x with t := if x.t = x.at_ then movedBy delta x.t else x.t, at_ := movedBy delta x.at_, ready := movedBy delta x.ready }

def JobRun.shift (delta : Int) (x : JobRun) : JobRun :=
  { x with start := movedBy delta x.start, stop := optMove delta x.stop, buf := x.buf.map (MillSample.shift delta),
           last := x.last.map (Taken.shift delta), resets := x.resets.map (movedBy delta) }

def MapRun.shift (delta de : Int) (x : MapRun) : MapRun :=
  { x with
    held := x.held.map fun y => { y with t := movedBy delta y.t }
    due := x.due.map fun y => { y with epoch := epochMove de y.epoch }
    waiter := x.waiter.map fun (w, e) => (w, if x.due.any (·.epoch == e) then epochMove de e else e) }

def PortSt.shift (delta : Int) (x : PortSt) : PortSt :=
  { x with
    gridAt := x.gridAt.map (· + delta), hostGood := optMove delta x.hostGood,
    aoutNext := x.aoutNext.map fun y => (movedBy delta y.1, y.2)
    cuts := x.cuts.map fun (s, b) => (s, movedBy delta b)
    paced := x.paced.map fun y => { y with due := movedBy delta y.due }
    ready := x.ready.map fun y => { y with bound := movedBy delta y.bound }
    fabReady := x.fabReady.map fun y => { y with bound := movedBy delta y.bound } }

def Marks.shift (delta de : Int) (x : Marks) : Marks :=
  { runs := spanMove delta x.runs, coast := spanMove delta x.coast, holdover := spanMove delta x.holdover,
    slewing := spanMove delta x.slewing, warn := spanMove delta x.warn, indoubt := spanMove delta x.indoubt,
    clksw := x.clksw.map (epochMove de), vref := x.vref.map (epochMove de),
    drive := x.drive.map fun (e, l) => (epochMove de e, l), parity := x.parity.map fun (e, y) => (epochMove de e, y),
    temps := x.temps.map fun (b, l) => (movedBy delta b, l) }

/-- A Bell that a forward step skips rings at S + Δ (R293). -/
def skipMove (s : Nat) (delta : Int) (tick : Nat) : Nat := if s ≤ tick ∧ tick < movedBy delta s then movedBy delta s else tick

def Bell.shift (s : Nat) (delta : Int) (x : Bell) : Bell :=
  { x with
    lastLatched := optMove delta x.lastLatched, outUntil := movedBy delta x.outUntil,
    due := (x.due.map fun y => { y with tick := skipMove s delta y.tick }).foldl (fun l y => bellInsert y l) [],
    sched := x.sched.map fun y => { y with tick := skipMove s delta y.tick }, planned := x.planned.map (skipMove s delta) }

def Clock.shift (delta : Int) (x : Clock) : Clock :=
  { x with
    offsetAt := movedBy delta x.offsetAt, slewAt := movedBy delta x.slewAt,
    ppsEdges := x.ppsEdges.map (movedBy (64 * delta)), lastEdge := movedBy (64 * delta) x.lastEdge,
    touts := x.touts.map fun y => { y with until_ := movedBy delta y.until_, at_ := movedBy delta y.at_ },
    synA := { x.synA with due := movedBy delta x.synA.due }, synB := { x.synB with due := movedBy delta x.synB.due } }

/-- What waits for a boundary: commits, mode changes, wake, calibration (dc counts boundaries to come, df whole epochs). -/
def Fw.shift (delta dc df : Int) (x : Fw) : Fw :=
  { x with
    sessions := x.sessions.map fun y => { y with deadline := movedBy delta y.deadline }
    txns := x.txns.map fun y =>
      { y with arrived := epochMove df y.arrived, doubtEnd := y.doubtEnd.map (epochMove dc),
               target := if y.target = 0 then 0 else epochMove dc y.target,
               effect := if y.state = .accepted then epochMove dc y.effect else y.effect }
    past := x.past.map fun y => { y with until_ := movedBy delta y.until_ }
    batches := x.batches.map fun y => { y with effect := epochMove dc y.effect }
    compare := x.compare.map (epochMove dc)
    decided := x.decided.map fun y => { y with at_ := epochMove df y.at_ }
    finishing := x.finishing.map fun (e, y) => (epochMove dc e, y) }

def Power.shift (dc : Int) (x : Power) : Power :=
  { x with
    pending := x.pending.map fun (m, e, w) => (m, epochMove dc e, w)
    hearth := x.hearth.map fun (e, w) => (epochMove dc e, w)
    wake := x.wake.map fun (e, m, w) => (epochMove dc e, m, w) }

def Work.shift (delta dc : Int) (x : Work) : Work :=
  { x with
    activate := x.activate.map (epochMove dc), loopback := x.loopback.map fun l => { l with ends := epochMove dc l.ends }
    cal := x.cal.map fun c =>
      { c with bopen := epochMove dc c.bopen, b0 := epochMove dc c.b0,
               spans := c.spans.map fun (p, h, a, b) => (p, h, movedBy delta a, movedBy delta b) } }

def FPort.shift (df : Int) (p : FPort) : FPort :=
  { p with holdUntil := epochMove df p.holdUntil }

/-- The epoch in which a removed reservation ends moves. -/
def Reservation.shift (dc : Int) (x : Reservation) : Reservation :=
  { x with gone := x.gone.map fun (k, e) => (k, e.map (epochMove dc)) }

def ReserveAsk.shift (dc : Int) (x : ReserveAsk) : ReserveAsk :=
  match x with
  | .ask k e items => .ask k (epochMove dc e) items
  | .due k e => .due k (e.map (epochMove dc))
  | .cancel k => .cancel k
  | .report k rs => .report k (rs.map (Reservation.shift dc))
  | .noted => .noted

def OutFrame.shift (dc : Int) (x : OutFrame) : OutFrame :=
  match x with
  | .reserve a => .reserve (ReserveAsk.shift dc a)
  | y => y

def Route.shift (df : Int) (x : Route) : Route :=
  { x with both := x.both.map fun (e, a) => (epochMove df e, a), kept := x.kept.map fun (e, c) => (epochMove df e, c) }

def Fabric.shift (delta dc df : Int) (x : Fabric) : Fabric :=
  { x with
    ports := tmap FPort.init (FPort.shift df) x.ports
    electAfter := epochMove df x.electAfter
    routes := x.routes.map (Route.shift df)
    coming := x.coming.map fun y => { y with effect := epochMove dc y.effect, routes := y.routes.map (Route.shift df) }
    members := x.members.map fun m => { m with heard := epochMove df m.heard }
    leases := x.leases.map fun l => { l with until_ := epochMove df l.until_, merged := epochMove df l.merged }
    keys := x.keys.map fun k => { k with advanced := epochMove df k.advanced, heard := epochMove df k.heard }
    forwards := x.forwards.map fun y => { y with ends := movedBy delta y.ends }
    reservations := x.reservations.map (Reservation.shift dc)
    telling := x.telling.map (OutFrame.shift dc)
    asked := x.asked.map fun (a, q, l) => (a, ReserveAsk.shift dc q, l)
    offsetAt := x.offsetAt.map (epochMove df) }

def Regs.shift (delta : Int) (x : Regs) : Regs :=
  { x with posted := tmap Posted.init (fun y => { y with since := movedBy delta y.since }) x.posted }

/-- Every instant and epoch a rule compares, after a step of Δ at S. [log 104 DEDUCED] -/
def Device.shift (s : Nat) (delta : Int) (d : Device) : Device :=
  let s' := movedBy delta s
  let df : Int := (s' / Config.epochTicks : Nat) - (s / Config.epochTicks : Nat)
  let dc : Int := (ceilDiv s' Config.epochTicks : Nat) - (ceilDiv s Config.epochTicks : Nat)
  { d with
    clk := d.clk.shift delta
    evts := tmap Evt.init (fun x => { x with cycle := x.cycle.map (movedBy (delta / 16)) }) d.evts
    regs := d.regs.shift delta
    bell := d.bell.shift s delta
    fw := d.fw.shift delta dc df
    pw := d.pw.shift dc
    chans := tmap ChanRun.init (ChanRun.shift delta) d.chans
    points := tmap PointRun.init (PointRun.shift s delta) d.points
    groups := tmap GroupRun.init (GroupRun.shift delta) d.groups
    trig := d.trig.shift delta dc
    gran := d.gran.shift delta
    jobs := tmap JobRun.init (JobRun.shift delta) d.jobs
    ended := d.ended.map fun (j, l) => (j, l.map (JobRun.shift delta))
    maps := tmap MapRun.init (MapRun.shift delta df) d.maps
    port := d.port.shift delta
    work := d.work.shift delta dc
    fab := d.fab.shift delta dc df
    marks := d.marks.shift delta df }

end Sys2Proof.Machine
end

