-- ==== Sys2Proof/Machine/Clock.lean ====
section
/-! DEFINITION. Clocks and time: the base and the twin synthesizers (R274 to R284), the time counter, its binding to TAI and its steps (R285 to R288, R293), disciplining and holdover (R289 to R294), and the commands of R368 and R369 that set and report them. Offsets and remainders are in 1/64 tick. -/

namespace Sys2Proof.Machine

/-! ### `EVT_CLK` (R295) -/

def clkLost (x : SynId) : Nat := match x with
  | .A => 0
  | .B => 1
def clkSwitch (x : SynId) : Nat := match x with
  | .A => 3
  | .B => 2
def clkRegained (x : SynId) : Nat := match x with
  | .A => 12
  | .B => 13
def clkBothLost : Nat := 4
def clkRefLost : Nat := 5
def clkReturned : Nat := 6
def clkJump : Nat := 7
def clkSlewDone : Nat := 8
def clkHoldover : Nat := 9
def clkSearchFail : Nat := 10
def clkTimeSet : Nat := 11
def clkCoastEnded : Nat := 14
def clkStepDone : Nat := 15

/-! ### Synthesizers -/

def Clock.syn (x : SynId) (c : Clock) : Syn := match x with
  | .A => c.synA
  | .B => c.synB
def Clock.setSyn (x : SynId) (f : Syn → Syn) (c : Clock) : Clock := match x with
  | .A => { c with synA := f c.synA }
  | .B => { c with synB := f c.synB }
def SynId.other : SynId → SynId
  | .A => .B
  | .B => .A

def Device.syn (x : SynId) (d : Device) : Syn := d.clk.syn x
def Device.setSyn (x : SynId) (f : Syn → Syn) (d : Device) : Device := { d with clk := d.clk.setSyn x f }

/-- The expected ROOT count of a window, which is also its length in ticks (R274). -/
def Syn.window (y : Syn) : Nat := 491520 * 2 ^ y.mult

/-- Take a state at an instant: a search lasts 25 µs, the first window starts 50 µs after the loop closes, a retry waits 100 µs, or 1 ms after a failed search (R276, R278). -/
def Syn.enter (t : Nat) (st : SynState) (y : Syn) : Syn :=
  let y := { y with state := st, good := 0 }
  match st with
  | .search => { y with due := t + 75000, failed := false }
  | .acquire => { y with due := t + 150000 + y.window }
  | .coast => { y with due := t + y.window }
  | .unlocked => { y with due := t + (if y.failed then 3000000 else 300000) }
  | _ => y

def Device.synState (x : SynId) (st : SynState) (d : Device) : Device := d.setSyn x (Syn.enter d.clk.time st)

/-- The synthesizer that drives ROOT. -/
def Clock.driver (c : Clock) : SynId := if c.activeB then .B else .A

/-! ### Discipline state and the marks it puts on samples (R87, R289, R392) -/

def Disc.held_ : Disc → Bool
  | .holdover => true
  | .awaitStep => true
  | .held => true
  | _ => false

/-- The samples' HOLDOVER and SLEWING follow the discipline, and on SOURCE FABRIC the Bellringer's state and step too. -/
def Device.markDisc (t : Nat) (d : Device) : Device :=
  let c := d.clk
  let br := c.source == 3
  let hold := c.disc.held_ || (br && (c.brDisc == 3 || c.brDisc == 5 || c.brDisc == 6)) || c.brHold
  let slew := decide (c.disc = .slewing) || (br && c.brDisc == 4)
  { d with marks := { d.marks with holdover := spanSet hold t d.marks.holdover, slewing := spanSet slew t d.marks.slewing } }

/-- The state the discipline holds apart from the slewing of a step's remainder (R287). [log 101 DEDUCED] -/
def Clock.under (c : Clock) : Disc := c.resume.getD c.disc

/-- Take a discipline state; a remainder of a step goes on being slewed. -/
def Device.setDisc (st : Disc) (d : Device) : Device :=
  let c := d.clk
  let c := if c.resume.isSome then { c with resume := some st } else { c with disc := st }
  { d with clk := c }.markDisc d.clk.time

/-- What slewing has still to remove at an instant, in ticks (R291). -/
def Clock.remainNow (t : Nat) (c : Clock) : Frac :=
  let x := Frac.mk' c.remain 64
  let gone := Frac.mul (Frac.divNat (FVal.frac (F32.val c.rate)) 1000000) (Frac.ofNat (t - c.slewAt))
  let left := Frac.sub x.abs gone
  if c.disc ≠ .slewing ∨ Frac.le left Frac.zero then Frac.zero else if 0 ≤ c.remain then left else Frac.sub Frac.zero left

/-- The same in whole 1/64 ticks, toward zero. [log 245 DESIGN CHOICE] -/
def Clock.leftNow (c : Clock) : Int :=
  let x := c.remainNow c.time
  if 0 ≤ x.num then ((64 * x.num.toNat / x.den : Nat) : Int) else -((64 * x.num.natAbs / x.den : Nat) : Int)

/-- Slewing goes on from here at a rate; what it has removed so far stays removed (R291, R294). [log 245 DESIGN CHOICE] -/
def Clock.setRate (r : F32) (c : Clock) : Clock :=
  if r = c.rate then c else { c with remain := c.leftNow, slewAt := c.time, rate := r }

/-- Slewing of an offset begins (R291); while a step's remainder is being slewed, it waits behind it (R287). [log 101 DEDUCED] -/
def Device.startSlew (x : Int) (d : Device) : Device :=
  let c := d.clk
  if c.resume.isSome then { d with clk := { c with later := x, resume := some .slewing } }.markDisc c.time
  else { d with clk := { c with remain := x, slewAt := c.time, rate := c.slewRate } }.setDisc .slewing

/-- |offset| ≤ 3 ticks. -/
def nearZero (x : Int) : Bool := decide (x.natAbs ≤ 192)

/-- What follows a returned reference or a measured offset under the policy in force (R290). [log 91 DEDUCED, 98 DEDUCED] -/
def Device.applyPolicy (x : Int) (d : Device) : Device :=
  if nearZero x then d.setDisc .locked
  else
    match d.clk.policy with
    | 1 => d.setDisc .awaitStep
    | 2 => d.setDisc .held
    | _ => d.startSlew x

/-- An offset is treated as that of a returning reference; `event`: REF_RETURNED is raised (R282, R290). [log 89 DEDUCED, 90 DEDUCED] -/
def Device.returnRef (x : Int) (event : Bool) (d : Device) : Device :=
  let d := { d with clk := { d.clk with refPresent := true, offset := x, offsetAt := d.clk.time } }
  let d := if event then d.raise evClk (ebit clkReturned) else d
  let d := if 64 * d.clk.jumpThresh < x.natAbs then d.raise evClk (ebit clkJump) else d
  if d.clk.coasting then d else d.applyPolicy x

/-- Enter HOLDOVER: steering frozen, a slew of R291 dropped, a scheduled step cancelled (R290). [log 91 DEDUCED, 92 DEDUCED, 98 DEDUCED] -/
def Device.holdover (d : Device) : Device :=
  let d := { d with clk := { d.clk with due := d.clk.due.filter fun x => x.kind != 0 } }
  (d.setDisc .holdover).raise evClk (ebit clkHoldover)

/-- Steering on a reference: LOCKED, SLEWING or AWAIT_STEP. -/
def Disc.steers : Disc → Bool
  | .locked => true
  | .slewing => true
  | .awaitStep => true
  | _ => false

/-- Not steering, on a reference that has been acquired: HOLDOVER or HELD. -/
def Disc.waits : Disc → Bool
  | .holdover => true
  | .held => true
  | _ => false

/-! ### Switching and coasting (R279 to R282) -/

/-- The multiplexer selects a synthesizer that is READY, or takes over from coasting. -/
def Device.switchTo (x : SynId) (t : Nat) (d : Device) : Device :=
  let d := d.setSyn x fun y => { y with state := .active }
  { d with
    clk := { d.clk with activeB := decide (x = SynId.B) },
    cnt := { d.cnt with synSwitches := d.cnt.synSwitches + 1#32 },
    marks := { d.marks with clksw := t / Config.epochTicks :: d.marks.clksw } }.raise evClk (ebit (clkSwitch x))

/-- A change of reference path that has not switched yet is abandoned: A relocks at the setting of B, which drives on, by a new search where its own had begun (R276, R280). -/
def Device.abandonChange (d : Device) : Device :=
  if d.clk.change = 1 then
    let m := d.clk.synB.mult
    let d := if d.clk.synA.mult = m ∨ d.clk.synA.state = .unlocked then d else d.synState .A .search
    { d with clk := { (d.clk.setSyn .A fun y => { y with mult := m }) with change := 3, refMult := m } }
  else d

/-- R281: B coasts on its held control word. A carries on from where it stands, retries if it is the one that failed, and is powered up if it is off (R284). A step that was scheduled on a reference is cancelled. [log 93 DEDUCED] -/
def Device.coast (t : Nat) (d : Device) : Device :=
  let d := d.raise evClk (ebit clkBothLost)
  let d := if d.clk.synA.state = .off then d.synState .A .search
    else if d.clk.synA.state = .active then d.synState .A .unlocked else d
  let d := (d.synState .B .coast).abandonChange
  let d := { d with clk := { d.clk with activeB := true, coasting := true, coastBad := false, due := d.clk.due.filter fun x => x.kind != 3 },
                    marks := { d.marks with coast := spanOpen t d.marks.coast } }
  let d := if d.clk.under.steers then d.holdover else d
  let d := if d.clk.synB.held.isNone then d.declareSafe 6 else d
  if d.clk.xoOk then d else d.declareSafe 3

/-- R282: A has reached READY while coasting. -/
def Device.endCoast (t : Nat) (d : Device) : Device :=
  let d := d.switchTo .A t
  let d := { d with clk := { d.clk with coasting := false }, marks := { d.marks with coast := spanClose t d.marks.coast } }
  let d := d.raise evClk (ebit clkCoastEnded)
  let d := d.synState .B .search
  let d := if d.clk.change = 1 then
      { d with clk := { (d.clk.setSyn .B fun y => { y with mult := d.clk.changeTo }) with change := 2 } }
    else d
  if d.clk.refPresent && d.clk.under.waits then d.returnRef d.clk.offset false else d

/-- In boot B begins to search once A has locked and aligned, or has failed for the first time (R402). [log 12 DEDUCED] -/
def Device.bootNext (x : SynId) (d : Device) : Device :=
  if d.pw.mode = .boot ∧ x = .A ∧ d.clk.synB.state = .off then d.synState .B .search else d

/-- A synthesizer that was locked loses lock (R277, R279, R281). [log 94 DEDUCED] -/
def Device.loseLock (x : SynId) (t : Nat) (d : Device) : Device :=
  let st := (d.syn x).state
  if st = .align ∨ st = .ready ∨ st = .active then
    let d := (d.setSyn x fun y => { y with lost := true }).raise evClk (ebit (clkLost x))
    if st = .active then
      if (d.syn (SynId.other x)).state = .ready then (d.synState x .unlocked).switchTo (SynId.other x) t
      else d.coast t
    else d.synState x .unlocked
  else d

/-- A synthesizer reaches READY (R278): it regains a lost lock, is the first to drive ROOT, ends a coast, or carries on a change of reference path (R280, R282, R285). -/
def Device.synReady (x : SynId) (t : Nat) (d : Device) : Device :=
  let d := if (d.syn x).lost then d.raise evClk (ebit (clkRegained x)) else d
  let d := d.setSyn x fun y => { y with state := .ready, good := 0, lost := false, failed := false }
  if !d.clk.counting then
    let d := d.setSyn x fun y => { y with state := .active }
    let d := (d.setSyn .A fun y => { y with due := 0 }).setSyn .B fun y => { y with due := 0 }
    -- R402: A, then B, search, lock and align
    let d := d.bootNext x
    { d with clk := { d.clk with counting := true, time := 0, activeB := decide (x = SynId.B) } }
  else if d.clk.coasting then (if x = .A then d.endCoast t else d)
  else if d.clk.change = 1 then
    let d := d.switchTo x t
    let y := SynId.other x
    let d := d.synState y .search
    { d with clk := { (d.clk.setSyn y fun z => { z with mult := d.clk.changeTo }) with change := 2 } }
  else if d.clk.change = 2 then { d with clk := { d.clk with change := 0, refMult := d.clk.changeTo } }
  else d

/-- The steering word's range of ±100 ppm in units of 2^−40 (R289). -/
def steerLimit : Int := 109951162

def execSynthesizerReady (x : SynId) (t : Nat) (s : State) : Host.Outcome State Fault Refusal :=
  if (s.dev.syn x).state = .align then onDev (fun d => (d.tickTo t).synReady x (Max.max t d.clk.time)) s else .next s

/-- A count in 4 µs of a VCO that shall run at 6 GHz · (1 + s), against the target 24,000 · (1 + s), in units of 2^−40 (R276). [log 219 DEDUCED] -/
def searchError (steer : Int) (count : Nat) : Int := (count : Int) * 2 ^ 40 - 24000 * (2 ^ 40 + steer)

/-- The five binary steps, from band 16: a step whose count lies above the target goes to the lower half. [log 219 DEDUCED] -/
def searchBand (steer : Int) (steps : List Nat) : Nat :=
  (steps.take 5).zipIdx.foldl
    (fun b x => let step := 2 ^ (4 - x.2)
      if 0 < searchError steer x.1 then b + step / 2 - step else b + step / 2) 16

/-- The chosen band's count lies more than 0.5 % from its target. -/
def searchFails (steer : Int) (count : Nat) : Bool := decide (24000 * (2 ^ 40 + steer) < 200 * ((searchError steer count).natAbs : Int))

/-- The end of a band search: the loop closes, or the search has failed (R276). -/
def Device.endSearch (x : SynId) (steps : List Nat) (count : Nat) (d : Device) : Device :=
  let d := d.setSyn x fun y => { y with band := searchBand d.clk.steer steps }
  if searchFails d.clk.steer count then
    (((d.setSyn x fun y => { y with failed := true }).synState x .unlocked).bootNext x).raise evClk (ebit clkSearchFail)
  else d.synState x .acquire

def execBandSearchEnd (x : SynId) (found : SearchIn) (s : State) : Host.Outcome State Fault Refusal :=
  let y := s.dev.syn x
  if y.state = .search ∧ s.dev.clk.reaches y.due then onDev (fun d => (d.tickTo y.due).endSearch x found.steps found.count) s else .next s

def execSynthesizerRetry (x : SynId) (s : State) : Host.Outcome State Fault Refusal :=
  let y := s.dev.syn x
  if y.state = .unlocked ∧ s.dev.clk.reaches y.due then
    onDev (fun d => (d.tickTo y.due).synState x .search) s
  else .next s

/-- A window's count less the expected one, which includes the factor 1 + s, in units of 2^−40 counts (R274). -/
def Syn.error (steer : Int) (count : Nat) (y : Syn) : Int := (count : Int) * 2 ^ 40 - y.window * (2 ^ 40 + steer)

/-- Windows are counted of a synthesizer whose loop is closed, or that coasts (R277, R282). -/
def Syn.counts (y : Syn) : Bool := !(y.state == .off || y.state == .search || y.state == .unlocked)

/-- A count window's judgement (R277, R278, R282): `err` as `Syn.error` gives it, `word` the mean loop control; the next window follows. -/
def Device.window (x : SynId) (err : Int) (word : BitVec 64) (d : Device) : Device :=
  let y := d.syn x
  let d := d.setSyn x fun z => { z with due := Max.max z.due d.clk.time + z.window }
  let good := decide (err.natAbs ≤ 2 * 2 ^ 40)
  let bad := decide (8 * 2 ^ 40 < err.natAbs)
  match y.state with
  | .acquire =>
    if bad then (d.synState x .unlocked).bootNext x
    else if !good then d.setSyn x fun z => { z with good := 0 }
    else if 3 ≤ y.good then d.setSyn x fun z => { z with state := .align, good := 0, held := some word }
    else d.setSyn x fun z => { z with good := z.good + 1, held := some word }
  | .coast =>
    let d := { d with clk := { d.clk with coastBad := decide ((y.window : Int) * (2 ^ 40 + d.clk.steer) < 20000 * (err.natAbs : Int)) } }
    if d.clk.xoOk && d.clk.coastBad then d.declareSafe 2 else d
  | .align => locked good bad d
  | .ready => locked good bad d
  | .active => locked good bad d
  | _ => d
where
  locked (good bad : Bool) (d : Device) : Device :=
    if bad then d.loseLock x d.clk.time
    else if good then d.setSyn x fun z => { z with held := some word }
    else d

/-- R275: without the base both synthesizers lose lock, and a coast cannot go on (R282). -/
def Device.baseAbsent (d : Device) : Device :=
  let d := { d with clk := { d.clk with xoOk := false } }
  let t := d.clk.time
  if d.clk.coasting then (d.loseLock .A t).declareSafe 3
  else
    let x := d.clk.driver
    (d.loseLock (SynId.other x) t).loseLock x t

def execBasePresent (s : State) : Host.Outcome State Fault Refusal :=
  if s.dev.pw.mode = .reset then .next s else onDev (fun d => { d with clk := { d.clk with xoOk := true } }) s

/-! ### Reference edges (R289, R290) -/

/-- Reduce into (−m/2, m/2]. -/
def reduceInto (m x : Int) : Int := let y := x % m; if m < 2 * y then y - m else y

/-- The period of the selected reference's target in 1/64 tick. -/
def Clock.refPeriod (c : Clock) : Int :=
  if c.source = 2 then 64 * 3000000000
  else match c.refFreq with
    | 1 => 64 * 150
    | 2 => 64 * 60
    | 3 => 64 * 30
    | _ => 64 * 300

/-- The edges' target: φ as captured, or second boundaries for PPS once TAI is set. -/
def Clock.refTarget (c : Clock) : Int := if c.source = 2 && c.taiSet then 0 else ((c.target.getD 0 : Nat) : Int)

def Clock.edgeOffset (t64 : Nat) (c : Clock) : Int := reduceInto c.refPeriod ((t64 : Int) - c.refTarget)

/-- Two PPS edges 3,000,000,000 ± 3,000 ticks apart. -/
def ppsSpaced (a b : Nat) : Bool := decide (((b : Int) - a - 64 * 3000000000).natAbs ≤ 64 * 3000)

/-- The return criterion of the selected source (R289). [log 89 DEDUCED] -/
def Clock.returned (c : Clock) : Bool :=
  if c.source = 2 then
    match c.ppsEdges with
    | [a, b, e] => ppsSpaced a b && ppsSpaced b e
    | _ => false
  else decide (100 ≤ c.goodEpochs)

/-- The steering loop takes its new word; a slew goes on from the offset just measured. -/
def Clock.update (x steer : Int) (c : Clock) : Clock :=
  let c := { c.setRate c.slewRate with steer := clampInt (-steerLimit) steerLimit steer }
  if c.resume.isSome then { c with later := x }
  else if c.disc = .slewing then { c with remain := x, slewAt := c.time }
  else c

/-- A PPS edge after the last one lies within ±3,000 ticks of a second's multiple after it; other edges of a reference that is present are not expected ones (R289). [log 221 DEDUCED] -/
def Clock.expects (t64 : Nat) (c : Clock) : Bool :=
  let gap := (t64 : Int) - c.lastEdge
  !(c.source == 2 && c.refPresent) ||
    (decide (64 * 1500000000 < gap) && decide ((reduceInto (64 * 3000000000) gap).natAbs ≤ 64 * 3000))

/-- An edge of the selected reference. -/
def Device.sourceEdge (t64 : Nat) (steer : Int) (d : Device) : Device :=
  let x := d.clk.edgeOffset t64
  let measured := { d with clk := { d.clk with offset := x, offsetAt := d.clk.time } }
  match d.clk.under with
  | .free => d
  | .acquiring =>
    -- while the root coasts the loop does not steer (R281): the acquisition waits for the end of the coast
    if !d.clk.returned || d.clk.coasting then d
    else if d.clk.source = 2 && d.clk.taiSet then d.returnRef x true
    else
      ({ d with clk := { d.clk with refPresent := true, target := some ((t64 : Int) % d.clk.refPeriod).toNat, offset := 0,
                                    offsetAt := d.clk.time } }).setDisc .locked
  | .locked => { measured with clk := measured.clk.update x steer }
  | .slewing => { measured with clk := measured.clk.update x steer }
  | .awaitStep => { measured with clk := measured.clk.update x steer }
  | _ => if d.clk.refPresent then measured else if d.clk.returned then d.returnRef x true else d

/-- R368: how long an AT_PPS `time.set` waits for its edge. -/
def ppsWait : Nat := 2 * Config.secondTicks

/-- A `time.set` AT_PPS learns its instant and size at the edge, which comes within 2 s of its request (R287, R368). -/
def StepDue.atEdge (t64 : Nat) (x : StepDue) : StepDue :=
  if x.kind = 2 ∧ t64 ≤ 64 * (x.at_ + ppsWait) then { x with kind := 5, at_ := t64 / 64, delta := (x.second : Int) * (64 * 3000000000) - t64 } else x

/-- An edge of `PPS_IN` or of REFCLK at a device time in 1/64 tick; `steer` is what the loop makes of it. [log 90 DEDUCED] -/
def Device.refEdge (pps : Bool) (t64 : Nat) (steer : Int) (d : Device) : Device :=
  let d := if pps then
      { d with clk := { d.clk with due := d.clk.due.map (StepDue.atEdge t64),
                                   ppsEdges := (d.clk.ppsEdges ++ [t64]).drop (d.clk.ppsEdges.length - 2) } }
    else d
  if ((pps && d.clk.source == 2) || (!pps && d.clk.source == 1)) && d.clk.expects t64 then
    { d with clk := { d.clk with lastEdge := t64 } }.sourceEdge t64 steer
  else d

def execReferenceEdge (pps : Bool) (t64 : Nat) (steer : Int) (s : State) : Host.Outcome State Fault Refusal :=
  if s.dev.clk.counting then onDev (fun d => (d.tickTo (t64 / 64)).refEdge pps t64 steer) s else .next s

/-- R381: the epochs after which a key or a partner that has not been heard is dropped. -/
def silentEpochs : Nat := 4

def maxLevel : Nat := 32

/-- R381: a device at a level above 32 is not admitted. -/
def Fabric.admitted (f : Fabric) : Bool := f.hasKey && decide (f.level ≤ maxLevel)

/-- The first instant at which the time since the selected input's last edge meets its loss criterion: eight periods of REFCLK, or more than 2 s and 3,000 ticks of PPS (R289). The other criteria are those of a boundary. -/
def Clock.lossAt (c : Clock) : Nat :=
  match c.source with
  | 1 => if c.refBad then c.time else ((c.lastEdge + 8 * c.refPeriod + 63) / 64).toNat
  | 2 => c.lastEdge / 64 + 6000003001
  | _ => c.time

/-- The loss criterion of the selected source (R289, R391). [log 221 DEDUCED] -/
def Device.refGone (d : Device) : Bool :=
  let c := d.clk
  match c.source with
  | 1 => c.refBad || decide (c.lastEdge + 8 * c.refPeriod ≤ (64 * c.time : Nat))
  | 2 => decide (c.lastEdge + 64 * (6000000000 + 3000) < 64 * c.time)
  | 3 => !d.fab.admitted || d.fab.offsetAt.all fun e => decide (e + silentEpochs < d.epoch)
  | _ => false

/-- R290: the selected reference meets its loss criterion. -/
def Device.refLost (d : Device) : Device :=
  let was := d.clk.refPresent
  let d := { d with clk := { d.clk with refPresent := false, goodEpochs := 0, ppsEdges := [] }, fab := { d.fab with goodEpochs := 0 } }
  if !was then d
  else
    let d := d.raise evClk (ebit clkRefLost)
    if d.clk.under.steers then d.holdover else d

def execReferenceLost (s : State) : Host.Outcome State Fault Refusal :=
  let t := s.dev.clk.lossAt
  if (s.dev.tickTo t).refGone then onDev (fun d => (d.tickTo t).refLost) s else .next s

/-- The instant at which slewing ends: |offset| has come to 3 ticks (R291), or a step's remainder to nothing (R287). [log 222 DEDUCED] -/
def Clock.slewEnd (c : Clock) : Nat :=
  let left := c.remain.natAbs - (if c.resume.isSome then 0 else 192)
  let r := FVal.frac (F32.val c.rate)
  c.slewAt + ceilDiv (left * 1000000 * r.den) (64 * r.num.toNat)

/-- R287, R291: slewing ends; an offset that waited behind a step's remainder is slewed next. -/
def Device.endSlew (d : Device) : Device :=
  let next := d.clk.resume.getD .locked
  let c := { d.clk with remain := if next = .slewing then d.clk.later else 0, slewAt := d.clk.time, rate := d.clk.slewRate,
                        later := 0, resume := none, disc := next }
  ({ d with clk := c }.markDisc d.clk.time).raise evClk (ebit clkSlewDone)

/-- [log 103 DEDUCED] -/
def execSlewDone (s : State) : Host.Outcome State Fault Refusal :=
  if s.dev.clk.disc = .slewing ∧ s.dev.clk.reaches s.dev.clk.slewEnd then onDev (fun d => (d.tickTo d.clk.slewEnd).endSlew) s else .next s

/-! ### Steps (R287, R292, R293) -/

/-- The nearest multiple of 48 ticks, ties toward zero, in ticks. -/
def roundStep (delta64 : Int) : Int :=
  let n := delta64.natAbs
  let q := n / 3072 + (if 3072 < 2 * (n % 3072) then 1 else 0)
  if delta64 < 0 then -48 * (q : Int) else 48 * (q : Int)

def insertDue (x : StepDue) : List StepDue → List StepDue
  | [] => [x]
  | y :: l => if x.at_ < y.at_ then x :: y :: l else y :: insertDue x l

/-- [log 95 DEDUCED] -/
def Clock.addDue (x : StepDue) (c : Clock) : Clock := { c with due := insertDue x c.due }

/-- The next step whose instant is known and lies no later than the coming boundary. -/
def Device.nextStep (d : Device) : Option StepDue :=
  ((d.clk.due.filter fun x => x.kind != 2).foldl (fun l x => insertDue x l) []).head?.bind fun x =>
    if x.at_ ≤ boundary (d.epoch + 1) then some x else none

def Device.shutAll (d : Device) : Device := forList (d.port.open_.map (·.1)) (fun s d => d.shut s) d

/-- The step's size before rounding, in 1/64 tick: of R292, the offset at the last reference edge. -/
def StepDue.size (c : Clock) (x : StepDue) : Int := if x.kind = 0 then -c.offset else x.delta

/-- The discipline after a step and the slewing of its remainder: with what is left of an earlier remainder, and before an offset that is being slewed under R291 (R287, R291, R391). [log 245 DESIGN CHOICE] -/
def Device.afterStep (kind : Nat) (rest : Int) (d : Device) : Device :=
  let d := if kind = 0 ∨ kind = 3 then d.setDisc .locked else d
  let c := d.clk
  if rest = 0 then d.markDisc c.time
  else
    let left := c.leftNow
    { d with clk := { c with remain := (if c.resume.isSome then left else 0) - rest, later := if c.resume.isSome then c.later else left,
                             slewAt := c.time, rate := c.slewRate, resume := some c.under, disc := .slewing } }.markDisc c.time

/-- Where a step at an instant lands: the count is one of 64 bits (R3). -/
def steppedTo (s : Nat) (delta : Int) : Nat := (((s : Int) + delta) % Config.timeSpan).toNat

/-! ### Time outputs (R288) -/

/-- Period and high time of TOUT_10M, TOUT_EPOCH and TOUT_PPS. -/
def toutShape : Nat → Nat × Nat
  | 0 => (300, 150)
  | 1 => (3000000, 1500000)
  | _ => (3000000000, 300000000)

/-- The phase of an output that an instant lies in: its level, what has passed of it, what is left, and its nominal length. -/
def toutPhase (k t : Nat) : Bool × Nat × Nat × Nat :=
  let (p, h) := toutShape k
  let r := t % p
  if r < h then (true, r, h - r, h) else (false, r - h, p - r, p - h)

/-- An output's level: the function of device time, but for a phase that a step has merged. -/
def Clock.tout (k : Nat) (c : Clock) : Bool :=
  c.counting &&
    match c.touts.find? fun x => x.out == k && decide (c.time < x.until_) with
    | some x => x.level
    | none => (toutPhase k c.time).1

/-- The nominal length of an output's phase of a level. -/
def toutLength (k : Nat) (level : Bool) : Nat := if level then (toutShape k).2 else (toutShape k).1 - (toutShape k).2

/-- The level an output shows just before an instant, and for how long it has shown it. -/
def Clock.toutRun (k s : Nat) (c : Clock) : Bool × Nat :=
  match c.touts.find? fun x => x.out == k && decide (s ≤ x.until_) with
  | some x => (x.level, x.past + (s - x.at_))
  | none => let x := toutPhase k (s - 1); (x.1, x.2.1 + 1)

/-- The phase an output shows from a step on, which takes time from s to t. A phase that would be shorter than half its nominal length, the one the step cuts short or the one it lands in, is merged with the phase that follows it; the merged phase has the level that the output already shows. [log 223 DESIGN CHOICE] -/
def Clock.mergeTout (s t k : Nat) (c : Clock) : ToutHold :=
  let (now, gone) := c.toutRun k s
  let (next, _, left, m) := toutPhase k t
  if now == next then
    ⟨k, now, if 2 * (gone + left) < m then t + left + (toutShape k).1 else t + left, t, gone⟩
  else if 2 * gone < toutLength k now ∨ 2 * left < m then ⟨k, now, t + left + toutLength k now, t, gone⟩
  else ⟨k, next, t + left, t, 0⟩

/-- Device time steps. -/
def Device.step_ (x : StepDue) (d : Device) : Device :=
  let s := Max.max d.clk.time x.at_
  let size := x.size d.clk
  let delta := roundStep size
  -- the work of a boundary at this tick has been done
  let done := decide (d.clk.time = s) && decide (s % Config.epochTicks = 0) && !d.clk.landed
  let d := { d with clk := { d.clk with time := s, due := d.clk.due.erase x } }
  let t := steppedTo s delta
  let moved : Int := (t : Int) - s
  let touts := [0, 1, 2].map fun k => d.clk.mergeTout s t k
  let d := (d.shutAll).shift s moved
  let isSet := x.kind == 1 || x.kind == 5
  let c := d.clk
  let d := { d with fab := { d.fab with acquired := d.fab.acquired || x.kind == 3 }, clk := { c with
      time := t, landed := decide (t % Config.epochTicks = 0) && !done, taiSet := c.taiSet || isSet || ((x.kind == 3 || x.kind == 4) && x.second == 1),
      offset := if x.kind = 0 ∨ x.kind = 3 then c.offset + 64 * delta else c.offset,
      due := c.due.map fun (y : StepDue) =>
        if y.kind = 5 then { y with at_ := movedBy moved y.at_, delta := y.delta - 64 * moved }
        else if y.kind = 2 then { y with at_ := movedBy moved y.at_ } else y,
      stepS := s, stepD := delta, stepCount := c.stepCount + 1, stepKind := if isSet then 2 else 1, touts := touts,
      brHold := if x.kind = 4 then false else c.brHold,
      refPresent := c.refPresent || x.kind == 3 } }
  let d := d.afterStep x.kind (size - 64 * delta)
  let d := d.raise evClk (ebit clkStepDone ||| (if isSet then ebit clkTimeSet else 0#24))
  d.completeOpt x.waiter stOk (leBytes 8 s ++ leInt 8 delta)

def execTimeStep (s : State) : Host.Outcome State Fault Refusal :=
  match s.dev.nextStep with
  | some x => if s.dev.clk.counting then onDev (Device.step_ x) s else .next s
  | none => .next s

/-- R368: no edge came within 2 s of an AT_PPS `time.set`. -/
def execTimeSetTimeout (s : State) : Host.Outcome State Fault Refusal :=
  match s.dev.clk.due.find? fun x => x.kind == 2 with
  | some x =>
    let end_ := x.at_ + ppsWait
    if s.dev.clk.reaches end_ then
      onDev (fun d => { d.tickTo end_ with clk := { (d.tickTo end_).clk with due := d.clk.due.erase x } }.completeOpt x.waiter stDenied []) s
    else .next s
  | none => .next s

/-- REMAIN of `time.query`: what is being slewed and the offset that waits behind it (R368). -/
def Clock.toSlew (c : Clock) : Frac :=
  if c.resume = some .slewing then Frac.add (c.remainNow c.time) (Frac.mk' c.later 64) else c.remainNow c.time

/-! ### Commands (R287, R292, R294, R368, R369) -/

/-- A commit, fabric transaction, scheduled Bell or TIMER ONCE unit is pending (R287). -/
def Device.timeBusy (d : Device) : Bool :=
  !d.fw.batches.isEmpty ||
  (d.fw.txns.any fun t => decide (t.state = .waiting ∨ t.state = .accepted ∨ t.state = .inDoubt) || t.prepared) ||
  (d.bell.planned.any fun t => decide (d.clk.time < t)) || (d.bell.due.any fun b => decide (b.sources &&& srcFabric ≠ 0#5)) ||
  (d.fw.eff.units.any fun (_, u) => u.enable && u.type == 9 && u.sel == 1 &&
    (match epochNamed d.epoch u.p2 with
     | some e => decide (d.epoch < e)
     | none => false))

/-- The device takes its time from the Commons: SOURCE FABRIC, with a Bellringer that is another device. -/
def Device.followsCommons (d : Device) : Bool :=
  d.clk.source == 3 && decide (d.fab.address ≠ 0) && decide (d.fab.bellringer ≠ 0) && decide (d.fab.bellringer ≠ d.fab.address)

/-- [log 95 DEDUCED, 96 DEDUCED, 97 DEDUCED] -/
def timeSet : Handler := sizedTo 32 fun r d =>
  let mode := u8 r.body 0
  let n := u64 r.body 8
  let v := u64 r.body 24
  require (decide (mode ≤ 1) && allZero r.body 1 7 && allZero r.body 20 4) stBadField d <|
  if mode = 0 then
    require (decide (n * Config.secondTicks < 2 ^ 64)) stBadField d <|
    require (!d.timeBusy && !d.followsCommons) stDenied d <|
    acceptLong r d fun d => { d with clk := d.clk.addDue ⟨d.clk.time, 2, 0, n, some r.waiter⟩ }
  else
    match epochNamed d.epoch (u32 r.body 16) with
    | none => refuse stBadField d
    | some e =>
      require (decide (d.epoch + 2 ≤ e) && v % 48 == 0 && d.clk.source != 2) stBadField d <|
      require (!d.timeBusy && !d.followsCommons) stDenied d <|
      acceptLong r d fun d =>
        { d with clk := d.clk.addDue ⟨boundary e, 1, 64 * ((v : Int) - boundary e), 0, some r.waiter⟩ }

def timeQuery : Handler := sizedTo 0 fun _ d =>
  let c := d.clk
  (some (Ans.ok (leBytes 8 c.time ++ ep32 d.epoch ++ byteOf (bit01 c.taiSet) ++ byteOf c.disc.code ++ byteOf c.source ++ zeros 1
    ++ leF64 (F64.ofScaled c.offset (-6)) ++ leF64 (F64.ofScaled c.steer (-40)) ++ leF64 (F64.ofFrac c.toSlew))), d)

/-- The standby begins to move to the new setting (R280). [log 94 DEDUCED] -/
def Device.changeMult (m : Nat) (d : Device) : Device :=
  if m = d.clk.refMult then d
  else
    let x := SynId.other d.clk.driver
    let d := d.synState x .search
    { d with clk := { (d.clk.setSyn x fun y => { y with mult := m }) with change := 1, changeTo := m } }

def clockConfig : Handler := sizedTo 4 fun r d =>
  let f := u8 r.body 0
  let src := u8 r.body 1
  let freq := u8 r.body 2
  let mult := u8 r.body 3
  require (decide (f ≤ 3) && (!hasBit f 0 || (decide (src ≤ 3) && decide (freq ≤ 3))) && (!hasBit f 1 || decide (mult ≤ 2)))
    stBadField d <|
  require (!hasBit f 1 || !(d.clk.change == 1 || d.clk.change == 2)) stDenied d <|
  let d := if hasBit f 0 then { d with clk := { d.clk with newSource := some (src, freq) } } else d
  (some (Ans.ok []), if hasBit f 1 then d.changeMult mult else d)

/-- The new SOURCE takes effect at a boundary: the discipline restarts in ACQUIRING (R294). -/
def Device.takeSource (d : Device) : Device :=
  match d.clk.newSource with
  | none => d
  | some (src, freq) =>
    let c := { d.clk with newSource := none, source := src, refFreq := freq, target := none, refPresent := false, goodEpochs := 0,
                          ppsEdges := [], lastEdge := 64 * d.clk.time, refBad := false,
                          due := d.clk.due.filter fun x => x.kind != 0 && x.kind != 3 && x.kind != 4,
                          brDisc := 0, brHold := false }
    { d with clk := c, fab := { d.fab with goodEpochs := 0, acquired := false } }.setDisc (if src = 0 then .free else .acquiring)

/-- [log 99 DEDUCED] -/
def clockQuery : Handler := sizedTo 0 fun _ d =>
  let c := d.clk
  let change := if c.change = 3 then 2 else if c.change = 0 then 0 else 1
  (some (Ans.ok (leWord c.stat ++ byteOf change ++ zeros 3 ++ leWord d.cnt.synSwitches
    ++ leBytes 8 (c.synA.held.getD 0#64).toNat ++ leBytes 8 (c.synB.held.getD 0#64).toNat
    ++ leBytes 8 c.stepS ++ leInt 8 c.stepD)), d)

/-- The instant of a step under R292. -/
def stepInstant (e : Nat) : Nat := boundary e + 1500000

/-- Set the fields a request names (R294). [log 91 DEDUCED, 100 DEDUCED] -/
def Device.setPolicy (f policy : Nat) (rate : F32) (jump : Nat) (d : Device) : Device :=
  let c := d.clk
  let c := { c with policy := if hasBit f 0 then policy else c.policy,
                    slewRate := if hasBit f 1 then rate else c.slewRate,
                    jumpThresh := if hasBit f 2 then jump else c.jumpThresh }
  let c := if hasBit f 1 ∧ c.source = 0 then c.setRate rate else c
  let d := { d with clk := c }
  if hasBit f 0 && decide (policy ≠ 2) && decide (c.under = .held) then
    if c.refPresent && !c.coasting then d.applyPolicy c.offset else d.holdover
  else d

def holdoverPolicy : Handler := sizedTo 16 fun r d =>
  let f := u8 r.body 0
  let rate := f32At r.body 4
  let jump := u32 r.body 8
  let stepIt := hasBit f 3 && u8 r.body 2 == 1
  require (decide (f ≤ 15) && u8 r.body 3 == 0 && (!hasBit f 0 || decide (u8 r.body 1 ≤ 2)) && (!hasBit f 3 || decide (u8 r.body 2 ≤ 1))
      && (!hasBit f 1 || F32.within rate ⟨1, 100⟩ ⟨1, 2⟩)
      && (!hasBit f 2 || (decide (3 ≤ jump) && decide (jump ≤ 3000000)))) stBadField d <|
  if !stepIt then (some (Ans.ok []), d.setPolicy f (u8 r.body 1) rate jump)
  else
    require (decide (d.clk.under = .awaitStep)) stWrongMode d <|
    match epochNamed d.epoch (u32 r.body 12) with
    | none => refuse stBadField d
    | some e =>
      let delta := roundStep (-d.clk.offset)
      require (decide (d.epoch + 2 ≤ e) && decide (delta.natAbs ≤ 1499952)) stBadField d <|
      let d := d.setPolicy f (u8 r.body 1) rate jump
      let c := { d.clk with due := d.clk.due.filter fun x => x.kind != 0 }
      (some (Ans.ok (leBytes 8 (stepInstant e) ++ leInt 8 delta)), { d with clk := c.addDue ⟨stepInstant e, 0, 0, 0, none⟩ })

def execTimeSet (src : ReqSource) (s : State) : Host.Outcome State Fault Refusal := fwRow 0x0A01 timeSet src s
def execTimeQuery (src : ReqSource) (s : State) : Host.Outcome State Fault Refusal := fwRow 0x0A02 timeQuery src s
def execClockConfig (src : ReqSource) (s : State) : Host.Outcome State Fault Refusal := fwRow 0x0A03 clockConfig src s
def execClockQuery (src : ReqSource) (s : State) : Host.Outcome State Fault Refusal := fwRow 0x0A04 clockQuery src s
def execHoldoverPolicy (src : ReqSource) (s : State) : Host.Outcome State Fault Refusal := fwRow 0x0A05 holdoverPolicy src s

end Sys2Proof.Machine
end

