-- ==== Sys2Proof/Machine/Frames.lean ====
section
/-! DEFINITION. Frames as they travel: those of the control port (R296 to R301) and those of the Commons (R376). -/

namespace Sys2Proof.Machine

/-! ### Control-port frames -/

/-- An opcode of the control port (R297): whether it writes, its dummy clocks, and whether its data travel on four lines. -/
structure CpOpcode where
  write : Bool
  dummy : Nat
  quad : Bool
  deriving DecidableEq, Repr

/-- *Control-port opcodes*. -/
def cpOpcode (op : Byte) : Option CpOpcode :=
  match op.toNat with
  | 0x02 => some ⟨true, 0, false⟩
  | 0x03 => some ⟨false, 0, false⟩
  | 0x0B => some ⟨false, 8, false⟩
  | 0x32 => some ⟨true, 0, true⟩
  | 0x6B => some ⟨false, 8, true⟩
  | _ => none

/-- Clocks of a data word: one bit each, or a nibble. -/
def CpOpcode.wordClocks (o : CpOpcode) : Nat := if o.quad then 8 else 32

/-- What `CP_IO0` has carried over some clocks, most significant bit first. -/
def ioBits (l : List (BitVec 4)) : Nat := l.foldl (fun n x => 2 * n + bit01 (x.getLsbD 0)) 0

/-- What the four lines have carried, highest nibble first. -/
def ioNibbles (l : List (BitVec 4)) : Nat := l.foldl (fun n x => 16 * n + x.toNat) 0

/-- The opcode of a frame, given as the levels of `CP_IO3` to `CP_IO0` at each rising edge (R296). -/
def cpOp (clocks : List (BitVec 4)) : Byte := BitVec.ofNat 8 (ioBits (clocks.take 8))

/-- The frame's address, or 0 if none was received (R328). -/
def cpAddr (clocks : List (BitVec 4)) : BitVec 24 :=
  if clocks.length < 32 then 0#24 else BitVec.ofNat 24 (ioBits ((clocks.drop 8).take 24))

/-- The clocks after opcode, address and dummy clocks. -/
def CpOpcode.data (o : CpOpcode) (clocks : List (BitVec 4)) : List (BitVec 4) := clocks.drop (32 + o.dummy)

/-- The address of the next word (R298): by 4 within [21:0], but for `CART_FIFO`. -/
def cpNext (a : BitVec 24) : BitVec 24 :=
  if a.toNat % 2 ^ 22 / 4 * 4 = 0x030000 then a else a.extractLsb' 22 2 ++ (a.setWidth 22 + 4#22)

/-- Data words that a frame has carried whole: only these take effect (R299, R300). -/
def CpOpcode.whole (o : CpOpcode) (clocks : List (BitVec 4)) : Nat := (o.data clocks).length / o.wordClocks

def CpOpcode.word (o : CpOpcode) (l : List (BitVec 4)) : Word :=
  BitVec.ofNat 32 (if o.quad then ioNibbles (l.take 8) else ioBits (l.take 32))

/-- The accesses of a write frame's whole words, in order. -/
def CpOpcode.writes (o : CpOpcode) (op : Byte) : Nat → BitVec 24 → List (BitVec 4) → List Access
  | 0, _, _ => []
  | n + 1, a, l => ⟨.control, op, a, o.word l⟩ :: o.writes op n (cpNext a) (l.drop o.wordClocks)

/-- The addresses that a read frame's whole words come from, in order (R298, R299). -/
def cpReads : Nat → BitVec 24 → List (BitVec 24)
  | 0, _ => []
  | n + 1, a => a :: cpReads n (cpNext a)

/-- What a frame of writes does to the map, one access after another. -/
def cpWrites (clocks : List (BitVec 4)) : List Access :=
  match cpOpcode (cpOp clocks) with
  | some o => if o.write then o.writes (cpOp clocks) (o.whole clocks) (cpAddr clocks) (o.data clocks) else []
  | none => []

/-- The addresses that the whole words of a read frame come from. -/
def cpReadFrom (clocks : List (BitVec 4)) : List (BitVec 24) :=
  match cpOpcode (cpOp clocks) with
  | some o => if o.write then [] else cpReads (o.whole clocks) (cpAddr clocks)
  | none => []

/-- A frame that is logged: its opcode is unknown, or its last write word is cut short (R301). One that ends inside its opcode has none. -/
def cpBad (clocks : List (BitVec 4)) : Bool :=
  decide (8 ≤ clocks.length) &&
    match cpOpcode (cpOp clocks) with
    | some o => o.write && (o.data clocks).length % o.wordClocks != 0
    | none => true

/-! ### Frames of the Commons (R376) -/

/-- A frame's header. -/
structure FrameHdr where
  kind  : Nat
  vc    : Nat
  dest  : Nat
  src   : Nat
  len   : Nat
  route : Nat
  hop   : Nat
  deriving DecidableEq, Repr

/-- The 16 bytes of a header. -/
def FrameHdr.bytes (h : FrameHdr) : List Byte :=
  [BitVec.ofNat 8 h.kind, BitVec.ofNat 8 h.vc] ++ leBytes 2 h.dest ++ leBytes 2 h.src ++ leBytes 2 h.len ++ leBytes 4 h.route
    ++ [BitVec.ofNat 8 h.hop] ++ zeros 3

/-- The header a frame begins with. -/
def frameHdr (l : List Byte) : FrameHdr := ⟨u8 l 0, u8 l 1 % 4, u16 l 2, u16 l 4, u16 l 6, u32 l 8, u8 l 12⟩

/-- Bytes of header and payload. -/
def frameBody (l : List Byte) : Nat := 16 + u16 l 6

/-- Whole flits of 64 bytes for a number of bytes. -/
def flits (n : Nat) : Nat := (n + 63) / 64

/-- A frame has the CRC-32 of its header and payload, and whole flits. [log 182 DESIGN CHOICE] -/
def frameSound (l : List Byte) : Bool :=
  let n := frameBody l
  l.length == 64 * flits (n + 4) && BitVec.ofNat 32 (u32 l n) == crc32 (l.take n)

/-- A header and a payload with their CRC-32, padded with zeros to whole flits. -/
def frameOf (h : FrameHdr) (payload : List Byte) : List Byte :=
  let b := { h with len := payload.length }.bytes ++ payload
  b ++ leWord (crc32 b) ++ zeros (64 * flits (b.length + 4) - (b.length + 4))

/-- The frame as the next hop gets it: one more hop, and the CRC that goes with it. [log 182 DESIGN CHOICE] -/
def frameOn (l : List Byte) : List Byte :=
  frameOf { frameHdr l with hop := u8 l 12 + 1 } ((l.take (frameBody l)).drop 16)

/-- Kind and virtual channel of what this device sends (*Frame kinds*). -/
def OutFrame.kind : OutFrame → Nat × Nat
  | .hello _ _ _ => (0x01, 1)
  | .beacon _ _ => (0x02, 0)
  | .delay _ _ => (0x03, 0)
  | .addressRequest _ _ => (0x04, 1)
  | .addressAssign _ _ => (0x04, 1)
  | .message _ _ => (0x05, 1)
  | .trigger _ _ => (0x06, 1)
  | .bell _ _ => (0x07, 1)
  | .bellAck _ _ => (0x07, 1)
  | .txnOpen _ _ _ _ => (0x08, 1)
  | .txnOpenReply _ _ _ => (0x08, 1)
  | .prepare _ _ _ => (0x08, 1)
  | .vote _ _ _ => (0x08, 1)
  | .decision _ _ _ _ _ => (0x08, 1)
  | .decisionAck _ _ => (0x08, 1)
  | .query _ _ _ => (0x08, 1)
  | .reserve _ => (0x09, 1)
  | .reserveReply _ _ => (0x09, 1)
  | .routeChange _ _ => (0x0A, 1)
  | .route _ _ _ => (0x0A, 1)
  | .streamAck _ _ _ => (0x0A, 1)
  | .cart _ _ _ => (0x0B, 2)
  | .register _ _ => (0x0C, 3)
  | .forwarded _ l => (u8 l 0, u8 l 1 % 4)

/-- The header of what this device sends: a link neighbour is DEST 0x000, and only a DATA_RESERVED frame names a route. -/
def OutFrame.header (own brAddr len : Nat) (x : OutFrame) : FrameHdr :=
  let dest := match x with
    | .cart a _ _ => a
    | .register a _ => a
    | _ =>
      match x.target brAddr with
      | .addr a => a
      | _ => 0
  let route := match x with
    | .cart _ r _ => r
    | _ => 0
  ⟨x.kind.1, x.kind.2, dest, own, len, route, 0⟩

end Sys2Proof.Machine
end

