-- ==== Sys2Proof/Machine/Fabric.lean ====
section
/-! DEFINITION. The Commons: ports, election, membership and addresses (R378 to R383), frames about reservations that are sent until acknowledged (R377, R387), and time across the Commons (R390 to R393). -/

namespace Sys2Proof.Machine

/-! ### `EVT_FAB` (R325) -/

def fabUp : Nat := 0
def fabDown : Nat := 1
def fabJoined : Nat := 2
def fabLeft : Nat := 3
def fabAddress : Nat := 4
def fabBellringer : Nat := 5
def fabRoute : Nat := 6
def fabAlarm : Nat := 7
def fabErrors : Nat := 8

/-- The protocol version of firmware 3.2 (R378). -/
def fabVersion : Nat := 3

/-- R382: how long an address is held for its UID. -/
def heldEpochs : Nat := 60000
def maxAddress : Nat := 4094

/-- R378: the epochs a port stays down before it retrains. -/
def holdEpochs : Nat := 1000

/-! ### This device in the topology -/

/-- This device's own links: its up ports whose neighbour has an address. -/
def Device.ownLinks (d : Device) : List FabLink :=
  if d.fab.address = 0 then []
  else
    (List.range 4).filterMap fun k =>
      let p := d.fport k
      match p.beacon with
      | some b => if p.up ∧ b.addr ≠ 0 then some ⟨d.fab.address, k, b.addr, p.nbPort, (p.delay512 / 2).toNat⟩ else none
      | none => none

/-- The ends of links, in whatever order they are listed. -/
def linkEnds (l : List FabLink) : List (Nat × Nat × Nat × Nat) := l.map fun x => (x.a, x.pa, x.b, x.pb)

/-- Links become known; what this device knows of itself replaces what others say of it. -/
def Device.refreshWith (known : List FabLink) (d : Device) : Device :=
  let a := d.fab.address
  let links := (known.filter fun l => l.a != a && l.b != a) ++ d.ownLinks
  let others := d.fab.devs.filter fun x => x.uid != ownUid
  let devs := if a = 0 then others else others ++ [⟨a, ownUid, d.fab.level⟩]
  { d with fab := { d.fab with
      links := links, devs := devs, topoNew := d.fab.topoNew || decide (linkEnds links ≠ linkEnds d.fab.links) } }

def Device.refreshOwn (d : Device) : Device := d.refreshWith d.fab.links

/-! ### Partners that leave (R343, R382) -/

def Device.closeFabricSessions (gone : Nat → Bool) (d : Device) : Device :=
  forList (d.fw.sessions.filter fun s => s.transport == 2 && gone s.peer) (fun s d => d.closeSession s.id) d

/-- The addresses of those that left are held, by every partner: any of them can be Bellringer next. -/
def Lease.leave (now : Nat) (gone : List Nat) (l : Lease) : Lease :=
  if l.inUse ∧ gone.contains l.addr then { l with inUse := false, until_ := now + heldEpochs } else l

def Fabric.holdLeft (now : Nat) (gone : List Nat) (f : Fabric) : List Lease :=
  let left := f.devs.filter fun x => gone.contains x.addr
  ((f.leases.map (Lease.leave now gone)).filter fun l => !(left.any fun x => x.addr == l.addr || x.uid == l.uid))
    ++ left.map fun x => ⟨x.uid, x.addr, false, now + heldEpochs, 0⟩

def Device.partnersLeft (gone : List Nat) (d : Device) : Device :=
  if gone = [] then d
  else
    let f := d.fab
    let d := { d with fab := { f with
        members := f.members.filter fun m => !(gone.contains m.addr)
        devs := f.devs.filter fun x => !(gone.contains x.addr)
        links := f.links.filter fun l => !(gone.contains l.a) && !(gone.contains l.b)
        leases := f.holdLeft d.epoch gone
        unreported := f.unreported.filter fun a => !(gone.contains a)
        acquired := f.acquired && !(f.members.all fun m => gone.contains m.addr)
        gen := if f.isBellringer then f.gen + 1 else f.gen
        received := f.received.filter fun x => !(gone.contains (x.1 / 4096))
        topoNew := true } }
    (d.raise evFab (ebit fabLeft)).closeFabricSessions gone.contains

/-- Partners that answer beacons no longer, or have no link left. -/
def Device.dropSilent (d : Device) : Device :=
  d.partnersLeft ((d.fab.members.filter fun m => decide (m.heard + silentEpochs ≤ d.epoch)).map (·.addr))

def Device.dropUnlinked (d : Device) : Device :=
  d.partnersLeft ((d.fab.members.filter fun m => !(d.fab.links.any fun l => l.a == m.addr || l.b == m.addr)).map (·.addr))

/-! ### Addresses (R382, R383) -/

/-- This device receives an address; when it changes, its fabric sessions close. -/
def Device.takeAddress (a : Nat) (d : Device) : Device :=
  if a = d.fab.address then d
  else
    let old := d.fab.address
    let links := if old = 0 then d.fab.links else d.fab.links.filter fun l => l.a != old && l.b != old
    let d := { d with fab := { d.fab with address := a, lastAddress := a } }
    let d := if old = 0 then d else d.closeFabricSessions fun _ => true
    (d.raise evFab (ebit fabAddress)).refreshWith links

/-- An address that no device uses and none holds within its 60 s. -/
def Fabric.freeAddress (now : Nat) (f : Fabric) (a : Nat) : Bool :=
  decide (1 ≤ a) && decide (a ≤ maxAddress) && a != f.address &&
    !(f.leases.any fun l => l.addr == a && (l.inUse || decide (now < l.until_)))

/-- The first address that applies (R382), or none when 4,094 are in use. -/
def Fabric.choose (now : Nat) (f : Fabric) (uid : BitVec 64) (pref : Nat) : Option Nat :=
  match f.leases.find? fun l => l.uid == uid && (l.inUse || decide (now ≤ l.until_)) with
  | some l => some l.addr
  | none =>
    if f.freeAddress now pref then some pref
    else ((List.range maxAddress).map (· + 1)).find? (f.freeAddress now)

/-- R383: the epochs within which devices that ask for the address they held count as parts of one merge: by then every partner has learned of them (R382). [log 129 DEDUCED] -/
def mergeEpochs : Nat := 70

/-- Give a device an address. [log 129 DEDUCED] -/
def Fabric.grant (uid : BitVec 64) (a merged level now : Nat) (f : Fabric) : Fabric :=
  { f with
    leases := (f.leases.filter fun l => l.uid != uid && l.addr != a) ++ [⟨uid, a, true, 0, merged⟩]
    members := (f.members.filter fun m => m.addr != a) ++ [⟨a, now⟩]
    devs := (f.devs.filter fun x => x.uid != uid && x.addr != a) ++ [⟨a, uid, level⟩]
    gen := f.gen + 1 }

/-- The level a device has by its neighbours' beacons, else next to this device. [log 130 DEDUCED] -/
def Fabric.levelOf (f : Fabric) (uid : BitVec 64) : Nat := ((f.devs.find? (·.uid == uid)).map (·.level)).getD 1

/-- The Bellringer assigns an address. [log 129 DEDUCED] -/
def Device.assign (uid : BitVec 64) (pref : Nat) (d : Device) : Device :=
  let now := d.epoch
  let f := d.fab
  -- R383: of two devices that keep their own address through a merge, the lower UID keeps it
  let rival := f.leases.find? fun l => l.addr == pref && l.inUse && decide (now < l.merged) && decide (uid < l.uid)
  let known := f.leases.any fun l => l.uid == uid && l.inUse
  match if known then none else rival with
  | some r =>
    let d := ({ d with fab := f.grant uid pref (now + mergeEpochs) (f.levelOf uid) now }.send (.addressAssign uid pref)).raise evFab (ebit fabJoined)
    match d.fab.choose now r.uid 0 with
    | none => d.refreshOwn
    | some b => ({ d with fab := d.fab.grant r.uid b r.merged (d.fab.levelOf r.uid) now }.send (.addressAssign r.uid b)).refreshOwn
  | none =>
    match f.choose now uid pref with
    | none => d
    | some a =>
      if known then d.send (.addressAssign uid a)
      else
        let d := { d with fab := f.grant uid a (if pref != 0 && a == pref then now + mergeEpochs else 0) (f.levelOf uid) now }
        ((d.send (.addressAssign uid a)).raise evFab (ebit fabJoined)).refreshOwn

def execAddressRequest (port : Fin 4) (uid : BitVec 64) (pref : Nat) (s : State) : Host.Outcome State Fault Refusal :=
  if (s.dev.fport port.val).up then
    onDev (fun d =>
      let d := d.countPort port.val fcRx
      if d.fab.isBellringer && decide (uid ≠ ownUid) then d.assign uid pref else d) s
  else .next s

def execAddressAssignment (uid : BitVec 64) (addr : Nat) (s : State) : Host.Outcome State Fault Refusal :=
  if uid = ownUid ∧ s.dev.fab.admitted ∧ !s.dev.fab.isBellringer ∧ 1 ≤ addr ∧ addr ≤ maxAddress then
    onDev (fun d => (d.ctlRx d.fab.bellringer).takeAddress addr) s
  else .next s

/-! ### The election (R380, R381) -/

/-- R380. -/
def Device.eligible (d : Device) : Bool :=
  d.fab.candidate && !d.clk.coasting &&
  (match d.pw.mode with
   | .safe => false
   | .reset => false
   | .boot => false
   | _ => true)

/-- A key: QUALITY and UID, with the sequence, the Bellringer's address and the lowest level it comes from. -/
structure Key where
  qual : Nat
  uid : BitVec 64
  seq : Nat
  addr : Nat
  level : Nat
  deriving DecidableEq, Repr

/-- One key beats another (R380). -/
def Key.beats (a b : Key) : Bool := decide (b.qual < a.qual) || (a.qual == b.qual && decide (a.uid < b.uid))

/-- [log 125 DEDUCED] -/
def bestKey : List Key → Option Key
  | [] => none
  | k :: l =>
    match bestKey l with
    | none => some k
    | some b => if b.beats k then some b else some k

/-- R381: how long a key that no neighbour offers any more is remembered, so that none that is stale is taken up again: by then every device of a set agrees on another. [log 249 DESIGN CHOICE] -/
def keyEpochs : Nat := 70

def KeySeen.is (uid : BitVec 64) (qual : Nat) (k : KeySeen) : Bool := k.uid == uid && k.qual == qual

/-- A neighbour offers a key: its sequence advances where it is higher than any seen with the key. [log 249 DESIGN CHOICE] -/
def Fabric.hearKey (now : Nat) (uid : BitVec 64) (qual seq : Nat) (f : Fabric) : Fabric :=
  let held := f.keys.filter fun k => decide (now ≤ k.heard + keyEpochs)
  let new : KeySeen := match held.find? (KeySeen.is uid qual) with
    | some k => if k.seq < seq then ⟨uid, qual, seq, now, now⟩ else { k with heard := now }
    | none => ⟨uid, qual, seq, now, now⟩
  { f with keys := (held.filter fun k => !(k.is uid qual)) ++ [new] }

/-- The sequence of a key has advanced within the last 4 epochs. -/
def Fabric.fresh (now : Nat) (uid : BitVec 64) (qual : Nat) (f : Fabric) : Bool :=
  f.keys.any fun k => k.is uid qual && decide (now < k.advanced + silentEpochs)

/-- The keys of the neighbours that are fresh; a device's own key is its own to give. [log 125 DEDUCED] -/
def Device.heardKeys (d : Device) : List Key :=
  (List.range 4).filterMap fun k =>
    let p := d.fport k
    match p.beacon with
    | some b =>
      if p.up && b.hasKey && b.keyUid != ownUid && d.fab.fresh d.epoch b.keyUid b.keyQual then
        some ⟨b.keyQual, b.keyUid, b.keySeq, b.keyAddr, b.level⟩
      else none
    | none => none

/-- A Bellringer whose SOURCE is FABRIC has no parent (R391). [log 127 DEDUCED] -/
def Device.orphanTime (d : Device) : Device :=
  if d.fab.isBellringer && d.clk.source == 3 && decide (d.clk.under ≠ .holdover) then
    { d with clk := { d.clk with refPresent := false }, fab := { d.fab with goodEpochs := 0, offsetAt := none } }.holdover
  else d

/-- This device's reservations as its routes and the commits to come say (R387): which stand, which are to come, and which a commit removes. -/
def Device.ownReservations (d : Device) : List Reservation :=
  let a := d.fab.address
  let open_ (c : Coming) : Bool := d.fw.txns.any fun t => decide (t.coord = c.coord) && t.id == c.txn && decide (t.state = .inDoubt) && t.doubtEnd.isNone
  let gone (s : Nat) : Option (Nat × Option Nat) :=
    (d.fab.coming.find? fun c => c.removed.contains s).map fun c => (c.key, if open_ c then none else some c.effect)
  (d.fab.routes.map fun r => (⟨a, r.stream, r.dest, r.num, r.den, r.ans, r.key, gone r.stream, r.lost⟩ : Reservation))
    ++ d.fab.coming.flatMap fun c => c.routes.map fun r => ⟨a, r.stream, r.dest, r.num, r.den, r.ans, r.key, none, []⟩

/-- A Bellringer is adopted, or none is left: what was known of the one before is past, and a new one gets a report (R387, R392). [log 126 DEDUCED] -/
def Device.leaveBellringer (d : Device) : Device :=
  { d with clk := { d.clk with brDisc := 0 }
           fab := { d.fab with reservations := [], unreported := [], asked := [], telling := [], reportDue := true } }.markDisc d.clk.time

/-- This device becomes the Bellringer: it keeps its address or takes 0x001, rebuilds its table of addresses, and that of reservations from its own and from the reports to come; it keeps its present time, and repeats no step (R382, R387, R392). [log 126 DEDUCED] -/
def Device.becomeBellringer (d : Device) : Device :=
  let f := d.fab
  let leases := (f.devs.filter fun x => x.uid != ownUid && x.addr != 0).map fun x => (⟨x.uid, x.addr, true, 0, 0⟩ : Lease)
  let held := f.leases.filter fun l => !l.inUse && !(leases.any fun m => m.addr == l.addr || m.uid == l.uid)
  let d := { d.leaveBellringer with fab := { f with
      leases := leases ++ held, level := 0, bellringer := f.address, reservations := d.ownReservations,
      unreported := f.members.map Member.addr, asked := [], telling := [], reportDue := false } }
  let d := { d with clk := { d.clk with due := d.clk.due.filter fun x => x.kind != 4, brHold := false } }.markDisc d.clk.time
  let d := if f.address = 0 then d.takeAddress 1 else d
  ({ d with fab := { d.fab with bellringer := d.fab.address } }.refreshOwn).orphanTime

/-- Adopt the best key. [log 124 DEDUCED, 126 DEDUCED] -/
def Device.elect (d : Device) : Device :=
  let own : List Key := if d.eligible ∧ d.fab.electAfter ≤ d.epoch then [⟨d.fab.quality, ownUid, d.fab.keySeq, d.fab.address, 0⟩] else []
  match bestKey (own ++ d.heardKeys) with
  | none => { d with fab := { d.fab with hasKey := false, bellringer := 0, level := 0, acquired := false } }.leaveBellringer
  | some k =>
    let mine := decide (k.uid = ownUid)
    let same := d.heardKeys.filter fun x => x.uid == k.uid && x.qual == k.qual
    let level := if mine then 0 else same.foldl (fun m x => Min.min m (x.level + 1)) (k.level + 1)
    let seq := if mine then (if d.fab.hasKey ∧ d.fab.keyUid = ownUid then d.fab.keySeq else d.fab.keySeq + 1)
      else same.foldl (fun m x => Max.max m x.seq) k.seq
    let changed := decide (d.fab.brUid ≠ k.uid ∨ d.fab.brQual ≠ k.qual ∨ (!d.fab.hasKey ∧ mine))
    let newKey := decide (d.fab.hasKey = false ∨ d.fab.keyUid ≠ k.uid)
    let d := { d with fab := { d.fab with
        hasKey := true, keyQual := k.qual, keyUid := k.uid, keySeq := seq, brUid := k.uid, brQual := k.qual
        bellringer := if mine then d.fab.address else k.addr
        level := level, brKnown := d.fab.brKnown && !newKey
        topoNew := d.fab.topoNew || newKey } }
    let d := if changed then d.raise evFab (ebit fabBellringer) else d
    if !newKey then d else if mine then d.becomeBellringer else d.leaveBellringer

/-! ### Membership (R382) -/

/-- The addresses a membership lists, but this device's own. -/
def Fabric.othersIn (f : Fabric) (devs : List FabDev) : List Nat :=
  (devs.filter fun x => x.addr != 0 && x.uid != ownUid && x.addr != f.address).map (·.addr)

/-- Those listed have answered. [log 128 DEDUCED] -/
def Fabric.hear (now : Nat) (l : List Nat) (f : Fabric) : Fabric :=
  { f with members := f.members.map fun m => if l.contains m.addr then { m with heard := now } else m }

/-- A BEACON that carries the adopted key says who is in the Commons. -/
def Device.membership (b : BeaconIn) (d : Device) : Device :=
  let now := d.epoch
  let l := d.fab.othersIn b.devs
  if d.fab.isBellringer then
    let levels (x : FabDev) : FabDev := match b.devs.find? (·.uid == x.uid) with
      | some y => if x.uid = ownUid then x else { x with level := y.level }
      | none => x
    { d with fab := { (d.fab.hear now l) with devs := d.fab.devs.map levels } }.refreshWith b.links
  else
    let old := d.fab.members.map (·.addr)
    let new := l.filter fun a => !(old.contains a)
    let gone := if b.gen = d.fab.gen then [] else old.filter fun a => !(l.contains a)
    let d := d.partnersLeft gone
    let d := { d with fab := { (d.fab.hear now l) with gen := b.gen } }
    let d := if b.gen = d.fab.gen ∧ new = [] then { d with fab := { d.fab with devs := b.devs } }
      else { d with fab := { d.fab with devs := b.devs, members := d.fab.members ++ new.map fun a => ⟨a, now⟩, topoNew := true } }
    let d := if new = [] then d else d.raise evFab (ebit fabJoined)
    { d with fab := { d.fab with listed := b.devs.any fun x => x.addr == d.fab.address && x.uid == ownUid } }.refreshWith b.links

/-! ### The Bellringer's discipline and steps (R391, R392) -/

/-- What the Bellringer says of its time; a step of its own is repeated at the midpoint of the first epoch to begin. [log 133 DEDUCED] -/
def Device.bellringerTime (b : BeaconIn) (d : Device) : Device :=
  let fresh := !d.fab.brKnown
  let d := { d with fab := { d.fab with brTai := b.brTai, brStep := (b.stepS, b.stepD, b.stepCount, b.stepIsSet), brKnown := true } }
  if d.clk.source ≠ 3 ∨ d.fab.isBellringer then { d with clk := { d.clk with brSteps := b.stepCount } }
  else
    let d := ({ d with clk := { d.clk with brDisc := b.brDisc } }).markDisc d.clk.time
    if fresh || b.stepCount == d.clk.brSteps then
      { d with clk := { d.clk with brSteps := b.stepCount } }
    else
      let c := { d.clk with brSteps := b.stepCount, brHold := true }
      let c := c.addDue ⟨boundary (d.epoch + 1) + 1500000, 4, 64 * b.stepD, bit01 (b.stepIsSet && b.brTai), none⟩
      { d with clk := c, marks := { d.marks with holdover := spanOpen (Min.min b.stepS d.clk.time) d.marks.holdover } }

/-- A BEACON from a neighbour. [log 128 DEDUCED] -/
def Device.beaconIn (port : Nat) (b : BeaconIn) (d : Device) : Device :=
  let d := d.countPort port fcRx
  let d := if b.hasKey then { d with fab := d.fab.hearKey d.epoch b.keyUid b.keyQual b.keySeq } else d
  let nb : NbBeacon := ⟨b.hasKey, b.keyUid, b.keyQual, b.keySeq, b.keyAddr, b.level, b.nbAddr, b.nbUid⟩
  let d := (d.setFport port fun p => { p with beacon := some nb, nbUid := some b.nbUid }).elect
  if b.hasKey && d.fab.hasKey && b.keyUid == d.fab.keyUid && b.keyQual == d.fab.keyQual then
    (d.membership b).bellringerTime b
  else d.refreshOwn

def execBeacon (port : Fin 4) (b : BeaconIn) (s : State) : Host.Outcome State Fault Refusal :=
  if (s.dev.fport port.val).up && s.dev.clk.counting then onDev (Device.beaconIn port.val b) s else .next s

/-! ### Ports (R378) -/

/-- A port that is enabled and past its hold. -/
def Device.portLives (k : Nat) (d : Device) : Bool :=
  d.clk.counting && d.fab.portEn.getLsbD k && decide ((d.fport k).holdUntil ≤ d.epoch)

def Device.sendHello (k : Nat) (d : Device) : Device := d.send (.hello k d.fab.candidate d.fab.quality)

def execHello (port : Fin 4) (h : HelloIn) (s : State) : Host.Outcome State Fault Refusal :=
  if s.dev.portLives port.val then
    onDev (fun d =>
      let d := (d.countPort port.val fcRx).setFport port.val fun p =>
        { p with trained := true, nbUid := some h.uid, nbVersion := h.version, nbPort := h.port }
      if (d.fport port.val).up then d else d.sendHello port.val) s
  else .next s

def execFabricPortUp (port : Fin 4) (s : State) : Host.Outcome State Fault Refusal :=
  let p := s.dev.fport port.val
  if s.dev.portLives port.val && p.trained && p.nbVersion == fabVersion && !p.up then
    onDev (fun d =>
      let d := d.setFport port.val fun p => { p with up := true, crcCount := 0, crcRun := 0 }
      { (d.countPort port.val fcUps).raise evFab (ebit fabUp) with fab := { ((d.countPort port.val fcUps).raise evFab (ebit fabUp)).fab with topoNew := true } }) s
  else .next s

/-- The port goes down: it does not retrain for 1,000 epochs. -/
def Device.portDown (k : Nat) (d : Device) : Device :=
  if !(d.fport k).up then d
  else
    let a := d.fab.address
    let d := d.setFport k fun p =>
      { p with up := false, trained := false, nbUid := none, beacon := none, crcCount := 0, crcRun := 0,
               holdUntil := d.epoch + holdEpochs }
    let d := (d.countPort k fcDowns).raise evFab (ebit fabDown)
    let d := { d with fab := { d.fab with
        links := d.fab.links.filter fun l => !((l.a == a && l.pa == k) || (l.b == a && l.pb == k))
        topoNew := true } }
    d.dropUnlinked

/-- [log 182 DESIGN CHOICE] -/
def execFabricRetrain (port : Fin 4) (s : State) : Host.Outcome State Fault Refusal :=
  let p := s.dev.fport port.val
  if s.dev.portLives port.val && !p.up && p.holdUntil != 0 then
    onDev (fun d => (d.setFport port.val fun p => { p with holdUntil := 0, trained := false }).sendHello port.val) s
  else .next s

/-- R376, R378, R379: a bad frame is discarded and counted, and so are its bad blocks (those of none count at the boundary); the epoch's seventeenth raises LINK_ERRORS. [log 182 DESIGN CHOICE] -/
def execFabricFrameBadCrc (x : BadFrameIn) (s : State) : Host.Outcome State Fault Refusal :=
  let k := x.port.val
  if s.dev.portLives k && !(frameSound x.frame) then
    onDev (fun d =>
      let d := ((d.countPort k fcCrc).countPort k fcBlock x.blocks).setFport k fun p => { p with crcCount := p.crcCount + 1 }
      if (d.fport k).crcCount = 17 then d.raise evFab (ebit fabErrors) else d) s
  else .next s

/-! ### Delay and offset (R390, R391, R393) -/

/-- This device's parent: port and address. -/
def Fabric.parent (f : Fabric) : Option (Nat × Nat) :=
  if f.isBellringer ∨ !f.admitted then none
  else (parentOf f.devs f.links f.address).map fun x => (x.1, x.2.1)

/-- The nearest 1/64 tick to a value in 1/512, ties toward zero. [log 131 DEDUCED] -/
def to64 (x : Int) : Int :=
  let n := x.natAbs
  let q := n / 8 + (if 4 < n % 8 then 1 else 0)
  if x < 0 then -(q : Int) else (q : Int)

/-- The first acquisition in IDLE or MAINTAIN steps at the midpoint of the second following epoch (R391). -/
def Device.acquireFabric (x : Int) (d : Device) : Device :=
  if d.clk.due.any (·.kind == 3) then d
  else
    { d with clk := d.clk.addDue ⟨boundary (d.epoch + 2) + 1500000, 3, -x, bit01 d.fab.brTai, none⟩ }

/-- The parent is there for four epochs: the first time since joining, in IDLE or MAINTAIN, the device steps; else its offset is that of a return (R290, R391). While the root coasts the step waits. -/
def Device.parentBack (x : Int) (d : Device) : Device :=
  if d.fab.acquired then d.returnRef x true
  else
    match d.pw.mode with
    | .idle => if d.clk.coasting then d else d.acquireFabric x
    | .maintain => if d.clk.coasting then d else d.acquireFabric x
    | _ => { d with fab := { d.fab with acquired := true } }.returnRef x true

/-- An exchange with the parent, as an edge of the source FABRIC. -/
def Device.fabricEdge (x steer : Int) (d : Device) : Device :=
  let measured := { d with clk := { d.clk with offset := x, offsetAt := d.clk.time } }
  let back := decide (silentEpochs ≤ d.fab.goodEpochs)
  match d.clk.under with
  | .free => d
  | .acquiring => if !back || d.clk.coasting then d else d.parentBack x
  | .locked => { measured with clk := measured.clk.update x steer }
  | .slewing => { measured with clk := measured.clk.update x steer }
  | .awaitStep => { measured with clk := measured.clk.update x steer }
  | _ => if d.clk.refPresent then measured else if back then d.parentBack x else d

/-- A two-way exchange: link delay ((t4 − t1) − (t3 − t2))/2 and offset ((t1 − t2) + (t4 − t3))/2, in 1/256 tick. [log 131 DEDUCED, 132 DEDUCED] -/
def Device.exchange (port : Nat) (t1 t2 t3 t4 steer : Int) (d : Device) : Device :=
  let d := d.countPort port fcRx
  let d := (d.setFport port fun p => { p with delay512 := (t4 - t1) - (t3 - t2) }).refreshOwn
  if d.fab.parent.any fun x => x.1 == port then
    let x := (t1 - t2) + (t4 - t3)
    let d := { d with fab := { d.fab with offset512 := x, offsetAt := some d.epoch } }
    if d.clk.source = 3 then d.fabricEdge (to64 x) steer else d
  else d

/-- The neighbour's own exchange: what it sent at t1 came at t2, and the reply leaves at t3 (R390). -/
def Device.replyDelay (port : Nat) (t1 t2 t3 : Int) (d : Device) : Device := (d.countPort port fcRx).send (.delay port (some (t1, t2, t3)))

/-- A DELAY frame: the reply, which came at t4, to this device's own; or, without t4, the neighbour's, which this device replies to. [log 131 DEDUCED] -/
def execDelayExchange (port : Fin 4) (t1 t2 t3 : Int) (t4 : Option Int) (steer : Int) (s : State) : Host.Outcome State Fault Refusal :=
  if (s.dev.fport port.val).up && s.dev.clk.counting then
    onDev (fun d =>
      match t4 with
      | some t4 => d.exchange port.val t1 t2 t3 t4 steer
      | none => d.replyDelay port.val t1 t2 t3) s
  else .next s

/-- R393: 1,000 ps, as 3 ticks in 1/512 tick. -/
def alarmLimit : Nat := 1536

/-- The end of an epoch: exchanges in a row (R391) and the alarm (R393). `e` is the epoch that ends. -/
def Device.fabricTimeEnd (e : Nat) (d : Device) : Device :=
  let f := d.fab
  let good := if f.offsetAt = some e then f.goodEpochs + 1 else 0
  let out := decide (d.clk.disc = .locked) && decide (alarmLimit < f.offset512.natAbs) && f.parent.isSome
  let run := if out then f.alarmRun + 1 else 0
  let back := f.parent.isSome && decide (f.offset512.natAbs ≤ alarmLimit)
  let d := { d with fab := { f with goodEpochs := good, alarmRun := run, alarmed := f.alarmed && !back } }
  if 4 ≤ run ∧ !d.fab.alarmed then { d with fab := { d.fab with alarmed := true } }.raise evFab (ebit fabAlarm) else d

/-! ### The boundary's part (R377, R378, R381, R382) -/

/-- The beacon of an epoch on every up port, with the key, the membership, and the Bellringer's discipline and last step (R381, R392); and the question of an exchange (R390). [log 128 DEDUCED] -/
def Device.sendBeacons (d : Device) : Device :=
  let f := d.fab
  let d := if f.isBellringer then { d with fab := { f with keySeq := f.keySeq + 1 } } else d
  let f := d.fab
  let c := d.clk
  let disc := if f.isBellringer then c.disc.code else c.brDisc
  let tai := if f.isBellringer then c.taiSet else f.brTai
  let step := if f.isBellringer then (c.stepS, c.stepD, c.stepCount, c.stepKind == 2) else f.brStep
  let b : BeaconIn :=
    { nbUid := ownUid, nbAddr := f.address, hasKey := f.hasKey, keyUid := f.keyUid, keyQual := f.keyQual, keySeq := f.keySeq,
      keyAddr := f.bellringer, level := f.level, gen := f.gen, devs := f.devs, links := f.links, brDisc := disc, brTai := tai,
      stepS := step.1, stepD := step.2.1, stepCount := step.2.2.1, stepIsSet := step.2.2.2 }
  forNat 4 (fun k d => if (d.fport k).up then (d.send (.beacon k b)).send (.delay k none) else d) d

/-- An admitted device without an address, or whose address the Bellringer does not list, asks for one. -/
def Device.askAddress (d : Device) : Device :=
  let f := d.fab
  if f.admitted && !f.isBellringer && (f.address == 0 || !f.listed) then
    d.send (.addressRequest ownUid f.lastAddress)
  else d

/-- Send a frame about reservations, and again every epoch until it is acknowledged (R377). -/
def Device.tell (x : OutFrame) (d : Device) : Device := { d.send x with fab := { (d.send x).fab with telling := d.fab.telling ++ [x] } }

/-- The next number of a RESERVE frame. -/
def Device.nextAsk (d : Device) : Nat × Device := (d.fab.asks, { d with fab := { d.fab with asks := d.fab.asks + 1 } })

/-- At a boundary what is not acknowledged goes out again, and a new Bellringer gets this device's reservations (R377, R387). -/
def Device.tellAgain (d : Device) : Device :=
  let d := forList d.fab.telling Device.send d
  if d.fab.reportDue && d.fab.admitted && !d.fab.isBellringer && d.fab.address != 0 then
    let (k, d) := d.nextAsk
    { d with fab := { d.fab with reportDue := false } }.tell (.reserve (.report k d.ownReservations))
  else d

end Sys2Proof.Machine
end

