-- ==== Sys2Proof/WellFormed.lean ====
section
/-! DEFINITION. Which commands are well formed: operands within the widths and counts the manual gives them. A decoder or a sender that keeps to the manual sends no others; the machine's meanings are total on all. -/

namespace Sys2Proof

/-! ### Operands -/

/-- Device time is a 64-bit count of ticks (R3). -/
def timeOk (t : Nat) : Bool := decide (t < 2 ^ 64)

/-- An address of a device on the fabric, 0x001 to 0xFFE (R382). -/
def addrOk (a : Nat) : Bool := decide (1 ≤ a) && decide (a ≤ 0xFFE)

/-- A stream id has 12 bits (R235). -/
def streamOk (s : Nat) : Bool := decide (s < 0x1000)

/-- A transaction id has 32 bits (R331). -/
def txnOk (t : Nat) : Bool := decide (t < 2 ^ 32)

/-- The control port writes with one of two opcodes (R297); other ports have none (R313). -/
def Access.wf (a : Access) : Bool := if a.port = .control then a.opcode == 0x02#8 || a.opcode == 0x32#8 else a.opcode == 0#8

/-- A frame has an opcode, an address and a word at least (R296); a port makes one access in a BUS cycle (R305). -/
def WriteIn.wf : WriteIn → Bool
  | .one a => a.wf
  | .frame clocks => decide (40 ≤ clocks.length)
  | .together l => l.all Access.wf && decide (l.map (·.port)).Nodup

def RegRead.wf : RegRead → Bool
  | .one _ => true
  | .frame clocks => decide (40 ≤ clocks.length)

/-- A frame of a request: whole words, a 16-byte header at least, 1,024 bytes at most (R331, R338). -/
def frameOk (l : List Byte) : Bool := l.length % 4 == 0 && decide (16 ≤ l.length) && decide (l.length ≤ 1024)

/-- A frame of the return lane: header, payload, trailer and pad word make whole 64-bit words, and LEN has 16 bits (R233). -/
def laneOk (l : List Byte) : Bool := l.length % 8 == 0 && decide (24 ≤ l.length) && decide (l.length ≤ 262168)

/-- A frame of the Commons: whole flits of 64 bytes, and LEN has 16 bits (R376). -/
def flitsOk (l : List Byte) : Bool := l.length % 64 == 0 && decide (64 ≤ l.length) && decide (l.length ≤ 65600)

def ReqSource.wf (x : ReqSource) : Bool :=
  match x with
  | .mailbox _ => true
  | .returnLane f => laneOk f
  | .fabric p f => addrOk p && frameOk f
  | .faulted src => src.wf

/-- Six rails, sixteen sensors, channels within 128 (R27, R37, R44, R410). -/
def EpochInput.wf (x : EpochInput) : Bool :=
  x.rails.length == 6 && x.temps.length == 16 && (x.pins.all fun p => decide (p.1 < 128)) && (x.estim.all fun e => decide (e.ch < 128))
    && (x.pilots.all fun p => decide (p.ch < 128)) && x.linkCrc.length == 4 && x.blocks.length == 4

def PointIn.wf (x : PointIn) : Bool := timeOk x.t

/-- The modulators are stable to ±1.05·FS (R43): a decimated value lies within ±2·FS, with one modulator output for each of 48 bitstream instants. -/
def RawIn.wf (x : RawIn) : Bool :=
  decide (x.h.natAbs ≤ 2 ^ 28) && decide (x.l.natAbs ≤ 2 ^ 28) && x.outs.length == 48

def WideIn.wf (x : WideIn) : Bool := x.raws.all RawIn.wf

/-- The stack has 16 GiB. -/
def ScrubErr.wf (x : ScrubErr) : Bool := decide (x.offset < 2 ^ 34)

/-- A transform has at most 65,536 bins (R145, R151). -/
def MillIn.wf (x : MillIn) : Bool := decide (x.bins.length ≤ 65536) && x.errs.all ScrubErr.wf

/-- An envelope that has held a band for less than a device time's range (R129). -/
def EnvIn.wf (x : EnvIn) : Bool := timeOk x.ticks

/-- A cart's payload has at most 4,096 words (R235). -/
def Cart.wf (c : Cart) : Bool :=
  decide (c.type < 16) && decide (c.source < 0x1000) && streamOk c.stream && timeOk c.time && decide (c.words.length ≤ 4096)

def TrigMsg.wf (m : TrigMsg) : Bool := addrOk m.origin && timeOk m.time && decide (m.frac < 256) && timeOk m.close

def BeaconIn.wf (b : BeaconIn) : Bool :=
  decide (b.keyQual < 256) && decide (b.keyAddr ≤ 0xFFE) && decide (b.nbAddr ≤ 0xFFE) && b.devs.all fun d => addrOk d.addr

def HelloIn.wf (h : HelloIn) : Bool := decide (h.quality < 256) && decide (h.port < 4)

def ReserveItem.wf (x : ReserveItem) : Bool := streamOk x.stream && addrOk x.dest && decide (0 < x.den)

def Reservation.wf (x : Reservation) : Bool := streamOk x.stream && addrOk x.dest && decide (0 < x.den)

def ReserveAsk.wf (x : ReserveAsk) : Bool :=
  match x with
  | .ask _ _ items => items.all ReserveItem.wf
  | .due _ _ => true
  | .cancel _ => true
  | .report _ rs => rs.all Reservation.wf
  | .noted => true

def PhaseMeas.wf (m : PhaseMeas) : Bool := decide (m.ch < 128)

/-- BOOT_MS has 8 bits; boot takes no longer than 255 ms to count (R402). -/
def BootResult.wf (r : BootResult) : Bool := decide (r.ms < 256)

/-! ### Commands -/

/-- A command whose operands the manual allows. -/
def Instr.wf (i : Instr) : Bool :=
  match i with
  | .resetAssert => true
  | .resetRelease _ => true
  | .identityReady => true
  | .bootStageEnd r => r.wf
  | .supplyWarning _ => true
  | .supplyWarningCleared _ => true
  | .brownout _ => true
  | .xoAbsent => true
  | .epochBoundary inp => inp.wf
  | .parityRepair _ _ _ _ _ => true
  | .granarySelfRefresh t => timeOk t
  | .countWindow _ first last _ => decide (first ≤ last)
  | .lockLost _ t => timeOk t
  | .bandSearchEnd _ found => found.steps.length == 5
  | .synthesizerRetry _ => true
  | .synthesizerReady _ t => timeOk t
  | .referenceEdge _ t64 _ => decide (t64 < 64 * 2 ^ 64)
  | .referenceLost => true
  | .slewDone => true
  | .timeStep => true
  | .timeSetTimeout => true
  | .modulatorOverload _ _ t => timeOk t
  | .modulatorRecovered _ _ t => timeOk t
  | .guardCurrentLimit _ t => timeOk t
  | .widebandSample x => x.wf
  | .pointSampleReady x => x.wf
  | .cartFillTimeout stream t => streamOk stream && timeOk t
  | .cartDelivery _ x => timeOk x.t && x.errs.all ScrubErr.wf
  | .granaryWrite stream t => streamOk stream && timeOk t
  | .granaryScrubPass errs => errs.all ScrubErr.wf
  | .millResultReady x => x.wf
  | .densitySnapshotComplete _ => true
  | .isolationSwitchesClosed _ t => timeOk t
  | .modulatorRelease _ t => timeOk t
  | .excitationRampEnd _ t _ => timeOk t
  | .qServoSettle _ t => timeOk t
  | .disablePinsReleased _ t => timeOk t
  | .pointRampUp _ t => timeOk t
  | .gainSwitch _ t => timeOk t
  | .gainReady _ t _ _ => timeOk t
  | .currentSwap _ _ => true
  | .fastDetection _ _ x => timeOk x.t && x.env.wf
  | .detectorRelease _ _ x => timeOk x.t && x.env.wf
  | .checkPhase _ _ meas => meas.all PhaseMeas.wf
  | .checkClassification _ => true
  | .trigInEdge _ _ t => timeOk t
  | .externalEdgeAccepted _ _ t => timeOk t
  | .recordClose _ _ => true
  | .trigOutPulse _ t => timeOk t
  | .fabricTriggerSend t => timeOk t
  | .bellInEdge _ t => timeOk t
  | .bellTick tick => timeOk tick
  | .holdingWindowSwitch => true
  | .alignmentMarker t => timeOk t
  | .laneFault _ => true
  | .healthReport frame t => laneOk frame && timeOk t
  | .returnLaneBadCrc => true
  | .registerWrite w => w.wf
  | .eventClear a => a.wf
  | .mbxRequestWrite a => a.wf
  | .mbxDoorbell a => a.wf
  | .rspDone a => a.wf
  | .completionPlace _ => true
  | .bellRing a => a.wf
  | .bellSnap a => a.wf
  | .lockSet a => a.wf
  | .dlForce a => a.wf
  | .dlEnable a => a.wf
  | .dlDisable a => a.wf
  | .cartFifoPop r => r.wf
  | .timeLoRead r => r.wf
  | .postedWrite a => a.wf
  | .postedRead _ _ => true
  | .postedAccessDone _ _ => true
  | .postedAccessNack _ _ => true
  | .badFrame opcode rest => decide (opcode.length ≤ 8) && (rest == [] || opcode.length == 8)
  | .lockstepMismatch => true
  | .lockstepRepaired => true
  | .fabricPortUp _ => true
  | .fabricPortDown _ => true
  | .fabricRetrain _ => true
  | .hello _ h => h.wf
  | .beacon _ b => b.wf
  | .delayExchange _ _ _ _ _ _ => true
  | .addressRequest _ _ pref => decide (pref ≤ 0xFFE)
  | .addressAssignment _ addr => addrOk addr
  | .fabricMessageResponse peer bytes => addrOk peer && frameOk bytes
  | .fabricForwardTimeout peer _ => addrOk peer
  | .fabricTriggerMessage m t => m.wf && timeOk t
  | .fabricBell src tick => addrOk src && timeOk tick
  | .fabricBellAck src tick => addrOk src && timeOk tick
  | .fabricTxnOpen coord txn _ parts => addrOk coord && txnOk txn && (parts.all addrOk)
  | .fabricPrepare coord txn _ => addrOk coord && txnOk txn
  | .fabricVote src txn _ => addrOk src && txnOk txn
  | .fabricDecision coord txn _ _ => addrOk coord && txnOk txn
  | .fabricDecisionAck src txn => addrOk src && txnOk txn
  | .fabricDecisionQuery src coord txn => addrOk src && addrOk coord && txnOk txn
  | .reserveRequest src ask _ => addrOk src && ask.wf
  | .reserveAnswer _ => true
  | .routeFailure addr port => addrOk addr && decide (port < 4)
  | .streamAck src stream _ => addrOk src && streamOk stream
  | .fabricCart c dest _ _ t => c.wf && decide (dest ≤ 0xFFF) && timeOk t
  | .remoteRegisterAccess src _ _ _ => addrOk src
  | .bankWriteDone _ => true
  | .calMeasurementDone t => timeOk t
  | .selftestDone _ _ _ => true
  | .loopbackDone _ _ => true
  | .fwVerifyDone => true
  | .captureReadoutDone _ => true
  | .sessionOpen src => src.wf
  | .sessionClose src => src.wf
  | .sessionKeepalive src => src.wf
  | .sessionList src => src.wf
  | .txnBegin src => src.wf
  | .txnCommit src => src.wf
  | .txnAbort src => src.wf
  | .txnStatus src => src.wf
  | .chanConfig src => src.wf
  | .chanQuery src => src.wf
  | .chanEnable src => src.wf
  | .pointConfig src => src.wf
  | .pointQuery src => src.wf
  | .carrierPlanCheck src => src.wf
  | .linLoad src => src.wf
  | .linQuery src => src.wf
  | .linPersist src => src.wf
  | .streamConfig src => src.wf
  | .streamQuery src => src.wf
  | .regionConfig src => src.wf
  | .captureArm src => src.wf
  | .captureDisarm src => src.wf
  | .captureRead x => x.src.wf && x.errs.all ScrubErr.wf
  | .tallyConfig src => src.wf
  | .aoutConfig src => src.wf
  | .millConfig src => src.wf
  | .millQuery src => src.wf
  | .densityConfig src => src.wf
  | .densityRead x => x.src.wf && x.errs.all ScrubErr.wf
  | .trigConfig src => src.wf
  | .trigQuery src => src.wf
  | .trigForce src => src.wf
  | .calBegin src => src.wf
  | .calPoint src => src.wf
  | .calCommit src => src.wf
  | .calAbort src => src.wf
  | .ledgerRead src => src.wf
  | .shepherdConfig src => src.wf
  | .timeSet src => src.wf
  | .timeQuery src => src.wf
  | .clockConfig src => src.wf
  | .clockQuery src => src.wf
  | .holdoverPolicy src => src.wf
  | .fabricStatus src => src.wf
  | .fabricPolicy src => src.wf
  | .fabricRouteQuery src => src.wf
  | .fabricForward src => src.wf
  | .bellSchedule src => src.wf
  | .modeSet src => src.wf
  | .modeQuery src => src.wf
  | .hearthEnter src => src.wf
  | .supplyQuery src => src.wf
  | .diagSelftest src => src.wf
  | .diagLoopback src => src.wf
  | .diagLogRead src => src.wf
  | .fwStage src => src.wf
  | .fwActivate src => src.wf
  | .fwQuery src => src.wf
  | .basePresent => true
  | .guardCurrentLimitReleased _ t => timeOk t
  | .rampDownEnd _ t => timeOk t
  | .returnLaneLocked => true
  | .returnLaneLockLost => true
  | .hostOkTimeout => true
  | .fabricFrameBadCrc x => flitsOk x.frame
  | .controlFrameForward _ frame => flitsOk frame
  | .reserveTimeout => true
  | .fabricTxnOpenReply src txn _ => addrOk src && txnOk txn
  | .densityReadoutDone _ => true
  | .hearthPowerDownDone t => timeOk t
  | .jtagInstruction _ _ _ => true

end Sys2Proof
end

