-- ==== Sys2Proof/Machine/Regs.lean ====
section
/-! DEFINITION. The register map (R302 to R304, R308 to R314, R321 to R330, R448, R452): what a read returns and does, what a write does, and the commands that are an access, several of one BUS cycle (R305), or a frame of the control port (R296 to R301). -/

namespace Sys2Proof.Machine

/-! ### Addresses -/

def aliasOf (a : BitVec 24) : Nat := a.toNat / 2 ^ 22
/-- The word's address within [21:2] (R298). -/
def baseOf (a : BitVec 24) : Nat := a.toNat % 2 ^ 22 / 4 * 4

/-- R302: normal, set, clear, toggle, on the fields of a mask. -/
def aliased (al : Nat) (mask old v : Word) : Word :=
  let keep := old &&& ~~~mask
  match al with
  | 0 => keep ||| (v &&& mask)
  | 1 => old ||| (v &&& mask)
  | 2 => old &&& ~~~(v &&& mask)
  | _ => old ^^^ (v &&& mask)

/-- The event register at an address (R321). -/
def evtAt (base : Nat) : Option Nat :=
  if 0x1010 ≤ base ∧ base ≤ 0x1018 then some ((base - 0x1010) / 4)
  else if 0x1020 ≤ base ∧ base ≤ 0x1064 then some ((base - 0x1020) / 4 + 3)
  else none

def isTile (base : Nat) : Bool := decide (0x200000 ≤ base) && decide (base < 0x240000)
def tileNo (base : Nat) : Nat := (base - 0x200000) / 0x10000
def tileOff (base : Nat) : Nat := base % 0x10000

/-- A location a tile implements (R330). -/
def tileKnown (off : Nat) : Bool :=
  off == 0 || off == 4 || (decide (0x10 ≤ off) && decide (off ≤ 0x1C)) || (decide (0x100 ≤ off) && decide (off < 0x300))
    || off == 0x400

/-- A RW/POST location: `CH_TEST` or `TILE_TEST`. -/
def tileWritable (off : Nat) : Bool := off == 0x400 || (decide (0x100 ≤ off) && decide (off < 0x300) && off % 16 == 12)

/-- Mailbox m's register at an address, as m and offset; and its buffer's. -/
def mbxReg (base : Nat) : Option (Nat × Nat) :=
  if 0x100 ≤ base ∧ base < 0x200 then some ((base - 0x100) / 0x40, (base - 0x100) % 0x40) else none
def mbxBuf (base : Nat) : Option (Nat × Nat) :=
  if 0x10000 ≤ base ∧ base < 0x12000 then some ((base - 0x10000) / 0x800, (base - 0x10000) % 0x800) else none

def isWindow (base : Nat) : Bool := decide (0x8000 ≤ base) && decide (base < 0x10000)

/-- The read-only registers outside blocks: identity, boot, mode, summary, Bell, clock, supply, violation, posted, port. -/
def roRegs : List Nat :=
  [0x0, 0x4, 0x8, 0xC, 0x10, 0x14, 0x18, 0x1000, 0x2004, 0x2008, 0x200C, 0x3000, 0x3004, 0x3008, 0x300C, 0x4000, 0x500C,
   0x5010, 0x6000, 0x7004, 0x30000, 0x30004]

/-! ### Reads -/

/-- The identity registers, which read from 5 ms after RESET (R1, R448). -/
def Device.identityWord (base : Nat) (d : Device) : Option Word :=
  match base with
  | 0x00 => some 0x554D8128#32
  | 0x04 => some 0x00000B01#32
  | 0x08 => some (Config.uid.extractLsb' 0 32)
  | 0x0C => some (Config.uid.extractLsb' 32 32)
  | 0x10 => some d.pw.fwVer
  | 0x14 => some d.pw.bootStat
  | 0x18 => some d.modeWord
  | _ => none

/-- `VIOL_INFO` (R328). -/
def Viol.info (v : Viol) : Word := at_ 16 v.count.toNat ||| at_ 8 v.opcode.toNat ||| at_ 6 v.port.toNat ||| at_ 0 v.kind.toNat

def Clock.latched (c : Clock) (p : Port) : Option Word :=
  match p with
  | .control => c.latchC
  | .fabric => c.latchF
  | .ammond => c.latchA

def Clock.latch (p : Port) (w : Word) (c : Clock) : Clock :=
  match p with
  | .control => { c with latchC := some w }
  | .fabric => { c with latchF := some w }
  | .ammond => { c with latchA := some w }

def timeHi (t : Nat) : Word := BitVec.ofNat 32 (t / 2 ^ 32)

/-- A register outside the mailboxes and the tile windows, by address, for a port. -/
def Device.plainWord (p : Port) (base : Nat) (d : Device) : Word :=
  match d.identityWord base with
  | some w => w
  | none =>
    match evtAt base with
    | some i => (d.evt i).word
    | none =>
      if isWindow base then (d.bell.shown.word (base - 0x8000)).getD 0#32
      else
        match base with
        | 0x1000 => d.evtTop
        | 0x1100 => d.regs.intMask.setWidth 32
        | 0x2000 => d.bell.ctl
        | 0x2004 => d.bell.shown.count
        | 0x2008 => timeHi d.bell.shown.time
        | 0x200C => BitVec.ofNat 32 d.bell.shown.time
        | 0x3000 => d.clk.stat
        | 0x3004 => BitVec.ofNat 32 d.clk.busTime
        | 0x3008 => (d.clk.latched p).getD (timeHi d.clk.busTime)
        | 0x300C => BitVec.ofNat 32 d.epoch
        | 0x4000 => d.pw.supStat
        | 0x5000 => bitAt 0 d.regs.lockDbg
        | 0x5004 => bitAt 0 d.regs.lockCal
        | 0x5008 => bitAt 0 d.regs.lockFw
        | 0x500C => d.regs.viol.addr.setWidth 32
        | 0x5010 => d.regs.viol.info
        | 0x6000 => d.regs.postStat p
        | 0x7000 => d.port.ctl
        | 0x7004 => d.port.stat
        | 0x30000 => (d.port.fifo.head?.map (·.1)).getD 0#32
        | 0x30004 => d.port.level
        | _ => 0#32

/-- The registers with RW fields, of the map and of the tiles. -/
def rwReg (base : Nat) : Bool :=
  [0x1100, 0x2000, 0x7000].contains base || ((mbxReg base).any fun x => x.2 == 0x0C) || (isTile base && tileWritable (tileOff base))

/-- A location that the map implements. -/
def mapped (base : Nat) : Bool :=
  rwReg base || roRegs.contains base || (evtAt base).isSome || isWindow base || (mbxReg base).isSome || (mbxBuf base).isSome
    || [0x5000, 0x5004, 0x5008].contains base || isTile base

/-- A word that fails its parity reads as it stands (R306). -/
def Device.liveWord (base : Nat) (w : Word) (d : Device) : Word :=
  if rwReg base then ((d.regs.struck.find? fun x => baseOf x.addr == base).map (·.live)).getD w else w

/-- A write of a protected word renews its parity and its shadow (R306). -/
def Device.rewritten (base : Nat) (d : Device) : Device :=
  { d with regs := { d.regs with struck := d.regs.struck.filter fun x => baseOf x.addr != base } }

/-- What reading a location does: `TIME_LO` latches, `CART_FIFO` pops (R245, R286), and an event register's SEQ has been seen (R314). -/
def Device.readEffect (p : Port) (base : Nat) (d : Device) : Device :=
  match base with
  | 0x3004 => { d with clk := d.clk.latch p (timeHi d.clk.busTime) }
  | 0x30000 => { d with port := { d.port with fifo := d.port.fifo.drop 1 } }
  | _ =>
    match evtAt base with
    | some i => { d with evts := tmod Evt.init d.evts i Evt.seen }
    | none => d

/-- R309: a read in a tile window. -/
def Device.tileRead (p : Port) (addr : BitVec 24) (d : Device) : Word × Device :=
  let t := tileNo (baseOf addr)
  let x := d.regs.post p t
  if x.busy then (0#32, d)
  else if x.valid ∧ baseOf x.readAddr = baseOf addr then
    (x.readValue, d.setPost p t fun y => { y with valid := false })
  else (0#32, d.setPost p t fun y => { y with busy := true, nack := false, addr := addr, write := false, since := d.clk.time })

/-- A mailbox register's or buffer's word (R304, R324). -/
def State.mbxWord (base : Nat) (s : State) : Option Word :=
  match mbxReg base with
  | some (m, off) =>
    match off with
    | 0x04 => some (s.mbxStat m)
    | 0x0C => some ((s.mailbox m).reqLen.setWidth 32)
    | 0x10 => some ((s.mailbox m).rspLen.setWidth 32)
    | _ => some 0#32
  | none =>
    match mbxBuf base with
    | some (m, off) =>
      let b := s.mailbox m
      let l := if off < 0x400 then tgetList 0#8 b.request off 4 else tgetList 0#8 b.response (off - 0x400) 4
      some (BitVec.ofNat 32 (ofLe l))
    | none => none

/-- A read of the map by a port: its word, and the state after it (R302, R303, R448). -/
def State.readReg (p : Port) (addr : BitVec 24) (s : State) : Word × State :=
  let base := baseOf addr
  if !s.dev.pw.booted then
    ((if s.dev.pw.idReady then (s.dev.identityWord base).getD 0#32 else 0#32), s)
  else if isTile base then
    ((s.dev.tileRead p addr).1, { s with dev := (s.dev.tileRead p addr).2 })
  else
    match s.mbxWord base with
    | some w => (s.dev.liveWord base w, s)
    | none =>
      let d := if base = 0x30000 ∨ base = 0x30004 then s.dev.pump s.dev.clk.time else s.dev
      (d.liveWord base (d.plainWord p base), { s with dev := d.readEffect p base })

/-- Keep the word a port's last read returned. -/
def State.readBy (p : Port) (addr : BitVec 24) (s : State) : State :=
  let x := s.readReg p addr
  { x.2 with dev := { x.2.dev with regs := { x.2.dev.regs with lastRead := tput 0#32 x.2.dev.regs.lastRead (portIndex p) x.1 } } }

/-! ### Writes -/

def kindReserved : BitVec 3 := 0#3
def kindLocked : BitVec 3 := 1#3
def kindPostOverrun : BitVec 3 := 2#3
def kindAlias : BitVec 3 := 3#3
def kindMode : BitVec 3 := 4#3
def kindFrame : BitVec 3 := 5#3

/-- A write ignored for want of a writable field: aliased or normal (R302, R303). -/
def Device.ignoredWrite (a : Access) (d : Device) : Device :=
  d.violate (if aliasOf a.addr = 0 then kindReserved else kindAlias) a

/-- A lock's register (R311): the lock now, and what setting it is. -/
def Device.lockWrite (held : Bool) (setIt : Device → Device) (a : Access) (d : Device) : Device :=
  if held then d.violate kindLocked a
  else if aliasOf a.addr ≠ 0 then d.violate kindAlias a
  else if a.value.getLsbD 0 then setIt d
  else d

/-- `BELL_CTL` (R316, R326): the RW fields, and RING and SNAP of a normal write. -/
def Device.bellCtlWrite (a : Access) (d : Device) : Device :=
  let al := aliasOf a.addr
  let w := aliased al 0x3F0#32 d.bell.ctl a.value
  let d := { d with bell := { d.bell with inEdge := w.getLsbD 9, inEn := w.getLsbD 8, outSrc := w.extractLsb' 4 4 } }
  let tick := d.clk.busTime + 16
  let src := (if a.value.getLsbD 0 then srcRing else 0#5) ||| (if a.value.getLsbD 1 then srcSnap else 0#5)
  if al = 0 ∧ src ≠ 0#5 then d.ringBell tick src else d

/-- `DL_CTL`'s RW fields. -/
def dlMask : Word := 0x1FF3#32

/-- `DL_CTL` (R452): while `LOCK_DBG` is set, a 1 in FORCE is ignored and logged. [log 44 DEDUCED, 45 DEDUCED, 87 DEDUCED] -/
def Device.dlCtlWrite (a : Access) (d : Device) : Device :=
  let al := aliasOf a.addr
  let old := d.port.ctl
  if d.regs.lockDbg && a.value.getLsbD 12 then
    (d.dlWrite (aliased al (dlMask &&& ~~~0x1000#32) old a.value)).violate kindLocked a
  else d.dlWrite (aliased al dlMask old a.value)

/-- A write in a tile window (R303, R308, R310). [log 42 DEDUCED] -/
def Device.tileWrite (a : Access) (d : Device) : Device :=
  let off := tileOff (baseOf a.addr)
  let t := tileNo (baseOf a.addr)
  if !(tileWritable off) then
    d.violate (if aliasOf a.addr ≠ 0 ∧ tileKnown off then kindAlias else kindReserved) a
  else if d.regs.lockDbg then d.violate kindLocked a
  else if d.pw.mode ≠ .maintain then d.violate kindMode a
  else if (d.regs.post a.port t).busy then d.violate kindPostOverrun a
  else d.setPost a.port t fun y => { y with busy := true, nack := false, addr := a.addr, value := a.value, write := true, since := d.clk.time }

/-- A write of a register of the device outside the mailboxes. -/
def Device.writeWord (a : Access) (d : Device) : Device :=
  let base := baseOf a.addr
  let al := aliasOf a.addr
  match evtAt base with
  | some i =>
    if al ≠ 0 then d.violate kindAlias a
    else { d with evts := tmod Evt.init d.evts i (Evt.clear a.value) }
  | none =>
    if isTile base then d.tileWrite a
    else
      match base with
      | 0x1100 =>
        { d with regs := { d.regs with intMask := (aliased al 0x1FFF#32 (d.regs.intMask.setWidth 32) a.value).setWidth 13 } }.rewritten base
      | 0x2000 => (d.bellCtlWrite a).rewritten base
      | 0x5000 => d.lockWrite d.regs.lockDbg (fun d => { d with regs := { d.regs with lockDbg := true } }.actJtag) a
      | 0x5004 => d.lockWrite d.regs.lockCal (fun d => { d with regs := { d.regs with lockCal := true } }) a
      | 0x5008 => d.lockWrite d.regs.lockFw (fun d => { d with regs := { d.regs with lockFw := true } }) a
      | 0x7000 => (d.dlCtlWrite a).rewritten base
      | _ =>
        if roRegs.contains base || (isWindow base && (Snapshot.zero.word (base - 0x8000)).isSome) then d.ignoredWrite a
        else d.violate kindReserved a

/-- The firmware answers a request with an unknown code as soon as it takes it: when it serves, and in its turn (R333, R336). -/
def State.answerUnknown (m : Nat) (s : State) : State :=
  let r := s.rawMailbox m
  if (s.mailbox m).reqBusy && s.dev.serves && s.oldest m && (cmdModes r.code).isNone then
    s.execute (fun _ d => refuse stBadCommand d) r
  else s

/-- `MBX_DOORBELL` (R324, R334). -/
def State.doorbell (m : Nat) (s : State) : State :=
  let b := s.mailbox m
  if b.reqBusy || b.rspValid then s.overrun m
  else
    let x := s.dev.arrive m
    let s := { s with dev := x.2 }.setMailbox m fun b => { b with reqBusy := true, taken := false, arrived := x.1, epoch := s.dev.epoch }
    { s with dev := { s.dev with cnt := { s.dev.cnt with mbxAccepted := tbump s.dev.cnt.mbxAccepted m } } }

/-- A write of a mailbox register (R324). -/
def State.mbxRegWrite (m off : Nat) (a : Access) (s : State) : State :=
  let al := aliasOf a.addr
  match off with
  | 0x00 =>
    if al ≠ 0 then { s with dev := s.dev.violate kindAlias a }
    else if a.value.getLsbD 0 then s.setMailbox m Mailbox.release
    else s
  | 0x04 => { s with dev := s.dev.ignoredWrite a }
  | 0x08 => if al ≠ 0 then { s with dev := s.dev.violate kindAlias a } else s.doorbell m
  | 0x0C => { s with dev := s.dev.rewritten (baseOf a.addr) }.setMailbox m fun b => { b with reqLen := (aliased al 0x7FF#32 (b.reqLen.setWidth 32) a.value).setWidth 11 }
  | 0x10 => { s with dev := s.dev.ignoredWrite a }
  | _ => { s with dev := s.dev.violate kindReserved a }

/-- A write of a mailbox buffer (R304). [log 43 DEDUCED] -/
def State.mbxBufWrite (m off : Nat) (a : Access) (s : State) : State :=
  if aliasOf a.addr ≠ 0 then { s with dev := s.dev.violate kindAlias a }
  else if 0x400 ≤ off then { s with dev := s.dev.violate kindReserved a }
  else if (s.mailbox m).reqBusy then s.overrun m
  else s.setMailbox m fun b => { b with request := tputList 0#8 b.request off (leWord a.value) }

/-- A write of the map (R302, R303); until boot ends it is ignored (R448), and so is one with an opcode that does not write (R297). -/
def State.write (a : Access) (s : State) : State :=
  let a := { a with addr := a.addr &&& 0xFFFFFC#24 }
  if !s.dev.pw.booted || !a.wf then s
  else
    match mbxReg (baseOf a.addr) with
    | some (m, off) => s.mbxRegWrite m off a
    | none =>
      match mbxBuf (baseOf a.addr) with
      | some (m, off) => s.mbxBufWrite m off a
      | none => { s with dev := s.dev.writeWord a }

/-- A mailbox that a write rings while it is idle. -/
def State.rings (a : Access) (s : State) : Option Nat :=
  match mbxReg (baseOf a.addr) with
  | some (m, off) =>
    if off = 8 ∧ aliasOf a.addr = 0 ∧ a.wf ∧ s.dev.pw.booted ∧ !((s.mailbox m).reqBusy || (s.mailbox m).rspValid) then some m else none
  | none => none

/-- One write of the map, and what the firmware answers of itself. [log 43 DEDUCED] -/
def State.writeReg (a : Access) (s : State) : State :=
  match s.rings a with
  | some m => (s.write a).answerUnknown m
  | none => s.write a

/-- Writes that follow one another in a frame of the control port: the firmware looks at the mailboxes when the frame has ended. [log 248 DESIGN CHOICE] -/
def State.writes (l : List Access) (s : State) : State :=
  if l = [] then s else forNat 4 State.answerUnknown (forList l State.write s)

/-- R298, R300: the whole words of a write frame take effect in order. -/
def State.writeFrame (clocks : List (BitVec 4)) (s : State) : State := s.writes (cpWrites clocks)

/-- R298, R299: the whole words of a read frame, which `CP_IO` shifts out one after another. -/
def State.readFrame (clocks : List (BitVec 4)) (s : State) : State :=
  let s := { s with dev := { s.dev with regs := { s.dev.regs with shifted := [] } } }
  forList (cpReadFrom clocks) (fun a s =>
    let w := (s.readReg .control a).1
    let s := s.readBy .control a
    { s with dev := { s.dev with regs := { s.dev.regs with shifted := s.dev.regs.shifted ++ [w] } } }) s

/-- R305: the order of the ports. -/
def portRank : Port → Nat
  | .control => 0
  | .fabric => 1
  | .ammond => 2

/-- R305: the accesses of one BUS cycle that are served in it: of those to one register, the first port's. -/
def servedNow (l : List Access) : List Access :=
  l.filter fun a => !(l.any fun b => baseOf b.addr == baseOf a.addr && decide (portRank b.port < portRank a.port))

/-- R305: accesses that come in one BUS cycle, one to a register in a cycle; each that is not served waits a cycle. `n` bounds the cycles. A write's field holds what is written, whatever the hardware has made of it before in the cycle. -/
def State.serve : Nat → List Access → State → State
  | 0, _, s => s
  | n + 1, l, s =>
    let now := servedNow l
    let later := l.filter fun a => !(now.contains a)
    let s := forList now State.write s
    if later = [] then s else State.serve n later { s with dev := s.dev.tickTo (s.dev.clk.busTime + 16) }
/-! ### The commands that are one access -/

/-- A write row of the table runs when its address is one the row speaks of. -/
def writeRow (ok : Nat → Bool) (a : Access) (s : State) : Host.Outcome State Fault Refusal :=
  if ok (baseOf a.addr) then .next (s.writeReg a) else .next s

/-- A frame that is logged (R301) is a command of its own, and writes there. -/
def execRegisterWrite (w : WriteIn) (s : State) : Host.Outcome State Fault Refusal :=
  match w with
  | .one a => .next (s.writeReg a)
  | .frame clocks => if cpBad clocks then .next s else .next (s.writeFrame clocks)
  | .together l => .next (forNat 4 State.answerUnknown (State.serve 3 l s))

def execEventClear (a : Access) (s : State) : Host.Outcome State Fault Refusal :=
  writeRow (fun b => (evtAt b).isSome) a s

def execMbxRequestWrite (a : Access) (s : State) : Host.Outcome State Fault Refusal :=
  writeRow (fun b => (mbxBuf b).any fun x => decide (x.2 < 0x400)) a s

def execMbxDoorbell (a : Access) (s : State) : Host.Outcome State Fault Refusal :=
  writeRow (fun b => (mbxReg b).any fun x => x.2 == 8) a s

def execRspDone (a : Access) (s : State) : Host.Outcome State Fault Refusal :=
  writeRow (fun b => (mbxReg b).any fun x => x.2 == 0) a s

def execBellRing (a : Access) (s : State) : Host.Outcome State Fault Refusal := writeRow (· == 0x2000) a s

def execBellSnap (a : Access) (s : State) : Host.Outcome State Fault Refusal :=
  if a.value.getLsbD 1 then writeRow (· == 0x2000) a s else .next s

def execLockSet (a : Access) (s : State) : Host.Outcome State Fault Refusal :=
  writeRow (fun b => [0x5000, 0x5004, 0x5008].contains b) a s

def execDlForce (a : Access) (s : State) : Host.Outcome State Fault Refusal :=
  if a.value.getLsbD 12 then writeRow (· == 0x7000) a s else .next s

def execDlEnable (a : Access) (s : State) : Host.Outcome State Fault Refusal := writeRow (· == 0x7000) a s

def execDlDisable (a : Access) (s : State) : Host.Outcome State Fault Refusal :=
  if (aliased (aliasOf a.addr) dlMask s.dev.port.ctl a.value).getLsbD 0 then .next s else writeRow (· == 0x7000) a s

/-- R245: before boot ends nothing is popped (R448). -/
def execCartFifoPop (r : RegRead) (s : State) : Host.Outcome State Fault Refusal :=
  match r with
  | .one port => .next (s.readBy port 0x030000#24)
  | .frame clocks => if (cpReadFrom clocks).any fun a => baseOf a == 0x030000 then .next (s.readFrame clocks) else .next s

def execTimeLoRead (r : RegRead) (s : State) : Host.Outcome State Fault Refusal :=
  match r with
  | .one port => .next (s.readBy port 0x003004#24)
  | .frame clocks => if (cpReadFrom clocks).any fun a => baseOf a == 0x003004 then .next (s.readFrame clocks) else .next s

def execPostedWrite (a : Access) (s : State) : Host.Outcome State Fault Refusal := writeRow isTile a s

def execPostedRead (port : Port) (addr : BitVec 24) (s : State) : Host.Outcome State Fault Refusal :=
  if isTile (baseOf addr) then .next (s.readBy port addr) else .next s

/-- The value of an implemented tile register (R330). -/
def Device.tileWord (t off : Nat) (d : Device) : Word :=
  let x := d.tile t
  match off with
  | 0x000 => 0x0B00#32 ||| at_ 0 t
  | 0x004 => bitAt 0 x.linkUp ||| bitAt 1 x.trimLoaded ||| bitAt 2 x.tempValid ||| at_ 8 x.linkCrc.toNat
  | 0x400 => bitAt 0 x.test
  | _ =>
    if off < 0x100 then BitVec.ofNat 32 ((x.temps.getD ((off - 0x10) / 4) 0) % 65536).toNat
    else
      let n := 32 * t + (off - 0x100) / 16
      let c := d.chan n
      match off % 16 with
      | 0 => at_ 0 (c.pinSP % 1024) ||| at_ 16 (c.pinSN % 1024)
      | 4 => bitAt 0 (d.joinsPin n .SP) ||| bitAt 1 (d.joinsPin n .SN)
          ||| bitAt 2 c.calClosed ||| bitAt 3 c.calClosed
          ||| bitAt 4 c.ovlLow ||| bitAt 5 c.ovlHigh ||| bitAt 6 (d.group (n / 4)).limit
      | 8 => c.ovlCount
      | _ => c.test.setWidth 32

/-- A posted write reaches `CH_TEST` or `TILE_TEST`. -/
def Device.tileApply (t : Nat) (x : Posted) (d : Device) : Device :=
  let off := tileOff (baseOf x.addr)
  let w := aliased (aliasOf x.addr) (if off = 0x400 then 1#32 else 0xF#32) (d.tileWord t off) x.value
  let d := d.rewritten (baseOf x.addr)
  if off = 0x400 then d.setTile t fun y => { y with test := w.getLsbD 0 }
  else d.setChan (32 * t + (off - 0x100) / 16) fun c => { c with test := w.setWidth 4 }

/-- R309: the posted access ends; a location the tile does not implement is not acknowledged. -/
def Device.postDone (p : Port) (t : Nat) (d : Device) : Device :=
  let x := d.regs.post p t
  let off := tileOff (baseOf x.addr)
  if !x.busy then d
  else if !(tileKnown off) then d.setPost p t fun y => { y with busy := false, nack := true }
  else if x.write then (d.tileApply t x).setPost p t fun y => { y with busy := false }
  else
    let w := d.tileWord t off
    d.setPost p t fun y => { y with busy := false, valid := true, readAddr := x.addr, readValue := w }

/-- Ticks after which a posted access that the tile link has not answered ends (R309). -/
def nackTicks : Nat := 12288

/-- The tile link answers, within its time. -/
def execPostedAccessDone (port : Port) (tile : Fin 4) (s : State) : Host.Outcome State Fault Refusal :=
  if s.dev.clk.time < (s.dev.regs.post port tile.val).since + nackTicks then onDev (Device.postDone port tile.val) s else .next s

/-- The tile link has not answered within 12,288 ticks. -/
def execPostedAccessNack (port : Port) (tile : Fin 4) (s : State) : Host.Outcome State Fault Refusal :=
  let x := s.dev.regs.post port tile.val
  if x.busy && s.dev.clk.reaches (x.since + nackTicks) then
    onDev (fun d => (d.tickTo (x.since + nackTicks)).setPost port tile.val fun y => { y with busy := false, nack := true }) s
  else .next s

/-- R301: a frame with an unknown opcode, or a write word cut short, whose whole words stand (R300); until boot ends nothing is logged (R448). [log 182 DESIGN CHOICE] -/
def execBadFrame (opcode rest : List (BitVec 4)) (s : State) : Host.Outcome State Fault Refusal :=
  let clocks := opcode ++ rest
  if s.dev.pw.booted && cpBad clocks then
    let s := s.writeFrame clocks
    .next { s with dev := s.dev.violate kindFrame ⟨.control, cpOp clocks, cpAddr clocks, 0#32⟩ }
  else .next s

/-! ### The mailbox events of the firmware -/

/-- R337: the session's oldest completion is placed in its idle mailbox, or sent as a message. -/
def State.placeCompletion (id : Nat) (s : State) : State :=
  match s.dev.session? id with
  | none => s
  | some x =>
    match x.queue with
    | [] => s
    | c :: q =>
      let bytes := s.dev.completionBytes c
      let took := s.dev.setSession id fun y => { y with queue := q }
      if x.transport = 0 then
        let b := s.mailbox x.mbx
        if b.reqBusy || b.rspValid then s
        else { s.setMailbox x.mbx (Mailbox.place bytes) with dev := took.raise evMbx (ebit 8) }
      else if s.dev.canMessage x.via then { s with dev := took.sendMessage x.via bytes }
      else s

def execCompletionPlace (session : Fin 17) (s : State) : Host.Outcome State Fault Refusal :=
  if s.dev.pw.booted && !s.dev.work.lockstep then .next (s.placeCompletion session.val) else .next s

end Sys2Proof.Machine
end

