-- ==== Sys2Proof/Machine/FabricData.lean ====
section
/-! DEFINITION. Traffic of the Commons: control frames on their way, remote registers, forwarded requests, reserved routes and the carts on them (R384 to R389, R369, R370). -/

namespace Sys2Proof.Machine

/-! ### Control frames for other devices (R384) -/

/-- A frame leaves by a port on its way. -/
def Device.passOn (frame : List Byte) (k : Nat) (d : Device) : Device :=
  (d.countPort k fcTx).send (.forwarded k (frameOn frame))

/-- The next hop for a frame that came by a port: after a down hop only down hops are legal. -/
def Fabric.onward (f : Fabric) (arrival dest : Nat) : Option Nat :=
  let from_ := (linksFrom f.links f.address).find? (·.1 == arrival)
  let mayUp := match from_ with
    | some (_, x, _) => goesUp f.devs x f.address
    | none => true
  (firstHop f.devs f.links (distances f.devs f.links dest) mayUp f.address).map (·.1)

/-- What a set without a Bellringer, or a device that is not admitted, forwards is HELLO, BEACON and DELAY only, and these go no further than the neighbour (R380, R381). -/
def Device.forwardFrame (port : Nat) (frame : List Byte) (d : Device) : Device :=
  let f := frameHdr frame
  let d := d.countPort port fcRx
  if !d.fab.admitted ∨ d.fab.address = 0 then d.countPort port fcDropped
  else if f.dest = 0xFFF then
    forList ((treePorts d.fab.devs d.fab.links d.fab.address).filter (· != port)) (Device.passOn frame) d
  else
    match d.fab.onward port f.dest with
    | some k => d.passOn frame k
    | none => d.countPort port fcDropped

def execControlFrameForward (port : Fin 4) (frame : List Byte) (s : State) : Host.Outcome State Fault Refusal :=
  let f := frameHdr frame
  if (s.dev.fport port.val).up && frameSound frame && decide (f.vc ≤ 1) && f.dest != 0 && f.dest != s.dev.fab.address then
    onDev (Device.forwardFrame port.val frame) s
  else .next s

/-! ### Remote registers (R385) -/

/-- [log 88 DEDUCED, 123 DESIGN CHOICE, 144 DEDUCED] -/
def execRemoteRegisterAccess (src : Nat) (write : Bool) (addr : BitVec 24) (value : Word) (s : State) :
    Host.Outcome State Fault Refusal :=
  if s.dev.fab.address = 0 then .next s
  else if !(s.dev.fw.sessions.any fun x => x.transport == 2 && x.peer == src) then onDev (fun d => d.countAt fcDropped (d.fab.arrival src)) s
  else if write then
    let s := s.writeReg ⟨.fabric, 0#8, addr, value⟩
    .next { s with dev := s.dev.send (.register src 0#32) }
  else
    let x := s.readReg .fabric addr
    let s := s.readBy .fabric addr
    .next { s with dev := s.dev.send (.register src x.1) }

/-! ### Status, policy and routes (R369) -/

/-- [log 132 DEDUCED] -/
def fabricStatus : Handler := sizedTo 0 fun _ d =>
  let f := d.fab
  let ports := (List.range 4).foldl (fun n k => n + (if (d.fport k).up then 2 ^ k else 0)) 0
  let off : F64 := if f.isBellringer ∨ !f.hasKey then 0#64 else F64.ofScaled f.offset512 (-9)
  (some (Ans.ok (leBytes 2 f.address ++ leBytes 2 f.bellringer ++ leBytes 8 (if f.hasKey then f.brUid.toNat else 0)
    ++ leBytes 2 f.members.length ++ byteOf f.level ++ byteOf ports ++ leBytes 2 fabVersion ++ zeros 2 ++ leF64 off)), d)

def fabricPolicy : Handler := sizedTo 4 fun r d =>
  let f := u8 r.body 0
  let c := u8 r.body 1
  let e := u8 r.body 3
  require (decide (f ≤ 7) && (!hasBit f 0 || decide (c ≤ 1)) && (!hasBit f 2 || decide (e ≤ 15))) stBadField d <|
  let old := d.fab.newPolicy.getD (none, none, none)
  let new := (if hasBit f 0 then some (c == 1) else old.1, if hasBit f 1 then some (u8 r.body 2) else old.2.1,
    if hasBit f 2 then some (BitVec.ofNat 4 e) else old.2.2)
  (some (Ans.ok []), { d with fab := { d.fab with newPolicy := some new } })

def hopBytes (h : Hop) : List Byte := leBytes 2 h.addr ++ byteOf h.port ++ zeros 1

def routeAnswer (pri bak : List Hop) (reserved : Nat) : Ans :=
  Ans.ok (leBytes 2 pri.length ++ leBytes 2 bak.length ++ leBytes 8 reserved ++ pri.flatMap hopBytes ++ bak.flatMap hopBytes)

def fabricRouteQuery : Handler := sizedTo 4 fun r d =>
  let dest := if u16 r.body 0 = 0xFFF then d.fab.bellringer else u16 r.body 0
  let stream := u16 r.body 2
  require (decide (u16 r.body 0 ≤ 0xFFF)) stBadField d <|
  if d.fab.address = 0 ∨ dest = 0 then refuse stFabUnreachable d
  else if stream = 0xFFFF then
    match d.fab.route dest with
    | some l => (some (routeAnswer l [] 0), d)
    | none => refuse stFabUnreachable d
  else
    match d.fab.routes.find? fun x => x.stream == stream && x.dest == dest with
    | some x => (some (routeAnswer x.ans.primary x.ans.backup (x.num / x.den)), d)
    | none => refuse stFabUnreachable d

/-! ### Forwarded requests (R370) -/

def padWord (l : List Byte) : List Byte := l ++ zeros ((4 - l.length % 4) % 4)

/-- R370: how long a forwarded request waits for its answer. -/
def forwardWait : Nat := 60000000

def fabricForward : Handler := fun r d =>
  let a := u16 r.body 0
  let n := u16 r.body 4
  let inner := r.body.drop 4
  require (decide (20 ≤ r.body.length) && decide (n ≤ 988) && r.body.length == 20 + n) stBadLength d <|
  require (decide (1 ≤ a) && decide (a ≤ 0xFFE) && u16 r.body 2 == 0) stBadField d <|
  acceptLong r d fun d =>
    if d.reaches a && (d.fab.route a).isSome then
      { d with fab := { d.fab with forwards := d.fab.forwards ++ [(⟨a, BitVec.ofNat 32 (u32 inner 4), r.waiter, d.clk.time + forwardWait⟩ : Forward)] } }.send
        (.message a (padWord inner))
    else d.complete r.waiter stFabUnreachable []

/-- The first forwarded request of a partner and tag. [log 143 DEDUCED] -/
def Device.takeForward (peer : Nat) (tag : Word) (d : Device) : Option (Forward × Device) :=
  (d.fab.forwards.find? fun f => f.peer == peer && f.tag == tag).map fun f =>
    (f, { d with fab := { d.fab with forwards := d.fab.forwards.erase f } })

/-- A partner's response (R332): the completion carries its header and payload unchanged; one that comes after 20 ms is too late (R370). [log 143 DEDUCED] -/
def execFabricMessageResponse (peer : Nat) (bytes : List Byte) (s : State) : Host.Outcome State Fault Refusal :=
  match (s.dev.takeForward peer (BitVec.ofNat 32 (u32 bytes 4))).filter fun x => decide (s.dev.clk.time ≤ x.1.ends) with
  | some (f, d) => .next { s with dev := (d.ctlRx peer).complete f.waiter stOk (bytes.take (16 + u16 bytes 0)) }
  | none => if s.dev.fab.address = 0 then .next s else onDev (Device.ctlRx peer) s

/-- No answer has come 20 ms after the request left (R370). -/
def execFabricForwardTimeout (peer : Nat) (tag : Word) (s : State) : Host.Outcome State Fault Refusal :=
  match s.dev.takeForward peer tag with
  | some (f, d) =>
    if s.dev.clk.reaches f.ends then .next { s with dev := (d.tickTo f.ends).complete f.waiter stFabTimeout [] } else .next s
  | none => .next s

/-! ### Reservations at the Bellringer (R386, R387) -/

/-- FABRIC_LINK. -/
def linkLimit : Frac := Frac.mk' ((60 * 2 * 24000000000 * 64 * 16383 : Nat) : Int) (100 * 66 * 16384)

/-- The sum of the streams whose primary or backup route crosses a link direction. [log 141 DEDUCED] -/
def linkSum (rs : List Reservation) (h : Hop) : Frac :=
  Frac.sum ((rs.filter fun r => r.ans.primary.contains h || r.ans.backup.contains h).map fun r => rateFrac r.num r.den)

/-- A reservation counts for a commit that takes effect in an epoch unless it is released by then. -/
def Reservation.stands (effect : Nat) (r : Reservation) : Bool :=
  match r.gone with
  | some (_, some e) => decide (effect < e)
  | _ => true

/-- A frame's stream is removed or changed: what is reserved for it is released at the commit's boundary (R387). -/
def Reservation.release (src stream key effect : Nat) (r : Reservation) : Reservation :=
  if r.src = src ∧ r.stream = stream ∧ r.key ≠ key ∧ r.gone = none then { r with gone := some (key, some effect) } else r

/-- What a frame asked is cancelled: its reservations leave the table, and what it would have released stays (R387). -/
def cancelKey (src key : Nat) (rs : List Reservation) : List Reservation :=
  (rs.filter fun r => !(r.src == src && r.key == key)).map fun r =>
    if r.src = src ∧ (r.gone.any fun g => g.1 == key) then { r with gone := none } else r

/-- The epoch in which what a frame asked takes effect is another, or not known (R397). -/
def dueKey (src key : Nat) (effect : Option Nat) (rs : List Reservation) : List Reservation :=
  rs.map fun r => if r.src = src ∧ (r.gone.any fun g => g.1 == key) then { r with gone := some (key, effect) } else r

/-- What the table becomes: the frame's streams are released at its boundary, and those with a demand enter it on new routes; none when a destination cannot be reached. -/
def newTable (links : List FabLink) (src key effect : Nat) : Nat → List ReserveItem → List Reservation → Option (Nat × List Reservation)
  | id, [], rs => some (id, rs)
  | id, x :: l, rs =>
    let rs := rs.map (Reservation.release src x.stream key effect)
    if x.num = 0 then newTable links src key effect id l rs
    else
      match routesFor links x.stream id src x.dest with
      | none => none
      | some a => newTable links src key effect (id + 1) l (rs ++ [⟨src, x.stream, x.dest, x.num, x.den, a, key, none, []⟩])

/-- Link directions in increasing address·4 + port. -/
def hopInsert (h : Hop) : List Hop → List Hop
  | [] => [h]
  | g :: l => if h = g then g :: l else if 4 * h.addr + h.port < 4 * g.addr + g.port then h :: g :: l else g :: hopInsert h l

/-- The first destination whose LANE sum fails. -/
def laneFails (lanes : List LaneSum) (items : List ReserveItem) : Option ReserveReply :=
  lanes.findSome? fun x =>
    let add := Frac.sum ((items.filter fun i => i.dest == x.dest).map fun i => rateFrac i.num i.den)
    let sum := Frac.add (rateFrac x.num x.den) add
    if Frac.le sum (laneLimit x.lanes) then none else some (.laneFull x.dest (F64.ofFrac (laneLimit x.lanes)) (F64.ofFrac sum))

/-- The first link whose FABRIC_LINK sum fails. [log 140 DEDUCED] -/
def linkFails (rs : List Reservation) : Option ReserveReply :=
  ((rs.flatMap fun r => r.ans.primary ++ r.ans.backup).foldl (fun l h => hopInsert h l) []).findSome? fun h =>
    let sum := linkSum rs h
    if Frac.le sum linkLimit then none else some (.linkFull (4 * h.addr + h.port) (F64.ofFrac linkLimit) (F64.ofFrac sum))

/-- The Bellringer's answer to a question of routes, and its table after it: a reservation counts from its answer on, and one that is released at a boundary counts until it. -/
def Fabric.reserve (src key effect : Nat) (items : List ReserveItem) (lanes : List LaneSum) (f : Fabric) : ReserveReply × Fabric :=
  match newTable f.links src key effect f.nextRoute items (cancelKey src key f.reservations) with
  | none => (.noMember, f)
  | some (id, rs) =>
    match (laneFails lanes items).orElse fun _ => linkFails (rs.filter (Reservation.stands effect)) with
    | some e => (e, f)
    | none => (.routes ((rs.filter fun r => r.src == src && r.key == key).map (·.ans)), { f with reservations := rs, nextRoute := id })

/-- The table of reservations changes: the devices at which other streams end than before are told, again every epoch until they acknowledge it (R377, R386). -/
def Device.setReservations (rs : List Reservation) (d : Device) : Device :=
  let old := d.fab.reservations
  let news := (((old ++ rs).map (·.dest)).eraseDups).filter fun a => a != d.fab.address && decide (endingAt a old ≠ endingAt a rs)
  let stale (x : OutFrame) : Bool := match x with
    | .reserveReply a (.ending _) => news.contains a
    | _ => false
  let d := { d with fab := { d.fab with reservations := rs, telling := d.fab.telling.filter fun x => !(stale x) } }
  forList news (fun a d => d.tell (.reserveReply a (.ending (endingAt a rs)))) d

/-! ### Routes at the source (R387, R388) -/

/-- The routes of a stream's new answer come into use at the next boundary. -/
def Route.offer (rs : List RouteAns) (x : Route) : Route :=
  match rs.find? (·.stream == x.stream) with
  | some a => { x with next := some a }
  | none => x

/-- The stream moves to its backup route, and what is not acknowledged is sent again. -/
def Device.toBackup (x : Route) (d : Device) : Device :=
  let a := { x.ans with primary := x.ans.backup, backup := [] }
  let y := { x with ans := a, lost := if x.lost = [] then x.ans.primary else x.lost }
  let d := { d with fab := { d.fab with routes := d.fab.routes.map fun z => if z.stream = x.stream then y else z } }
  forList x.kept (fun c d => d.sendCart x.dest a c.2) d

/-- A link direction has failed: streams on it move, and backups that crossed it are gone. -/
def Device.routeFailed (h : Hop) (d : Device) : Device :=
  let back := bothWays d.fab.links [h]
  let hit (l : List Hop) : Bool := l.any back.contains
  let moved := d.fab.routes.filter fun x => hit x.ans.primary && !x.ans.backup.isEmpty && !(hit x.ans.backup)
  let drop (x : Route) : Route := if hit x.ans.backup then { x with ans := { x.ans with backup := [] } } else x
  let d := { d with fab := { d.fab with routes := d.fab.routes.map drop } }
  let d := forList moved Device.toBackup d
  if moved = [] then d else d.raise evFab (ebit fabRoute)

def execRouteFailure (addr port : Nat) (s : State) : Host.Outcome State Fault Refusal :=
  if s.dev.fab.address = 0 then .next s else onDev (fun d => (d.ctlRx addr).routeFailed ⟨addr, port⟩) s

/-- A port goes down: this device's own streams move, and the sources of those that pass by it are told (R388). -/
def Device.portLost (k : Nat) (d : Device) : Device :=
  if !(d.fport k).up then d
  else
    let a := d.fab.address
    let told := ((d.fab.transit.filter fun x => x.2.2 == k).map (·.1)).eraseDups
    let d := if a = 0 then d else d.routeFailed ⟨a, k⟩
    let d := d.portDown k
    let d := { d with fab := { d.fab with transit := d.fab.transit.filter fun x => x.2.2 != k } }
    let d := forList told (fun src d => d.send (.route src a k)) d
    if told = [] then d else d.raise evFab (ebit fabRoute)

def execFabricPortDown (port : Fin 4) (s : State) : Host.Outcome State Fault Refusal :=
  onDev (Device.portLost port.val) s

/-- The carts a destination has acknowledged are no longer kept. -/
def Route.ack (seq : Word) (x : Route) : Route :=
  { x with acked := some seq, kept := x.kept.filter fun c => seqLater c.2.seq seq }

def execStreamAck (src stream : Nat) (seq : Word) (s : State) : Host.Outcome State Fault Refusal :=
  if s.dev.fab.routes.any fun x => x.stream == stream && x.dest == src then
    onDev (fun d =>
      let d := d.ctlRx src
      { d with fab := { d.fab with routes := d.fab.routes.map fun x => if x.stream = stream then x.ack seq else x } }) s
  else .next s

/-- R388, after a change of topology: a reservation whose primary stands gets a new backup; where the primary is down the backup serves as the primary, until the link is back and the stream moves to a newly computed primary; one without a route left waits for any. -/
def Reservation.renew (links : List FabLink) (r : Reservation) : Reservation :=
  let back (p : List Hop) : List Hop := (bestPath links (bothWays links p) r.src r.dest).getD []
  let away := if r.lost = [] then r.ans.primary else r.lost
  let fresh (lost : List Hop) : Reservation := match routesFor links r.stream r.ans.routeId r.src r.dest with
    | some a => { r with ans := a, lost := lost }
    | none => r
  if r.lost ≠ [] ∧ pathUp links r.dest r.lost then fresh []
  else if pathUp links r.dest r.ans.primary then { r with ans := { r.ans with backup := back r.ans.primary } }
  else if r.ans.backup ≠ [] ∧ pathUp links r.dest r.ans.backup then
    { r with ans := { r.ans with primary := r.ans.backup, backup := back r.ans.backup }, lost := away }
  else fresh away

/-- The Bellringer looks for routes after a change of topology, and tells the sources in ROUTE frames (R376). -/
def Device.reroute (d : Device) : Device :=
  if !d.fab.topoNew then d
  else
    let d := { d with fab := { d.fab with topoNew := false } }
    if !d.fab.isBellringer then d
    else
      let fresh := d.fab.reservations.map (Reservation.renew d.fab.links)
      let changed := fresh.filter fun r => !(d.fab.reservations.contains r)
      let own := (changed.filter fun r => r.src == d.fab.address).map (·.ans)
      let d := { d with fab := { d.fab with reservations := fresh, routes := d.fab.routes.map (Route.offer own) } }
      forList ((changed.map (·.src)).eraseDups.filter (· != d.fab.address)) (fun a d =>
        d.send (.routeChange a ((changed.filter fun r => r.src == a).map (·.ans)))) d

/-- A boundary moves a stream to its newly computed routes and sends on both for one epoch; carts older than two epochs are kept no longer. -/
def Route.boundary (e : Nat) (x : Route) : Route :=
  let x := { x with kept := x.kept.filter fun c => decide (e < c.1 + 2), both := none }
  match x.next with
  | some a => if a.primary = x.ans.primary then { x with ans := a, next := none }
    else { x with ans := a, next := none, lost := [], both := some (e, x.ans) }
  | none => x

def Device.routesBoundary (d : Device) : Device :=
  let moved := d.fab.routes.any fun x => x.next.any fun a => decide (a.primary ≠ x.ans.primary)
  let d := { d with fab := { d.fab with routes := d.fab.routes.map (Route.boundary d.epoch) } }
  let d := if moved then d.raise evFab (ebit fabRoute) else d
  let d := forList d.fab.received (fun x d => d.send (.streamAck (x.1 / 4096) (x.1 % 4096) (x.2.1 - 1#32))) d
  -- R387: what a commit has removed is released at its boundary; a question of the epoch before is past
  let kept : List Reservation := d.fab.reservations.filter fun r => r.gone.all fun g => g.2.all fun f => decide (d.epoch < f)
  let d : Device := if kept.length = d.fab.reservations.length then d else d.setReservations kept
  { d with fab := { d.fab with asked := [] } }.reroute

/-! ### The boundary (R377, R378, R380 to R382) -/

/-- R378: the third epoch in a row with more than 16 bad frames. -/
def Device.crcEnd (k : Nat) (d : Device) : Device :=
  let p := d.fport k
  let run := if 16 < p.crcCount then p.crcRun + 1 else 0
  let d := d.setFport k fun p => { p with crcCount := 0, crcRun := run }
  if 3 ≤ run then d.portLost k else d

/-- `fabric.policy` takes effect (R369, R380). -/
def Device.takePolicy (d : Device) : Device :=
  match d.fab.newPolicy with
  | none => d
  | some (c, q, e) =>
    let f := d.fab
    let d := { d with fab := { f with newPolicy := none, candidate := c.getD f.candidate, quality := q.getD f.quality,
                                      portEn := e.getD f.portEn } }
    forNat 4 (fun k d => if d.fab.portEn.getLsbD k then d else (d.portLost k).setFport k fun p => { p with trained := false }) d

/-- Everything the Commons does of itself at a boundary; `e` is the epoch that ends. -/
def Device.fabricBoundary (e : Nat) (d : Device) : Device :=
  let d := d.takePolicy
  let d := forNat 4 Device.crcEnd d
  let d := d.fabricTimeEnd e
  let d := d.dropSilent
  let d := d.elect.orphanTime
  (d.sendBeacons).askAddress.tellAgain

/-! ### Carts that arrive (R386, R388, R389) -/

/-- Take a SEQUENCE: whether it is new, and the entry after it. -/
def takeSeq (seq : Word) (next : Word) (later : List Word) : Bool × Word × List Word :=
  if seq = next then
    let x := later.foldl (fun (x : Word × List Word) _ => if x.2.contains x.1 then (x.1 + 1#32, x.2.erase x.1) else x) (next + 1#32, later)
    (true, x)
  else if seqLater next seq || later.contains seq then (false, next, later)
  else (true, next, later ++ [seq])

/-- A cart for this device leaves by its data port unchanged, unless it is a duplicate. -/
def Device.cartHere (c : Cart) (t : Nat) (d : Device) : Device :=
  let k := 4096 * c.source + c.stream
  let x := match d.fab.received.find? (·.1 == k) with
    | some (_, next, later) => takeSeq c.seq next later
    | none => (true, c.seq + 1#32, [])
  let d := { d with fab := { d.fab with received := (d.fab.received.filter (·.1 != k)) ++ [(k, x.2)] } }
  if !x.1 then d
  else if d.portSends c.type then { d with port := { d.port with ready := readyInsert ⟨t + deliveryMargin, c⟩ d.port.ready } }
  else { d with cnt := { d.cnt with cartsDiscarded := d.cnt.cartsDiscarded + 1#32 } }

/-- A cart on its way: it leaves by the hop its route gives this device, and stops where that link is down (R26). One whose route has no hop here is dropped, and counted at the port by which it came. [log 123 DESIGN CHOICE] -/
def Device.cartOn (c : Cart) (dest route : Nat) (hops : List Hop) (d : Device) : Device :=
  match hops.find? (·.addr == d.fab.address) with
  | none => d.countAt fcDropped (hops.findSome? d.fab.portOf)
  | some h =>
    if !(d.fport h.port).up then d.countPort h.port fcDropped
    else
    let d := (d.countPort h.port fcRes (cartFlits c)).send (.cart dest route c)
    let x := (c.source, c.stream, h.port)
    { d with fab := { d.fab with transit := (d.fab.transit.filter fun y => !(y.1 == x.1 && y.2.1 == x.2.1)) ++ [x] } }

def execFabricCart (c : Cart) (dest route : Nat) (hops : List Hop) (t : Nat) (s : State) : Host.Outcome State Fault Refusal :=
  if s.dev.fab.address = 0 then .next s
  else if dest = s.dev.fab.address then onDev (fun d => (d.tickTo t).cartHere c t) s
  else onDev (fun d => (d.tickTo t).cartOn c dest route hops) s

/-! ### The rows -/

def execFabricStatus (src : ReqSource) (s : State) : Host.Outcome State Fault Refusal := fwRow 0x0B01 fabricStatus src s
def execFabricPolicy (src : ReqSource) (s : State) : Host.Outcome State Fault Refusal := fwRow 0x0B02 fabricPolicy src s
def execFabricRouteQuery (src : ReqSource) (s : State) : Host.Outcome State Fault Refusal := fwRow 0x0B03 fabricRouteQuery src s
def execFabricForward (src : ReqSource) (s : State) : Host.Outcome State Fault Refusal := fwRow 0x0B04 fabricForward src s

end Sys2Proof.Machine
end

