-- ==== Sys2Proof/Machine/Staging.lean ====
section
/-! DEFINITION. The twelve staging commands (R345, R357): records in order, each one item, up to the first refused. -/

namespace Sys2Proof.Machine

/-- What a record answers at staging: an item, or a refusal with its report in place of the staging response (R121). -/
inductive Staged where
  | item (i : Item)
  | bad
  deriving DecidableEq, Repr

def staged (x : Option Item) : Staged :=
  match x with
  | some i => .item i
  | none => .bad

/-- Where a request stands: items now, records staged, and its end when one came: status and, for a cycle, the list. -/
structure StageRun where
  items : List Item
  count : Nat
  stop : Option (BitVec 16 × Option (List Byte))
  deriving DecidableEq, Repr

/-- Stage one record. -/
def stageOne (check : List Item → Option (BitVec 16 × Option (List Byte))) (x : Staged) (r : StageRun) : StageRun :=
  match r.stop with
  | some _ => r
  | none =>
    match x with
    | .bad => { r with stop := some (stBadField, none) }
    | .item i =>
      if !(itemsHold r.items i) && decide (itemLimit ≤ r.items.length) then { r with stop := some (stTxnLimit, none) }
      else
        let items := stageItem r.items i
        match check items with
        | some e => { r with stop := some e }
        | none => ⟨items, r.count + 1, none⟩

/-- The staging response to a run (R357). -/
def StageRun.answer (r : StageRun) : Ans :=
  match r.stop with
  | none => stagingAnswer stOk r.count r.items.length 0xFFFF
  | some (st, none) => stagingAnswer st r.count r.items.length r.count
  | some (st, some report) => ⟨st, report, none⟩

/-- Stage the records of a request in the transaction its header names. -/
def stageAll (check : Device → List Item → Option (BitVec 16 × Option (List Byte))) (xs : List Staged) : Handler := fun r d =>
  match d.openTxn r.code r.session r.txn with
  | none => (some (stagingAnswer stBadField 0 0 0xFFFF), d)
  | some t =>
    let run := xs.foldl (fun a x => stageOne (check d) x a) ⟨t.items, 0, none⟩
    (some run.answer, d.setTxn t.coord t.id fun t => { t with items := run.items })

def noCheck (_ : Device) (_ : List Item) : Option (BitVec 16 × Option (List Byte)) := none

/-- The records of a fixed size. -/
def chunks (n : Nat) : Nat → List Byte → List (List Byte)
  | 0, _ => []
  | k + 1, l => l.take n :: chunks n k (l.drop n)

/-- A staging command with fixed-size records (R357). -/
def stageFixed (size : Nat) (read : List Byte → Option Item)
    (check : Device → List Item → Option (BitVec 16 × Option (List Byte)) := noCheck) (most : Nat := 1008) : Handler := fun r d =>
  let n := r.body.length / size
  if r.body.length % size ≠ 0 ∨ n = 0 ∨ most < n then
    (some (stagingAnswer stBadLength 0 (d.itemCount r.code r.session r.txn) 0xFFFF), d)
  else stageAll check ((chunks size n r.body).map fun l => staged (read l)) r d

def chanConfig : Handler := stageFixed 12 fun l => (readChan l).map fun (n, c) => .chan n c
def chanEnable : Handler := stageFixed 4 fun l => (readEnable l).map fun (n, b) => .enable n b
def pointConfig : Handler := stageFixed 24 fun l => (readPoint l).map fun (p, c) => .point p c
def streamConfig : Handler := stageFixed 16 readStream
def regionConfig : Handler := stageFixed 24 fun l => (readRegion l).map fun (r, c) => .region r c
def tallyConfig : Handler := stageFixed 12 fun l => (readTally l).map fun (p, c) => .tally p c
def aoutConfig : Handler := stageFixed 16 fun l => (readAout l).map fun (a, c) => .aout a c
def densityConfig : Handler := stageFixed 20 fun l => (readMap l).map fun (m, c, clear) => .map m c clear
def trigConfig : Handler := stageFixed 64 fun l => (readUnit l).map fun (u, c) => .unit u c
def shepherdConfig : Handler := stageFixed 64 readShepherd

/-- R121: the graph of the configuration the transaction would produce. [log 58 DEDUCED] -/
def linCheck (d : Device) (items : List Item) : Option (BitVec 16 × Option (List Byte)) :=
  let c := applyItems items d.fw.live
  if c.tempTooLong then some (stBadField, none)
  else
    match c.tempCycle with
    | some l => some (stDependencyCycle, some (cycleReport l))
    | none => none

/-- [log 58 DEDUCED] -/
def linLoad : Handler := stageFixed 120 (fun l => (readLin l).map fun (p, c) => .lin p c) linCheck 8

/-- The items of a `mill.config` request behind their prefixes; none where a size does not match (R363). -/
def millItems : Nat → List Byte → Option (List Staged)
  | 0, _ => none
  | k + 1, l =>
    if l = [] then some []
    else
      let size := u16 l 0
      let body := (l.drop 4).take size
      if l.length < 4 + size then none
      else
        let x : Option Staged :=
          match u8 l 2 with
          | 1 => if size = 48 then some (staged ((readJob body).map fun (j, c) => .job j c)) else none
          | 2 =>
            if size < 12 then none
            else if segEntry (u8 body 2) = 0 then some .bad
            else if size = 12 + segEntry (u8 body 2) * u32 body 8 then some (staged (readSegment body))
            else none
          | _ => some .bad
        match x, millItems k (l.drop (4 + size)) with
        | some x, some xs => some ((if u8 l 3 = 0 then x else .bad) :: xs)
        | _, _ => none

def millConfig : Handler := fun r d =>
  match millItems (r.body.length + 1) r.body with
  | some (x :: xs) => stageAll noCheck (x :: xs) r d
  | _ => (some (stagingAnswer stBadLength 0 (d.itemCount r.code r.session r.txn) 0xFFFF), d)

def execChanConfig (src : ReqSource) (s : State) : Host.Outcome State Fault Refusal := fwRow 0x0301 chanConfig src s
def execChanEnable (src : ReqSource) (s : State) : Host.Outcome State Fault Refusal := fwRow 0x0303 chanEnable src s
def execPointConfig (src : ReqSource) (s : State) : Host.Outcome State Fault Refusal := fwRow 0x0401 pointConfig src s
def execLinLoad (src : ReqSource) (s : State) : Host.Outcome State Fault Refusal := fwRow 0x0501 linLoad src s
def execStreamConfig (src : ReqSource) (s : State) : Host.Outcome State Fault Refusal := fwRow 0x0601 streamConfig src s
def execRegionConfig (src : ReqSource) (s : State) : Host.Outcome State Fault Refusal := fwRow 0x0603 regionConfig src s
def execTallyConfig (src : ReqSource) (s : State) : Host.Outcome State Fault Refusal := fwRow 0x0607 tallyConfig src s
def execAoutConfig (src : ReqSource) (s : State) : Host.Outcome State Fault Refusal := fwRow 0x0608 aoutConfig src s
def execMillConfig (src : ReqSource) (s : State) : Host.Outcome State Fault Refusal := fwRow 0x0701 millConfig src s
def execDensityConfig (src : ReqSource) (s : State) : Host.Outcome State Fault Refusal := fwRow 0x0703 densityConfig src s
def execTrigConfig (src : ReqSource) (s : State) : Host.Outcome State Fault Refusal := fwRow 0x0801 trigConfig src s
def execShepherdConfig (src : ReqSource) (s : State) : Host.Outcome State Fault Refusal := fwRow 0x0906 shepherdConfig src s

end Sys2Proof.Machine
end

