-- ==== Sys2Proof/Machine/Commit.lean ====
section
/-! DEFINITION. Deciding commits: the batch of an epoch (R347 to R349), route reservations within it (R387), and fabric transactions (R395 to R398). -/

namespace Sys2Proof.Machine

/-! ### One commit of a batch (R347) -/

def Device.txn? (coord : Option Nat) (id : Nat) (d : Device) : Option Txn :=
  d.fw.txns.find? fun t => decide (t.coord = coord) && t.id == id

/-- An item touches the set of an open calibration (R266): its channels and points. [log 139 DEDUCED] -/
def Device.calTouched (l : List Item) (d : Device) : Bool :=
  match d.work.cal with
  | none => false
  | some c => l.any fun i =>
    match i.entity with
    | (0, n) => c.chans.contains n
    | (2, p) => c.points.contains p
    | _ => false

/-- An entity reserved by a prepared fabric transaction, other than the one at hand and those accepted in this step (R347, R396). -/
def Device.reservedTouched (x : Deciding) (t : Txn) (d : Device) : Bool :=
  d.fw.txns.any fun u => (u.prepared || decide (u.state = .inDoubt)) && !(decide (u.coord = t.coord) && u.id == t.id)
    && !(x.parts.contains (u.coord, u.id)) && itemsTouch u.items t.items

/-- The epoch at which a commit decided at the boundary of epoch e takes effect: e + 1, or the target of a fabric transaction. -/
def Txn.effectAt (e : Nat) (t : Txn) : Nat := if t.fabric ∨ t.coord.isSome then t.target else e + 1

/-- A participant may vote in HEARTH on its stored configuration (R23, R396). -/
def Device.decides (t : Txn) (d : Device) : Bool := d.working || (t.coord.isSome && decide (d.pw.mode = .hearth))

/-- What a configuration's FABRIC streams are: stream, destination, demand. -/
def Cfg.fabricTerms (c : Cfg) : List (Nat × Nat × Frac) :=
  c.streams.filterMap fun (s, r) => if hasBit r.dest 2 then some (s, r.fabAddr, c.demand s) else none

/-- The RESERVE frame's items: FABRIC streams added, changed and removed, and those of `left`, which have lost their destination (R383, R387). [log 142 DEDUCED] -/
def reserveItems (left : Nat → Bool) (old new : Cfg) : List ReserveItem :=
  let a := old.fabricTerms
  let b := new.fabricTerms
  ((a.filter fun x => !(b.any fun y => y.1 == x.1)).map fun x => ⟨x.1, x.2.1, 0, 1⟩)
    ++ ((b.filter fun x => !(a.contains x) || left x.1).map fun x => (⟨x.1, x.2.1, x.2.2.num.toNat, x.2.2.den⟩ : ReserveItem))

/-- The outcome of a commit's checks: a refusal, or the configuration it leads to. -/
inductive Verdict where
  | refused (r : Refused)
  | passes (c : Cfg) (routes : List ReserveItem)

/-- R347 steps 1 to 5, but for the routes. [log 59 DEDUCED] -/
def Device.judge (x : Deciding) (t : Txn) (d : Device) : Verdict :=
  let cfg := (applyItems t.items x.cfg).withStored d.gran.regions
  -- R383: a stream whose destination has left is reserved anew by a commit that names one
  let left (s : Nat) : Bool := (t.items.any fun i => i.entity == (4, s)) && d.fab.routes.any fun r => r.stream == s && !(d.fab.reached r)
  let routes := reserveItems left x.cfg cfg
  if !(d.decides t) then .refused ⟨stWrongMode, []⟩
  else if d.inWarning then .refused ⟨stDenied, []⟩
  else if d.calTouched t.items || d.reservedTouched x t then .refused ⟨stDenied, []⟩
  else if itemsTouch x.items t.items then .refused ⟨stConflict, []⟩
  else if !(routes.all fun r => r.num == 0 || d.reaches r.dest) then .refused ⟨stBadField, []⟩
  else
    match checkCfg cfg d.fw.live d.gran.regions d.pw.mode x.vref d.fab.endingSum (t.effectAt x.epoch) with
    | some r => .refused r
    | none => .passes cfg routes

/-! ### What a commit's outcome does -/

/-- The previous tag plus 1, from 0xFFFF back to 0x0001 (R348). [log 178 DEDUCED] -/
def nextTag (t : BitVec 16) : BitVec 16 := if t = 0xFFFF#16 then 1#16 else t + 1#16

def Device.setDeciding (x : Option Deciding) (d : Device) : Device := { d with fw := { d.fw with deciding := x } }

/-- A commit's answer is written at the end of the atomic step (R349). [log 55 DEDUCED] -/
def Deciding.answer (t : Txn) (st : BitVec 16) (payload : List Byte) (epoch : Nat) (x : Deciding) : Deciding :=
  match t.waiter with
  | some w => { x with answers := x.answers ++ [(w, st, payload, epoch)] }
  | none => x

/-- A refused commit's transaction stays open; a participant votes NO (R347, R396). [log 55 DEDUCED] -/
def Device.refuseCommit (t : Txn) (r : Refused) (x : Deciding) (d : Device) : Device :=
  let d := d.setTxn t.coord t.id fun t => { t with state := .open_, prepared := false, waiter := none }
  match t.coord with
  | some c => (d.send (.vote c t.id r.status)).setDeciding (some x)
  | none => d.setDeciding (some (x.answer t r.status r.report x.epoch))

/-- Votes are still to come. -/
def Txn.unvoted (t : Txn) : Txn :=
  let clear (p : Part) : Part := { p with vote := none, acked := false }
  { t with prepared := true, parts := t.parts.map clear }

/-- The reservations of a commit that is refused or aborted are cancelled (R387). -/
def Device.cancelAsk (key : Nat) (d : Device) : Device :=
  if d.fab.isBellringer then d.setReservations (cancelKey d.fab.address key d.fab.reservations)
  else d.tell (.reserve (.cancel key))

/-- The Bellringer learns when what a frame asked takes effect, or that this is in doubt (R397). -/
def Device.moveAsk (key : Nat) (effect : Option Nat) (d : Device) : Device :=
  if d.fab.isBellringer then d.setReservations (dueKey d.fab.address key effect d.fab.reservations)
  else d.tell (.reserve (.due key effect))

/-- Routes to come of a transaction. -/
def Coming.isOf (coord : Option Nat) (id : Nat) (c : Coming) : Bool := decide (c.coord = coord) && c.txn == id

def Device.dropComing (coord : Option Nat) (id : Nat) (d : Device) : Device :=
  let keys := (d.fab.coming.filter (Coming.isOf coord id)).map (·.key)
  forList keys Device.cancelAsk { d with fab := { d.fab with coming := d.fab.coming.filter fun c => !(c.isOf coord id) } }

def Device.moveComing (coord : Option Nat) (id : Nat) (effect : Option Nat) (d : Device) : Device :=
  let keys := (d.fab.coming.filter (Coming.isOf coord id)).map (·.key)
  let late (c : Coming) : Coming := match effect with
    | some e => if c.isOf coord id then { c with effect := e } else c
    | none => c
  forList keys (fun k d => d.moveAsk k effect) { d with fab := { d.fab with coming := d.fab.coming.map late } }

/-- One entry of the completion for each participant (R360). -/
def partEntries (status : Part → BitVec 16) (t : Txn) : List Byte :=
  t.parts.flatMap fun p => leBytes 2 p.addr ++ leBytes 2 (status p).toNat

/-- ABORT: the transaction stays open for a retry, unless its session has closed (R343, R398); the entry of a participant that had not voted is not stated unless it was missing or unreachable. [log 138 DEDUCED] -/
def Device.abortCommit (t : Txn) (st : BitVec 16) (missing : Part → BitVec 16) (d : Device) : Device :=
  let d := (d.announce t false false).dropComing none t.id
  let back (t : Txn) : Txn := { t with state := .open_, prepared := false, waiter := none }
  let lives := t.waiter.any fun w => (d.session? w.session).any fun y => y.serial == w.serial
  let d := if lives then d.setTxn none t.id back else d.retire { back t with state := .aborted, items := [] }
  match t.waiter with
  | some w => d.complete w st (partEntries (fun p => p.vote.getD (missing p)) t) (some t.target)
  | none => d

/-- An accepted local commit, which closes its transaction; a coordinator's accepted part, with PREPARE sent to every participant, unless one is unreachable then (R398); a participant's YES. -/
def Device.acceptCommit (t : Txn) (cfg : Cfg) (x : Deciding) (d : Device) : Device :=
  let y := { x with cfg := cfg, items := x.items ++ t.items }
  let part := { y with parts := y.parts ++ [(t.coord, t.id)] }
  match t.coord with
  | some c =>
    ((d.setTxn t.coord t.id fun t => { t with prepared := true }).send (.vote c t.id stOk)).setDeciding (some part)
  | none =>
    if t.fabric then
      let d := (t.waiter.map fun w => d.startLong w.session).getD d
      if t.parts.all fun p => d.reaches p.addr then
        ((d.setTxn none t.id Txn.unvoted).toParts t fun a => .prepare a t.id t.target).setDeciding (some (part.answer t stAccepted [] t.target))
      else
        (d.abortCommit t.unvoted stFabUnreachable fun p => if d.reaches p.addr then stFabTimeout else stFabUnreachable).setDeciding
          (some (x.answer t stAccepted [] t.target))
    else
      (d.setTxn none t.id fun t => { t with state := .accepted, effect := x.epoch + 1, tag := nextTag d.fw.committed }).setDeciding
        (some { (y.answer t stOk [] (x.epoch + 1)) with txns := y.txns ++ [t.id], taken := y.taken ++ t.items })

/-- Of the streams of a frame, those a commit removes, and the routes it installs. -/
def comingOf (devs : List FabDev) (t : Txn) (e key : Nat) (items : List ReserveItem) (rs : List RouteAns) : Coming :=
  let uid (a : Nat) : BitVec 64 := ((devOf devs a).map (·.uid)).getD 0#64
  ⟨key, t.effectAt e, t.coord, t.id, items.map (·.stream),
    items.filterMap fun i => if i.num = 0 then none else
      (rs.find? (·.stream == i.stream)).map fun a => ⟨i.stream, i.dest, i.num, i.den, a, key, uid i.dest, [], none, none, [], none⟩⟩

/-- Take the commit at the head of the queue as far as it goes: to its outcome, or to the question of its routes. -/
def Device.decideHead (x : Deciding) (key : Option Nat × Nat) (rest : List (Option Nat × Nat)) (d : Device) : Device :=
  match d.txn? key.1 key.2 with
  | none => d.setDeciding (some { x with todo := rest })
  | some t =>
    if t.state = .aborted then
      -- aborted while it waited: a later use of the id is stale (R350)
      let y := { (x.answer t stTxnStale [] x.epoch) with todo := rest }
      (d.retire { t with waiter := none }).setDeciding (some y)
    else if t.state ≠ .waiting then d.setDeciding (some { x with todo := rest })
    else
      match d.judge x t with
      | .refused r => d.refuseCommit t r { x with todo := rest }
      | .passes cfg routes =>
        if routes = [] then d.acceptCommit t cfg { x with todo := rest }
        else
          let (k, d) := d.nextAsk
          (d.send (.reserve (.ask k (t.effectAt x.epoch) routes))).setDeciding (some { x with waits := some (k, routes) })

/-- Go on until every commit is decided or one waits for its routes. -/
def Device.decideOn : Nat → Device → Device
  | 0, d => d
  | n + 1, d =>
    match d.fw.deciding with
    | none => d
    | some x =>
      match x.waits, x.todo with
      | none, k :: l => (d.decideHead x k l).decideOn n
      | _, _ => d

/-! ### The end of the atomic step (R348, R349) -/

/-- Accepted transactions are closed: the report of each session keeps its last 16 (R350). -/
def Device.recordClosed (l : List Txn) (d : Device) : Device :=
  forList l (fun t d => { d with fw := { d.fw with closed := trimClosed t.session t.coord (d.fw.closed ++ [{ t with waiter := none }]) } }) d

/-- A batch takes a tag: the configuration is live, and takes effect at the next boundary. -/
def Device.addBatch (e : Nat) (cfg : Cfg) (items : List Item) (txns : List (Option Nat × Nat)) (cal : Bool) (d : Device) : Device :=
  let tag := nextTag d.fw.committed
  let effect := e + 1
  let hit (t : Txn) : Bool := txns.any fun k => decide (k.1 = t.coord) && k.2 == t.id
  let mark (t : Txn) : Txn := if hit t then { t with state := .accepted, effect := effect, tag := tag } else t
  let y : Batch := ⟨effect, tag, cfg, txns.map (·.2), items, cal⟩
  let fw := { d.fw with committed := tag, live := cfg, txns := d.fw.txns.map mark, batches := d.fw.batches ++ [y] }
  ({ d with fw := fw } : Device).recordClosed ((d.fw.txns.filter hit).map mark)

/-- Local transactions are closed by their acceptance: they wait as ACCEPTED for their boundary. -/
def Device.endDeciding (x : Deciding) (d : Device) : Device :=
  let d := if x.txns = [] ∧ !x.join then d
    else d.addBatch x.epoch (applyItems x.taken d.fw.live) x.taken (x.txns.map fun i => (none, i)) x.join
  d.setDeciding none

/-- The answers of a batch, once it has ended. -/
def State.writeAnswers (l : List (Waiter × BitVec 16 × List Byte × Nat)) (s : State) : State :=
  (forList l (fun (w, st, payload, e) s => s.respond w.via w.session w.tag ⟨st, payload, some e⟩) s).settleMailboxes

/-- Decide what can be decided; when nothing is left the batch ends. -/
def State.decideBatch (s : State) : State :=
  let d := s.dev.decideOn (((s.dev.fw.deciding.map (·.todo.length)).getD 0) + 1)
  match d.fw.deciding with
  | none => { s with dev := d }
  | some x =>
    if x.todo = [] ∧ x.waits = none then { s with dev := d.endDeciding x }.writeAnswers x.answers else { s with dev := d }

/-- A commit's place in the batch: fabric parts first, by ticket and coordinator address; then local ones, by ticket and session. [log 136 DEDUCED] -/
def Txn.order (own : Nat) (t : Txn) : Nat × Nat × Nat :=
  if t.fabric ∨ t.coord.isSome then (0, t.ticket, t.coord.getD own) else (1, t.ticket, t.session)

/-- [log 136 DEDUCED] -/
def orderLess (a b : Nat × Nat × Nat) : Bool :=
  decide (a.1 < b.1) || (a.1 == b.1 && (decide (a.2.1 < b.2.1) || (a.2.1 == b.2.1 && decide (a.2.2 < b.2.2))))

def insertTxn (own : Nat) (t : Txn) : List Txn → List Txn
  | [] => [t]
  | u :: l => if orderLess (t.order own) (u.order own) then t :: u :: l else u :: insertTxn own t l

/-- The batch of the epoch that has ended, in its order. -/
def Device.batchKeys (d : Device) : List (Option Nat × Nat) :=
  let mine := d.fw.txns.filter fun t =>
    (decide (t.state = .waiting) || (decide (t.state = .aborted) && t.waiter.isSome)) && !t.prepared && decide (t.arrived < d.epoch)
  (mine.foldl (fun l t => insertTxn d.fab.address t l) []).map fun t => (t.coord, t.id)

/-- R387: no answer in time refuses the commit at hand, and cancels what was asked. -/
def State.reserveTimeout (s : State) : State :=
  match s.dev.fw.deciding with
  | some x =>
    match x.waits, x.todo with
    | some (key, _), k :: l =>
      match (s.dev.txn? k.1 k.2).filter fun t => decide (t.state = .waiting) with
      | some t =>
        ({ s with dev := (s.dev.cancelAsk key).refuseCommit t ⟨stDenied, []⟩ { x with todo := l, waits := none } }).decideBatch
      | none => ({ s with dev := (s.dev.cancelAsk key).setDeciding (some { x with todo := l, waits := none }) }).decideBatch
    | _, _ => s
  | none => s

/-- A standing `txn.commit` of the epoch that has ended whose turn it is: from a mailbox, or in a frame. -/
def State.takeCommit (s : State) : State :=
  let mine (r : Raw) : Bool := s.dev.serves && r.code == 0x0202 && decide (r.epoch < s.dev.epoch)
  match (List.range 4).find? fun m => (s.mailbox m).reqBusy && !(s.mailbox m).taken && s.oldest m && mine (s.rawMailbox m) with
  | some m => s.execute txnCommit (s.rawMailbox m)
  | none =>
    match s.dev.fw.frames.find? fun f => s.dev.takesFrames f.via && s.turn f.arrived && mine (rawFrame f.via f.bytes f.epoch) with
    | some f => (s.dropFrame f).executeFrame txnCommit (rawFrame f.via f.bytes f.epoch)
    | none => s

/-- A commit belongs to the batch of the epoch in which its request arrived (R347): those that stand and whose turn it is are taken before the batch is decided. One behind other requests joins the batch after. [log 244 DEDUCED] -/
def State.takeCommits (s : State) : State := forNat (4 + s.dev.fw.frames.length) (fun _ s => s.takeCommit) s

/-- The step at a boundary: what a batch still waits for can no longer come, and the batch of the epoch that ended is decided, with the VREF of the last measurement before it (R58): the one that completes at this boundary comes after. [log 218 DESIGN CHOICE] -/
def State.boundaryBatch (s : State) : State :=
  let s := (forNat (((s.dev.fw.deciding.map (·.todo.length)).getD 0)) (fun _ s => s.reserveTimeout) s).takeCommits
  let keys := s.dev.batchKeys
  let join := s.dev.work.calJoin
  if keys = [] ∧ !join then s
  else
    let d := { s.dev with work := { s.dev.work with calJoin := false } }
    ({ s with dev := d.setDeciding (some ⟨d.epoch, keys, d.fw.live, [], [], [], d.pw.vref, none, [], [], join⟩) }).decideBatch

/-! ### Route answers (R387) -/

/-- The report of a failing budget: TOP is this device's stream with the largest contribution. -/
def reserveReport (c : Cfg) (r : ReserveReply) : Option Refused :=
  match r with
  | .routes _ => none
  | .noted _ => none
  | .ending _ => none
  | .changed _ => none
  | .noMember => some ⟨stBadField, []⟩
  | .linkFull scope limit demand => some ⟨stOverBudget, overReport ⟨0x0C, scope, topOf (c.streamTerms 2), limit, demand⟩⟩
  | .laneFull dest limit demand =>
    some ⟨stOverBudget, overReport ⟨9, dest, topOf ((c.fabricTerms.filter fun x => x.2.1 == dest).map fun x => (x.1, x.2.2)), limit, demand⟩⟩

/-- The answer to a question of routes decides the commit at hand (R387); one that nothing waits for any more does nothing. [log 142 DEDUCED] -/
def State.routeAnswer (r : ReserveReply) (s : State) : State :=
  match s.dev.fw.deciding with
  | none => s
  | some x =>
    match x.waits, x.todo with
    | some (key, items), k :: l =>
      let y := { x with todo := l, waits := none }
      match (s.dev.txn? k.1 k.2).filter fun t => decide (t.state = .waiting) with
      | none => ({ s with dev := (s.dev.cancelAsk key).setDeciding (some y) }).decideBatch
      | some t =>
        let cfg := applyItems t.items x.cfg
        match reserveReport cfg r with
        | some e => ({ s with dev := s.dev.refuseCommit t e y }).decideBatch
        | none =>
          let rs := match r with
            | .routes rs => rs
            | _ => []
          let d := { s.dev with fab := { s.dev.fab with coming := s.dev.fab.coming ++ [comingOf s.dev.fab.devs t x.epoch key items rs] } }
          ({ s with dev := d.acceptCommit t cfg y }).decideBatch
    | _, _ => s

/-- A frame about reservations is acknowledged: it is not sent again (R377). -/
def Device.told (p : OutFrame → Bool) (d : Device) : Device :=
  { d with fab := { d.fab with telling := d.fab.telling.filter fun x => !(p x) } }

def ReserveAsk.key? : ReserveAsk → Option Nat
  | .ask k _ _ => some k
  | .due k _ => some k
  | .cancel k => some k
  | .report k _ => some k
  | .noted => none

/-- What the Bellringer answers or tells: the answer to a question, newly computed routes (R388), the streams that end here (R386), or that a frame has come. -/
def State.reserveAnswer (r : ReserveReply) (s : State) : State :=
  match r with
  | .noted k => { s with dev := s.dev.told fun x => match x with
      | .reserve a => decide (ReserveAsk.key? a = some k)
      | _ => false }
  | .changed rs => { s with dev := { s.dev with fab := { s.dev.fab with routes := s.dev.fab.routes.map (Route.offer rs) } } }
  | .ending l => { s with dev := { s.dev with fab := { s.dev.fab with ending := l } }.send (.reserve .noted) }
  | r => s.routeAnswer r

def execReserveAnswer (r : ReserveReply) (s : State) : Host.Outcome State Fault Refusal :=
  if s.dev.fab.address = 0 then .next s else .next ({ s with dev := s.dev.ctlRx s.dev.fab.bellringer }.reserveAnswer r)

/-- The Bellringer answers a question of routes; its own it answers itself. -/
def State.answerAsk (src key effect : Nat) (items : List ReserveItem) (lanes : List LaneSum) (s : State) : State :=
  let x := s.dev.fab.reserve src key effect items lanes
  let d := { s.dev with fab := { s.dev.fab with nextRoute := x.2.nextRoute } }.setReservations x.2.reservations
  if src = d.fab.address then { s with dev := d }.routeAnswer x.1 else { s with dev := d.send (.reserveReply src x.1) }

/-- The questions that waited for the last report are answered (R387). -/
def State.answerAsked (s : State) : State :=
  if s.dev.fab.unreported ≠ [] then s
  else
    forList s.dev.fab.asked (fun (src, a, lanes) s =>
      match a with
      | .ask k e items => s.answerAsk src k e items lanes
      | _ => s) { s with dev := { s.dev with fab := { s.dev.fab with asked := [] } } }

/-- A device's report to a new Bellringer: its reservations stand as it says (R387). -/
def Device.takeReport (src : Nat) (rs : List Reservation) (d : Device) : Device :=
  let mine : List Reservation := rs.map fun r => { r with src := src }
  let f : Fabric := { d.fab with
    unreported := d.fab.unreported.filter (· != src)
    nextRoute := mine.foldl (fun n r => Max.max n (r.ans.routeId + 1)) d.fab.nextRoute }
  ({ d with fab := f } : Device).setReservations ((d.fab.reservations.filter fun r => r.src != src) ++ mine)

/-- A RESERVE frame of a device to the Bellringer. A question waits until every device has reported to a new Bellringer; the others are acknowledged. -/
def State.takeAsk (src : Nat) (a : ReserveAsk) (lanes : List LaneSum) (s : State) : State :=
  let noted (k : Nat) (d : Device) : State := { s with dev := d.send (.reserveReply src (.noted k)) }
  match a with
  | .ask k e items =>
    if s.dev.fab.unreported = [] then s.answerAsk src k e items lanes
    else { s with dev := { s.dev with fab := { s.dev.fab with asked := s.dev.fab.asked ++ [(src, .ask k e items, lanes)] } } }
  | .due k e => noted k (s.dev.setReservations (dueKey src k e s.dev.fab.reservations))
  | .cancel k => noted k (s.dev.setReservations (cancelKey src k s.dev.fab.reservations))
  | .report k rs => (noted k (s.dev.takeReport src rs)).answerAsked
  | .noted => { s with dev := s.dev.told fun x => match x with
      | .reserveReply d (.ending _) => d == src
      | _ => false }

/-- A RESERVE frame reaches the Bellringer; its own goes the short way. -/
def execReserveRequest (src : Nat) (ask : ReserveAsk) (lanes : List LaneSum) (s : State) : Host.Outcome State Fault Refusal :=
  if s.dev.fab.isBellringer then
    if src = s.dev.fab.address then .next (s.takeAsk src ask lanes) else .next ({ s with dev := s.dev.ctlRx src }.takeAsk src ask lanes)
  else .next s

def execReserveTimeout (s : State) : Host.Outcome State Fault Refusal := .next s.reserveTimeout

/-- Change what is known of one participant. -/
def Txn.atPart (a : Nat) (f : Part → Part) (t : Txn) : Txn :=
  let change (p : Part) : Part := if p.addr = a then f p else p
  { t with parts := t.parts.map change }

/-! ### Fabric transactions at the coordinator (R395, R396, R398) -/

/-- The answer to a txn.begin that waits for its participants. -/
def State.answerTo (t : Txn) (a : Ans) (s : State) : State :=
  match t.waiter with
  | some w => (s.respond w.via w.session w.tag a).settleMailboxes
  | none => s

/-- A participant cannot take part: nothing is opened anywhere. [log 135 DEDUCED] -/
def State.beginFails (t : Txn) (st : BitVec 16) (s : State) : State :=
  let d := s.dev.announce t false true
  let d := { d with fw := { d.fw with txns := d.fw.txns.filter fun u => !(u.coord.isNone && u.id == t.id) } }
  { s with dev := d }.answerTo t (Ans.st st)

def State.openReply (src txn : Nat) (status : BitVec 16) (s : State) : State :=
  match s.dev.txn? none txn with
  | none => s
  | some t =>
    if !(t.fabric && decide (t.state = .open_) && t.waiter.isSome && t.parts.any fun p => p.addr == src && !p.opened) then s
    else if status ≠ stOk then s.beginFails t status
    else
      let t' := t.atPart src fun p => { p with opened := true }
      if t'.parts.all (·.opened) then
        { s with dev := s.dev.setTxn none txn fun _ => { t' with waiter := none } }.answerTo t t.begun
      else { s with dev := s.dev.setTxn none txn fun _ => t' }

def execFabricTxnOpenReply (src txn : Nat) (status : BitVec 16) (s : State) : Host.Outcome State Fault Refusal :=
  .next (({ s with dev := s.dev.ctlRx src }).openReply src txn status)

/-- The statuses of the NO votes in participant order. -/
def Txn.noVotes (t : Txn) : List (BitVec 16) := t.parts.filterMap fun p => p.vote.bind fun v => if v = stOk then none else some v

/-- The status of an ABORT by NO votes: CONFLICT when every one is, else the first other (R398). -/
def Txn.abortStatus (t : Txn) : BitVec 16 := ((t.noVotes.find? (· != stConflict)).getD stConflict)

def Device.takeVote (src txn : Nat) (status : BitVec 16) (d : Device) : Device :=
  match d.txn? none txn with
  | none => d
  | some t =>
    if !(t.prepared && t.decision.isNone && decide (t.state = .waiting)) then d
    else
      let t := t.atPart src fun p => { p with vote := some status }
      let d := d.setTxn none txn fun _ => t
      if t.noVotes ≠ [] then
        let d := { d with free := d.free + 1 }
        d.abortCommit t t.abortStatus fun _ => (Config.freeWord (d.free - 1)).setWidth 16
      else if t.parts.all (·.vote.isSome) then
        (d.setTxn none txn fun t => { t with decision := some true }).announce t true false
      else d

def execFabricVote (src txn : Nat) (status : BitVec 16) (s : State) : Host.Outcome State Fault Refusal :=
  onDev (fun d => (d.ctlRx src).takeVote src txn status) s

/-- An acknowledgement of a decision. [log 134 DEDUCED] -/
def Device.takeAck (src txn : Nat) (d : Device) : Device :=
  let ack (x : Decided) : Decided := if x.coord.isNone ∧ x.txn = txn then { x with unacked := x.unacked.filter (· != src) } else x
  let d := { d with fw := { d.fw with decided := d.fw.decided.map ack } }
  d.setTxn none txn fun t =>
    if t.decision = some true then t.atPart src fun p => { p with acked := true } else t

def execFabricDecisionAck (src txn : Nat) (s : State) : Host.Outcome State Fault Refusal :=
  onDev (fun d => (d.ctlRx src).takeAck src txn) s

/-- A query of a decision: who remembers it answers (R397). -/
def Device.answerQuery (src coord txn : Nat) (d : Device) : Device :=
  let key : Option Nat := if coord = d.fab.address then none else some coord
  match d.fw.decided.find? fun x => decide (x.coord = key) && x.txn == txn with
  | some x => d.send (.decision src coord txn x.commit x.closed)
  | none => d

def execFabricDecisionQuery (src coord txn : Nat) (s : State) : Host.Outcome State Fault Refusal :=
  if s.dev.fab.address = 0 then .next s else onDev (fun d => (d.ctlRx src).answerQuery src coord txn) s

/-! ### Fabric transactions at a participant (R395 to R397) -/

/-- R395: the linked transactions a participant holds at most. -/
def linkedLimit : Nat := 16

def Device.openLinked (coord txn ticket : Nat) (parts : List Nat) (d : Device) : Device :=
  if (d.txn? (some coord) txn).isSome then d.send (.txnOpenReply coord txn stOk)
  else if !(d.fw.sessions.any fun x => x.transport == 2 && x.peer == coord) then d.send (.txnOpenReply coord txn stBadField)
  else if linkedLimit ≤ (d.fw.txns.filter fun t => t.coord.isSome).length then d.send (.txnOpenReply coord txn stTxnLimit)
  else
    let t : Txn :=
      { id := txn, session := 0, coord := some coord, ticket := ticket, fabric := true, items := [], state := .open_, effect := 0,
        tag := 0#16, parts := (parts.filter (· != d.fab.address)).map fun a => ⟨a, false, none, false⟩, target := 0, decision := none,
        prepared := false, waiter := none, arrived := d.epoch, doubtEnd := none, closing := false }
    { d with fw := { d.fw with txns := d.fw.txns ++ [t] } }.send (.txnOpenReply coord txn stOk)

def execFabricTxnOpen (coord txn ticket : Nat) (parts : List Nat) (s : State) : Host.Outcome State Fault Refusal :=
  if s.dev.fab.address = 0 ∨ coord = s.dev.fab.address then .next s
  else onDev (fun d => (d.ctlRx coord).openLinked coord txn ticket parts) s

/-- PREPARE: the part joins the batch of this epoch; a repeated one is voted on again. -/
def Device.takePrepare (coord txn target : Nat) (d : Device) : Device :=
  match d.txn? (some coord) txn with
  | none => d.send (.vote coord txn stTxnStale)
  | some t =>
    if t.prepared ∨ t.state = .inDoubt then d.send (.vote coord txn stOk)
    else if t.state = .open_ then
      d.setTxn (some coord) txn fun t => { t with state := .waiting, target := target, arrived := d.epoch, decision := none }
    else d

def execFabricPrepare (coord txn target : Nat) (s : State) : Host.Outcome State Fault Refusal :=
  if s.dev.fab.address = 0 ∨ coord = s.dev.fab.address then .next s
  else onDev (fun d => (d.ctlRx coord).takePrepare coord txn target) s

/-- A participant remembers a decision it has learned, for others that ask. -/
def Device.remember (coord txn : Nat) (commit closed : Bool) (d : Device) : Device :=
  { d with fw := { d.fw with
      decided := (d.fw.decided.filter fun y => !(decide (y.coord = some coord) && y.txn == txn)) ++ [⟨some coord, txn, commit, closed, d.epoch, []⟩] } }

/-- A DECISION: it applies or releases the part, also from in doubt, and is acknowledged. -/
def Device.takeDecision (coord txn : Nat) (commit closed : Bool) (d : Device) : Device :=
  let d := (d.remember coord txn commit closed).send (.decisionAck coord txn)
  match d.txn? (some coord) txn with
  | none => d
  | some t =>
    match t.state with
    | .inDoubt =>
      if t.doubtEnd.isSome then d
      else if commit then
        let f := d.epoch + 2
        (d.moveComing (some coord) txn (some f)).setTxn (some coord) txn fun t => { t with decision := some true, target := f, doubtEnd := some f }
      else d.setTxn (some coord) txn fun t => { t with decision := some false, doubtEnd := some (d.epoch + 1), closing := closed }
    | .accepted => d
    | _ =>
      if commit then (if t.prepared then d.setTxn (some coord) txn fun t => { t with decision := some true } else d)
      else
        let d := d.dropComing (some coord) txn
        if closed then d.retire { t with state := .aborted, items := [], prepared := false, waiter := none }
        else if t.prepared ∨ t.state = .waiting then d.setTxn (some coord) txn fun t => { t with state := .open_, prepared := false, decision := none }
        else d

def execFabricDecision (coord txn : Nat) (commit closed : Bool) (s : State) : Host.Outcome State Fault Refusal :=
  if s.dev.fab.address = 0 ∨ coord = s.dev.fab.address then .next s
  else onDev (fun d => (d.ctlRx coord).takeDecision coord txn commit closed) s

/-! ### The boundary's part of fabric transactions (R395 to R398) -/

/-- How long a decision is remembered (R396). -/
def decisionEpochs : Nat := 60000

/-- A coordinator that lacks votes at T − 4 decides ABORT; frames not yet answered go out again. -/
def State.coordinate (e : Nat) (t : Txn) (s : State) : State :=
  if t.state = .open_ ∧ t.waiter.isSome then
    if t.arrived + 2 ≤ e then s.beginFails t stBadField
    else { s with dev := forList (t.parts.filter fun p => !p.opened) (fun p d =>
        d.send (.txnOpen p.addr t.id t.ticket (t.parts.map (·.addr)))) s.dev }
  else if t.prepared ∧ t.decision = none ∧ t.state = .waiting then
    if t.target ≤ e + 4 then { s with dev := s.dev.abortCommit t stFabTimeout fun _ => stFabTimeout }
    else { s with dev := forList (t.parts.filter fun p => p.vote.isNone) (fun p d => d.send (.prepare p.addr t.id t.target)) s.dev }
  else s

/-- The decisions not yet acknowledged go out again, and those older than 60 s are forgotten (R377, R396). [log 134 DEDUCED] -/
def Device.repeatDecisions (e : Nat) (d : Device) : Device :=
  let d := { d with fw := { d.fw with decided := d.fw.decided.filter fun x => decide (e < x.at_ + decisionEpochs) } }
  forList d.fw.decided (fun x d =>
    if x.coord.isNone then forList x.unacked (fun a d => d.send (.decision a d.fab.address x.txn x.commit x.closed)) d else d) d

/-- At T − 1 (or the boundary before the one at which a late COMMIT applies): the parts whose COMMIT is held take one tag together. [log 137 DEDUCED] -/
def Device.takeTags (e : Nat) (d : Device) : Device :=
  let due := d.fw.txns.filter fun t =>
    t.prepared && decide (t.decision = some true) && decide (t.target = e + 1) && decide (t.state = .waiting ∨ t.state = .inDoubt)
  let lost := due.filter fun t => decide (d.pw.mode = .safe) || t.closing
  let due := due.filter fun t => !(decide (d.pw.mode = .safe) || t.closing)
  -- R398: a device that is in SAFE, or has been since the decision, discards its part
  let d := forList lost (fun t d => (d.dropComing t.coord t.id).retire { t with state := .aborted, items := [], prepared := false, waiter := none }) d
  if due = [] then d
  else
    let items := (due.map (·.items)).flatten
    let doubt := due.filter fun t => decide (t.state = .inDoubt)
    let d := d.addBatch e (applyItems items d.fw.live) items (due.map fun t => (t.coord, t.id)) false
    -- what was in doubt stays so until it applies
    forList doubt (fun t d => d.setTxn t.coord t.id fun u => { u with state := .inDoubt }) d

/-- The coordinator's completion: what was acknowledged before T − 1 decides it (R398). [log 138 DEDUCED] -/
def Device.finishCommit (e : Nat) (t : Txn) (d : Device) : Device :=
  match t.waiter with
  | some w =>
    if t.coord.isNone ∧ t.fabric ∧ t.decision = some true ∧ t.target = e + 1 then
      let st := if t.parts.all (·.acked) then stOk else stTxnInDoubt
      let payload := partEntries (fun p => if p.acked then stOk else stTxnInDoubt) t
      let d := { d with fw := { d.fw with finishing := d.fw.finishing ++ [(t.target + 2, w, st, t.target, payload)] } }
      d.setTxn none t.id fun t => { t with waiter := none }
    else d
  | none => d

/-- A participant that holds no decision at T − 1 is in doubt. -/
def Device.enterDoubt (e : Nat) (d : Device) : Device :=
  let lost := d.fw.txns.filter fun t => t.coord.isSome && t.prepared && t.decision.isNone && decide (t.target = e + 1) && decide (t.state = .waiting)
  if lost = [] then d
  else (forList lost (fun t d => (d.setTxn t.coord t.id fun t => { t with state := .inDoubt }).moveComing t.coord t.id none) d).raise evSys (ebit 1)

/-- Doubts that end at this boundary: the part applies (its batch swaps here), is released, or is closed by its host. -/
def Device.endDoubts (e : Nat) (d : Device) : Device :=
  forList (d.fw.txns.filter fun t => decide (t.state = .inDoubt) && decide (t.doubtEnd = some e)) (fun t d =>
    if t.decision = some true then
      d.setTxn t.coord t.id fun t => { t with state := .accepted, doubtEnd := none }
    else
      let d := d.dropComing t.coord t.id
      if t.closing then d.retire { t with state := .aborted, items := [], prepared := false, waiter := none }
      else d.setTxn t.coord t.id fun t => { t with state := .open_, prepared := false, decision := none, doubtEnd := none }) d

/-- From T samples carry INDOUBT while a part is in doubt. -/
def Device.markDoubt (e : Nat) (d : Device) : Device :=
  let on := d.fw.txns.any fun t => decide (t.state = .inDoubt) && decide (t.target ≤ e ∨ t.doubtEnd.isSome)
  { d with marks := { d.marks with indoubt := spanSet on (boundary e) d.marks.indoubt } }

/-- Every epoch a part in doubt asks the coordinator and the other participants (R397). -/
def Device.askDecisions (d : Device) : Device :=
  forList (d.fw.txns.filter fun t => decide (t.state = .inDoubt) && t.doubtEnd.isNone) (fun t d =>
    match t.coord with
    | some c => forList (c :: t.parts.map (·.addr)) (fun a d => d.send (.query a c t.id)) d
    | none => d) d

/-- Completions whose boundary has come. [log 138 DEDUCED] -/
def Device.postFinished (e : Nat) (d : Device) : Device :=
  let go := d.fw.finishing.filter fun x => decide (x.1 ≤ e)
  let d := { d with fw := { d.fw with finishing := d.fw.finishing.filter fun x => !decide (x.1 ≤ e) } }
  forList go (fun (_, w, st, target, payload) d => d.complete w st payload (some target)) d

/-- Fabric transactions at the boundary that begins epoch e, before its batch is decided. [log 135 DEDUCED] -/
def State.fabricTxns (e : Nat) (s : State) : State :=
  let s := forList (s.dev.fw.txns.filter fun t => t.fabric && t.coord.isNone) (State.coordinate e) s
  let d := s.dev.repeatDecisions e
  let d := forList d.fw.txns (Device.finishCommit e) d
  let d := ((d.takeTags e).enterDoubt e).markDoubt e
  { s with dev := (d.askDecisions).postFinished e }

end Sys2Proof.Machine
end

