-- ==== Sys2Proof/Machine/Mill.lean ====
section
/-! DEFINITION. The Mill: averages, outputs, masks and bands of an emitted result (R148, R153 to R161, R172), the MASK and BAND units (R179, R451), and the density maps (R167 to R170). -/

namespace Sys2Proof.Machine

/-! ### Counters and events (R171, R173) -/

def cntTransforms : Nat := 0
def cntInvalid : Nat := 1
def cntEmitted : Nat := 2
def cntMaskFail : Nat := 3

def Device.countJob (j i : Nat) (d : Device) (n : Nat := 1) : Device :=
  { d with cnt := { d.cnt with job := tbump d.cnt.job (4 * j + i) n } }

def millFault : BitVec 24 := ebit 0
def millSaturated : BitVec 24 := ebit 1
def millFixed : BitVec 24 := ebit 2
def millReplayed : BitVec 24 := ebit 3

/-! ### Averages (R153, R154) -/

def zeroF64 : F64 := F64.zero

/-- Powers of a transform's bins. -/
def powers (l : List Cplx) : List F64 := l.map Cplx.norm2

/-- Complex value plus a factor times a difference. -/
def Cplx.toward (k : Nat) (a x : Cplx) : Cplx :=
  let f (p q : F64) : F64 := F64.add p (F64.mul (F64.ofScaled 1 (-(k : Int))) (F64.sub q p))
  ⟨f a.re x.re, f a.im x.im⟩

/-- PEAK: the larger power with the complex value that set it. -/
def peakOf (a : F64 × Cplx) (b : F64 × Cplx) : F64 × Cplx := if F64.lt a.1 b.1 then b else a

/-- A valid transform enters the average; the first after a reset sets it. LINEAR adds up (R153). -/
def JobRun.enter (c : JobCfg) (bins : List Cplx) (r : JobRun) : JobRun :=
  let p := powers bins
  if r.n = 0 ∨ c.avg = 0 then { r with n := 1, power := p, cplx := bins }
  else
    let r := { r with n := r.n + 1 }
    match c.avg with
    | 1 => { r with power := List.zipWith F64.add r.power p, cplx := List.zipWith Cplx.add r.cplx bins }
    | 2 => { r with power := List.zipWith (fun a x => F64.add a (F64.mul (F64.ofScaled 1 (-(c.expK : Int))) (F64.sub x a))) r.power p,
                    cplx := List.zipWith (Cplx.toward c.expK) r.cplx bins }
    | _ =>
      let m := List.zipWith peakOf (r.power.zip r.cplx) (p.zip bins)
      { r with power := m.map (·.1), cplx := m.map (·.2) }

/-- The averaged power and complex values. -/
def JobRun.average (c : JobCfg) (r : JobRun) : List F64 × List Cplx :=
  if c.avg = 1 then
    let n := F64.ofNat r.n
    (r.power.map fun v => F64.div v n, r.cplx.map fun v => ⟨F64.div v.re n, F64.div v.im n⟩)
  else (r.power, r.cplx)

/-- Source samples whose word is unreadable carry INVALID to every transform that reads them (R172). -/
def JobRun.spoil (first : Int) (l : List Nat) (r : JobRun) : JobRun :=
  { r with buf := r.buf.map fun x =>
      if first ≤ x.idx ∧ l.contains (x.idx - first).toNat then { x with flags := x.flags ||| 1#14 } else x }

def spoilt (l : List Nat) (w : List MillSample) : List MillSample :=
  w.zipIdx.map fun (x, i) => if l.contains i then { x with flags := x.flags ||| 1#14 } else x

/-- A transform is invalid: a sample carries INVALID, or its memory failed (R154). -/
def badWindow (broken : Bool) (w : List MillSample) : Bool := broken || w.any fun x => x.flags.getLsbD fInvalid

/-- The average starts afresh: boundaries whose transform has come, or an error in its memory (R164, R172). -/
def JobRun.resetAt (at_ : Nat) (avgBad : Bool) (r : JobRun) : JobRun :=
  let due := r.resets.any fun b => decide (b ≤ at_)
  { r with resets := r.resets.filter fun b => !decide (b ≤ at_), n := if due || avgBad then 0 else r.n,
           valid := if avgBad then 0 else r.valid }

/-- A run takes a transform of a window. -/
def JobRun.take (c : JobCfg) (x : MillIn) (w : List MillSample) (r : JobRun) : JobRun :=
  match w.head?, w.getLast? with
  | some a, some z =>
    let real := (w.filter fun y => !y.pad).getLast?.getD z
    let r := r.resetAt a.at_ x.avgBad
    let r := { r with
      buf := r.buf.dropWhile fun y => decide (y.idx < a.idx + (c.hop : Int))
      last := some ⟨a.idx / (c.hop : Int), a.t, a.at_, real.ready⟩
      seen := r.seen + 1, flags := w.foldl (fun f y => f ||| y.flags) r.flags, padded := r.padded || z.pad }
    if badWindow x.broken w then r else { r with valid := r.valid + 1 }.enter c x.bins
  | _, _ => r

/-- What an emission leaves of the average: a LINEAR block is over, and a peak with PEAK_RESET (R153). -/
def JobRun.emitted (c : JobCfg) (r : JobRun) : JobRun :=
  { r with seen := 0, valid := 0, flags := 0#14, padded := false, n := if c.avg ≤ 1 ∨ (c.avg = 3 ∧ c.peakReset) then 0 else r.n }

/-! ### Outputs (R155 to R157, R160) -/

/-- P_b (R156). -/
def Cfg.bandPower (c : Cfg) (i : Nat) (j : JobCfg) (p : List F64) (b : Nat) : F64 :=
  match tfind c.bands (bandKey i b) with
  | none => F64.zero
  | some (lo, hi) =>
    let g (u : Nat) (v : F64) : F64 :=
      if j.real && u != 0 && u != j.size / 2 then F64.div v (F64.ofNat 2) else v
    let s := (List.range (hi + 1 - lo)).foldl (fun s k => F64.add s (g (lo + k) (p.getD (lo + k) F64.zero))) F64.zero
    F64.div s (c.noiseWidth j)

def F64.larger (a b : F64) : F64 := if F64.lt a b then b else a

/-- V_c of a column, in 0.01 dB (R157). -/
def columnValue (j : JobCfg) (p : List F64) (k : Nat) : Int :=
  let l := (List.range j.decM).map fun i => p.getD (j.decLo + k * j.decM + i) F64.zero
  let v :=
    match l with
    | [] => F64.zero
    | x :: t => if j.decRule = 0 then t.foldl F64.larger x else F64.div (t.foldl F64.add x) (F64.ofNat j.decM)
  dbValue v

/-- Two signed 16-bit values a word, the first in the lower half. -/
def pairWords : List Int → List Word
  | [] => []
  | [a] => [BitVec.ofNat 32 (a % 65536).toNat]
  | a :: b :: l => BitVec.ofNat 32 ((a % 65536).toNat + 65536 * (b % 65536).toNat) :: pairWords l

/-- What a result holds: averaged power and complex values, columns and bands. -/
structure MillOut where
  power : List F64
  cplx : List Cplx
  cols : List Int
  bands : List F64
  deriving DecidableEq, Repr

def Cfg.millOut (c : Cfg) (i : Nat) (j : JobCfg) (p : List F64) (z : List Cplx) : MillOut :=
  ⟨p, z, (List.range j.decC).map (columnValue j p), (List.range j.nbands).map (c.bandPower i j p)⟩

/-- The outputs' words in order. -/
def MillOut.words (o : MillOut) (j : JobCfg) : List Word :=
  let p := (o.power.drop j.binLo).take j.binCnt
  let z := (o.cplx.drop j.binLo).take j.binCnt
  (if hasBit j.out 0 then z.flatMap fun v => [F64.toF32 v.re, F64.toF32 v.im] else [])
    ++ (if hasBit j.out 1 then p.map F64.toF32 else [])
    ++ (if hasBit j.out 2 then pairWords (p.map dbValue) else [])
    ++ (if hasBit j.out 3 then o.bands.map F64.toF32 else [])
    ++ (if hasBit j.out 4 then pairWords o.cols else [])

/-! ### Masks (R158, R160) -/

/-- The violating columns of a result, lowest first. -/
def Cfg.violations (c : Cfg) (i : Nat) (cols : List Int) : List Nat :=
  (cols.zipIdx.filter fun (v, k) =>
    let m := tget maskDefault c.masks (maskKey i k)
    (m.1 != 0x7FFF && decide (m.1 < v)) || (m.2 != -0x8000 && decide (v < m.2))).map (·.2)

def preamble (valid count : Nat) (eval : Bool) (viol : List Nat) (partialWin : Bool) : List Word :=
  [ BitVec.ofNat 32 (valid % 65536 * 65536 + count % 65536),
    BitVec.ofNat 32 (bit01 eval * 2 ^ 31 + bit01 (eval && !viol.isEmpty) * 2 ^ 30 + (viol.head?.getD 0) % 1024 * 2 ^ 20
      + viol.length % 2048 * 2 ^ 9 + bit01 partialWin * 2 ^ 8) ]

/-! ### MASK and BAND units (R179) -/

def Cfg.millUnits (c : Cfg) (type j : Nat) : List (Nat × UnitCfg) :=
  c.units.filter fun (_, x) => x.enable && x.type == type && x.src == j

/-- A verdict on a MASK unit at t: it fires at the k-th failing result in a row, at the instant of the first. -/
def Device.maskUnit (u : Nat) (x : UnitCfg) (t nviol : Nat) (flags : BitVec 14) (d : Device) : Device :=
  let r := d.unitAt u t
  if nviol = 0 then d.setUnitAt u t { r with run := 0, runDone := false }
  else
    let r := if r.run = 0 then { r with run := 1, runT := t, runN := nviol } else { r with run := r.run + 1 }
    let fires := !r.runDone && decide (x.m ≤ r.run)
    let d := d.setUnitAt u t { r with runDone := r.runDone || fires }
    if fires then d.detect u x ⟨256 * (r.runT : Int), t, BitVec.ofNat 32 r.runN, flags⟩ else d

/-- A band power on a BAND unit at t. -/
def Device.bandUnit (u : Nat) (x : UnitCfg) (t : Nat) (p : F64) (flags : BitVec 14) (d : Device) : Device :=
  let r := d.unitAt u t
  let a := F64.ofF32 x.a
  let b := F64.ofF32 x.b
  let hit := if x.sel = 0 then F64.le a p else F64.le p a
  let back := if x.sel = 0 then F64.lt p (F64.div a b) else F64.lt (F64.mul a b) p
  let fires := r.bandArmed && hit
  let d := d.setUnitAt u t { r with bandArmed := !fires && (r.bandArmed || back) }
  if fires then d.detect u x ⟨256 * (t : Int), t, F64.toF32 p, flags⟩ else d

/-! ### Density maps (R168 to R170) -/

def rowBits : Nat := 33184

/-- Row of a column value. -/
def mapRow (c : MapCfg) (v : Int) : Nat := (clampInt 0 255 ((v - c.floor) / (c.step : Int))).toNat

/-- The carts of a snapshot, one for each row, from s0 on. -/
def snapCarts (m e s0 rate dests : Nat) (tag : BitVec 16) (change : Bool) (x : MapRun) (counts : Tbl Nat) : List Paced :=
  (List.range 256).map fun row =>
    let words := wordsOf (byteOf m ++ byteOf row ++ zeros 2 ++ leBytes 4 e)
      ++ (tgetList 0 counts (1024 * row) 1024).map fun n => BitVec.ofNat 32 n
    let bad := x.snapBad.any fun k => k / 1024 == row
    { due := s0 + ceilDiv (row * rowBits * 3000) rate, type := 4, stream := 0x600 + m, time := boundary e, tag := tag,
      flags := flag fInvalid bad ||| flag fChange (change && row == 0), count := 1024, words := words, dests := dests }

/-- Send a map's snapshot from an instant on (R241). -/
def Device.sendSnapshot (m s0 : Nat) (d : Device) : Device :=
  match (d.map m).snap with
  | none => d
  | some (e, counts) =>
    let s := 0x600 + m
    let c := d.fw.eff.stream s
    let cut := d.isCut s (boundary e)
    let carts := snapCarts m e s0 c.rate c.dest (d.tagAt (boundary e)) cut (d.map m) counts
    let d := { d with port := { d.port with cuts := cutDone d.port.cuts s (boundary e) } }
    { d with port := { d.port with paced := carts.foldl (fun l x => pacedInsert x l) d.port.paced } }

/-- A snapshot of the map is still being sent. -/
def Device.sendingMap (m : Nat) (d : Device) : Bool :=
  (d.map m).waiter.isSome || d.port.paced.any fun x => x.stream == 0x600 + m && decide (d.clk.time < x.due)

/-- Every result before a boundary has been added: its snapshot, its halving and its clearing. [log 83 DEDUCED, 164 DEDUCED] -/
def Device.mapBoundary (m : Nat) (x : MapDue) (d : Device) : Device :=
  let d := d.setMap m fun y =>
    let y := { y with snap := some (x.epoch, y.counts), snapBad := y.bad, due := y.due.filter (· != x) }
    let y := if x.halve then { y with counts := y.counts.filterMap fun (k, n) => if n / 2 = 0 then none else some (k, n / 2), bad := [] } else y
    if x.clear then { y with counts := [], sat := false, bad := [] } else y
  let c := d.fw.eff.stream (0x600 + m)
  if x.stream && c.dest != 0 && c.rate != 0 then d.sendSnapshot m d.clk.time else d

def Device.countMap (m i : Nat) (d : Device) : Device :=
  { d with cnt := { d.cnt with map := tbump d.cnt.map (2 * m + i) } }

/-- Add one to each of a result's cells of a map. -/
def Device.mapAdd (m : Nat) (cells : List Nat) (d : Device) : Device :=
  let old := (d.map m).counts
  let full := cells.any fun k => tget 0 old k == 0xFFFFFFFE
  let counts := cells.foldl (fun t k => tmod 0 t k fun n => Min.min 0xFFFFFFFF (n + 1)) old
  let first := full && !(d.map m).sat
  let d := d.setMap m fun y => { y with counts := counts, sat := y.sat || full, bad := y.bad.filter fun k => !(cells.contains k) }
  if first then d.raise evMill millSaturated else d

/-- A result enters a map. -/
def Device.mapTake (m : Nat) (x : MapResult) (d : Device) : Device :=
  if x.excluded then d.countMap m 1 else (d.mapAdd m x.cells).countMap m 0

/-- The window that a run has complete. -/
def Device.runWindow (i : Nat) (r : JobRun) (d : Device) : Option (List MillSample) :=
  match (d.runCfg r).job i with
  | some j => if j.enable then r.window j.size j.hop else none
  | none => none

/-- The instant of the next transform of a run, at the earliest. -/
def JobRun.nextCentre (j : JobCfg) (r : JobRun) : Nat :=
  let half := (j.size - 1) * r.ts / 2
  match r.last with
  | some k => (r.nextSpan j k).1 + half
  | none => ((r.buf.head?.map (·.t)).getD r.start) + half

/-- Ticks after a boundary by which a live job's results of instants before it are ready (R161, R169). -/
def Cfg.jobBound (c : Cfg) (j : JobCfg) : Nat := (j.size - 1) * c.jobTs j / 2 + c.jobDelay j + 2 * j.size + 6000

/-- A run gives no more results with instants before b. -/
def Device.runPast (b i : Nat) (r : JobRun) (d : Device) : Bool :=
  let c := d.runCfg r
  match c.job i with
  | none => true
  | some j =>
    !j.enable || j.replay || decide (b ≤ r.nextCentre j) || (r.last.any fun k => d.lastOfRun i j r k)
      || (decide (b + c.jobBound j ≤ d.clk.time) && (d.runWindow i r).isNone)

/-- Every result before the boundary of epoch e has been added to a map: those of the job that was its source until then. [log 83 DEDUCED] -/
def Device.mapReady (m e : Nat) (d : Device) : Bool :=
  match (d.cfgAt (boundary e - 1)).map m with
  | none => true
  | some c => !c.enable || (d.job c.job :: d.endedRuns c.job).all fun r => d.runPast (boundary e) c.job r

/-- The results that wait and lie before a boundary. -/
def MapRun.before (b : Option Nat) (x : MapRun) : List MapResult := x.held.filter fun y => b.all fun e => decide (y.t < e)

/-- Results enter a map in the order of its boundaries: those before the oldest gathered boundary at once, later ones once every result before it has been added (R169). -/
def Device.mapSettle : Nat → Nat → Device → Device
  | 0, _, d => d
  | k + 1, m, d =>
    let x := (d.map m).due.head?
    let now := (d.map m).before (x.map fun y => boundary y.epoch)
    let d := forList now (Device.mapTake m) (d.setMap m fun y => { y with held := y.held.filter fun z => !(now.contains z) })
    match x with
    | none => d
    | some y => if !(d.map m).held.isEmpty && d.mapReady m y.epoch then Device.mapSettle k m (d.mapBoundary m y) else d

/-- An emitted result on the maps of its job, under the configuration of the instant `at_` (R168). -/
def Device.density (j index t at_ : Nat) (cols : List Int) (flags : BitVec 14) (d : Device) : Device :=
  let maps := (d.cfgAt at_).maps.filter fun (_, c) => c.enable && c.job == j
  forList maps (fun (m, c) d =>
    if index % c.subsample ≠ 0 then d
    else
      let x : MapResult := ⟨t, cols.zipIdx.map fun (v, k) => 1024 * mapRow c v + k, flags.getLsbD fInvalid || flags.getLsbD fSettle⟩
      Device.mapSettle ((d.map m).due.length + 1) m (d.setMap m fun y => { y with held := y.held ++ [x] })) d

/-! ### Results (R160, R161, R237) -/

/-- An element's descriptor. -/
def spectrumHead (offset words frag nfrag : Nat) : List Byte := leBytes 4 offset ++ leBytes 4 words ++ leBytes 2 frag ++ leBytes 2 nfrag

/-- Words of a cart's payload beside a descriptor. -/
def fragWords : Nat := 4093

/-- A result's fragments, one cart each. -/
def Device.sendFragments (s t at_ ready nfrag total : Nat) (flags : BitVec 14) (words : List Word) (d : Device) : Device :=
  let dest := ((d.cfgAt at_).stream s).dest
  let dest := if inSpans d.marks.runs at_ then dest else dest % 4
  forNat nfrag (fun i d =>
    let body := wordsOf (spectrumHead 0 total i nfrag) ++ (words.drop (fragWords * i)).take fragWords
    d.formCartAt at_ 3 s t (d.tagAt at_) (if i = 0 then flags else flags &&& ~~~(flag fChange true)) 1 body
      (ready + deliveryMargin * nfrag) dest) d

/-- A result on its stream. -/
def Device.sendResult (s t at_ ready period : Nat) (flags : BitVec 14) (words : List Word) (d : Device) : Device :=
  let n := words.length
  let nfrag := ceilDiv n fragWords
  let d := d.makeRoom s at_ (4 * (n + 3))
  let d :=
    if ((d.cfgAt at_).stream s).dest = 0 then d
    else if 1 < nfrag then d.sendFragments s t at_ ready nfrag n flags words
    else
      let off := match tfind d.port.open_ s with
        | some o => t - o.time
        | none => 0
      d.pushElem s t at_ ready flags (spectrumHead off n 0 1 ++ bytesOf words)
  d.cutAfter s (at_ + period)

/-- n free words. [log 180 DESIGN CHOICE] -/
def freeWords (from_ n : Nat) : List Word := (List.range n).map fun i => Config.freeWord (from_ + i)

/-- The result's verdict and band powers reach the units at the instant of the result, of a replay at its replay instant (R179, R451). -/
def Device.verdict (i : Nat) (t : Nat) (eval has : Bool) (nviol : Nat) (bands : List F64) (flags : BitVec 14) (d : Device) : Device :=
  let c := d.cfgAt t
  let d := if eval then forList (c.millUnits 4 i) (fun (u, y) d => d.maskUnit u y t nviol flags) d else d
  if has then forList (c.millUnits 5 i) (fun (u, y) d => d.bandUnit u y t (bands.getD y.m F64.zero) flags) d else d

/-- Job i emits what a run has gathered up to a transform, under the settings of that transform (R164). [log 180 DESIGN CHOICE, 213 DEDUCED] -/
def Device.emit (i : Nat) (r : JobRun) (k : Taken) (c : Cfg) (j : JobCfg) (d : Device) : Device :=
  let t := k.t + (j.size - 1) * r.ts / 2
  let ready := k.ready + 2 * j.size + 6000
  -- a replayed result keeps its stored instant, and follows the configuration of its replay instant
  let at_ := if j.replay then k.ready else t
  let avg := r.average j
  let has := decide (0 < r.valid)
  let s := 0x500 + i
  let flags := (r.flags &&& ~~~(flag fInvalid true ||| flag fChange true)) ||| flag fInvalid (!has) ||| flag fChange (d.isCut s at_)
  let out := c.millOut i j avg.1 avg.2
  let eval := j.mask == 1 && has
  let viol := if eval then c.violations i out.cols else []
  let words := preamble r.valid r.seen eval viol (r.padded && j.replay)
    ++ (if has then out.words j else freeWords d.free (j.words - 2))
  let d := if has then d else { d with free := d.free + (j.words - 2) }
  let d := d.countJob i cntEmitted
  let d := if eval && !viol.isEmpty then d.countJob i cntMaskFail else d
  let d := d.sendResult s t at_ ready (c.jobPeriod j) flags words
  let d := d.toGranary s ready at_ (Elem.fresh t (bytesOf words) flags (d.tagAt at_) 0)
  let d := d.verdict i at_ eval has viol.length out.bands flags
  d.density i (k.m / (j.avgN : Int)).toNat t at_ out.cols flags

/-- A result is emitted after a transform: by the average's rule, at the end of its run, of its average or of a replayed slot (R153, R163, R164, R165). -/
def Device.emitsAfter (i : Nat) (j : JobCfg) (r : JobRun) (k : Taken) (d : Device) : Bool :=
  (match j.avg with
   | 0 => true
   | 1 => k.m % (j.avgN : Int) == (j.avgN : Int) - 1
   | _ => (k.m + 1) % (j.avgN : Int) == 0)
  || r.idle || d.lastOfRun i j r k || d.lastOfAverage i j r k

/-! ### The next transform (R147, R163, R165) -/

/-- A transform that can be taken: its job's run, by its place among the ended runs or the current one, and its window. -/
structure MillNext where
  place : Option Nat
  run : JobRun
  win : List MillSample
  deriving DecidableEq, Repr

/-- The oldest run of a job with a complete window. -/
def Device.millNext (i : Nat) (d : Device) : Option MillNext :=
  let old := (d.endedRuns i).zipIdx.findSome? fun (r, k) => (d.runWindow i r).map fun w => (⟨some k, r, w⟩ : MillNext)
  match old with
  | some x => some x
  | none => (d.runWindow i (d.job i)).map fun w => ⟨none, d.job i, w⟩

/-- The settings under which a window is transformed: those in force where it begins (R164). -/
def Device.windowCfg (w : List MillSample) (d : Device) : Cfg := d.cfgAt ((w.head?.map (·.at_)).getD 0)

/-- The run at a place is replaced. -/
def Device.setRun (i : Nat) (place : Option Nat) (r : JobRun) (d : Device) : Device :=
  match place with
  | none => d.setJob i fun _ => r
  | some k => { d with ended := tput [] d.ended i ((d.endedRuns i).set k r) }

/-- The errors of a transform are reported (R172). -/
def Device.millErrors (x : MillIn) (d : Device) : Device :=
  let d := if x.fixed then d.raise evMill millFixed else d
  if !x.struck.isEmpty || x.broken || x.avgBad then d.raise evMill millFault else d

/-- The errors that a replay finds as it reads its slot (R224). -/
def Device.replayErrors (x : MillIn) (d : Device) : Device :=
  if ((d.fw.eff.jobs.find? fun y => y.1 == x.job.val).any fun y => y.2.replay) then d.findErrors x.errs else d

/-- A job's next transform, with the result that it completes. -/
def Device.transform (x : MillIn) (n : MillNext) (c : Cfg) (j : JobCfg) (d : Device) : Device :=
  let i := x.job.val
  let w := spoilt x.struck n.win
  let r := (n.run.spoil ((w.head?.map (·.idx)).getD 0) x.struck).take j x w
  let ends := j.replay && (r.window j.size j.hop).isNone && r.stop.isNone
  let r := { r with idle := ends }
  let d := (d.countJob i cntTransforms).millErrors x
  let d := if badWindow x.broken w then d.countJob i cntInvalid else d
  let d :=
    match r.last with
    | none => d
    | some k =>
      if d.emitsAfter i j r k then (d.setRun i n.place (r.emitted j)).emit i r k c j else d.setRun i n.place r
  if ends then d.raise evMill millReplayed else d

/-- The operand's bins are what the Mill may deliver of the window (R152); an invalid transform delivers none. -/
def Device.millFits (x : MillIn) (n : MillNext) (j : JobCfg) (d : Device) : Bool :=
  let w := spoilt x.struck n.win
  badWindow x.broken w || (d.windowCfg w).binsOk j w x.bins

/-- The ready instant of a window's last sample. -/
def readyOf (w : List MillSample) : Nat := ((w.filter fun y => !y.pad).getLast?.map (·.ready)).getD 0

/-- The next transform of a job in order, once its source samples have come (R144, R147); a result is ready 2·N + 6,000 ticks after its last sample (R161). [log 214 DEDUCED] -/
def execMillResultReady (x : MillIn) (s : State) : Host.Outcome State Fault Refusal :=
  let s := { s with dev := s.dev.replayErrors x }
  match s.dev.millNext x.job.val with
  | none => .next s
  | some n =>
    let c := s.dev.windowCfg n.win
    match c.job x.job.val with
    | none => .next s
    | some j =>
      if s.dev.millFits x n j then onDev (fun d => (d.tickTo (readyOf n.win + 2 * j.size + 6000)).transform x n c j) s else .next s

/-! ### Averages that no further transform completes (R153, R163, R164) -/

/-- What a run holds at a boundary is emitted with its last transform, when that was the last before the boundary that ends the run or resets its average. [log 214 DEDUCED] -/
def Device.flushRun (i : Nat) (place : Option Nat) (r : JobRun) (d : Device) : Device :=
  match r.last with
  | none => d
  | some k =>
    let c := d.cfgAt k.at_
    match c.job i with
    | none => d
    | some j =>
      if 0 < r.seen && (d.lastOfRun i j r k || d.lastOfAverage i j r k) then
        (d.setRun i place { r.emitted j with n := 0 }).emit i r k c j
      else d

/-- A run that has ended gives no further window. -/
def Device.runOver (b i : Nat) (r : JobRun) (d : Device) : Bool :=
  match r.last, (d.runCfg r).job i with
  | some k, some j => d.lastOfRun i j r k
  | none, some _ => reached (r.stop.map (· + markHorizon)) b
  | _, none => true

/-- Job i's averages that are complete at a boundary are emitted, and runs with nothing to come are forgotten. -/
def Device.flushJob (b i : Nat) (d : Device) : Device :=
  let d := forNat (d.endedRuns i).length (fun k d =>
    match (d.endedRuns i)[k]? with
    | some r => d.flushRun i (some k) r
    | none => d) d
  let d := d.flushRun i none (d.job i)
  { d with ended := tput [] d.ended i ((d.endedRuns i).filter fun r => !(d.runOver b i r)) }

/-- The run of job i ends at b, and what it holds is emitted if its last window is past; samples before b that are still to come enter it (R163). -/
def Device.stopRun (b i : Nat) (d : Device) : Device := ((d.endRun i b).setJob i fun r => { JobRun.init with start := b, idle := r.idle }).flushJob b i

/-- Averages that a boundary leaves complete are emitted. -/
def Device.flushJobs (b : Nat) (d : Device) : Device := forList (d.ended.map (·.1)) (fun i d => d.flushJob b i) d

/-! ### Snapshots (R169) -/

/-- Every result before the oldest gathered boundary has been added. -/
def execDensitySnapshotComplete (map : Fin 16) (s : State) : Host.Outcome State Fault Refusal :=
  match (s.dev.map map.val).due with
  | x :: _ => if s.dev.mapReady map.val x.epoch then onDev (fun d => Device.mapSettle (d.map map.val).due.length map.val (d.mapBoundary map.val x)) s else .next s
  | [] => .next s

/-- The last cart of a STREAM read has been sent: the command completes with E (R363). -/
def Device.snapshotSent (m : Nat) (d : Device) : Device :=
  let end_ := (d.port.paced.filter fun x => x.stream == 0x600 + m).foldl (fun t x => Max.max t x.due) d.clk.time
  let d := d.pump end_
  match (d.map m).waiter with
  | none => d
  | some (w, e) => (d.setMap m fun y => { y with waiter := none }).complete w stOk (ep32 e)

def execDensityReadoutDone (map : Fin 16) (s : State) : Host.Outcome State Fault Refusal :=
  if (s.dev.map map.val).waiter.isSome then onDev (Device.snapshotSent map.val) s else .next s

/-! ### mill.query and density.read (R162, R170, R363) -/

/-- The five sums of R162: the largest term of DENSITY_RATE. -/
def Cfg.millSums (c : Cfg) : List Byte :=
  let big := (c.densityTerms.map (·.2)).foldl Frac.max Frac.zero
  [ termSum (c.jobTerms c.jobLoad), termSum (c.jobTerms fun j => Frac.ofNat (8 * j.size)), termSum (c.jobTerms c.jobOut),
    termSum (c.jobTerms c.jobReplay), big ].flatMap fun f => leF64 (F64.ofFrac f)

def jobCounters (j : Nat) (d : Device) : List Byte := (List.range 4).flatMap fun i => leWord (tget 0#32 d.cnt.job (4 * j + i))

def millQuery : Handler := sizedTo 4 fun r d =>
  let i := u16 r.body 2
  let c := d.cfgSeen r
  if u8 r.body 1 ≠ 0 then refuse stBadField d
  else
    match u8 r.body 0 with
    | 0 =>
      if i = 0xFFFF then (some (Ans.ok (zeros 88 ++ c.millSums)), d)
      else
        require (decide (i < 128)) stBadField d <|
        let parts := match c.job i with
          | some j => [c.jobLoad j, Frac.ofNat (8 * j.size), c.jobOut j].flatMap fun f => leF64 (F64.ofFrac f)
          | none => zeros 24
        (some (Ans.ok (writeJob i (c.job i) ++ jobCounters i d ++ parts ++ c.millSums)), d)
    | 1 =>
      require (decide (i < 16)) stBadField d <|
      let snap := match (d.map i).snap with
        | some (e, _) => ep32 e
        | none => leBytes 4 0xFFFFFFFF
      (some (Ans.ok (writeMap i (c.map i) ++ leWord (tget 0#32 d.cnt.map (2 * i)) ++ leWord (tget 0#32 d.cnt.map (2 * i + 1)) ++ snap)), d)
    | _ => refuse stBadField d

/-- A read that carries data may find errors in the snapshot (R224). -/
def densityRead (errs : List ScrubErr) : Handler := sizedTo 8 fun r d =>
  let m := u8 r.body 0
  let mode := u8 r.body 1
  let first := u16 r.body 4
  let count := u16 r.body 6
  require (decide (m < 16) && decide (mode ≤ 1) && u8 r.body 3 == 0) stBadField d <|
  require (d.map m).snap.isSome stBadField d <|
  require (mode != 0 || decide (1 ≤ count) && decide (count ≤ 224) && decide (first + count ≤ 1024)) stBadField d <|
  let d := d.findErrors errs
  match (d.map m).snap with
  | none => refuse stBadField d
  | some (e, counts) =>
    if mode = 0 then
      (some (Ans.ok (ep32 e ++ leBytes 4 count ++ (tgetList 0 counts (1024 * u8 r.body 2 + first) count).flatMap (leBytes 4))), d)
    else
      let s := d.fw.eff.stream (0x600 + m)
      require (s.dest != 0 && s.rate != 0) stBadField d <|
      require (!(d.sendingMap m)) stDenied d <|
      acceptLong r d fun d => (d.setMap m fun y => { y with waiter := some (r.waiter, e) }).sendSnapshot m d.clk.time

def execMillQuery (src : ReqSource) (s : State) : Host.Outcome State Fault Refusal := fwRow 0x0702 millQuery src s
def execDensityRead (x : ReadIn) (s : State) : Host.Outcome State Fault Refusal := fwRow 0x0704 (densityRead x.errs) x.src s

end Sys2Proof.Machine
end

