-- ==== Sys2Proof/Machine/Sign.lean ====
section
/-! DEFINITION. The signature check of a firmware image (R418): SHA-384 and ECDSA over P-384, which R418 takes from FIPS 186-5. -/

namespace Sys2Proof.Machine

/-! ### SHA-384 (FIPS 180-4) -/

/-- The greatest number whose k-th power is not above x, of n bits. -/
def rootOf (k x : Nat) : Nat → Nat → Nat
  | 0, r => r
  | n + 1, r => rootOf k x n (if (r + 2 ^ n) ^ k ≤ x then r + 2 ^ n else r)

/-- The first 64 bits of the fractional part of the k-th root of a number. -/
def rootBits (k x : Nat) : BitVec 64 := BitVec.ofNat 64 (rootOf k (x * 2 ^ (64 * k)) 69 0)

/-- The first 80 primes. -/
def shaPrimes : List Nat := (List.range 410).filter fun n => decide (2 ≤ n) && (List.range n).all fun d => decide (d < 2) || n % d != 0

/-- The round constants, from cube roots, and the first state, from square roots. [log 38 PRESUMED] -/
def shaRounds : List (BitVec 64) := shaPrimes.map (rootBits 3)
def shaStart : List (BitVec 64) := ((shaPrimes.drop 8).take 8).map (rootBits 2)

/-- Two rotations and a third, or a shift, of a word. -/
def shaMix (a b c : Nat) (x : BitVec 64) : BitVec 64 := x.rotateRight a ^^^ x.rotateRight b ^^^ x.rotateRight c
def shaSigma (a b c : Nat) (x : BitVec 64) : BitVec 64 := x.rotateRight a ^^^ x.rotateRight b ^^^ (x >>> c)

/-- The message schedule, newest word first. -/
def shaSchedule : Nat → List (BitVec 64) → List (BitVec 64)
  | 0, l => l
  | n + 1, l =>
    let w (k : Nat) : BitVec 64 := l.getD k 0#64
    shaSchedule n ((shaSigma 19 61 6 (w 1) + w 6 + shaSigma 1 8 7 (w 14) + w 15) :: l)

/-- One round, of a state listed from a to h. -/
def shaRound (s : List (BitVec 64)) (kw : BitVec 64 × BitVec 64) : List (BitVec 64) :=
  match s with
  | [a, b, c, d, e, f, g, h] =>
    let t := h + shaMix 14 18 41 e + ((e &&& f) ^^^ (~~~e &&& g)) + kw.1 + kw.2
    [t + shaMix 28 34 39 a + ((a &&& b) ^^^ (a &&& c) ^^^ (b &&& c)), a, b, c, d + t, e, f, g]
  | l => l

/-- Bytes as a number, highest first. -/
def beNat (l : List Byte) : Nat := l.foldl (fun n b => 256 * n + b.toNat) 0

/-- A block of 128 bytes goes into the state. -/
def shaBlock (s : List (BitVec 64)) (block : List Byte) : List (BitVec 64) :=
  let words := (List.range 16).map fun k => BitVec.ofNat 64 (beNat ((block.drop (8 * k)).take 8))
  let w := (shaSchedule 64 words.reverse).reverse
  List.zipWith (· + ·) s ((shaRounds.zip w).foldl shaRound s)

/-- The padded message: whole blocks, with its length in bits. -/
def shaPad (l : List Byte) : List Byte :=
  let n := 8 * l.length
  l ++ [0x80#8] ++ List.replicate ((239 - l.length % 128) % 128) 0#8
    ++ (List.range 16).map fun k => BitVec.ofNat 8 (n / 256 ^ (15 - k))

/-- SHA-384: 48 bytes. [log 38 PRESUMED] -/
def sha384 (l : List Byte) : List Byte :=
  let p := shaPad l
  let s := (List.range (p.length / 128)).foldl (fun s k => shaBlock s ((p.drop (128 * k)).take 128)) shaStart
  (s.take 6).flatMap fun w => (List.range 8).map fun k => w.extractLsb' (56 - 8 * k) 8

/-! ### P-384 (SP 800-186) -/

/-- The field's prime. [log 38 PRESUMED] -/
def curveP : Nat := 2 ^ 384 - 2 ^ 128 - 2 ^ 96 + 2 ^ 32 - 1
def curveB : Nat := 0xb3312fa7e23ee7e4988e056be3f82d19181d9c6efe8141120314088f5013875ac656398d8a2ed19d2a85c8edd3ec2aef
/-- The base point and its order. [log 38 PRESUMED] -/
def curveG : Nat × Nat :=
  (0xaa87ca22be8b05378eb1c71ef320ad746e1d3b628ba79b9859f741e082542a385502f25dbf55296c3a545e3872760ab7,
   0x3617de4a96262c6f5d9e98bf9292dc29f8f41dbd289a147ce9da3113b5f0b8c00a60b1ce1d7e819d7a431d7c90ea0e5f)
def curveN : Nat := 0xffffffffffffffffffffffffffffffffffffffffffffffffc7634d81f4372ddf581a0db248b0a77aecec196accc52973

/-- a^e mod m, over the exponent's lower n bits from the highest on. -/
def powMod (m a e : Nat) : Nat → Nat → Nat
  | 0, r => r
  | n + 1, r => powMod m a e n (r * r % m * (if e.testBit n then a else 1) % m)

/-- The inverse modulo a prime of 384 bits. -/
def invMod (m a : Nat) : Nat := powMod m (a % m) (m - 2) 384 1

/-- A point of the curve; none: the point at infinity. -/
abbrev Point := Option (Nat × Nat)

/-- y² = x³ − 3x + b. -/
def onCurve (x y : Nat) : Bool := decide (x < curveP) && decide (y < curveP) && y * y % curveP == (x * x * x + (curveP - 3) * x + curveB) % curveP

/-- The third point of a line with a slope through two points, reflected. -/
def lineThrough (slope x1 y1 x2 : Nat) : Nat × Nat :=
  let x := (slope * slope + 2 * curveP - x1 - x2) % curveP
  (x, (slope * (x1 + curveP - x) + curveP - y1) % curveP)

def Point.add (p q : Point) : Point :=
  match p, q with
  | none, q => q
  | p, none => p
  | some (x1, y1), some (x2, y2) =>
    if x1 = x2 then
      if (y1 + y2) % curveP = 0 then none
      else some (lineThrough ((3 * x1 * x1 + curveP - 3) * invMod curveP (2 * y1) % curveP) x1 y1 x2)
    else some (lineThrough ((y2 + curveP - y1) * invMod curveP (x2 + curveP - x1) % curveP) x1 y1 x2)

/-- k·p over the lower n bits of k from the highest on. -/
def Point.times (k : Nat) (p : Point) : Nat → Point → Point
  | 0, r => r
  | n + 1, r =>
    let d := r.add r
    p.times k n (if k.testBit n then d.add p else d)

/-! ### ECDSA (FIPS 186-5) -/

/-- A signature r, s of a message's hash is valid under an uncompressed public key. [log 38 PRESUMED] -/
def ecdsaValid (key message sig : List Byte) : Bool :=
  let qx := beNat ((key.drop 1).take 48)
  let qy := beNat (key.drop 49)
  let r := beNat (sig.take 48)
  let s := beNat (sig.drop 48)
  let w := invMod curveN s
  let x := (Point.times (beNat (sha384 message) * w % curveN) (some curveG) 384 none).add (Point.times (r * w % curveN) (some (qx, qy)) 384 none)
  key.length == 97 && key.head? == some 4#8 && onCurve qx qy && sig.length == 96 && decide (1 ≤ r ∧ r < curveN ∧ 1 ≤ s ∧ s < curveN)
    && (match x with
        | some (x, _) => x % curveN == r
        | none => false)

end Sys2Proof.Machine
end

