-- ==== Sys2Proof/Machine/Power.lean ====
section
/-! DEFINITION. RESET, boot and supplies (R1, R400 to R405, R410 to R412, R419 to R421, R448), lockstep (R25), JTAG (R422), and the commands `mode.set` and `hearth.enter` with what ends HEARTH entry (R23, R372, R406). -/

namespace Sys2Proof.Machine

/-! ### The banks of firmware -/

def NonVol.fwBank (b : Bool) (nv : NonVol) : FwBank := if b then nv.fwB else nv.fwA
def NonVol.setFwBank (b : Bool) (x : FwBank) (nv : NonVol) : NonVol := if b then { nv with fwB := x } else { nv with fwA := x }

/-- A firmware write that is cut short leaves no image in the bank, if it had begun there; whether it had is not observable (a free value). [log 21 DEDUCED] -/
def Device.cutImage (d : Device) : Device :=
  match d.work.verify with
  | none => d
  | some _ =>
    let x := d.takeFree
    let b := !d.nv.fwForceB
    if Config.freeNat x.1 % 2 = 1 then { x.2 with nv := d.nv.setFwBank b { d.nv.fwBank b with valid := false } } else x.2

/-! ### RESET (R400, R401) -/

/-- Every reset but a power-on reset: what is volatile takes its reset value; the locks, the anti-rollback work and the record of the last brownout stay, and so does the TAP's instruction. [log 10 DEDUCED] -/
def Device.resetDevice (byResetN : Bool) (d : Device) : Device :=
  let d := d.cutImage
  let x := Device.resetWith d.nv
  { x with
    regs := { x.regs with lockDbg := d.regs.lockDbg, lockCal := d.regs.lockCal, lockFw := d.regs.lockFw }
    work := { x.work with otpPending := d.work.otpPending }
    pw := { x.pw with lastBrownout := d.pw.lastBrownout, byResetN := byResetN, brownoutDue := d.pw.brownoutDue,
                      warnTime := d.pw.warnTime, resetN := d.pw.resetN, jtag := d.pw.jtag, railsUp := d.pw.railsUp }
    free := d.free }

/-- The reset of `fw.activate`, which is like one by `RESET_N` (R374, R421). -/
def Device.activateReset (d : Device) : Device :=
  { d.resetDevice true with pw := { (d.resetDevice true).pw with activated := true } }.actJtag

/-- A power-on reset clears those too; the level of `RESET_N` is the pin's own. [log 156 DEDUCED] -/
def Device.powerOnReset (d : Device) : Device :=
  let x := Device.resetWith d.cutImage.nv
  { x with pw := { x.pw with resetN := d.pw.resetN }, free := d.cutImage.free }

/-- Mailboxes lose their contents with the rest. [log 18 DESIGN CHOICE] -/
def State.resetTo (d : Device) (s : State) : State := { s with mbx := [], dev := d }

def Device.setResetN (low : Bool) (d : Device) : Device :=
  { d with pw := { d.pw with resetN := low, activated := d.pw.activated && !low } }.actJtag

/-- `RESET_N` is held low. -/
def execResetAssert (s : State) : Host.Outcome State Fault Refusal :=
  if s.dev.pw.mode = .reset then onDev (Device.setResetN true) s
  else .next (s.resetTo ((s.dev.resetDevice true).setResetN true))

/-- The lowest rail of a set. -/
def lowestRail (rails : BitVec 6) : Nat := ((List.range 6).find? fun i => rails.getLsbD i).getD 7

/-- Rails have stayed below their reset threshold; `rails` are those below it now. All six together make a power-on reset (R401); the lowest is recorded (R412). [log 17 DEDUCED, 156 DEDUCED] -/
def execBrownout (rails : BitVec 6) (s : State) : Host.Outcome State Fault Refusal :=
  if rails = 0#6 then .next s
  else if rails = 0x3F#6 then .next (s.resetTo s.dev.powerOnReset)
  else if s.dev.pw.mode = .reset then onDev (fun d => { d with pw := { d.pw with railsUp := false } }.actJtag) s
  else
    let d := s.dev.resetDevice false
    .next (s.resetTo { d with pw := { d.pw with lastBrownout := BitVec.ofNat 3 (lowestRail rails), brownoutDue := true,
                                                railsUp := false } }.actJtag)

/-! ### The choice of a bank (R403, R418, R421) -/

/-- The bank that `BOOT_SEL` selects. [log 14 DEDUCED] -/
def selectBank (sel : BitVec 2) (ignored inForce : Bool) : Bool :=
  if ignored then inForce
  else match sel.toNat with
    | 1 => false
    | 2 => true
    | _ => inForce

/-- The device leaves RESET for BOOT; after `fw.activate` the bank it named boots, whatever `BOOT_SEL` says (R374). [log 14 DEDUCED] -/
def execResetRelease (bootSel : BitVec 2) (s : State) : Host.Outcome State Fault Refusal :=
  if s.dev.pw.mode = .reset then
    onDev (fun d =>
      let ignored := d.pw.byResetN && d.regs.lockFw
      let d := d.enterMode .boot
      { d with pw := { d.pw with resetN := false, railsUp := true, stage := 1, bootSel := bootSel, selIgnored := ignored,
                                 fwBankB := selectBank bootSel (ignored || d.pw.activated) d.nv.fwForceB } }.actJtag) s
  else .next s

/-- The image that boot runs as far as its headers show it: the selected bank's, else the other bank's (R403, R418); neither where no bank holds one. -/
def NonVol.bootImage (b : Bool) (nv : NonVol) : Option FwBank :=
  if (nv.fwBank b).valid then some (nv.fwBank b) else if (nv.fwBank !b).valid then some (nv.fwBank !b) else none

/-- 5 ms after leaving RESET (R1, R322): `FW_VER` shows the header of the image that boots; where no bank holds one it is not stated. [log 13 DEDUCED] -/
def execIdentityReady (s : State) : Host.Outcome State Fault Refusal :=
  if s.dev.pw.mode = .reset ∨ s.dev.pw.idReady then .next s
  else
    onDev (fun d =>
      match d.nv.bootImage d.pw.fwBankB with
      | some b => { d with pw := { d.pw with idReady := true, fwVer := b.fwVer } }
      | none => { d with pw := { d.pw with idReady := true, fwVer := Config.freeWord d.free }, free := d.free + 1 }) s

/-- What SIGNATURE signs: header bytes 0 to 159 (R417), then the body (R418). -/
def FwBank.signed (b : FwBank) : List Byte :=
  leWord 0x52464D55#32 ++ leWord b.fwVer ++ leBytes 4 b.rollback ++ [BitVec.ofNat 8 b.keySlot, b.revoke.setWidth 8] ++ zeros 2
    ++ leBytes 4 b.body.length ++ zeros 12 ++ b.key ++ zeros 31 ++ b.body

/-- The step of R418 that an image fails first; none: it passes. [log 157 DEDUCED] -/
def NonVol.failedCheck (b : FwBank) (nv : NonVol) : Option Nat :=
  if !b.valid then some 1
  else if decide (nv.keyHashes[b.keySlot]? ≠ some (sha384 b.key)) || nv.revoked.getLsbD b.keySlot then some 2
  else if !(ecdsaValid b.key b.signed b.sig) then some 3
  else if b.rollback < nv.rollback then some 4
  else if b.revoke.getLsbD b.keySlot then some 5
  else none

/-- R418: the image verifies. -/
def NonVol.accepts (b : FwBank) (nv : NonVol) : Bool := (nv.failedCheck b).isNone

/-! ### Boot stages (R402, R404, R405) -/

def sysSelftest : Nat := 6

def Device.atStage (n : Nat) (d : Device) : Device := { d with pw := { d.pw with stage := n } }

/-- Boot ends in SAFE. [log 15 DEDUCED] -/
def Device.bootFails (d : Device) : Device := (d.declareSafe 5).raise evSys (ebit sysSelftest)

/-- No bootable image, or no clock. [log 15 DEDUCED] -/
def Device.halt (d : Device) : Device := (d.atStage 0xE0).bootFails

/-- A self-test of boot fails: `BOOT_STAT` shows the stage. [log 15 DEDUCED] -/
def Device.stageFails (d : Device) : Device := { d with pw := { d.pw with selftestFail := true } }.bootFails

/-- A bank's image boots: `FW_VER`, once readable, reports it (R1). -/
def Device.bootsBank (b : Bool) (d : Device) : Device :=
  { d with pw := { d.pw with fwBankB := b, fwVer := if d.pw.idReady then (d.nv.fwBank b).fwVer else d.pw.fwVer } }

/-- VERIFY: the selected bank, or the other one. A begins to search; B follows it (R402). [log 12 DEDUCED, 157 DEDUCED] -/
def Device.verifyImages (d : Device) : Device :=
  let b := d.pw.fwBankB
  let clocks (d : Device) : Device := (d.atStage 4).synState .A .search
  if d.nv.accepts (d.nv.fwBank b) then clocks (d.bootsBank b)
  else
    let check := (d.nv.failedCheck (d.nv.fwBank b)).getD 0
    let d := { d with pw := { d.pw with sigFail := true } }.logPut 5 [bit01 b, check]
    if d.nv.accepts (d.nv.fwBank !b) then
      clocks ({ d with pw := { d.pw with fallback := true } }.bootsBank !b)
    else d.halt

/-- STORES: the newest valid bank of each store is loaded; a written but invalid bank beside it is reported (R125, R271). [log 16 DEDUCED] -/
def Device.loadStores (d : Device) : Device :=
  let nv := d.nv
  let o := nv.newestOwner
  let l := nv.newestLin
  let badO := o.any fun b => (nv.owner !b).written && !(nv.owner !b).valid
  let badL := l.any fun b => (nv.lin !b).written && !(nv.lin !b).valid
  let w := match o with
    | some b => { d.work with ownerLedger := (nv.owner b).ledger, owner := (nv.owner b).recs, ownerSeq := (nv.owner b).seq, ownerB := b,
                              bankRecovered := badO }
    | none => { d.work with ownerLedger := Ledger.init, owner := [], ownerSeq := 0#32, ownerB := false, bankRecovered := false }
  let w := match l with
    | some b => { w with linSeq := (nv.lin b).seq, linB := b }
    | none => { w with linSeq := 0#32, linB := false }
  let d := { d with work := w, pw := { d.pw with ownerOk := o.isSome, linOk := l.isSome } }
  if badO || badL then d.raise evCal (ebit calRecovered) else d

/-- The persisted linearisation sets (R125). -/
def Device.persistedLins (d : Device) : Tbl LinSet :=
  match d.nv.newestLin with
  | some b => (d.nv.lin b).sets
  | none => []

/-- The tiles' links are up and their trims loaded. -/
def Device.tilesUp (up : Bool) (d : Device) : Device :=
  forNat 4 (fun t d => d.setTile t fun x => { x with linkUp := up, trimLoaded := up, tempValid := x.tempValid && up }) d

/-- R419, R420: the anti-rollback counter is raised and slots are revoked, as the images ask that have reached DONE. -/
def Device.raiseRollback (d : Device) : Device :=
  match d.work.otpPending with
  | none => d
  | some (rollback, revoke) =>
    { d with nv := { d.nv with rollback := Max.max d.nv.rollback rollback, revoked := d.nv.revoked ||| revoke },
             work := { d.work with otpPending := none } }

/-- The DONE of an image asks for its counter and its revocations, beside what an earlier image still waits for; work on the one-time-programmable storage waits for a boundary with no supply in warning. -/
def Device.otpWork (d : Device) : Device :=
  let b := d.nv.fwBank d.pw.fwBankB
  let old := d.work.otpPending.getD (0, 0#4)
  let d := { d with work := { d.work with otpPending := some (Max.max old.1 b.rollback, old.2 ||| b.revoke) } }
  if d.inWarning then d else d.raiseRollback

/-- The report of a reset that a rail caused (R412). -/
def Device.reportBrownout (d : Device) : Device :=
  if d.pw.brownoutDue then
    ({ d with pw := { d.pw with brownoutDue := false } }.logPut 6 [d.pw.lastBrownout.toNat, d.pw.warnTime]).raise evSupply (ebit 16)
  else d

/-- DONE: the boot configuration in force under tag 0, and IDLE. How long the device waits before it may elect itself is a free value below 70 epochs (R380). [log 124 DEDUCED] -/
def Device.bootDone (r : BootResult) (d : Device) : Device :=
  let c := { Cfg.boot with lins := d.persistedLins }
  let x := d.takeFree
  let d := x.2.enterMode .idle
  let d := { d with
    pw := { d.pw with booted := true, bootMs := Min.min 255 r.ms }
    fw := { d.fw with live := c, eff := c, committed := 0#16, effective := 0#16 }
    nv := { d.nv with fwForceB := d.pw.fwBankB }
    fab := { d.fab with electAfter := d.epoch + Config.freeNat x.1 % 70 } }
  let d := (d.raise evSys (ebit sysBootDone)).otpWork
  d.reportBrownout.settleAouts

/-- The end of a boot stage; at STORES the factory region passes when its CRC-32C matches (R250). [log 11 DEDUCED, 12 DEDUCED] -/
def Device.bootStage (r : BootResult) (d : Device) : Device :=
  match d.pw.stage with
  | 1 => { d with clk := { d.clk with xoOk := d.clk.xoOk || r.pass } }.atStage 2
  | 2 => d.atStage 3
  | 3 => d.verifyImages
  | 4 => if d.clk.counting then d.atStage 5 else d.halt
  | 5 => d.atStage 6
  | 6 =>
    let d := (d.loadStores)
    let ok := d.nv.factory.sound
    let d := { d with pw := { d.pw with factoryOk := ok } }
    if ok then d.atStage 7 else d.stageFails
  | 7 => if r.pass then (d.tilesUp true).atStage 8 else d.stageFails
  | 8 =>
    let d := { d with pw := { d.pw with dramOk := r.pass } }
    if r.pass then d.atStage 9 else d.stageFails
  | 9 => if r.pass then d.atStage 10 else d.stageFails
  | 10 => d.bootDone r
  | _ => d

def execBootStageEnd (r : BootResult) (s : State) : Host.Outcome State Fault Refusal :=
  if s.dev.pw.mode = .boot then onDev (Device.bootStage r) s else .next s

/-! ### Supplies (R410, R411) -/

/-- A warning abandons the write of a firmware bank whose commit record has not begun; whether it has is not observable (a free value), and one found begun stays so. [log 21 DEDUCED] -/
def Device.abandonImage (d : Device) : Device :=
  match d.work.verify with
  | none => d
  | some (_, _, w) =>
    let x := d.takeFree
    if d.work.imageBegun then d
    else if Config.freeNat x.1 % 2 = 1 then { x.2 with work := { x.2.work with imageBegun := true } }
    else
      let d := x.2.cutImage
      { d with work := { d.work with verify := none } }.complete w stCalSupplyLow []

/-- An open calibration notes the rail that goes into warning, for the samples that will carry `SUPPLY_WARN` (R260, R261). -/
def Device.warnCal (rail : Nat) (d : Device) : Device :=
  { d with work := { d.work with cal := d.work.cal.map fun c => { c with warned := some (d.supplyFound rail) } } }

/-- A rail enters warning. -/
def Device.warnRailIn (rail : Nat) (d : Device) : Device :=
  let t := d.clk.time
  let d := { d with
    pw := { d.pw with warn := d.pw.warn ||| (1#6 <<< rail), warnTime := t }
    marks := { d.marks with warn := spanOpen t d.marks.warn } }
  ((((d.raise evSupply (ebit rail)).logPut 4 [rail]).warnCal rail).warnWrites).abandonImage

def execSupplyWarning (rail : Fin 6) (s : State) : Host.Outcome State Fault Refusal :=
  if s.dev.pw.mode = .reset ∨ s.dev.pw.warn.getLsbD rail.val then .next s else onDev (Device.warnRailIn rail.val) s

/-- A rail leaves warning. -/
def Device.warnRailOut (rail : Nat) (d : Device) : Device :=
  let warn := d.pw.warn &&& ~~~(1#6 <<< rail)
  let d := { d with
    pw := { d.pw with warn := warn }
    marks := { d.marks with warn := if warn = 0#6 then spanClose d.clk.time d.marks.warn else d.marks.warn } }
  d.raise evSupply (ebit (8 + rail))

def execSupplyWarningCleared (rail : Fin 6) (s : State) : Host.Outcome State Fault Refusal :=
  if s.dev.pw.warn.getLsbD rail.val then onDev (Device.warnRailOut rail.val) s else .next s

/-! ### mode.set and hearth.enter (R22, R23, R372, R408, R409, R415) -/

/-- *Mode transitions*, as far as `mode.set` makes them. -/
def modeAllowed (now target prior : Mode) : Bool :=
  match now, target with
  | .idle, .run => true
  | .idle, .calibrate => true
  | .idle, .maintain => true
  | .run, .idle => true
  | .calibrate, .idle => true
  | .maintain, .idle => true
  | .safe, .idle => true
  | .hearth, m => decide (m = prior)
  | _, _ => false

/-- A mode change, HEARTH entry or wake waits for its boundary or runs. -/
def Power.changing (p : Power) : Bool := p.pending.isSome || p.hearth.isSome || p.wake.isSome

/-- The mode change is accepted: a wake from HEARTH, or from a SAFE entered asleep, begins at the next boundary. [log 155 DEDUCED] -/
def Device.acceptMode (m : Mode) (e : Nat) (w : Waiter) (d : Device) : Device :=
  let d := if d.pw.mode = .calibrate then d.abortCal else d
  let wakes := decide (d.pw.mode = .hearth) || (decide (d.pw.mode = .safe) && d.pw.safeAsleep)
  if wakes then { d with pw := { d.pw with wake := some (e, m, some w) } }
  else { d with pw := { d.pw with pending := some (m, e, some w) } }

/-- [log 22 DEDUCED, 57 DEDUCED] -/
def modeSet : Handler := sizedTo 4 fun r d =>
  match Mode.ofCode (u8 r.body 0) with
  | none => refuse stBadField d
  | some m =>
    require (allZero r.body 1 3) stBadField d <|
    require (modeAllowed d.pw.mode m d.pw.prior) stWrongMode d <|
    require (!d.pw.changing && !(decide (d.pw.mode = .safe) && !d.pw.logRead)) stDenied d <|
    require (!d.longFull r.session) stDenied d <|
    let e := if d.working then d.epoch + 2 else d.epoch + 1
    (some ⟨stAccepted, [], some e⟩, (d.startLong r.session).acceptMode m e r.waiter)

/-- R23: H, the first boundary after the acceptance and after the effect boundary of every commit accepted before. [log 23 DEDUCED] -/
def Device.hearthEpoch (d : Device) : Nat :=
  let local_ := d.fw.batches.map (·.effect)
  let fabric := (d.fw.txns.filter fun t => t.prepared && decide (t.decision = some true)).map (·.target)
  (local_ ++ fabric).foldl Max.max d.epoch + 1

/-- [log 22 DEDUCED] -/
def hearthEnter : Handler := sizedTo 0 fun r d =>
  require (!d.pw.changing) stDenied d <|
  acceptLong r d fun d => { d with pw := { d.pw with hearth := some (d.hearthEpoch, some r.waiter) } }

/-- Power has fallen to its HEARTH limit: the completion of `hearth.enter` follows. -/
def execHearthPowerDownDone (t : Nat) (s : State) : Host.Outcome State Fault Refusal :=
  if s.dev.pw.mode = .hearth ∧ s.dev.pw.powerLow = false ∧ s.dev.pw.wake = none then
    onDev (fun d =>
      let d := d.tickTo t
      let w := d.pw.hearthWaiter
      ({ d with pw := { d.pw with powerLow := true, hearthWaiter := none } }).completeOpt w stOk (leWord d.modeWord)) s
  else .next s

/-- Every sample and result of before H has been written: none waits, and no stored stream or tally has one to come (R200, R406). -/
def Device.writesDone (d : Device) : Bool :=
  let h := match d.marks.runs with
    | (_, some e) :: _ => e
    | _ => 0
  let c := d.fw.eff
  let stored := c.regions.flatMap fun (_, r) => if r.type = 1 ∨ r.type = 2 then r.members else []
  let tallied := (c.tallies.filter fun (_, t) => t.enable && t.toRegion).map (·.1)
  d.gran.waiting.isEmpty && ((stored ++ tallied).all fun s => decide (0x480 ≤ s) || d.drained s h)
    && c.jobs.all fun (i, _) => (d.millNext i).isNone

/-- The writes of samples before H are done: self-refresh, and then the tiles power down (R406). -/
def execGranarySelfRefresh (t : Nat) (s : State) : Host.Outcome State Fault Refusal :=
  if s.dev.pw.mode = .hearth ∧ s.dev.gran.selfRefresh = false ∧ s.dev.writesDone then
    onDev (fun d =>
      let d := d.tickTo t
      { d with gran := { d.gran with selfRefresh := true } }.tilesUp false) s
  else .next s

/-! ### Lockstep (R24, R25) -/

/-- Both cores restart from the last checkpoint; the data path goes on (R15). -/
def execLockstepMismatch (s : State) : Host.Outcome State Fault Refusal :=
  if s.dev.pw.booted then onDev (fun d => { d with work := { d.work with lockstep := true } }) s else .next s

/-- The restart is complete: a request that stands in a mailbox is taken again. -/
def execLockstepRepaired (s : State) : Host.Outcome State Fault Refusal :=
  if s.dev.work.lockstep then
    let d := { s.dev with work := { s.dev.work with lockstep := false },
                          cnt := { s.dev.cnt with lockstepRepairs := s.dev.cnt.lockstepRepairs + 1#32 } }
    let d := (d.raise evSys (ebit 7)).logPut 7 []
    .next (forNat 4 State.answerUnknown { s with dev := d })
  else .next s

/-! ### JTAG (R422) -/

/-- An instruction is loaded, unless `TRST_N` holds the TAP in reset. [log 154 DESIGN CHOICE] -/
def execJtagInstruction (i : JtagInstr) (rails trst : Bool) (s : State) : Host.Outcome State Fault Refusal :=
  onDev (fun d => { d with pw := { d.pw with jtag := if trst then .bypass else i, railsUp := rails } }.actJtag) s

/-! ### The rows -/

def execModeSet (src : ReqSource) (s : State) : Host.Outcome State Fault Refusal := fwRow 0x0C01 modeSet src s
def execHearthEnter (src : ReqSource) (s : State) : Host.Outcome State Fault Refusal := fwRow 0x0C03 hearthEnter src s

end Sys2Proof.Machine
end

