-- ==== Sys2Proof/Machine/Diag.lean ====
section
/-! DEFINITION. Diagnostics and firmware images: `diag.selftest`, `diag.loopback`, `diag.log.read` (R356, R373), `fw.stage` and `fw.activate` (R374, R417 to R421). -/

namespace Sys2Proof.Machine

/-! ### Self-tests (R356) -/

/-- [log 146 DEDUCED] -/
def diagSelftest : Handler := sizedTo 4 fun r d =>
  let tests := u32 r.body 0
  require (decide (tests < 64)) stBadField d <|
  require d.work.selftest.isNone stDenied d <|
  acceptLong r d fun d => { d with work := { d.work with selftest := some (tests, r.waiter) } }

/-- Set bits of a mask of six tests. -/
def testCount (m : Nat) : Nat := ((List.range 6).filter fun k => hasBit m k).length

/-- The selected tests have passed or failed; four words of detail stand for each that failed. -/
def execSelftestDone (pass fail : Word) (detail : List Word) (s : State) : Host.Outcome State Fault Refusal :=
  match s.dev.work.selftest with
  | none => .next s
  | some (tests, w) =>
    if pass.toNat + fail.toNat = tests ∧ pass &&& fail = 0#32 ∧ detail.length = 4 * testCount fail.toNat then
      onDev (fun d =>
        let d := { d with work := { d.work with selftest := none } }
        let d := if fail = 0#32 then d else d.raise evSys (ebit sysSelftest)
        d.complete w stOk (leWord pass ++ leWord fail ++ detail.flatMap leWord)) s
    else .next s

/-! ### Loopback (R356) -/

/-- [log 146 DEDUCED, 147 DESIGN CHOICE, 149 DEDUCED] -/
def diagLoopback : Handler := sizedTo 8 fun r d =>
  let target := u8 r.body 0
  let index := u8 r.body 1
  let epochs := u32 r.body 4
  require (decide (target ≤ 2) && (target == 1 || decide (index < 4)) && allZero r.body 2 2 && decide (1 ≤ epochs) && decide (epochs ≤ 60000))
    stBadField d <|
  require d.work.loopback.isNone stDenied d <|
  acceptLong r d fun d =>
    let d := { d with work := { d.work with loopback := some ⟨target, index, d.epoch + epochs, r.waiter⟩ } }
    if target = 0 then d.setTile index fun x => { x with test := true } else d

/-- The run has ended: its bits and errors. [log 147 DESIGN CHOICE] -/
def Device.loopbackEnd (x : LoopRun) (bits errors : Nat) (d : Device) : Device :=
  let d := { d with work := { d.work with loopback := none } }
  let d := if x.target = 0 then d.setTile x.index fun y => { y with test := false } else d
  d.complete x.waiter stOk (leBytes 8 bits ++ leBytes 8 errors)

def execLoopbackDone (bits errors : Nat) (s : State) : Host.Outcome State Fault Refusal :=
  match s.dev.work.loopback with
  | none => .next s
  | some x => if x.ends ≤ s.dev.epoch then onDev (Device.loopbackEnd x bits errors) s else .next s

/-! ### The device log (R373) -/

def LogEntry.bytes (e : LogEntry) : List Byte := leBytes 8 e.time ++ leBytes 2 e.code ++ leBytes 2 e.arg ++ leWord e.value

/-- An index stands at or after another, modulo 2^32. -/
def indexFrom (from_ i : Nat) : Bool := decide ((i + 2 ^ 32 - from_) % 2 ^ 32 < 2 ^ 31)

/-- The entries a request reads. -/
def logSlice (log : List LogEntry) (from_ count : Nat) : List LogEntry :=
  (if from_ = 0xFFFFFFFF then log else log.filter fun e => indexFrom from_ e.index).take count

/-- Reading the newest entry lets the device leave SAFE (R372). OLDEST and NEWEST of an empty log are not stated. [log 57 DEDUCED, 179 DESIGN CHOICE] -/
def diagLogRead : Handler := sizedTo 8 fun r d =>
  let from_ := u32 r.body 0
  let count := u32 r.body 4
  require (decide (1 ≤ count) && decide (count ≤ 62)) stBadField d <|
  let l := logSlice d.nv.log from_ count
  match d.nv.log.head?, d.nv.log.getLast? with
  | some a, some b =>
    (some (Ans.ok (leBytes 4 a.index ++ leBytes 4 b.index ++ leBytes 4 l.length ++ zeros 4 ++ l.flatMap LogEntry.bytes)),
      { d with pw := { d.pw with logRead := d.pw.logRead || l.contains b } })
  | _, _ =>
    (some (Ans.ok (leWord (Config.freeWord d.free) ++ leWord (Config.freeWord (d.free + 1)) ++ zeros 8)), { d with free := d.free + 2 })

/-! ### Images (R417, R418) -/

def imageLimit : Nat := 8388608

/-- The bytes of an image in a STAGING region; a word that an error has made unreadable reads as a free value. [log 150 DESIGN CHOICE] -/
def RegionRun.image (x : RegionRun) (size free : Nat) : List Byte :=
  (List.range size).map fun i =>
    if x.badWords.contains (i / 8) then (Config.freeWord (free + i / 8)).setWidth 8 else tget 0#8 x.bytes i

/-- R418 step 1: the header's fixed fields. [log 151 DEDUCED, 152 DEDUCED] -/
def headerStands (l : List Byte) : Bool :=
  u32 l 0 == 0x52464D55 && u8 l 5 == 3 && decide (u32 l 8 ≤ 64) && decide (u8 l 12 ≤ 3) && decide (u8 l 13 ≤ 15) && allZero l 14 2
    && u32 l 16 % 4 == 0 && decide (u32 l 16 ≤ 8388352) && u32 l 16 + 256 == l.length && allZero l 20 12 && u8 l 32 == 4
    && allZero l 129 31

/-- A bank that holds an image. -/
def imageBank (l : List Byte) : FwBank :=
  ⟨true, BitVec.ofNat 32 (u32 l 4), u32 l 8, u8 l 12, BitVec.ofNat 4 (u8 l 13), (l.drop 32).take 97, (l.drop 160).take 96, l.drop 256⟩

/-- R418: `OK`, or the status of the first step that fails. [log 151 DEDUCED] -/
def NonVol.verify (l : List Byte) (nv : NonVol) : BitVec 16 :=
  if !headerStands l then stFwBadSignature
  else
    match nv.failedCheck (imageBank l) with
    | none => stOk
    | some 4 => stFwRollback
    | some _ => stFwBadSignature

/-- The image is verified, and a good one stands in the bank not in force. -/
def Device.verified (r size : Nat) (w : Waiter) (d : Device) : Device :=
  let l := (d.region r).image size d.free
  let st := d.nv.verify l
  let d := { d with free := d.free + size / 8 + 1, work := { d.work with verify := none, imageBegun := false } }
  let d := if st = stOk then { d with nv := d.nv.setFwBank (!d.nv.fwForceB) (imageBank l) }.raise evSys (ebit 5) else d
  d.complete w st []

def execFwVerifyDone (s : State) : Host.Outcome State Fault Refusal :=
  match s.dev.work.verify with
  | none => .next s
  | some (r, size, w) => onDev (Device.verified r size w) s

/-- Write a chunk; a 64-bit word that is written whole is readable again. -/
def RegionRun.writeChunk (off : Nat) (data : List Byte) (x : RegionRun) : RegionRun :=
  { x with bytes := tputList 0#8 x.bytes off data,
           badWords := x.badWords.filter fun w => !(decide (off ≤ 8 * w) && decide (8 * w + 8 ≤ off + data.length)) }

/-- [log 145 DEDUCED, 146 DEDUCED] -/
def fwStage : Handler := fun r d =>
  let n := r.body.length - 16
  let g := u8 r.body 0
  let ctl := u8 r.body 1
  let off := u32 r.body 4
  let size := u32 r.body 8
  let c := d.fw.eff.region g
  require (decide (16 ≤ r.body.length) && decide (n ≤ 992)) stBadLength d <|
  require (decide (g < 64) && c.type == 5 && decide (ctl ≤ 1) && allZero r.body 2 2 && off % 4 == 0 && allZero r.body 12 4
      && (if ctl = 1 then decide (size ≤ imageLimit) else size == 0)) stBadField d <|
  require (!d.inWarning) stCalSupplyLow d <|
  require (decide (off + n ≤ c.capacity) && decide (size ≤ c.capacity)) stMemoryShort d <|
  require (ctl == 0 || d.work.verify.isNone) stDenied d <|
  let put (d : Device) : Device := d.setRegion g (RegionRun.writeChunk off (r.body.drop 16))
  if ctl = 0 then (some (Ans.ok []), put d)
  else acceptLong r d fun d => { put d with work := { (put d).work with verify := some (g, size, r.waiter) } }

/-- A commit is accepted and not in effect, a mode change waits, or a store is being written. [log 153 DEDUCED] -/
def Device.activateBusy (d : Device) : Bool :=
  !d.fw.batches.isEmpty || d.pw.changing || !d.work.writes.isEmpty || d.work.verify.isSome

/-- [log 153 DEDUCED] -/
def fwActivate : Handler := sizedTo 4 fun r d =>
  let b := u8 r.body 0 == 1
  require (decide (u8 r.body 0 ≤ 1) && allZero r.body 1 3 && (d.nv.fwBank b).valid) stBadField d <|
  require (!d.activateBusy) stDenied d <|
  let e := (d.work.activate.getD (d.epoch + 2))
  (some ⟨stOk, [], some e⟩, { d with nv := { d.nv with fwForceB := b }, work := { d.work with activate := some e } })

/-! ### The rows -/

def execDiagSelftest (src : ReqSource) (s : State) : Host.Outcome State Fault Refusal := fwRow 0x0D01 diagSelftest src s
def execDiagLoopback (src : ReqSource) (s : State) : Host.Outcome State Fault Refusal := fwRow 0x0D02 diagLoopback src s
def execDiagLogRead (src : ReqSource) (s : State) : Host.Outcome State Fault Refusal := fwRow 0x0D03 diagLogRead src s
def execFwStage (src : ReqSource) (s : State) : Host.Outcome State Fault Refusal := fwRow 0x0E01 fwStage src s
def execFwActivate (src : ReqSource) (s : State) : Host.Outcome State Fault Refusal := fwRow 0x0E02 fwActivate src s

end Sys2Proof.Machine
end

