-- ==== Sys2Proof/Machine/Swap.lean ====
section
/-! DEFINITION. The configuration swap of a boundary (R20, R21) and what it does to each block: channels and points (R45, R46, R107 to R109, R138), streams (R21, R203), units (R196), regions and tallies (R205, R216), Mill jobs and density maps (R163, R164, R169). -/

namespace Sys2Proof.Machine

/-- What a swap changes: its boundary, the configurations and owner corrections before and after it, and the items that led there. -/
structure Swap where
  b : Nat
  old : Cfg
  new : Cfg
  oldOwner : Tbl OwnerRec
  newOwner : Tbl OwnerRec
  items : List Item
  deriving DecidableEq, Repr

/-! ### The streams a commit affects (R21) -/

def Swap.chan (n : Nat) (x : Swap) : Bool := decide (x.old.chan n ≠ x.new.chan n)
def Swap.point (p : Nat) (x : Swap) : Bool := decide (x.old.point p ≠ x.new.point p)

/-- A point's stream: its channel, its record, its linearisation set and its owner correction. -/
def Swap.pointStream (p : Nat) (x : Swap) : Bool :=
  x.chan (p / 8) || x.point p || decide (x.old.lin p ≠ x.new.lin p) || decide (tfind x.oldOwner p ≠ tfind x.newOwner p)

/-- A live job's source stream is affected. -/
def Swap.jobSource (j : JobCfg) (x : Swap) : Bool :=
  !j.replay && (if j.real then x.chan j.src else x.pointStream j.src)

/-- A job's results: its record, tables and source. -/
def Swap.job (i : Nat) (x : Swap) : Bool :=
  decide (x.old.job i ≠ x.new.job i)
    || decide (keysOf 64 i x.old.bands ≠ keysOf 64 i x.new.bands) || decide (keysOf 1024 i x.old.masks ≠ keysOf 1024 i x.new.masks)
    || (match x.old.job i, x.new.job i with
      | some a, some b => decide (x.old.userWindow a ≠ x.new.userWindow b) || x.jobSource b
      | _, _ => false)

/-- A trigger stream carries the records in which its unit is primary: those of its group's units. -/
def Swap.group (u : Nat) (x : Swap) : Bool :=
  let groups := [x.old.unit u, x.new.unit u].filterMap fun c => c.map (·.rgrp)
  (List.range 32).any fun v =>
    decide (x.old.unit v ≠ x.new.unit v) && [x.old.unit v, x.new.unit v].any fun c => c.any fun c => groups.contains c.rgrp

/-- What produces a stream's elements changes. -/
def Swap.produces (s : Nat) (x : Swap) : Bool :=
  match streamType s with
  | 1 => x.pointStream s
  | 2 => x.chan (s - 0x400)
  | 3 => x.job (s - 0x500)
  | 4 =>
    match x.new.map (s - 0x600) with
    | some c => decide (x.old.map (s - 0x600) ≠ some c) || x.job c.job || decide (x.old.region c.region ≠ x.new.region c.region)
    | none => (x.old.map (s - 0x600)).isSome
  | 5 => x.pointStream (s - 0x800) || decide (x.old.tally (s - 0x800) ≠ x.new.tally (s - 0x800))
  | 6 => x.group (s - 0x700)
  | 8 => decide (x.old.region (s - 0xC00) ≠ x.new.region (s - 0xC00))
  | _ => false

/-- The commit affects a stream. [log 161 DEDUCED] -/
def Swap.affects (s : Nat) (x : Swap) : Bool := decide (x.old.stream s ≠ x.new.stream s) || x.produces s

/-- Every stream id with a record (R239). -/
def streamIds : List Nat := (List.range 0xC40).filter streamExists

/-- Affected streams that run before or after the swap. -/
def Swap.streams (x : Swap) : List Nat := streamIds.filter fun s => (x.old.streamOn s || x.new.streamOn s) && x.affects s

/-- A stream's next element lies at or after a boundary. -/
def Device.pastEnd (s b : Nat) (o : OpenCart) (d : Device) : Bool :=
  if 0x800 ≤ s ∧ s < 0xC00 then d.drained (s - 0x800) b
  else if s < 0x480 then d.drained s b
  else decide (b ≤ o.at_ + o.count * (d.cfgAt o.at_).elemSpacing s)

/-- Close the open carts of streams whose last element before a boundary is in them. [log 163 DEDUCED] -/
def Device.shutEnded (b : Nat) (l : List Nat) (d : Device) : Device :=
  forList l (fun s d =>
    match tfind d.port.open_ s with
    | some o => if d.pastEnd s b o then d.shut s else d
    | none => d) d

/-- Streams are cut at b; cuts that no element can meet any more are forgotten. -/
def addCuts (b : Nat) (l : List Nat) (cuts : List (Nat × Nat)) : List (Nat × Nat) :=
  (cuts.filter fun (s, c) => !(l.contains s) || decide (b < c + markHorizon)) ++ l.map fun s => (s, b)

/-- [log 163 DEDUCED] -/
def Device.cutStreams (x : Swap) (d : Device) : Device :=
  let l := x.streams
  let stored := l.filter fun s => decide (s < 0x580)
  let d := { d with port := { d.port with cuts := addCuts x.b l d.port.cuts }, gran := { d.gran with cuts := addCuts x.b stored d.gran.cuts } }
  d.shutEnded x.b l

/-! ### Channels and points -/

/-- Parameters whose change restarts a running channel (R45). -/
def ChanCfg.restarts (o c : ChanCfg) : Bool :=
  o.mode != c.mode || o.subform != c.subform || o.fch != c.fch || (o.cf != c.cf && (o.mode == 1 || c.mode == 1))

/-- What a commit does to a channel that stays enabled: a restart, or one path's gain (R45, R46, R107, R109). -/
def ChanCfg.gainMove (o c : ChanCfg) (out : Option PathId) : Bool × Option PathId :=
  let low := o.gl != c.gl
  let high := o.gh != c.gh
  if o.restarts c || (low && high) || (low && out == some .high) || (high && out == some .low) then (true, none)
  else (false, if low then some .low else if high then some .high else none)

/-- A channel that runs on through the swap. -/
def Device.runOn (n : Nat) (x : Swap) (d : Device) : Device :=
  let o := x.old.chan n
  let c := x.new.chan n
  let m := o.gainMove c ((d.chan n).outPath.map (·.1))
  if m.1 then d.restartChan n x.b x.old
  else
    let d : Device := match m.2 with
      | some p => d.gainChange n p x.b (match p with
        | .low => o.gl
        | .high => o.gh)
      | none => d
    let d : Device := if (List.range 8).any fun k => x.point (8 * n + k) then d.movePoints n x.b x.old else d
    if o.nswap = c.nswap then d
    else if c.swaps && decide ((d.chan n).phase = .running) then d.changeNswap n x.b
    else d.setChan n fun y => { y with nswaps := (x.b, c.nswap) :: y.nswaps }

/-- The baseline goes with the mode, the sub-form, Cf in Q mode, or the channel (R138). -/
def ChanCfg.losesBaseline (o c : ChanCfg) : Bool :=
  o.mode != c.mode || o.subform != c.subform || (o.cf != c.cf && (o.mode == 1 || c.mode == 1)) || (o.enable && !c.enable)

def Device.swapChan (n : Nat) (x : Swap) (d : Device) : Device :=
  let was := (d.chan n).on
  let is := x.new.chanOn n
  let d :=
    if d.pw.mode ≠ .run then d
    else if was && is then d.runOn n x
    else if is then d.startChan n x.b
    else if was then d.stopChan n x.b x.old
    else d
  let d := d.holdNulls n x.b
  if (x.old.chan n).losesBaseline (x.new.chan n) then d.baselineAction n 3 x.b [] else d

/-- Channels that a swap touches, themselves, in a point or in the band of their tones (R143). [log 159 DEDUCED] -/
def Swap.touched (n : Nat) (x : Swap) : Bool :=
  x.chan n || ((List.range 8).any fun k => x.point (8 * n + k)) || (x.old.shep n).fsh != (x.new.shep n).fsh

def Device.swapChans (x : Swap) (d : Device) : Device :=
  let ns := (List.range 128).filter x.touched
  let d := forList (ns.map (· / 4)).eraseDups (fun g d => d.disturbGroup g x.b) d
  -- paths that carry the channel from B + 768 on count for R127
  (forList ns (fun n d => d.swapChan n x) d).watchAll ns (x.b + 768)

/-- Staged baseline actions (R138). -/
def Device.swapBaselines (x : Swap) (d : Device) : Device :=
  forList x.items (fun i d =>
    match i with
    | .shepChan n _ action base => d.baselineAction n action x.b base
    | _ => d) d

/-- An owner correction leaves its context (R263). [log 158 DEDUCED] -/
def Swap.losesContext (x : Swap) : Bool :=
  x.newOwner.any fun (p, o) => o.inForce x.old p && !(o.inForce x.new p)

/-! ### Units, regions, tallies, jobs and maps -/

/-- [log 160 DEDUCED] -/
def Device.swapUnits (x : Swap) (d : Device) : Device :=
  forList ((List.range 32).filter fun u => decide (x.old.unit u ≠ x.new.unit u)) (fun u d => d.resetUnit true x.b u) d

/-- The commit takes a member out of a region that stays a CAPTURE region (R213). -/
def Swap.dropsMember (r : Nat) (x : Swap) : Bool :=
  let a := x.old.region r
  let c := x.new.region r
  a.type == 2 && c.type == 2 && a.members.any fun s => !(c.holds s)

/-- The slots that a change of a region's record leaves: those being filled, where it takes a member out; they gather what lies before b (R213). [log 211 DEDUCED] -/
def Swap.keptSlots (r : Nat) (x : Swap) (y : RegionRun) : Tbl Slot :=
  if x.dropsMember r then
    (y.slots.filter fun (k, z) => decide (z.state = .filling) && decide (k < (x.new.region r).slots)).map fun (k, z) =>
      (k, { z with stop := some (z.stop.getD x.b) })
  else []

/-- A region whose record changes starts empty (R205); a readout of it has nothing left to read. [log 160 DEDUCED, 165 DEDUCED, 211 DEDUCED] -/
def Device.swapRegions (x : Swap) (d : Device) : Device :=
  forList ((List.range 64).filter fun r => decide (x.old.region r ≠ x.new.region r)) (fun r d =>
    let end_ (y : Readout) : Readout := { y with upto := y.next }
    (d.setRegion r fun y => { RegionRun.init with eff := x.b, slots := x.keptSlots r y, readout := y.readout.map end_ }).settleRegion r) d

/-- A tally whose record changes starts afresh (R216). [log 160 DEDUCED] -/
def Device.swapTallies (x : Swap) (d : Device) : Device :=
  let ps := ((x.old.tallies ++ x.new.tallies).map (·.1)).eraseDups.filter fun p => decide (x.old.tally p ≠ x.new.tally p)
  forList ps (fun p d =>
    let old := tget TallyRun.init d.gran.tallies p
    { d with gran := { d.gran with oldTallies := d.gran.oldTallies ++ [(p, x.b, old)], tallies := terase d.gran.tallies p } }) d

/-- A commit ends runs, begins others, and resets averages (R163, R164). -/
def Device.swapJob (i : Nat) (x : Swap) (d : Device) : Device :=
  let d := if x.old.endsJob i x.new then d.stopRun x.b i else d
  match x.old.job i, x.new.job i with
  | _, none => d
  | none, some j => if j.enable then d.beginRun i x.b j else d
  | some a, some j =>
    if !j.enable then d
    else if !a.enable || x.old.restartsJob x.new a j then d.beginRun i x.b j
    else if a.averageMoves j then (d.setJob i fun r => { r with resets := r.resets ++ [x.b] }).flushJob x.b i
    else d

def Device.swapJobs (x : Swap) (d : Device) : Device := forNat 128 (fun i d => d.swapJob i x) d

/-- A map is cleared at the boundary: by CLEAR, by a new source, store or row scale, or with its region (R169, R205). [log 165 DEDUCED] -/
def Swap.mapClears (m : Nat) (x : Swap) : Bool :=
  (x.items.any fun i =>
    match i with
    | .map k _ clear => k == m && clear
    | _ => false)
  || (match x.old.map m, x.new.map m with
    | some a, some b =>
      a.job != b.job || a.region != b.region || a.floor != b.floor || a.step != b.step
        || decide (x.old.region b.region ≠ x.new.region b.region)
    | none, some _ => true
    | _, none => false)

/-- A map moves to another store, or its store is emptied. -/
def Swap.mapMoves (m : Nat) (x : Swap) : Bool :=
  match x.old.map m, x.new.map m with
  | some a, some b => a.region != b.region || decide (x.old.region b.region ≠ x.new.region b.region)
  | _, _ => false

/-- What the boundary of epoch e does to the maps: snapshots and halvings while the Mill has run, and clears (R169, R170). [log 83 DEDUCED] -/
def Device.swapMaps (e : Nat) (ran : Bool) (x : Swap) (d : Device) : Device :=
  forNat 16 (fun m d =>
    let on := x.old.mapOn m || x.new.mapOn m
    let clear := x.mapClears m
    let d := if x.mapMoves m then d.setMap m fun y => { y with snap := none, snapBad := [] } else d
    if !((on && ran) || clear) then d
    else
      let due : MapDue :=
        match x.new.map m with
        | some c =>
          ⟨e, ran && c.enable && c.decay == 1 && e % 2 ^ 32 % Max.max 1 c.halveEvery == 0, clear,
            ran && c.enable && c.stream && e % 2 ^ 32 % Max.max 1 c.streamEvery == 0⟩
        | none => ⟨e, false, clear, false⟩
      d.setMap m fun y => { y with due := y.due ++ [due] }) d

/-! ### The swap -/

/-- The former configuration stays in force for samples of earlier instants (R21). -/
def Device.keepPast (x : Swap) (tag : BitVec 16) (d : Device) : Device :=
  { d with fw := { d.fw with past := d.fw.past ++ [⟨x.b, x.old, tag, x.oldOwner⟩] } }

/-- Every block takes the new configuration and its tag. -/
def Device.swapBlocks (x : Swap) (tag : BitVec 16) (d : Device) : Device :=
  let d := d.keepPast x d.fw.effective
  let d := { d with fw := { d.fw with eff := x.new, effective := tag }, work := { d.work with owner := x.newOwner } }
  let d := if x.losesContext then d.raise evCal (ebit calContext) else d
  let d := (d.cutStreams x).swapChans x
  let d := ((((d.swapBaselines x).swapUnits x).swapRegions x).swapTallies x).swapJobs x
  let d := if x.old.portN = x.new.portN then d else { d with port := { d.port with newLanes := some x.new.portN } }
  d

/-- Routes of the commits that take effect (R387). -/
def Device.installRoutes (e : Nat) (d : Device) : Device :=
  let due := d.fab.coming.filter fun c => decide (c.effect ≤ e)
  let keep (routes : List Route) (c : Coming) : List Route := (routes.filter fun r => !(c.removed.contains r.stream)) ++ c.routes
  { d with fab := { d.fab with coming := d.fab.coming.filter fun c => !decide (c.effect ≤ e), routes := due.foldl keep d.fab.routes } }

/-- The transactions of batches reach EFFECTIVE (R350). -/
def Device.effectTxns (tags : List (BitVec 16)) (d : Device) : Device :=
  forList (d.fw.txns.filter fun t => decide (t.state = .accepted) && tags.contains t.tag) (Device.settleTxn .effective) d

/-- The owner corrections that a batch of `cal.commit` brings, and the close of its calibration (R264). -/
def Device.calOwner (bs : List Batch) (d : Device) : Tbl OwnerRec :=
  if bs.any (·.cal) then d.work.ownerNew.getD d.work.owner else d.work.owner

def Device.calDone (bs : List Batch) (d : Device) : Device :=
  if bs.any (·.cal) then
    let close (c : Cal) : Cal := if c.written then { c with closing := true, committing := false, written := false } else c
    { d with work := { d.work with ownerNew := none, cal := d.work.cal.map close } }
  else d

/-- The batches `bs`, in order, take effect at the boundary b of epoch e. -/
def Device.applyBatches (b e : Nat) (bs : List Batch) (d : Device) : Device :=
  match bs.getLast? with
  | none => d
  | some last =>
    let x : Swap := ⟨b, d.fw.eff, last.cfg, d.work.owner, d.calOwner bs, bs.flatMap (·.items)⟩
    let d := (d.swapBlocks x last.tag).swapMaps e (decide (d.pw.mode = .run)) x
    let d := (d.installRoutes e).effectTxns (bs.map (·.tag))
    (d.calDone bs)

/-- A boundary without a swap leaves the maps their snapshots and halvings. -/
def Device.mapsRunOn (e : Nat) (d : Device) : Device :=
  d.swapMaps e (decide (d.pw.mode = .run)) ⟨boundary e, d.fw.eff, d.fw.eff, d.work.owner, d.work.owner, []⟩

end Sys2Proof.Machine
end

