-- ==== Sys2Proof/Machine/Modes.lean ====
section
/-! DEFINITION. Mode changes at a boundary: entering and leaving RUN (R28, R50, R174, R200, R208, R213), SAFE (R352, R414 to R416), HEARTH and wake (R406 to R408); and the events of the clocks that can declare SAFE: losses of lock, count windows, loss of the base (R277 to R282). -/

namespace Sys2Proof.Machine

/-! ### RUN -/

/-- Channels whose streams run. -/
def Device.runningChans (d : Device) : List Nat := (d.chans.filter fun (_, c) => c.on).map (·.1)

/-- RUN ends at b in a region: its FILLING slots take no more, and its RECORDING slot is armed again, empty (R208, R213). -/
def Device.haltRegion (b r : Nat) (d : Device) : Device :=
  let d := d.setRegion r fun y =>
    { y with slots := tmap Slot.init (fun x =>
        match x.state with
        | .filling => { x with stop := some (x.stop.getD b) }
        | .recording => { x with state := .armed, members := [] }
        | _ => x) y.slots }
  d.settleRegion r

/-- The device leaves RUN at b: every channel ramps down (R50), checks end (R140), and what follows b is no longer detected or written (R174, R200). -/
def Device.leaveRun (b : Nat) (d : Device) : Device :=
  let cfg := d.fw.eff
  let d := forList d.runningChans (fun n d => d.stopChan n b cfg) d
  let d := d.stopChecks b
  let d := { d with marks := { d.marks with runs := spanClose b d.marks.runs } }
  let d := forList (cfg.jobs.map (·.1)) (fun i d => d.stopRun b i) d
  forList (d.gran.regions.map (·.1)) (fun r d => d.haltRegion b r) d

/-- A job's run begins; a replay that has ended stays ended (R147, R165). -/
def Device.enterJob (b : Nat) (x : Nat × JobCfg) (d : Device) : Device :=
  if !x.2.enable || (x.2.replay && (d.job x.1).idle) then d else d.beginRun x.1 b x.2

/-- RUN begins at b, with `MODE` showing it: every enabled channel starts (R47), units, jobs and captures begin (R174, R147, R208). -/
def Device.enterRun (b : Nat) (d : Device) : Device :=
  let cfg := d.fw.eff
  let d := { d with marks := { d.marks with runs := spanOpen b d.marks.runs } }
  let d := forList cfg.units (fun x d => d.resetUnit false b x.1) d
  let d := forList (d.gran.regions.map (·.1)) (fun r d => d.promote r b) d
  let d := forList ((List.range 128).filter cfg.chanOn) (fun n d => d.startChan n b) d
  forList cfg.jobs (fun x d => d.enterJob b x) d

/-- The mode changes at b. -/
def Device.changeMode (m : Mode) (b : Nat) (d : Device) : Device :=
  let d := if d.pw.mode = .run then d.leaveRun b else d
  let d := (d.leaveMaintain m).enterMode m
  if m = .run then d.enterRun b else d

/-! ### SAFE -/

/-- A batch that has been accepted is discarded: COMMITTED returns to EFFECTIVE, and its transactions report ABORTED (R352); so is the part of a fabric transaction whose COMMIT is held (R398). [log 170 DEDUCED] -/
def Device.discardBatches (d : Device) : Device :=
  let gone := d.fw.txns.filter fun t => decide (t.state = .accepted)
  let d := forList gone (fun t d => (d.dropComing t.coord t.id).settleTxn .aborted t) d
  let held := d.fw.txns.filter fun t => decide (t.decision = some true)
  let d := forList held (fun t d => (d.dropComing t.coord t.id).setTxn t.coord t.id fun t => { t with items := [], closing := true }) d
  { d with
    fw := { d.fw with batches := [], committed := d.fw.effective, live := d.fw.eff, compare := [], skew := 0,
                      lag := [], newest := d.fw.effective }
    work := { d.work with calJoin := false } }

/-- What waits for a mode change ends with `DENIED` and the new `MODE` word (R416). [log 56 DEDUCED] -/
def Device.cancelChanges (d : Device) : Device :=
  let p := d.pw
  let d := { d with pw := { p with pending := none, hearth := none, hearthWaiter := none, wake := none } }
  let deny (w : Option Waiter) (d : Device) : Device := d.completeOpt w stDenied (leWord d.modeWord)
  let d := deny (p.pending.bind (·.2.2)) d
  let d := deny (p.hearth.bind (·.2)) d
  let d := deny p.hearthWaiter d
  deny (p.wake.bind (·.2.2)) d

/-- SAFE at the boundary b (R414). [log 27 DEDUCED, 56 DEDUCED, 105 DEDUCED] -/
def Device.enterSafe (b cause : Nat) (d : Device) : Device :=
  let asleep := decide (d.pw.mode = .hearth) || d.pw.wake.isSome
  let d := if d.pw.mode = .run then d.leaveRun b else d
  let d := (d.leaveMaintain .safe).shutAll.dropCal.discardBatches
  let d := { d with pw := { d.pw with declared := none, safeAsleep := asleep } }.toSafe cause
  (d.cancelChanges.endSending fun x => x.type == 7).dropReady fun x => x.cart.type == 7

/-- R281: a coast of a B that has never held a valid control word enters SAFE at once, not at the next boundary. [log 246 DEDUCED] -/
def Device.safeAtOnce (was : Power) (d : Device) : Device :=
  if was.declared = none ∧ d.pw.declared = some 6 then (d.pump d.clk.time).enterSafe d.clk.time 6 else d

def execLockLost (x : SynId) (t : Nat) (s : State) : Host.Outcome State Fault Refusal :=
  onDev (fun d => ((d.tickTo t).loseLock x (Max.max t d.clk.time)).safeAtOnce d.pw) s

/-- The end of a count window; without the base there is nothing to count against. [log 220 DEDUCED] -/
def execCountWindow (x : SynId) (first last : Nat) (word : BitVec 64) (s : State) : Host.Outcome State Fault Refusal :=
  let y := s.dev.syn x
  if y.counts && s.dev.clk.xoOk && s.dev.clk.reaches y.due then
    onDev (fun d => ((d.tickTo y.due).window x (y.error d.clk.steer (last - first)) word).safeAtOnce d.pw) s
  else .next s

def execXoAbsent (s : State) : Host.Outcome State Fault Refusal :=
  if s.dev.clk.xoOk then onDev (fun d => d.baseAbsent.safeAtOnce d.pw) s else .next s

/-- A cause that still holds when IDLE is reached (R415). [log 31 DEDUCED] -/
def Device.causeHolds (d : Device) : Option Nat :=
  if !d.clk.coasting then none
  else if !d.clk.xoOk then some 3
  else if d.clk.synB.held.isNone then some 6
  else if d.clk.coastBad then some 2
  else none

/-- After a parity fault or configuration skew the boot configuration comes into force, with the persisted sets, under a new tag (R415). [log 32 DEDUCED] -/
def Device.restoreBoot (b e : Nat) (d : Device) : Device :=
  let cfg := { Cfg.boot with lins := d.persistedLins }
  let tag := nextTag d.fw.committed
  let x : Swap := ⟨b, d.fw.eff, cfg, d.work.owner, d.work.owner, []⟩
  let d := (d.swapBlocks x tag).swapMaps e false x
  { d with fw := { d.fw with committed := tag, live := cfg, lag := [], newest := tag } }

/-- SAFE is left for IDLE. -/
def Device.leaveSafe (b e : Nat) (d : Device) : Device :=
  let d := if d.pw.safeCause = 1 ∨ d.pw.safeCause = 4 then d.restoreBoot b e else d
  let d := d.enterMode .idle
  let d := { d with pw := { d.pw with safeCause := 0, safeAsleep := false } }
  match d.causeHolds with
  | some c => d.declareSafe c
  | none => d

/-! ### `mode.set` -/

/-- The change that is due at the boundary of epoch e, with its completion (R372). -/
def Device.takeMode (b e : Nat) (d : Device) : Device :=
  match d.pw.pending with
  | none => d
  | some (m, at_, w) =>
    if e < at_ then d
    else
      let d := { d with pw := { d.pw with pending := none } }
      let d := if d.pw.mode = .safe then d.leaveSafe b e else d.changeMode m b
      d.completeOpt w stOk (leWord d.modeWord)

/-! ### HEARTH and wake -/

/-- B becomes active and A goes down (R284); a B that cannot take over coasts, and A is sought again. [log 28 DEDUCED] -/
def Device.sleepClocks (b : Nat) (d : Device) : Device :=
  if d.clk.coasting then d
  else if d.clk.activeB then d.synState .A .off
  else if d.clk.synB.state = .ready then (d.switchTo .B b).synState .A .off
  else (d.coast b).synState .A .search

/-- HEARTH at the boundary H: its first two steps, and the open carts (R406). [log 27 DEDUCED, 167 DEDUCED] -/
def Device.enterHearth (b : Nat) (w : Option Waiter) (d : Device) : Device :=
  let d := if d.pw.mode = .run then d.leaveRun b else d
  let d := d.sleepClocks b
  let d := (d.leaveMaintain .hearth).enterMode .hearth
  let d := { d with pw := { d.pw with hearth := none, hearthWaiter := w, powerLow := false } }.endSending fun _ => false
  d.shutEnded b (d.port.open_.map (·.1))

def Device.takeHearth (b e : Nat) (d : Device) : Device :=
  match d.pw.hearth with
  | none => d
  | some (h, w) => if e < h then d else d.enterHearth b w

/-- Epochs of a wake (R408). -/
def wakeEpochs : Nat := 25

/-- Wake begins at W: A is sought, and the Granary leaves self-refresh. A `hearth.enter` that still waits completes. [log 29 DEDUCED] -/
def Device.beginWake (d : Device) : Device :=
  let w := d.pw.hearthWaiter
  let d := if d.clk.synA.state = .off then d.synState .A .search else d
  let d := { d with gran := { d.gran with selfRefresh := false }, pw := { d.pw with powerLow := false, hearthWaiter := none } }
  d.completeOpt w stOk (leWord d.modeWord)

/-- Wake ends at W + 25, after the swaps it brings: the prior mode, or IDLE out of SAFE. [log 30 DEDUCED] -/
def Device.endWake (b e : Nat) (m : Mode) (w : Option Waiter) (d : Device) : Device :=
  let d := { d with pw := { d.pw with wake := none } }.tilesUp true
  let d := if d.pw.mode = .safe then d.leaveSafe b e else d.changeMode m b
  (d.raise evSys (ebit 4)).completeOpt w stOk (leWord d.modeWord)

def Device.takeWake (b e : Nat) (d : Device) : Device :=
  match d.pw.wake with
  | none => d
  | some (w0, m, w) =>
    if e = w0 then d.beginWake else if w0 + wakeEpochs ≤ e then d.endWake b e m w else d

/-- The boundary at which a wake ends. -/
def Device.wakesAt (e : Nat) (d : Device) : Bool :=
  match d.pw.wake with
  | some (w0, _, _) => decide (w0 + wakeEpochs ≤ e)
  | none => false

end Sys2Proof.Machine
end

