-- ==== Sys2Proof/Machine/Boundary.lean ====
section
/-! DEFINITION. The epoch boundary: everything the block does at it, in the order of R20 and R352, and the measurements that complete there (R27, R44, R60, R88, R104 to R106, R253, R254); parity and its repair (R306, R307). -/

namespace Sys2Proof.Machine

/-! ### The report of the ended epoch (R237) -/

/-- Word 0 and the 21 register words of the EVENT report. -/
def Device.eventWords (d : Device) : List Word :=
  let l := (List.range 21).map d.evt
  let mask := (l.zipIdx.map fun x => if x.1.epoch = 0#24 then 0 else 2 ^ x.2).sum
  BitVec.ofNat 32 mask :: l.map fun x => x.seq ++ x.epoch

/-- The data path forms EVENT carts. [log 177 DEDUCED] -/
def Device.reports (d : Device) : Bool := d.working || decide (d.pw.mode = .safe)

/-- One report for the epoch before e, if any bit set in it, which becomes a cart at its ready instant, 3,000 ticks after that epoch (R240); a new epoch's bits are gathered from here on. [log 177 DEDUCED] -/
def Device.eventReport (e : Nat) (d : Device) : Device :=
  let any := d.evts.any fun x => decide (x.2.epoch ≠ 0#24)
  let x : Paced := ⟨boundary e + 3000, 7, 0x7F0, boundary (e - 1), d.tagAt (boundary (e - 1)), 0#14, 1, d.eventWords, (d.fw.eff.stream 0x7F0).dest⟩
  let d := if any && d.reports then { d with port := { d.port with paced := pacedInsert x d.port.paced } } else d
  { d with evts := tmap Evt.init (fun x => { x with epoch := 0#24 }) d.evts }

/-! ### The swap and the check of tags (R20, R23, R351) -/

/-- In HEARTH, from its boundary on, and during wake a batch waits for W + 25. -/
def Device.swapsWait (e : Nat) (d : Device) : Bool :=
  !(d.wakesAt e) && (decide (d.pw.mode = .hearth) || d.pw.wake.isSome || d.pw.hearth.any fun x => decide (x.1 ≤ e))

/-- Batches whose effect boundary has come. -/
def Device.dueBatches (e : Nat) (d : Device) : List Batch := d.fw.batches.filter fun x => decide (x.effect ≤ e)

/-- Every block but those of `lag` runs the configuration of a tag; a block that falls behind goes on reporting the tag of before (R351). [log 25 DESIGN CHOICE] -/
def Device.blocksTake (lag : List Nat) (tag : BitVec 16) (d : Device) : Device :=
  let behind := d.fw.lag.filter fun x => lag.contains x.1
  let new := lag.eraseDups.filter fun k => !(behind.any fun x => x.1 == k)
  { d with fw := { d.fw with lag := behind ++ new.map fun k => (k, d.fw.newest), newest := tag } }

/-- The tag that a block reports. -/
def Device.blockTag (k : Nat) (d : Device) : BitVec 16 := ((d.fw.lag.find? fun x => x.1 == k).map (·.2)).getD d.fw.newest

/-- The oldest tag that any block reports: the EFFECTIVE tag (R351). -/
def Device.oldestTag (d : Device) : BitVec 16 := (d.fw.lag.head?.map (·.2)).getD d.fw.newest

/-- Of batches in order, those up to one with a tag. -/
def upToTag (tag : BitVec 16) (l : List Batch) : List Batch :=
  match l.findIdx? fun x => x.tag == tag with
  | some i => l.take (i + 1)
  | none => []

/-- The swap of the boundary: of batches due at it, of those that waited for the wake, or again from the shadow. The blocks of `lag` do not take it; the device runs the configuration of the EFFECTIVE tag. [log 25 DESIGN CHOICE] -/
def Device.swapStage (b e : Nat) (lag : List Nat) (d : Device) : Device :=
  let due := d.dueBatches e
  let here := due.any (fun x => x.effect == e) || (d.wakesAt e && !due.isEmpty)
  if d.swapsWait e then d.mapsRunOn e
  else
    let d := if here then { d with fw := { d.fw with compare := (e + 2) :: d.fw.compare } } else d
    match due.getLast? with
    | none => d.mapsRunOn e
    | some last =>
      if here || d.fw.skew == 1 then
        let d := d.blocksTake lag last.tag
        let now := upToTag d.oldestTag due
        if now = [] then d.mapsRunOn e
        else { d with fw := { d.fw with batches := d.fw.batches.filter fun x => !(now.contains x) } }.applyBatches b e now
      else d.mapsRunOn e

/-- A batch that took effect two epochs ago or longer is not what every block runs. -/
def Device.tagsDiffer (e : Nat) (d : Device) : Bool := d.fw.batches.any fun x => decide (x.effect + 2 ≤ e)

/-- The comparison at effect epoch + 2, its re-application, and the second one (R351). [log 24 DEDUCED, 167 DEDUCED] -/
def Device.compareTags (e : Nat) (d : Device) : Device :=
  let now := d.fw.compare.any fun x => decide (x ≤ e)
  let asleep := decide (d.pw.mode = .hearth) || d.pw.wake.isSome
  let setSkew (k : Nat) (d : Device) : Device := { d with fw := { d.fw with skew := k } }
  let d := { d with fw := { d.fw with compare := d.fw.compare.filter fun x => !decide (x ≤ e) } }
  if asleep then d
  else
    match d.fw.skew with
    | 0 => if now && d.tagsDiffer e then (setSkew 1 d).raise evSys (ebit 0) else d
    | 1 => setSkew 2 d
    | _ => if d.tagsDiffer e then (setSkew 0 d).declareSafe 4 else setSkew 0 d

/-! ### Bells, forced firings and timers (R20, R183, R243) -/

def Device.ringDue (b : Nat) (d : Device) : Device :=
  forList (d.bell.due.filter fun x => decide (x.tick ≤ b)) Device.ringAt d

/-- A second `trig.force` of the last epoch fires at this boundary. -/
def Device.fireHeld (b e : Nat) (d : Device) : Device :=
  if d.pw.mode ≠ .run then d
  else
    forList (d.fw.eff.units.filter fun x => x.2.enable && (d.unit x.1).forceHeld && (d.unit x.1).forceEpoch + 1 == e)
      (fun x d => d.forceAt x.1 x.2 b) d

/-- A TIMER unit fires at this boundary, the e-th of the full 64-bit device time (R183). -/
def Device.timerDue (e : Nat) (x : Nat × UnitCfg) (d : Device) : Bool :=
  x.2.enable && x.2.type == 9 &&
    (if x.2.sel = 0 then e % Max.max 1 x.2.p1 == x.2.p2
     else decide (epochNamed ((d.unit x.1).eff / Config.epochTicks) x.2.p2 = some e))

def Device.fireTimers (b e : Nat) (d : Device) : Device :=
  forList (d.fw.eff.units.filter fun x => d.timerDue e x)
    (fun x d => d.detect x.1 x.2 ⟨256 * (b : Int), b, BitVec.ofNat 32 e, 0#14⟩) d

/-! ### Calibration (R255, R256, R260) -/

def Device.openCals (b : Nat) (c : Cal) (d : Device) : Device :=
  forList c.chans (fun n d =>
    (d.setChan n fun x => { x with cal := true, calBus := !c.inSitu, cals := spanOpen b x.cals }).startChan n b) d

def Device.closeCals (b : Nat) (c : Cal) (d : Device) : Device :=
  let cfg := d.fw.eff
  let d := forList (c.chans.filter fun n => (d.chan n).cal) (fun n d =>
    (d.stopChan n b cfg).setChan n fun x => { x with cal := false, calBus := false, cals := spanClose b x.cals }) d
  { d with work := { d.work with cal := none } }

/-- A calibration's channels start at its opening boundary and stop at the one that closes it. -/
def Device.calStage (b e : Nat) (d : Device) : Device :=
  match d.work.cal with
  | none => d
  | some c => if c.closing then d.closeCals b c else if c.bopen = e then d.openCals b c else d

/-- How far a sense pin's reading, in units of 10 mV, lies from VMID. [log 171 DEDUCED] -/
def pinOff (vhv : F64) (v : Nat) : F64 := F64.absDiff (F64.mul (F64.ofNat v) (dec 1 100)) (F64.div vhv (dec 2 1))

/-- ISOLATION at a boundary from B0 on: the lowest channel that fails is kept. [log 171 DEDUCED] -/
def Device.checkIsolation (e : Nat) (d : Device) : Device :=
  match d.work.cal with
  | none => d
  | some c =>
    if c.inSitu || c.level.isNone || decide (e < c.b0) then d
    else
      let reading (n : Nat) : Option (Nat × F64) :=
        ([pinOff d.pw.vhv (d.chan n).pinSP, pinOff d.pw.vhv (d.chan n).pinSN].find? fun v => !(F64.le v (dec 5 10))).map fun v => (n, v)
      let fail := c.chans.findSome? reading
      let worse := match fail, c.isoFail with
        | some x, some y => if x.1 < y.1 then some x else some y
        | some x, none => some x
        | none, y => y
      { d with work := { d.work with cal := some { c with isoFail := worse } } }

/-! ### Measurements -/

/-- The tiles and the reference are measured: not asleep. [log 34 DEDUCED] -/
def Device.measures (d : Device) : Bool := !(decide (d.pw.mode = .hearth) || (decide (d.pw.mode = .safe) && d.pw.safeAsleep))

/-- A list's first n entries, short ones filled. -/
def fillTo {α : Type} (n : Nat) (x : α) (l : List α) : List α := (List.range n).map fun i => l.getD i x

/-- VREF within 2.4 to 5.1 V (R27). -/
def vrefInRange (v : F64) : Bool := F64.le (dec 24 10) v && F64.le v (dec 51 10)

/-- R27: the reference of the ended epoch. [log 33 DESIGN CHOICE] -/
def Device.measureRef (e : Nat) (x : EpochInput) (d : Device) : Device :=
  let ok := vrefInRange x.vref
  let was := d.pw.vrefOk
  let d := { d with
    pw := { d.pw with vref := x.vref, refp := x.refp, refn := x.refn, vrefOk := ok }
    marks := if ok then d.marks else { d.marks with vref := e :: d.marks.vref } }
  if was && !ok then d.raise evSupply (ebit 17) else d

/-- R60: drive pins whose summed peak exceeds the run-time limit. [log 166 DEDUCED] -/
def Device.measureDrive (e : Nat) (was : Cfg) (d : Device) : Device :=
  let fails (n : Nat) : Bool := was.chanOn n && [0, 1].any fun pin =>
    F64.lt (runLimit was n d.pw.vhv) (pinPeak was n (was.pointsOf n) pin d.pw.vref)
  let bad := (List.range 128).filter fails
  if bad = [] then d else { d with marks := { d.marks with drive := (e, bad) :: d.marks.drive } }

/-- R37: the voltages of the sense pins. -/
def Device.measurePins (l : List (Nat × Nat × Nat)) (d : Device) : Device :=
  forList (l.filter fun x => decide (x.1 < 128)) (fun x d => d.setChan x.1 fun c => { c with pinSP := x.2.1, pinSN := x.2.2 }) d

/-- R88: the delay in force follows the computed one by at most 1/64 tick; the first reading sets it. [log 35 DEDUCED] -/
def slewDelay (first : Bool) (now target : Int) : Int :=
  if first then target else if now < target then now + 1 else if target < now then now - 1 else now

/-- Delays of a channel and of its drive pins slew toward those that a temperature gives (R53, R88). -/
def Device.slewChan (n : Nat) (first : Bool) (temp : Int) (d : Device) : Device :=
  let f := d.factory
  let trim (l : List DelayTrim) (k : Nat) : Int := DelayTrim.at_ (l.getD k default) temp
  d.setChan n fun c =>
    { c with delay := slewDelay first c.delay (trim f.delays n), driveA := slewDelay first c.driveA (trim f.drives (2 * n)),
             driveB := slewDelay first c.driveB (trim f.drives (2 * n + 1)) }

/-- R44, R88: temperatures of the tiles whose link is up, each with its sensor's factory offset (R250), and the delays they give. -/
def Device.measureTemps (b : Nat) (temps : List Int) (d : Device) : Device :=
  let off := d.factory.sensors
  let l := (fillTo 16 0 temps).zipIdx.map fun (x, i) => x + off.getD i 0
  let up := (List.range 4).filter fun t => (d.tile t).linkUp
  if up = [] then d
  else
    let d := forList up (fun t d =>
      let first := !(d.tile t).tempValid
      let d := forNat 32 (fun k d =>
        let n := 32 * t + k
        d.slewChan n first (l.getD (n / 8) 0)) d
      d.setTile t fun x => { x with temps := (l.drop (4 * t)).take 4, tempValid := true }) d
    { d with marks := { d.marks with temps := (b, l) :: d.marks.temps } }

/-! ### Ratio, delay and background gain (R104 to R106, R253, R254) -/

/-- At least half of an epoch's sample pairs qualify (R104). -/
def PairCount.qualifies (x : PairCount) : Bool := decide (0 < x.all) && decide (x.all ≤ 2 * x.pairs)

/-- At least half of an epoch's samples of either path are usable (R253). -/
def PairCount.measurable (x : PairCount) : Bool := decide (0 < x.all) && decide (x.all ≤ 2 * x.low) && decide (x.all ≤ 2 * x.high)

/-- The channel's estimator and pilot run: its stream runs, with its modulators released. -/
def ChanRun.estimates (c : ChanRun) : Bool := decide (c.phase = .running) && c.on

/-- Epochs after which a tracked estimator lies within its limits, and holds within them (R105). -/
def convergeEpochs : Nat := 4000

/-- A tracked epoch (R104, R105). -/
def ChanRun.track (temp : Int) (x : EstimIn) (c : ChanRun) : ChanRun :=
  let rho := trackTo 1000 c.rho x.rho
  let delta := trackTo 1000 c.delta x.delta
  { c with rho := rho, delta := delta, heldRho := rho, heldDelta := delta, heldTemp := temp, tracked := c.tracked + 1, skipped := 0,
           est := if x.within || decide (c.est = .converged) || decide (convergeEpochs ≤ c.tracked + 1) then .converged else .tracking }

/-- A skipped epoch; from the tenth in a row on ρ and δ follow the factory slopes of the gain pair from the last tracked epoch (R105, R106). [log 39 DEDUCED] -/
def ChanRun.skip (f : RatioTrim) (temp : Int) (c : ChanRun) : ChanRun :=
  let c := { c with skipped := c.skipped + 1 }
  if c.skipped < 10 then c
  else { c with est := .held, rho := seedAt c.heldRho f.rhoSlope c.heldTemp temp, delta := seedAt c.heldDelta f.deltaSlope c.heldTemp temp }

/-- The tracked ρ lies more than 50 ppm from its factory value at the present temperature, or δ more than 200 ps (0.6 tick) (R110). [log 40 DEDUCED] -/
def Device.ratioOff (n : Nat) (d : Device) : Bool :=
  let c := d.chan n
  let temp := d.tileTemp n
  let rho := Factory.rho d.factory n c.ratioGl c.ratioGh temp
  F64.lt (F64.mul (dec 50 1000000) rho) (F64.absDiff c.rho rho)
    || F64.lt (dec 6 10) (F64.absDiff c.delta (Factory.delta d.factory n c.ratioGl c.ratioGh temp))

/-- R104 to R106, R110: a channel's estimator at the end of an epoch; it does not track while a path is out of use (R107). [log 39 DEDUCED, 40 DEDUCED] -/
def Device.estimate (n : Nat) (l : List EstimIn) (d : Device) : Device :=
  let c := d.chan n
  if c.outPath.isSome then d
  else
    let temp := d.tileTemp n
    let f := Factory.ratio d.factory n c.ratioGl c.ratioGh
    let d := d.setChan n fun c =>
      match l.find? fun x => x.ch == n with
      | some x => if c.epochPairs.qualifies then c.track temp x else c.skip f temp
      | none => c.skip f temp
    let alarm := d.ratioOff n
    let d := if alarm && !c.ratioAlarm then d.raiseRange 3 else d
    d.setChan n fun c => { c with ratioAlarm := alarm }

/-- γ within ±2,000 ppm of 1 (R254). -/
def clampGamma (g : F64) : F64 :=
  let lo := dec 998 1000
  let hi := dec 1002 1000
  if F64.le g lo then lo else if F64.le hi g then hi else g

/-- The ratio of the pilot's measured magnitude to its factory value, the level that the trimmed network injects (R252, R253). [log 232 DEDUCED] -/
def pilotRatio (x : PilotIn) : F64 := F64.div (F64.sqrt (F64.add (F64.mul x.re x.re) (F64.mul x.im x.im))) pilotLevel

/-- R253, R254: a channel's pilot at the end of an epoch in which it was measurable. -/
def Device.trackPilot (n : Nat) (l : List PilotIn) (d : Device) : Device :=
  let c := d.chan n
  match l.find? fun x => x.ch == n with
  | some x =>
    if c.epochPairs.measurable then
      let g := clampGamma (trackTo 10000 c.gamma (pilotRatio x))
      let alarm := F64.lt (dec 500 1000000) (F64.absDiff g F64.one)
      let d := d.setChan n fun c => { c with gamma := g, pilotAlarm := c.pilotAlarm || alarm }
      if alarm && !c.pilotAlarm then d.raise evCal (ebit calPilot) else d
    else d
  | none => d

/-- The estimators and pilots of running channels at the boundary b; the combiner applies what they give from the first sample at or after it (R104, R253). While a path is out of use it applies the ρ and δ that stand at each boundary: the old gains' pair until their switch, then the start value of the new pair. A channel's samples count in the epoch in which they leave its combiner. [log 208 DESIGN CHOICE, 231 DESIGN CHOICE] -/
def Device.estimateAll (b : Nat) (x : EpochInput) (d : Device) : Device :=
  forList ((d.chans.filter fun y => y.2.estimates).map (·.1)) (fun n d =>
    ((d.estimate n x.estim).trackPilot n x.pilots).setChan n fun c => { c.apply b with epochPairs := PairCount.zero }) d

/-- Bad blocks that belong to no bad frame count in BLOCK_ERR of their port (R379). -/
def Device.countBlocks (l : List Nat) (d : Device) : Device := forNat 4 (fun k d => d.countPort k fcBlock (l.getD k 0)) d

/-- LINK_CRC of each tile counts the bad CRCs of its link, and wraps (R330). -/
def Device.countLinkCrc (l : List Nat) (d : Device) : Device :=
  forNat 4 (fun t d => d.setTile t fun x => { x with linkCrc := x.linkCrc + BitVec.ofNat 8 (l.getD t 0) }) d

/-- What the device measures of the epoch that has ended, under the configuration `was` it ran with. -/
def Device.measure (b e : Nat) (was : Cfg) (x : EpochInput) (d : Device) : Device :=
  let d := { d with pw := { d.pw with rails := fillTo 6 0#32 x.rails, vhv := x.vhv } }
  if !d.measures then d
  else
    let d := ((d.measureRef e x).measureDrive e was).measurePins x.pins
    (d.measureTemps b x.temps).estimateAll b x

/-! ### Firmware's housekeeping -/

/-- R343: sessions whose keepalive has passed. [log 48 DEDUCED, 168 DEDUCED] -/
def Device.closeExpired (b : Nat) (d : Device) : Device :=
  forList ((d.fw.sessions.filter fun x => decide (x.deadline < b)).map (·.id)) (fun i d => d.closeSession i) d

/-- Work that a supply warning has put off (R269, R419). -/
def Device.deferredWork (d : Device) : Device :=
  let d := d.persistReject
  if d.inWarning then d else d.raiseRollback

/-- Of changes listed newest first: those that a sample of the horizon can still need. -/
def keepSince {α : Type} (b : Nat) (at_ : α → Nat) : List α → List α
  | [] => []
  | x :: l => if at_ x + markHorizon ≤ b then [x] else x :: keepSince b at_ l

/-- A channel forgets what no later window can meet. -/
def ChanRun.prune (b : Nat) (c : ChanRun) : ChanRun :=
  { c with settles := c.settles.filter fun x => decide (b < x.2 + markHorizon), wides := c.wides.filter fun x => decide (b < x.t + markHorizon),
           outages := c.outages.filter fun x => x.to_.all fun e => decide (b < e + markHorizon),
           applied := keepSince b (·.from_) c.applied, nswaps := keepSince b (·.1) c.nswaps }

/-- A point forgets what no later sample can need; its newest filter stays, whose last sample a dependent point can still pair with (R118). -/
def PointRun.prune (b : Nat) (x : PointRun) : PointRun :=
  { x with filters := x.filters.take 1 ++ x.filters.tail.filter fun f => f.stop.all fun e => decide (b < e + markHorizon),
           settles := x.settles.filter fun y => decide (b < y.2 + markHorizon), spans := x.spans.filter fun y => decide (b < y.2 + markHorizon),
           ncos := keepSince b (·.from_) x.ncos, nulls := keepSince b (·.1) x.nulls }

/-- Marks and past states that no sample can meet any more are forgotten. -/
def Device.prune (b : Nat) (d : Device) : Device :=
  let m := d.marks
  let keep (e : Nat) : Bool := decide (b < (e + 1) * Config.epochTicks + markHorizon)
  let marks : Marks :=
    { runs := spanPrune b m.runs, coast := spanPrune b m.coast, holdover := spanPrune b m.holdover, slewing := spanPrune b m.slewing,
      warn := spanPrune b m.warn, indoubt := spanPrune b m.indoubt, clksw := m.clksw.filter keep, vref := m.vref.filter keep,
      drive := m.drive.filter fun x => keep x.1, parity := m.parity.filter fun x => keep x.1,
      temps := m.temps.filter fun x => decide (b < x.1 + markHorizon) }
  let olds := d.trig.olds.filter fun x => decide (b < x.2.1 + markHorizon)
  let oldT := d.gran.oldTallies.filter fun x => decide (b < x.2.1 + markHorizon)
  { d with marks := marks, trig := { d.trig with olds := olds }, gran := { d.gran with oldTallies := oldT },
           chans := tmap ChanRun.init (ChanRun.prune b) d.chans, points := tmap PointRun.init (PointRun.prune b) d.points }

/-! ### The boundary -/

/-- Device time stands at a boundary: that of a step that has landed on it, or the next one. -/
def Clock.boundaryEpoch (c : Clock) : Nat := if c.landed then c.epoch else c.epoch + 1

/-- A word is restored from its shadow, by a write of the Ammond core (R307). -/
def Device.restoreWord (x : BadWord) (d : Device) : Device :=
  let d := { d with regs := { d.regs with struck := d.regs.struck.erase x }
                    cnt := { d.cnt with parityRepairs := d.cnt.parityRepairs + 1#32 }
                    marks := { d.marks with parity := (d.epoch, x.chan, x.point) :: d.marks.parity } }
  (d.raise evParity (ebit 0)).logPut 8 [x.addr.toNat]

/-- Parity bit of a word (R306). -/
def parityOf (w : Word) : Bool := (List.range 32).foldl (fun b k => b ^^ w.getLsbD k) false

/-- R306: RW fields carry parity; an address at which the map has nothing stands for a word of a block's live buffer. [log 247 DESIGN CHOICE] -/
def protectedWord (base : Nat) : Bool := rwReg base || !(mapped base)

/-- The scrub pass after the swaps: the protected words that fail their parity. [log 247 DESIGN CHOICE] -/
def Device.scrubParity (l : List ParityIn) (d : Device) : Device :=
  let bad := l.filter fun x => protectedWord (baseOf x.addr) && (parityOf x.live != x.bit)
  { d with regs := { d.regs with struck := bad.map fun x => ⟨x.addr, x.live, x.chan.map (·.val), x.point.map (·.val)⟩ } }

/-- Device time reaches the boundary of epoch e; what was due before it goes out under the old configuration, and words that still fail their parity are restored first. -/
def Device.reach (e : Nat) (d : Device) : Device :=
  let d := forList d.regs.struck Device.restoreWord d
  let d := (d.pump (boundary e)).forceGains (boundary e)
  let d := { d with clk := { d.clk with time := boundary e, landed := false }, fab := { d.fab with out := [] } }
  (d.eventReport e).endDoubts e

/-- Swaps, the check of tags and the scrub of parity (R20, R307, R351). A cause declared here takes effect at the next boundary (R414). -/
def Device.boundaryConfig (e : Nat) (x : EpochInput) (d : Device) : Device :=
  ((d.swapStage (boundary e) e x.lag).compareTags e).scrubParity x.parity

/-- A cause that was declared before the boundary takes effect at it. -/
def Device.boundarySafe (e : Nat) (declared : Option Nat) (d : Device) : Device :=
  match declared with
  | some c => d.enterSafe (boundary e) c
  | none => d

/-- Mode changes, Bells, triggers and calibration (R20, R352, R372, R406, R408). -/
def Device.boundaryModes (e : Nat) (d : Device) : Device :=
  let b := boundary e
  let d := (((d.takeMode b e).takeWake b e).takeHearth b e).safeAtOnce d.pw
  let d := ((d.ringDue b).fireHeld b e).fireTimers b e
  d.calStage b e

/-- Measurements, clocks, Shepherd, fabric and housekeeping. -/
def Device.boundaryRest (e : Nat) (was : Cfg) (x : EpochInput) (d : Device) : Device :=
  let b := boundary e
  let d := (((d.measure b e was x).countLinkCrc x.linkCrc).countBlocks x.blocks).checkIsolation e
  let good := d.clk.source == 1 && x.refErr.any fun v => F64.le v (dec 20 1)
  let bad := d.clk.source == 1 && x.refErr.any fun v => F64.lt (dec 200 1) v
  let d := { d with clk := { d.clk with goodEpochs := if good then d.clk.goodEpochs + 1 else 0, refBad := bad } }
  let d := d.startChecks b
  let d := ((d.takeSource).fabricBoundary (e - 1)).routesBoundary
  let d := ((d.boundaryScheds b).deferredWork).flushJobs b
  d.settleAouts.prune b

/-- What comes before the batch is decided: the swaps, SAFE, sessions that expire, the fabric's transactions. -/
def State.boundaryFront (x : EpochInput) (s : State) : State :=
  let e := s.dev.clk.boundaryEpoch
  let declared := s.dev.pw.declared
  let d := s.dev.reach e
  let d := (d.boundaryConfig e x).boundarySafe e declared
  -- R339: the count of messages belongs to an epoch; R343: what a closing session withdraws is not decided
  let d := ({ d with port := { d.port with messages := 0 } }.sendReplies messageLimit).closeExpired (boundary e)
  ({ s with dev := d }.settleMailboxes).fabricTxns e

/-- The epoch boundary. [log 26 DEDUCED, 168 DEDUCED, 169 DEDUCED] -/
def State.boundaryStep (x : EpochInput) (s : State) : State :=
  let e := s.dev.clk.boundaryEpoch
  let t := (s.boundaryFront x).boundaryBatch
  { t with dev := (t.dev.boundaryModes e).boundaryRest e s.dev.fw.eff x }

/-- R3: no boundary is left before the count returns to 0, which is a boundary itself. [log 209 DESIGN CHOICE] -/
def Device.wrapTime (d : Device) : Device :=
  if d.clk.landed || decide (boundary (d.epoch + 1) < Config.timeSpan) then d
  else
    let d := (d.pump Config.timeSpan).shift Config.timeSpan (-Config.timeSpan)
    { d with clk := { d.clk with time := 0, landed := true } }

def execEpochBoundary (inp : EpochInput) (s : State) : Host.Outcome State Fault Refusal :=
  if !s.dev.clk.counting then .next s
  else if s.dev.work.activate.any fun e => decide (e ≤ s.dev.clk.boundaryEpoch) then .next (s.resetTo s.dev.activateReset)
  else .next ({ s with dev := s.dev.wrapTime }.boundaryStep inp)

/-! ### Parity (R306, R307) -/

/-- The restore of a word that the scrub pass found: `stillBad`, it still fails in the cycle of the restore; `shadowBad`, its shadow has an uncorrectable error. [log 175 DEDUCED] -/
def Device.repairParity (x : BadWord) (stillBad shadowBad : Bool) (d : Device) : Device :=
  let left := { d with regs := { d.regs with struck := d.regs.struck.erase x } }
  if shadowBad then (left.raise evParity (ebit 1)).declareSafe 1
  else if stillBad then d.restoreWord x
  else left

def execParityRepair (addr : BitVec 24) (chan : Option (Fin 128)) (point : Option (Fin 1024)) (stillBad shadowBad : Bool) (s : State) :
    Host.Outcome State Fault Refusal :=
  match s.dev.regs.struck.find? fun x => x.addr == addr && x.chan == chan.map (·.val) && x.point == point.map (·.val) with
  | some x => if s.dev.clk.counting then onDev (Device.repairParity x stillBad shadowBad) s else .next s
  | none => .next s

end Sys2Proof.Machine
end

