-- ==== Sys2Proof/Machine/Captures.lean ====
section
/-! DEFINITION. The commands of captures and regions: capture.arm, capture.disarm and capture.read (R210, R214, R222, R223, R361, R362). -/

namespace Sys2Proof.Machine

/-! ### Slots a request names -/

/-- N slots from S0, counted modulo SLOTS; each at most once. -/
def namedSlots (slots s0 n : Nat) : List Nat := (List.range (Min.min n slots)).map fun i => (s0 + i) % slots

/-- A replay job or a readout reads a slot of a region. -/
def Device.slotRead (r k : Nat) (d : Device) : Bool :=
  (d.fw.eff.jobs.any fun (j, c) => c.enable && c.replay && c.src == r && c.slot == k && !(d.job j).idle)
    || (d.region r).readout.any fun x => x.slot == k

def Device.takenSlot (r k : Nat) (d : Device) : Bool :=
  match ((d.region r).slot k).state with
  | .armed => true
  | .recording => true
  | .filling => true
  | _ => false

/-- [log 81 DEDUCED] -/
def armAnswer (st : BitVec 16) (n guard fit : Nat) : Ans := ⟨st, leBytes 4 n ++ leBytes 4 guard ++ leBytes 4 fit, none⟩

/-- Arm slots in order at the queue's end; the head records in RUN (R208, R210). [log 80 DEDUCED] -/
def Device.armSlots (r : Nat) (l : List Nat) (p q : Nat) (d : Device) : Device :=
  let d := d.setRegion r fun x =>
    let x := l.foldl (fun x k => x.setSlot k fun _ => { Slot.init with state := .armed, p := p, q := q }) x
    { x with queue := x.queue ++ l }
  d.promote r d.clk.time

/-- [log 81 DEDUCED] -/
def captureArm : Handler := sizedTo 20 fun r d =>
  let g := u8 r.body 0
  let s0 := u32 r.body 4
  let n := u32 r.body 8
  let p := u32 r.body 12
  let q := u32 r.body 16
  let c := d.fw.eff.region g
  require (decide (g < 64) && allZero r.body 1 3 && decide (1 ≤ n) && decide (1 ≤ q) && c.type == 2) stBadField d <|
  let l := namedSlots c.slots s0 n
  require (!(l.any fun k => d.takenSlot g k)) stBadField d <|
  require (!(l.any fun k => d.slotRead g k)) stDenied d <|
  let guard := d.fw.eff.guardOf g
  let fit := d.fw.eff.fitOf g
  if c.slots < n ∨ d.fw.eff.armFits g p q = false then (some (armAnswer stMemoryShort 0 guard fit), d)
  else (some (armAnswer stOk n guard fit), d.armSlots g l p q)

/-- ARMED, RECORDING and DONE slots become FREE; the next armed slot takes a vacant head (R208, R214). -/
def Device.disarmSlots (r : Nat) (l : List Nat) (d : Device) : Device :=
  let free (x : RegionRun) (k : Nat) : RegionRun :=
    if (x.slot k).state = .filling then x else { x.setSlot k (fun _ => Slot.init) with queue := x.queue.filter (· != k) }
  (d.setRegion r fun x => l.foldl free x).promote r d.clk.time

def captureDisarm : Handler := sizedTo 20 fun r d =>
  let g := u8 r.body 0
  let n := u32 r.body 8
  let c := d.fw.eff.region g
  require (decide (g < 64) && allZero r.body 1 3 && decide (1 ≤ n) && c.type == 2) stBadField d <|
  let l := namedSlots c.slots (u32 r.body 4) n
  require (!(l.any fun k => d.slotRead g k)) stDenied d <|
  (some (Ans.ok []), d.disarmSlots g l)

/-! ### The slot header (R223, R362) -/

def slotCode : SlotState → Nat
  | .free => 0
  | .armed => 1
  | .recording => 2
  | .filling => 3
  | .done => 4

/-- A capture slot's header for a member. -/
def Slot.header (k member : Nat) (x : Slot) : List Byte :=
  let l := x.member member
  let pre := x.preHeld member
  let first := match l with
    | e :: _ => e.t
    | [] => 0
  let flags := orFlags (x.members.map fun (s, _) => (x.store s).heldFlags)
  leBytes 4 k ++ byteOf (slotCode x.state) ++ byteOf (bit01 x.late + 2 * bit01 x.truncated + 4 * bit01 (decide (pre < x.p)))
    ++ byteOf (fracOf x.time) ++ zeros 1 ++ hiLo (wholeOf x.time) ++ leWord x.recno ++ leBytes 4 x.p ++ leBytes 4 pre
    ++ leBytes 4 x.q ++ leBytes 4 (x.postHeld member) ++ leBytes 4 flags.toNat ++ hiLo first

/-- The header of what is no capture: state DONE, the region's oldest and newest elements in the two words each of the pre-trigger and the post-trigger part; what stands in the words of a record, and in an empty region's, is not stated: free values. [log 70 DESIGN CHOICE] -/
def freeHeader (n flags : Nat) (ends : Option (Nat × Nat)) (first : Option Nat) : List Byte :=
  let w (i : Nat) : List Byte := leWord (Config.freeWord (n + i))
  leBytes 4 0 ++ byteOf 4 ++ byteOf (4 * (Config.freeWord (n + 10)).toNat % 8) ++ (w 0).take 1 ++ zeros 1 ++ w 1 ++ w 2 ++ w 3
    ++ (match ends with
      | some (a, b) => hiLo a ++ hiLo b
      | none => w 4 ++ w 5 ++ w 6 ++ w 7)
    ++ leBytes 4 flags ++ (match first with
      | some t => hiLo t
      | none => w 8 ++ w 9)

/-- The oldest and the newest of what a reader finds: by its instant in a RING, else by its place in the order of writing. [log 70 DESIGN CHOICE] -/
def readEnds (ring : Bool) (l : List ReadElem) : Option (Nat × Nat) :=
  let at_ (e : ReadElem) : Nat := if ring then e.t else e.key
  match l.head?, l.getLast? with
  | some a, some b => some (at_ a, at_ b)
  | _, _ => none

/-- The header a read answers, and the free values it takes. -/
def Device.readHeader (r member slot : Nat) (d : Device) : List Byte × Device :=
  let c := d.fw.eff.region r
  if c.type = 2 then (((d.region r).slot slot).header slot member, d)
  else
    let l := if c.type = 5 then [] else d.readFrom r member slot 0 (2 ^ 64)
    let first := if c.type = 1 then l.head?.map (·.t) else none
    let ends := if c.type = 5 then (if c.capacity = 0 then none else some (0, c.capacity - 1)) else readEnds (c.type == 1) l
    let flags := if c.type = 1 then (tget Store.init (d.region r).rings member).heldFlags else orFlags (l.map (·.flags))
    (freeHeader d.free flags.toNat ends first, { d with free := d.free + 11 })

/-- Bytes a MAILBOX read returns at most. -/
def mailboxBytes : Nat := 960

/-- Whole elements that fit. -/
def takeBytes : Nat → List ReadElem → List Byte
  | _, [] => []
  | room, e :: l => if e.data.length ≤ room then e.data ++ takeBytes (room - e.data.length) l else []

def regionCounters (r : Nat) (d : Device) : List Byte :=
  (List.range 5).flatMap fun i => leWord (tget 0#32 d.cnt.region (5 * r + i))

/-- What a read may name: a member of a RING or CAPTURE region and a slot of a CAPTURE region (R362). -/
def readNames (c : RegionCfg) (member slot : Nat) : Bool :=
  match c.type with
  | 1 => c.holds member && slot == 0
  | 2 => c.holds member && decide (slot < c.slots)
  | 3 => member == 0xFFF && slot == 0
  | 5 => member == 0xFFF && slot == 0
  | _ => false

/-- Begin a STREAM readout. -/
def Device.beginReadout (r member slot from_ count : Nat) (w : Waiter) (d : Device) : Device :=
  let c := d.fw.eff.region r
  -- a STAGING region's elements are counted, not listed
  let held := if c.type = 5 then
      let n := Min.min count (c.capacity - from_)
      (from_, from_ + n)
    else
      let l := d.readFrom r member slot from_ count
      match l.head?, l.getLast? with
      | some a, some b => (a.key, b.key + 1)
      | _, _ => (0, 0)
  let x : Readout :=
    { waiter := w, member := member, slot := slot, kind := readKind c, ring := c.type == 1 || c.type == 3, next := held.1, upto := held.2,
      index := from_, from_ := d.clk.time, bits := 0, sent := 0, skipped := 0 }
  d.setRegion r fun y => { y with readout := some x }

/-- The read finds errors in what it reads (R224). -/
def captureRead (errs : List ScrubErr) : Handler := sizedTo 28 fun r d =>
  let g := u8 r.body 0
  let mode := u8 r.body 1
  let member := u16 r.body 2
  let slot := u32 r.body 4
  let from_ := u64 r.body 8
  let count := u64 r.body 16
  let n := if count = 0 then 2 ^ 64 else count
  let c := d.fw.eff.region g
  require (decide (g < 64) && decide (mode ≤ 2) && allZero r.body 24 4 && readNames c member slot) stBadField d <|
  require (!(c.type == 2 && d.takenSlot g slot)) stDenied d <|
  let d := d.findErrors errs
  match mode with
  | 0 =>
    let h := d.readHeader g member slot
    (some (Ans.ok (h.1 ++ regionCounters g d)), h.2)
  | 1 =>
    let h := d.readHeader g member slot
    (some (Ans.ok (h.1 ++ takeBytes mailboxBytes (d.readFrom g member slot from_ (Min.min n mailboxBytes)))), h.2)
  | _ =>
    require ((d.fw.eff.stream (0xC00 + g)).dest != 0) stBadField d <|
    require (d.region g).readout.isNone stDenied d <|
    acceptLong r d (Device.beginReadout g member slot from_ n r.waiter)

def execCaptureArm (src : ReqSource) (s : State) : Host.Outcome State Fault Refusal := fwRow 0x0604 captureArm src s
def execCaptureDisarm (src : ReqSource) (s : State) : Host.Outcome State Fault Refusal := fwRow 0x0605 captureDisarm src s
def execCaptureRead (x : ReadIn) (s : State) : Host.Outcome State Fault Refusal :=
  fwRow 0x0606 (captureRead x.errs) x.src s

end Sys2Proof.Machine
end

