-- ==== Sys2Proof/Machine/Dispatch.lean ====
section
/-! DEFINITION. The dispatch: one arm for each command, its meaning called by its full name. -/

namespace Sys2Proof.Machine

def exec (i : Instr) (s : State) : Host.Outcome State Fault Refusal :=
  match i with
  | .resetAssert => Sys2Proof.Machine.execResetAssert s
  | .resetRelease bootSel => Sys2Proof.Machine.execResetRelease bootSel s
  | .identityReady => Sys2Proof.Machine.execIdentityReady s
  | .bootStageEnd r => Sys2Proof.Machine.execBootStageEnd r s
  | .supplyWarning rail => Sys2Proof.Machine.execSupplyWarning rail s
  | .supplyWarningCleared rail => Sys2Proof.Machine.execSupplyWarningCleared rail s
  | .brownout rails => Sys2Proof.Machine.execBrownout rails s
  | .xoAbsent => Sys2Proof.Machine.execXoAbsent s
  | .epochBoundary inp => Sys2Proof.Machine.execEpochBoundary inp s
  | .parityRepair addr chan point stillBad shadowBad => Sys2Proof.Machine.execParityRepair addr chan point stillBad shadowBad s
  | .granarySelfRefresh t => Sys2Proof.Machine.execGranarySelfRefresh t s
  | .countWindow x first last word => Sys2Proof.Machine.execCountWindow x first last word s
  | .lockLost x t => Sys2Proof.Machine.execLockLost x t s
  | .bandSearchEnd x found => Sys2Proof.Machine.execBandSearchEnd x found s
  | .synthesizerRetry x => Sys2Proof.Machine.execSynthesizerRetry x s
  | .synthesizerReady x t => Sys2Proof.Machine.execSynthesizerReady x t s
  | .referenceEdge pps t64 steer => Sys2Proof.Machine.execReferenceEdge pps t64 steer s
  | .referenceLost => Sys2Proof.Machine.execReferenceLost s
  | .slewDone => Sys2Proof.Machine.execSlewDone s
  | .timeStep => Sys2Proof.Machine.execTimeStep s
  | .timeSetTimeout => Sys2Proof.Machine.execTimeSetTimeout s
  | .modulatorOverload ch path t => Sys2Proof.Machine.execModulatorOverload ch path t s
  | .modulatorRecovered ch path t => Sys2Proof.Machine.execModulatorRecovered ch path t s
  | .guardCurrentLimit g t => Sys2Proof.Machine.execGuardCurrentLimit g t s
  | .widebandSample x => Sys2Proof.Machine.execWidebandSample x s
  | .pointSampleReady x => Sys2Proof.Machine.execPointSampleReady x s
  | .cartFillTimeout stream t => Sys2Proof.Machine.execCartFillTimeout stream t s
  | .cartDelivery dest x => Sys2Proof.Machine.execCartDelivery dest x s
  | .granaryWrite stream t => Sys2Proof.Machine.execGranaryWrite stream t s
  | .granaryScrubPass errs => Sys2Proof.Machine.execGranaryScrubPass errs s
  | .millResultReady x => Sys2Proof.Machine.execMillResultReady x s
  | .densitySnapshotComplete map => Sys2Proof.Machine.execDensitySnapshotComplete map s
  | .isolationSwitchesClosed ch t => Sys2Proof.Machine.execIsolationSwitchesClosed ch t s
  | .modulatorRelease ch t => Sys2Proof.Machine.execModulatorRelease ch t s
  | .excitationRampEnd p t env => Sys2Proof.Machine.execExcitationRampEnd p t env s
  | .qServoSettle ch t => Sys2Proof.Machine.execQServoSettle ch t s
  | .disablePinsReleased ch t => Sys2Proof.Machine.execDisablePinsReleased ch t s
  | .pointRampUp ch t => Sys2Proof.Machine.execPointRampUp ch t s
  | .gainSwitch ch t => Sys2Proof.Machine.execGainSwitch ch t s
  | .gainReady ch t found settled => Sys2Proof.Machine.execGainReady ch t found settled s
  | .currentSwap ch cycle => Sys2Proof.Machine.execCurrentSwap ch cycle s
  | .fastDetection ch d x => Sys2Proof.Machine.execFastDetection ch d x s
  | .detectorRelease ch d x => Sys2Proof.Machine.execDetectorRelease ch d x s
  | .checkPhase g k meas => Sys2Proof.Machine.execCheckPhase g k meas s
  | .checkClassification g => Sys2Proof.Machine.execCheckClassification g s
  | .trigInEdge pin rising t => Sys2Proof.Machine.execTrigInEdge pin rising t s
  | .externalEdgeAccepted u rising t => Sys2Proof.Machine.execExternalEdgeAccepted u rising t s
  | .recordClose grp key => Sys2Proof.Machine.execRecordClose grp key s
  | .trigOutPulse pin t => Sys2Proof.Machine.execTrigOutPulse pin t s
  | .fabricTriggerSend t => Sys2Proof.Machine.execFabricTriggerSend t s
  | .bellInEdge rising t => Sys2Proof.Machine.execBellInEdge rising t s
  | .bellTick tick => Sys2Proof.Machine.execBellTick tick s
  | .holdingWindowSwitch => Sys2Proof.Machine.execHoldingWindowSwitch s
  | .alignmentMarker t => Sys2Proof.Machine.execAlignmentMarker t s
  | .laneFault lane => Sys2Proof.Machine.execLaneFault lane s
  | .healthReport frame t => Sys2Proof.Machine.execHealthReport frame t s
  | .returnLaneBadCrc => Sys2Proof.Machine.execReturnLaneBadCrc s
  | .registerWrite a => Sys2Proof.Machine.execRegisterWrite a s
  | .eventClear a => Sys2Proof.Machine.execEventClear a s
  | .mbxRequestWrite a => Sys2Proof.Machine.execMbxRequestWrite a s
  | .mbxDoorbell a => Sys2Proof.Machine.execMbxDoorbell a s
  | .rspDone a => Sys2Proof.Machine.execRspDone a s
  | .completionPlace session => Sys2Proof.Machine.execCompletionPlace session s
  | .bellRing a => Sys2Proof.Machine.execBellRing a s
  | .bellSnap a => Sys2Proof.Machine.execBellSnap a s
  | .lockSet a => Sys2Proof.Machine.execLockSet a s
  | .dlForce a => Sys2Proof.Machine.execDlForce a s
  | .dlEnable a => Sys2Proof.Machine.execDlEnable a s
  | .dlDisable a => Sys2Proof.Machine.execDlDisable a s
  | .cartFifoPop port => Sys2Proof.Machine.execCartFifoPop port s
  | .timeLoRead port => Sys2Proof.Machine.execTimeLoRead port s
  | .postedWrite a => Sys2Proof.Machine.execPostedWrite a s
  | .postedRead port addr => Sys2Proof.Machine.execPostedRead port addr s
  | .postedAccessDone port tile => Sys2Proof.Machine.execPostedAccessDone port tile s
  | .postedAccessNack port tile => Sys2Proof.Machine.execPostedAccessNack port tile s
  | .badFrame opcode rest => Sys2Proof.Machine.execBadFrame opcode rest s
  | .lockstepMismatch => Sys2Proof.Machine.execLockstepMismatch s
  | .lockstepRepaired => Sys2Proof.Machine.execLockstepRepaired s
  | .fabricPortUp port => Sys2Proof.Machine.execFabricPortUp port s
  | .fabricPortDown port => Sys2Proof.Machine.execFabricPortDown port s
  | .fabricRetrain port => Sys2Proof.Machine.execFabricRetrain port s
  | .hello port h => Sys2Proof.Machine.execHello port h s
  | .beacon port b => Sys2Proof.Machine.execBeacon port b s
  | .delayExchange port t1 t2 t3 t4 steer => Sys2Proof.Machine.execDelayExchange port t1 t2 t3 t4 steer s
  | .addressRequest port uid pref => Sys2Proof.Machine.execAddressRequest port uid pref s
  | .addressAssignment uid addr => Sys2Proof.Machine.execAddressAssignment uid addr s
  | .fabricMessageResponse peer bytes => Sys2Proof.Machine.execFabricMessageResponse peer bytes s
  | .fabricForwardTimeout peer tag => Sys2Proof.Machine.execFabricForwardTimeout peer tag s
  | .fabricTriggerMessage m t => Sys2Proof.Machine.execFabricTriggerMessage m t s
  | .fabricBell src tick => Sys2Proof.Machine.execFabricBell src tick s
  | .fabricBellAck src tick => Sys2Proof.Machine.execFabricBellAck src tick s
  | .fabricTxnOpen coord txn ticket parts => Sys2Proof.Machine.execFabricTxnOpen coord txn ticket parts s
  | .fabricPrepare coord txn target => Sys2Proof.Machine.execFabricPrepare coord txn target s
  | .fabricVote src txn status => Sys2Proof.Machine.execFabricVote src txn status s
  | .fabricDecision coord txn commit closed => Sys2Proof.Machine.execFabricDecision coord txn commit closed s
  | .fabricDecisionAck src txn => Sys2Proof.Machine.execFabricDecisionAck src txn s
  | .fabricDecisionQuery src coord txn => Sys2Proof.Machine.execFabricDecisionQuery src coord txn s
  | .reserveRequest src items lanes => Sys2Proof.Machine.execReserveRequest src items lanes s
  | .reserveAnswer r => Sys2Proof.Machine.execReserveAnswer r s
  | .routeFailure addr port => Sys2Proof.Machine.execRouteFailure addr port s
  | .streamAck src stream seq => Sys2Proof.Machine.execStreamAck src stream seq s
  | .fabricCart c dest route hops t => Sys2Proof.Machine.execFabricCart c dest route hops t s
  | .remoteRegisterAccess src write addr value => Sys2Proof.Machine.execRemoteRegisterAccess src write addr value s
  | .bankWriteDone store => Sys2Proof.Machine.execBankWriteDone store s
  | .calMeasurementDone t => Sys2Proof.Machine.execCalMeasurementDone t s
  | .selftestDone pass fail detail => Sys2Proof.Machine.execSelftestDone pass fail detail s
  | .loopbackDone bits errors => Sys2Proof.Machine.execLoopbackDone bits errors s
  | .fwVerifyDone => Sys2Proof.Machine.execFwVerifyDone s
  | .captureReadoutDone region => Sys2Proof.Machine.execCaptureReadoutDone region s
  | .sessionOpen src => Sys2Proof.Machine.execSessionOpen src s
  | .sessionClose src => Sys2Proof.Machine.execSessionClose src s
  | .sessionKeepalive src => Sys2Proof.Machine.execSessionKeepalive src s
  | .sessionList src => Sys2Proof.Machine.execSessionList src s
  | .txnBegin src => Sys2Proof.Machine.execTxnBegin src s
  | .txnCommit src => Sys2Proof.Machine.execTxnCommit src s
  | .txnAbort src => Sys2Proof.Machine.execTxnAbort src s
  | .txnStatus src => Sys2Proof.Machine.execTxnStatus src s
  | .chanConfig src => Sys2Proof.Machine.execChanConfig src s
  | .chanQuery src => Sys2Proof.Machine.execChanQuery src s
  | .chanEnable src => Sys2Proof.Machine.execChanEnable src s
  | .pointConfig src => Sys2Proof.Machine.execPointConfig src s
  | .pointQuery src => Sys2Proof.Machine.execPointQuery src s
  | .carrierPlanCheck src => Sys2Proof.Machine.execCarrierPlanCheck src s
  | .linLoad src => Sys2Proof.Machine.execLinLoad src s
  | .linQuery src => Sys2Proof.Machine.execLinQuery src s
  | .linPersist src => Sys2Proof.Machine.execLinPersist src s
  | .streamConfig src => Sys2Proof.Machine.execStreamConfig src s
  | .streamQuery src => Sys2Proof.Machine.execStreamQuery src s
  | .regionConfig src => Sys2Proof.Machine.execRegionConfig src s
  | .captureArm src => Sys2Proof.Machine.execCaptureArm src s
  | .captureDisarm src => Sys2Proof.Machine.execCaptureDisarm src s
  | .captureRead x => Sys2Proof.Machine.execCaptureRead x s
  | .tallyConfig src => Sys2Proof.Machine.execTallyConfig src s
  | .aoutConfig src => Sys2Proof.Machine.execAoutConfig src s
  | .millConfig src => Sys2Proof.Machine.execMillConfig src s
  | .millQuery src => Sys2Proof.Machine.execMillQuery src s
  | .densityConfig src => Sys2Proof.Machine.execDensityConfig src s
  | .densityRead x => Sys2Proof.Machine.execDensityRead x s
  | .trigConfig src => Sys2Proof.Machine.execTrigConfig src s
  | .trigQuery src => Sys2Proof.Machine.execTrigQuery src s
  | .trigForce src => Sys2Proof.Machine.execTrigForce src s
  | .calBegin src => Sys2Proof.Machine.execCalBegin src s
  | .calPoint src => Sys2Proof.Machine.execCalPoint src s
  | .calCommit src => Sys2Proof.Machine.execCalCommit src s
  | .calAbort src => Sys2Proof.Machine.execCalAbort src s
  | .ledgerRead src => Sys2Proof.Machine.execLedgerRead src s
  | .shepherdConfig src => Sys2Proof.Machine.execShepherdConfig src s
  | .timeSet src => Sys2Proof.Machine.execTimeSet src s
  | .timeQuery src => Sys2Proof.Machine.execTimeQuery src s
  | .clockConfig src => Sys2Proof.Machine.execClockConfig src s
  | .clockQuery src => Sys2Proof.Machine.execClockQuery src s
  | .holdoverPolicy src => Sys2Proof.Machine.execHoldoverPolicy src s
  | .fabricStatus src => Sys2Proof.Machine.execFabricStatus src s
  | .fabricPolicy src => Sys2Proof.Machine.execFabricPolicy src s
  | .fabricRouteQuery src => Sys2Proof.Machine.execFabricRouteQuery src s
  | .fabricForward src => Sys2Proof.Machine.execFabricForward src s
  | .bellSchedule src => Sys2Proof.Machine.execBellSchedule src s
  | .modeSet src => Sys2Proof.Machine.execModeSet src s
  | .modeQuery src => Sys2Proof.Machine.execModeQuery src s
  | .hearthEnter src => Sys2Proof.Machine.execHearthEnter src s
  | .supplyQuery src => Sys2Proof.Machine.execSupplyQuery src s
  | .diagSelftest src => Sys2Proof.Machine.execDiagSelftest src s
  | .diagLoopback src => Sys2Proof.Machine.execDiagLoopback src s
  | .diagLogRead src => Sys2Proof.Machine.execDiagLogRead src s
  | .fwStage src => Sys2Proof.Machine.execFwStage src s
  | .fwActivate src => Sys2Proof.Machine.execFwActivate src s
  | .fwQuery src => Sys2Proof.Machine.execFwQuery src s
  | .basePresent => Sys2Proof.Machine.execBasePresent s
  | .guardCurrentLimitReleased g t => Sys2Proof.Machine.execGuardCurrentLimitReleased g t s
  | .rampDownEnd ch t => Sys2Proof.Machine.execRampDownEnd ch t s
  | .returnLaneLocked => Sys2Proof.Machine.execReturnLaneLocked s
  | .returnLaneLockLost => Sys2Proof.Machine.execReturnLaneLockLost s
  | .hostOkTimeout => Sys2Proof.Machine.execHostOkTimeout s
  | .fabricFrameBadCrc x => Sys2Proof.Machine.execFabricFrameBadCrc x s
  | .controlFrameForward port frame => Sys2Proof.Machine.execControlFrameForward port frame s
  | .reserveTimeout => Sys2Proof.Machine.execReserveTimeout s
  | .fabricTxnOpenReply src txn status => Sys2Proof.Machine.execFabricTxnOpenReply src txn status s
  | .densityReadoutDone map => Sys2Proof.Machine.execDensityReadoutDone map s
  | .hearthPowerDownDone t => Sys2Proof.Machine.execHearthPowerDownDone t s
  | .jtagInstruction instr rails trst => Sys2Proof.Machine.execJtagInstruction instr rails trst s

end Sys2Proof.Machine
end

