-- ==== Sys2Proof/Laws/Tables.lean ====
section
/-! SUPPORT. Tables in canonical form: every operation keeps the form, and a read after a write gives what was written. -/

namespace Sys2Proof.Machine

variable {α : Type}

@[simp] theorem tfind_nil (k : Nat) : tfind ([] : Tbl α) k = none := rfl

theorem tfind_cons (i : Nat) (v : α) (t : Tbl α) (k : Nat) :
    tfind ((i, v) :: t) k = if k = i then some v else if k < i then none else tfind t k := rfl

/-- Insertion needs no order: the new entry is found, the others stay. -/
theorem tfind_tinsert (t : Tbl α) (k : Nat) (x : α) (j : Nat) :
    tfind (tinsert t k x) j = if j = k then some x else tfind t j := by
  induction t with
  | nil =>
    simp only [tinsert, tfind_cons, tfind_nil]
    split
    · rfl
    · split <;> rfl
  | cons e t ih =>
    obtain ⟨i, v⟩ := e
    simp only [tinsert]
    split
    · subst_vars
      simp only [tfind_cons]
      split <;> rfl
    · split
      · simp only [tfind_cons]
        split
        · rfl
        · split
          · have h1 : ¬ j = i := by omega
            have h2 : j < i := by omega
            simp [h1, h2]
          · rfl
      · simp only [tfind_cons, ih]
        split
        · have h : ¬ j = k := by omega
          simp [h]
        · split
          · have h : ¬ j = k := by omega
            simp [h]
          · rfl

/-- Keys below a bound stay below it. -/
theorem all_terase {t : Tbl α} {q : Nat × α → Bool} (h : t.all q = true) (k : Nat) : (terase t k).all q = true := by
  induction t with
  | nil => rfl
  | cons e t ih =>
    obtain ⟨i, v⟩ := e
    simp only [List.all_cons, Bool.and_eq_true] at h
    simp only [terase]
    split
    · exact h.2
    · split
      · simp [h.1, h.2]
      · simp only [List.all_cons, Bool.and_eq_true]
        exact ⟨h.1, ih h.2⟩

theorem all_tinsert {t : Tbl α} {q : Nat × α → Bool} (h : t.all q = true) {k : Nat} {x : α} (hx : q (k, x) = true) :
    (tinsert t k x).all q = true := by
  induction t with
  | nil => simp [tinsert, hx]
  | cons e t ih =>
    obtain ⟨i, v⟩ := e
    simp only [List.all_cons, Bool.and_eq_true] at h
    simp only [tinsert]
    split
    · simp [hx, h.2]
    · split
      · simp [hx, h.1, h.2]
      · simp only [List.all_cons, Bool.and_eq_true]
        exact ⟨h.1, ih h.2⟩

section canonical
variable [DecidableEq α] {d : α}

theorem tabOk_cons {lo : Option Nat} {k : Nat} {v : α} {t : Tbl α} :
    tabOk d lo ((k, v) :: t) = true ↔ (∀ a, lo = some a → a < k) ∧ v ≠ d ∧ tabOk d (some k) t = true := by
  cases lo <;> simp [tabOk, and_assoc]

/-- A key at or below the bound is not listed. -/
theorem tabOk_low {t : Tbl α} {b : Nat} (h : tabOk d (some b) t = true) {k : Nat} (hk : k ≤ b) : tfind t k = none := by
  cases t with
  | nil => rfl
  | cons e t =>
    obtain ⟨i, v⟩ := e
    have hi := (tabOk_cons.1 h).1 b rfl
    have h1 : ¬ k = i := by omega
    have h2 : k < i := by omega
    simp [tfind_cons, h1, h2]

theorem tabOk_weaken {t : Tbl α} {lo : Option Nat} {b : Nat} (hlo : ∀ a, lo = some a → a ≤ b)
    (h : tabOk d (some b) t = true) : tabOk d lo t = true := by
  cases t with
  | nil => rfl
  | cons e t =>
    obtain ⟨i, v⟩ := e
    have h := tabOk_cons.1 h
    exact tabOk_cons.2 ⟨fun a ha => Nat.lt_of_le_of_lt (hlo a ha) (h.1 b rfl), h.2⟩

theorem tabOk_tail {i : Nat} {v : α} {t : Tbl α} {lo : Option Nat} (h : tabOk d lo ((i, v) :: t) = true) :
    tabOk d (some i) t = true := (tabOk_cons.1 h).2.2

theorem tabOk_skip {i : Nat} {v : α} {t : Tbl α} {lo : Option Nat} (h : tabOk d lo ((i, v) :: t) = true) :
    tabOk d lo t = true :=
  tabOk_weaken (fun a ha => Nat.le_of_lt ((tabOk_cons.1 h).1 a ha)) (tabOk_tail h)

theorem tabOk_terase {t : Tbl α} {lo : Option Nat} (h : tabOk d lo t = true) (k : Nat) : tabOk d lo (terase t k) = true := by
  induction t generalizing lo with
  | nil => rfl
  | cons e t ih =>
    obtain ⟨i, v⟩ := e
    simp only [terase]
    split
    · exact tabOk_skip h
    · split
      · exact h
      · exact tabOk_cons.2 ⟨(tabOk_cons.1 h).1, (tabOk_cons.1 h).2.1, ih (tabOk_tail h)⟩

theorem tabOk_tinsert {t : Tbl α} {lo : Option Nat} (h : tabOk d lo t = true) {k : Nat} {x : α} (hx : x ≠ d)
    (hlo : ∀ a, lo = some a → a < k) : tabOk d lo (tinsert t k x) = true := by
  induction t generalizing lo with
  | nil => exact tabOk_cons.2 ⟨hlo, hx, rfl⟩
  | cons e t ih =>
    obtain ⟨i, v⟩ := e
    have h' := tabOk_cons.1 h
    simp only [tinsert]
    split
    · subst_vars
      exact tabOk_cons.2 ⟨hlo, hx, h'.2.2⟩
    · split
      · exact tabOk_cons.2 ⟨hlo, hx, tabOk_cons.2 ⟨fun a ha => by cases ha; assumption, h'.2⟩⟩
      · refine tabOk_cons.2 ⟨h'.1, h'.2.1, ih h'.2.2 fun a ha => ?_⟩
        cases ha
        omega

theorem twf_nil : twf d ([] : Tbl α) = true := rfl

theorem twf_terase {t : Tbl α} (h : twf d t = true) (k : Nat) : twf d (terase t k) = true := tabOk_terase h k

theorem twf_tinsert {t : Tbl α} (h : twf d t = true) {k : Nat} {x : α} (hx : x ≠ d) : twf d (tinsert t k x) = true :=
  tabOk_tinsert h hx (by simp)

/-- A write keeps the canonical form. -/
theorem twf_tput {t : Tbl α} (h : twf d t = true) (k : Nat) (x : α) : twf d (tput d t k x) = true := by
  unfold tput
  split
  · exact twf_terase h k
  · exact twf_tinsert h ‹_›

theorem twf_tmod {t : Tbl α} (h : twf d t = true) (k : Nat) (f : α → α) : twf d (tmod d t k f) = true := twf_tput h k _

theorem twf_tputList {t : Tbl α} (h : twf d t = true) (k : Nat) (l : List α) : twf d (tputList d t k l) = true := by
  induction l generalizing t k with
  | nil => exact h
  | cons x l ih => exact ih (twf_tput h k x) (k + 1)

theorem tabOk_tmap {t : Tbl α} {lo : Option Nat} (h : tabOk d lo t = true) (f : α → α) : tabOk d lo (tmap d f t) = true := by
  induction t generalizing lo with
  | nil => rfl
  | cons e t ih =>
    obtain ⟨i, v⟩ := e
    by_cases hv : f v = d
    · have : tmap d f ((i, v) :: t) = tmap d f t := by simp [tmap, hv]
      exact this ▸ ih (tabOk_skip h)
    · have : tmap d f ((i, v) :: t) = (i, f v) :: tmap d f t := by simp [tmap, hv]
      exact this ▸ tabOk_cons.2 ⟨(tabOk_cons.1 h).1, hv, ih (tabOk_tail h)⟩

theorem twf_tmap {t : Tbl α} (h : twf d t = true) (f : α → α) : twf d (tmap d f t) = true := tabOk_tmap h f

theorem tfind_terase {t : Tbl α} {lo : Option Nat} (h : tabOk d lo t = true) (k j : Nat) :
    tfind (terase t k) j = if j = k then none else tfind t j := by
  induction t generalizing lo with
  | nil => simp [terase]
  | cons e t ih =>
    obtain ⟨i, v⟩ := e
    have ht := tabOk_tail h
    simp only [terase]
    split
    · subst_vars
      simp only [tfind_cons]
      by_cases hj : j = i
      · subst hj
        simp [tabOk_low ht (Nat.le_refl _)]
      · simp only [hj, if_false]
        split
        · exact tabOk_low ht (by omega)
        · rfl
    · split
      · simp only [tfind_cons]
        by_cases hj : j = k
        · subst hj
          simp [*]
        · simp [hj]
      · simp only [tfind_cons, ih ht]
        by_cases hj : j = i
        · subst hj
          have : ¬ j = k := by omega
          simp [this]
        · by_cases hk : j = k
          · subst hk
            simp [hj]
          · simp [hj, hk]

/-- Read after write. -/
theorem tget_tput {t : Tbl α} (h : twf d t = true) (k j : Nat) (x : α) :
    tget d (tput d t k x) j = if j = k then x else tget d t j := by
  unfold tget tput
  split
  · rw [tfind_terase h]
    split <;> simp [*]
  · rw [tfind_tinsert]
    split <;> simp [*]

theorem tget_tmod {t : Tbl α} (h : twf d t = true) (k j : Nat) (f : α → α) :
    tget d (tmod d t k f) j = if j = k then f (tget d t k) else tget d t j := tget_tput h k j _

theorem all_tput {t : Tbl α} {q : Nat × α → Bool} (h : t.all q = true) {k : Nat} {x : α} (hx : q (k, x) = true) :
    (tput d t k x).all q = true := by
  unfold tput
  split
  · exact all_terase h k
  · exact all_tinsert h hx

end canonical

end Sys2Proof.Machine
end

