-- ==== Sys2Proof/Laws/State.lean ====
section
/-! SUPPORT. What each named update of the state leaves as it was: one lemma for each field, so that no proof unfolds a record update. -/

namespace Sys2Proof.Machine

/-! ### The device's fields -/

@[simp] theorem Device.setChan_clk (n : Nat) (f : ChanRun → ChanRun) (d : Device) : (d.setChan n f).clk = d.clk := rfl
@[simp] theorem Device.setChan_pw (n : Nat) (f : ChanRun → ChanRun) (d : Device) : (d.setChan n f).pw = d.pw := rfl
@[simp] theorem Device.setChan_regs (n : Nat) (f : ChanRun → ChanRun) (d : Device) : (d.setChan n f).regs = d.regs := rfl
@[simp] theorem Device.setChan_evts (n : Nat) (f : ChanRun → ChanRun) (d : Device) : (d.setChan n f).evts = d.evts := rfl
@[simp] theorem Device.setChan_bell (n : Nat) (f : ChanRun → ChanRun) (d : Device) : (d.setChan n f).bell = d.bell := rfl
@[simp] theorem Device.setChan_cnt (n : Nat) (f : ChanRun → ChanRun) (d : Device) : (d.setChan n f).cnt = d.cnt := rfl
@[simp] theorem Device.setChan_fw (n : Nat) (f : ChanRun → ChanRun) (d : Device) : (d.setChan n f).fw = d.fw := rfl
@[simp] theorem Device.setChan_points (n : Nat) (f : ChanRun → ChanRun) (d : Device) : (d.setChan n f).points = d.points := rfl
@[simp] theorem Device.setChan_groups (n : Nat) (f : ChanRun → ChanRun) (d : Device) : (d.setChan n f).groups = d.groups := rfl
@[simp] theorem Device.setChan_tiles (n : Nat) (f : ChanRun → ChanRun) (d : Device) : (d.setChan n f).tiles = d.tiles := rfl
@[simp] theorem Device.setChan_trig (n : Nat) (f : ChanRun → ChanRun) (d : Device) : (d.setChan n f).trig = d.trig := rfl
@[simp] theorem Device.setChan_gran (n : Nat) (f : ChanRun → ChanRun) (d : Device) : (d.setChan n f).gran = d.gran := rfl
@[simp] theorem Device.setChan_jobs (n : Nat) (f : ChanRun → ChanRun) (d : Device) : (d.setChan n f).jobs = d.jobs := rfl
@[simp] theorem Device.setChan_ended (n : Nat) (f : ChanRun → ChanRun) (d : Device) : (d.setChan n f).ended = d.ended := rfl
@[simp] theorem Device.setChan_maps (n : Nat) (f : ChanRun → ChanRun) (d : Device) : (d.setChan n f).maps = d.maps := rfl
@[simp] theorem Device.setChan_port (n : Nat) (f : ChanRun → ChanRun) (d : Device) : (d.setChan n f).port = d.port := rfl
@[simp] theorem Device.setChan_nv (n : Nat) (f : ChanRun → ChanRun) (d : Device) : (d.setChan n f).nv = d.nv := rfl
@[simp] theorem Device.setChan_work (n : Nat) (f : ChanRun → ChanRun) (d : Device) : (d.setChan n f).work = d.work := rfl
@[simp] theorem Device.setChan_fab (n : Nat) (f : ChanRun → ChanRun) (d : Device) : (d.setChan n f).fab = d.fab := rfl
@[simp] theorem Device.setChan_marks (n : Nat) (f : ChanRun → ChanRun) (d : Device) : (d.setChan n f).marks = d.marks := rfl
@[simp] theorem Device.setChan_free (n : Nat) (f : ChanRun → ChanRun) (d : Device) : (d.setChan n f).free = d.free := rfl

@[simp] theorem Device.setPt_clk (p : Nat) (f : PointRun → PointRun) (d : Device) : (d.setPt p f).clk = d.clk := rfl
@[simp] theorem Device.setPt_pw (p : Nat) (f : PointRun → PointRun) (d : Device) : (d.setPt p f).pw = d.pw := rfl
@[simp] theorem Device.setPt_regs (p : Nat) (f : PointRun → PointRun) (d : Device) : (d.setPt p f).regs = d.regs := rfl
@[simp] theorem Device.setPt_evts (p : Nat) (f : PointRun → PointRun) (d : Device) : (d.setPt p f).evts = d.evts := rfl
@[simp] theorem Device.setPt_bell (p : Nat) (f : PointRun → PointRun) (d : Device) : (d.setPt p f).bell = d.bell := rfl
@[simp] theorem Device.setPt_cnt (p : Nat) (f : PointRun → PointRun) (d : Device) : (d.setPt p f).cnt = d.cnt := rfl
@[simp] theorem Device.setPt_fw (p : Nat) (f : PointRun → PointRun) (d : Device) : (d.setPt p f).fw = d.fw := rfl
@[simp] theorem Device.setPt_chans (p : Nat) (f : PointRun → PointRun) (d : Device) : (d.setPt p f).chans = d.chans := rfl
@[simp] theorem Device.setPt_groups (p : Nat) (f : PointRun → PointRun) (d : Device) : (d.setPt p f).groups = d.groups := rfl
@[simp] theorem Device.setPt_tiles (p : Nat) (f : PointRun → PointRun) (d : Device) : (d.setPt p f).tiles = d.tiles := rfl
@[simp] theorem Device.setPt_trig (p : Nat) (f : PointRun → PointRun) (d : Device) : (d.setPt p f).trig = d.trig := rfl
@[simp] theorem Device.setPt_gran (p : Nat) (f : PointRun → PointRun) (d : Device) : (d.setPt p f).gran = d.gran := rfl
@[simp] theorem Device.setPt_jobs (p : Nat) (f : PointRun → PointRun) (d : Device) : (d.setPt p f).jobs = d.jobs := rfl
@[simp] theorem Device.setPt_ended (p : Nat) (f : PointRun → PointRun) (d : Device) : (d.setPt p f).ended = d.ended := rfl
@[simp] theorem Device.setPt_maps (p : Nat) (f : PointRun → PointRun) (d : Device) : (d.setPt p f).maps = d.maps := rfl
@[simp] theorem Device.setPt_port (p : Nat) (f : PointRun → PointRun) (d : Device) : (d.setPt p f).port = d.port := rfl
@[simp] theorem Device.setPt_nv (p : Nat) (f : PointRun → PointRun) (d : Device) : (d.setPt p f).nv = d.nv := rfl
@[simp] theorem Device.setPt_work (p : Nat) (f : PointRun → PointRun) (d : Device) : (d.setPt p f).work = d.work := rfl
@[simp] theorem Device.setPt_fab (p : Nat) (f : PointRun → PointRun) (d : Device) : (d.setPt p f).fab = d.fab := rfl
@[simp] theorem Device.setPt_marks (p : Nat) (f : PointRun → PointRun) (d : Device) : (d.setPt p f).marks = d.marks := rfl
@[simp] theorem Device.setPt_free (p : Nat) (f : PointRun → PointRun) (d : Device) : (d.setPt p f).free = d.free := rfl

@[simp] theorem Device.setGroup_clk (g : Nat) (f : GroupRun → GroupRun) (d : Device) : (d.setGroup g f).clk = d.clk := rfl
@[simp] theorem Device.setGroup_pw (g : Nat) (f : GroupRun → GroupRun) (d : Device) : (d.setGroup g f).pw = d.pw := rfl
@[simp] theorem Device.setGroup_regs (g : Nat) (f : GroupRun → GroupRun) (d : Device) : (d.setGroup g f).regs = d.regs := rfl
@[simp] theorem Device.setGroup_evts (g : Nat) (f : GroupRun → GroupRun) (d : Device) : (d.setGroup g f).evts = d.evts := rfl
@[simp] theorem Device.setGroup_bell (g : Nat) (f : GroupRun → GroupRun) (d : Device) : (d.setGroup g f).bell = d.bell := rfl
@[simp] theorem Device.setGroup_cnt (g : Nat) (f : GroupRun → GroupRun) (d : Device) : (d.setGroup g f).cnt = d.cnt := rfl
@[simp] theorem Device.setGroup_fw (g : Nat) (f : GroupRun → GroupRun) (d : Device) : (d.setGroup g f).fw = d.fw := rfl
@[simp] theorem Device.setGroup_chans (g : Nat) (f : GroupRun → GroupRun) (d : Device) : (d.setGroup g f).chans = d.chans := rfl
@[simp] theorem Device.setGroup_points (g : Nat) (f : GroupRun → GroupRun) (d : Device) : (d.setGroup g f).points = d.points := rfl
@[simp] theorem Device.setGroup_tiles (g : Nat) (f : GroupRun → GroupRun) (d : Device) : (d.setGroup g f).tiles = d.tiles := rfl
@[simp] theorem Device.setGroup_trig (g : Nat) (f : GroupRun → GroupRun) (d : Device) : (d.setGroup g f).trig = d.trig := rfl
@[simp] theorem Device.setGroup_gran (g : Nat) (f : GroupRun → GroupRun) (d : Device) : (d.setGroup g f).gran = d.gran := rfl
@[simp] theorem Device.setGroup_jobs (g : Nat) (f : GroupRun → GroupRun) (d : Device) : (d.setGroup g f).jobs = d.jobs := rfl
@[simp] theorem Device.setGroup_ended (g : Nat) (f : GroupRun → GroupRun) (d : Device) : (d.setGroup g f).ended = d.ended := rfl
@[simp] theorem Device.setGroup_maps (g : Nat) (f : GroupRun → GroupRun) (d : Device) : (d.setGroup g f).maps = d.maps := rfl
@[simp] theorem Device.setGroup_port (g : Nat) (f : GroupRun → GroupRun) (d : Device) : (d.setGroup g f).port = d.port := rfl
@[simp] theorem Device.setGroup_nv (g : Nat) (f : GroupRun → GroupRun) (d : Device) : (d.setGroup g f).nv = d.nv := rfl
@[simp] theorem Device.setGroup_work (g : Nat) (f : GroupRun → GroupRun) (d : Device) : (d.setGroup g f).work = d.work := rfl
@[simp] theorem Device.setGroup_fab (g : Nat) (f : GroupRun → GroupRun) (d : Device) : (d.setGroup g f).fab = d.fab := rfl
@[simp] theorem Device.setGroup_marks (g : Nat) (f : GroupRun → GroupRun) (d : Device) : (d.setGroup g f).marks = d.marks := rfl
@[simp] theorem Device.setGroup_free (g : Nat) (f : GroupRun → GroupRun) (d : Device) : (d.setGroup g f).free = d.free := rfl

@[simp] theorem Device.setUnit_clk (u : Nat) (f : UnitRun → UnitRun) (d : Device) : (d.setUnit u f).clk = d.clk := rfl
@[simp] theorem Device.setUnit_pw (u : Nat) (f : UnitRun → UnitRun) (d : Device) : (d.setUnit u f).pw = d.pw := rfl
@[simp] theorem Device.setUnit_regs (u : Nat) (f : UnitRun → UnitRun) (d : Device) : (d.setUnit u f).regs = d.regs := rfl
@[simp] theorem Device.setUnit_evts (u : Nat) (f : UnitRun → UnitRun) (d : Device) : (d.setUnit u f).evts = d.evts := rfl
@[simp] theorem Device.setUnit_bell (u : Nat) (f : UnitRun → UnitRun) (d : Device) : (d.setUnit u f).bell = d.bell := rfl
@[simp] theorem Device.setUnit_cnt (u : Nat) (f : UnitRun → UnitRun) (d : Device) : (d.setUnit u f).cnt = d.cnt := rfl
@[simp] theorem Device.setUnit_fw (u : Nat) (f : UnitRun → UnitRun) (d : Device) : (d.setUnit u f).fw = d.fw := rfl
@[simp] theorem Device.setUnit_chans (u : Nat) (f : UnitRun → UnitRun) (d : Device) : (d.setUnit u f).chans = d.chans := rfl
@[simp] theorem Device.setUnit_points (u : Nat) (f : UnitRun → UnitRun) (d : Device) : (d.setUnit u f).points = d.points := rfl
@[simp] theorem Device.setUnit_groups (u : Nat) (f : UnitRun → UnitRun) (d : Device) : (d.setUnit u f).groups = d.groups := rfl
@[simp] theorem Device.setUnit_tiles (u : Nat) (f : UnitRun → UnitRun) (d : Device) : (d.setUnit u f).tiles = d.tiles := rfl
@[simp] theorem Device.setUnit_gran (u : Nat) (f : UnitRun → UnitRun) (d : Device) : (d.setUnit u f).gran = d.gran := rfl
@[simp] theorem Device.setUnit_jobs (u : Nat) (f : UnitRun → UnitRun) (d : Device) : (d.setUnit u f).jobs = d.jobs := rfl
@[simp] theorem Device.setUnit_ended (u : Nat) (f : UnitRun → UnitRun) (d : Device) : (d.setUnit u f).ended = d.ended := rfl
@[simp] theorem Device.setUnit_maps (u : Nat) (f : UnitRun → UnitRun) (d : Device) : (d.setUnit u f).maps = d.maps := rfl
@[simp] theorem Device.setUnit_port (u : Nat) (f : UnitRun → UnitRun) (d : Device) : (d.setUnit u f).port = d.port := rfl
@[simp] theorem Device.setUnit_nv (u : Nat) (f : UnitRun → UnitRun) (d : Device) : (d.setUnit u f).nv = d.nv := rfl
@[simp] theorem Device.setUnit_work (u : Nat) (f : UnitRun → UnitRun) (d : Device) : (d.setUnit u f).work = d.work := rfl
@[simp] theorem Device.setUnit_fab (u : Nat) (f : UnitRun → UnitRun) (d : Device) : (d.setUnit u f).fab = d.fab := rfl
@[simp] theorem Device.setUnit_marks (u : Nat) (f : UnitRun → UnitRun) (d : Device) : (d.setUnit u f).marks = d.marks := rfl
@[simp] theorem Device.setUnit_free (u : Nat) (f : UnitRun → UnitRun) (d : Device) : (d.setUnit u f).free = d.free := rfl

@[simp] theorem Device.setRegion_clk (r : Nat) (f : RegionRun → RegionRun) (d : Device) : (d.setRegion r f).clk = d.clk := rfl
@[simp] theorem Device.setRegion_pw (r : Nat) (f : RegionRun → RegionRun) (d : Device) : (d.setRegion r f).pw = d.pw := rfl
@[simp] theorem Device.setRegion_regs (r : Nat) (f : RegionRun → RegionRun) (d : Device) : (d.setRegion r f).regs = d.regs := rfl
@[simp] theorem Device.setRegion_evts (r : Nat) (f : RegionRun → RegionRun) (d : Device) : (d.setRegion r f).evts = d.evts := rfl
@[simp] theorem Device.setRegion_bell (r : Nat) (f : RegionRun → RegionRun) (d : Device) : (d.setRegion r f).bell = d.bell := rfl
@[simp] theorem Device.setRegion_cnt (r : Nat) (f : RegionRun → RegionRun) (d : Device) : (d.setRegion r f).cnt = d.cnt := rfl
@[simp] theorem Device.setRegion_fw (r : Nat) (f : RegionRun → RegionRun) (d : Device) : (d.setRegion r f).fw = d.fw := rfl
@[simp] theorem Device.setRegion_chans (r : Nat) (f : RegionRun → RegionRun) (d : Device) : (d.setRegion r f).chans = d.chans := rfl
@[simp] theorem Device.setRegion_points (r : Nat) (f : RegionRun → RegionRun) (d : Device) : (d.setRegion r f).points = d.points := rfl
@[simp] theorem Device.setRegion_groups (r : Nat) (f : RegionRun → RegionRun) (d : Device) : (d.setRegion r f).groups = d.groups := rfl
@[simp] theorem Device.setRegion_tiles (r : Nat) (f : RegionRun → RegionRun) (d : Device) : (d.setRegion r f).tiles = d.tiles := rfl
@[simp] theorem Device.setRegion_trig (r : Nat) (f : RegionRun → RegionRun) (d : Device) : (d.setRegion r f).trig = d.trig := rfl
@[simp] theorem Device.setRegion_jobs (r : Nat) (f : RegionRun → RegionRun) (d : Device) : (d.setRegion r f).jobs = d.jobs := rfl
@[simp] theorem Device.setRegion_ended (r : Nat) (f : RegionRun → RegionRun) (d : Device) : (d.setRegion r f).ended = d.ended := rfl
@[simp] theorem Device.setRegion_maps (r : Nat) (f : RegionRun → RegionRun) (d : Device) : (d.setRegion r f).maps = d.maps := rfl
@[simp] theorem Device.setRegion_port (r : Nat) (f : RegionRun → RegionRun) (d : Device) : (d.setRegion r f).port = d.port := rfl
@[simp] theorem Device.setRegion_nv (r : Nat) (f : RegionRun → RegionRun) (d : Device) : (d.setRegion r f).nv = d.nv := rfl
@[simp] theorem Device.setRegion_work (r : Nat) (f : RegionRun → RegionRun) (d : Device) : (d.setRegion r f).work = d.work := rfl
@[simp] theorem Device.setRegion_fab (r : Nat) (f : RegionRun → RegionRun) (d : Device) : (d.setRegion r f).fab = d.fab := rfl
@[simp] theorem Device.setRegion_marks (r : Nat) (f : RegionRun → RegionRun) (d : Device) : (d.setRegion r f).marks = d.marks := rfl
@[simp] theorem Device.setRegion_free (r : Nat) (f : RegionRun → RegionRun) (d : Device) : (d.setRegion r f).free = d.free := rfl

@[simp] theorem Device.setJob_clk (j : Nat) (f : JobRun → JobRun) (d : Device) : (d.setJob j f).clk = d.clk := rfl
@[simp] theorem Device.setJob_pw (j : Nat) (f : JobRun → JobRun) (d : Device) : (d.setJob j f).pw = d.pw := rfl
@[simp] theorem Device.setJob_regs (j : Nat) (f : JobRun → JobRun) (d : Device) : (d.setJob j f).regs = d.regs := rfl
@[simp] theorem Device.setJob_evts (j : Nat) (f : JobRun → JobRun) (d : Device) : (d.setJob j f).evts = d.evts := rfl
@[simp] theorem Device.setJob_bell (j : Nat) (f : JobRun → JobRun) (d : Device) : (d.setJob j f).bell = d.bell := rfl
@[simp] theorem Device.setJob_cnt (j : Nat) (f : JobRun → JobRun) (d : Device) : (d.setJob j f).cnt = d.cnt := rfl
@[simp] theorem Device.setJob_fw (j : Nat) (f : JobRun → JobRun) (d : Device) : (d.setJob j f).fw = d.fw := rfl
@[simp] theorem Device.setJob_chans (j : Nat) (f : JobRun → JobRun) (d : Device) : (d.setJob j f).chans = d.chans := rfl
@[simp] theorem Device.setJob_points (j : Nat) (f : JobRun → JobRun) (d : Device) : (d.setJob j f).points = d.points := rfl
@[simp] theorem Device.setJob_groups (j : Nat) (f : JobRun → JobRun) (d : Device) : (d.setJob j f).groups = d.groups := rfl
@[simp] theorem Device.setJob_tiles (j : Nat) (f : JobRun → JobRun) (d : Device) : (d.setJob j f).tiles = d.tiles := rfl
@[simp] theorem Device.setJob_trig (j : Nat) (f : JobRun → JobRun) (d : Device) : (d.setJob j f).trig = d.trig := rfl
@[simp] theorem Device.setJob_gran (j : Nat) (f : JobRun → JobRun) (d : Device) : (d.setJob j f).gran = d.gran := rfl
@[simp] theorem Device.setJob_ended (j : Nat) (f : JobRun → JobRun) (d : Device) : (d.setJob j f).ended = d.ended := rfl
@[simp] theorem Device.setJob_maps (j : Nat) (f : JobRun → JobRun) (d : Device) : (d.setJob j f).maps = d.maps := rfl
@[simp] theorem Device.setJob_port (j : Nat) (f : JobRun → JobRun) (d : Device) : (d.setJob j f).port = d.port := rfl
@[simp] theorem Device.setJob_nv (j : Nat) (f : JobRun → JobRun) (d : Device) : (d.setJob j f).nv = d.nv := rfl
@[simp] theorem Device.setJob_work (j : Nat) (f : JobRun → JobRun) (d : Device) : (d.setJob j f).work = d.work := rfl
@[simp] theorem Device.setJob_fab (j : Nat) (f : JobRun → JobRun) (d : Device) : (d.setJob j f).fab = d.fab := rfl
@[simp] theorem Device.setJob_marks (j : Nat) (f : JobRun → JobRun) (d : Device) : (d.setJob j f).marks = d.marks := rfl
@[simp] theorem Device.setJob_free (j : Nat) (f : JobRun → JobRun) (d : Device) : (d.setJob j f).free = d.free := rfl

@[simp] theorem Device.setMap_clk (m : Nat) (f : MapRun → MapRun) (d : Device) : (d.setMap m f).clk = d.clk := rfl
@[simp] theorem Device.setMap_pw (m : Nat) (f : MapRun → MapRun) (d : Device) : (d.setMap m f).pw = d.pw := rfl
@[simp] theorem Device.setMap_regs (m : Nat) (f : MapRun → MapRun) (d : Device) : (d.setMap m f).regs = d.regs := rfl
@[simp] theorem Device.setMap_evts (m : Nat) (f : MapRun → MapRun) (d : Device) : (d.setMap m f).evts = d.evts := rfl
@[simp] theorem Device.setMap_bell (m : Nat) (f : MapRun → MapRun) (d : Device) : (d.setMap m f).bell = d.bell := rfl
@[simp] theorem Device.setMap_cnt (m : Nat) (f : MapRun → MapRun) (d : Device) : (d.setMap m f).cnt = d.cnt := rfl
@[simp] theorem Device.setMap_fw (m : Nat) (f : MapRun → MapRun) (d : Device) : (d.setMap m f).fw = d.fw := rfl
@[simp] theorem Device.setMap_chans (m : Nat) (f : MapRun → MapRun) (d : Device) : (d.setMap m f).chans = d.chans := rfl
@[simp] theorem Device.setMap_points (m : Nat) (f : MapRun → MapRun) (d : Device) : (d.setMap m f).points = d.points := rfl
@[simp] theorem Device.setMap_groups (m : Nat) (f : MapRun → MapRun) (d : Device) : (d.setMap m f).groups = d.groups := rfl
@[simp] theorem Device.setMap_tiles (m : Nat) (f : MapRun → MapRun) (d : Device) : (d.setMap m f).tiles = d.tiles := rfl
@[simp] theorem Device.setMap_trig (m : Nat) (f : MapRun → MapRun) (d : Device) : (d.setMap m f).trig = d.trig := rfl
@[simp] theorem Device.setMap_gran (m : Nat) (f : MapRun → MapRun) (d : Device) : (d.setMap m f).gran = d.gran := rfl
@[simp] theorem Device.setMap_jobs (m : Nat) (f : MapRun → MapRun) (d : Device) : (d.setMap m f).jobs = d.jobs := rfl
@[simp] theorem Device.setMap_ended (m : Nat) (f : MapRun → MapRun) (d : Device) : (d.setMap m f).ended = d.ended := rfl
@[simp] theorem Device.setMap_port (m : Nat) (f : MapRun → MapRun) (d : Device) : (d.setMap m f).port = d.port := rfl
@[simp] theorem Device.setMap_nv (m : Nat) (f : MapRun → MapRun) (d : Device) : (d.setMap m f).nv = d.nv := rfl
@[simp] theorem Device.setMap_work (m : Nat) (f : MapRun → MapRun) (d : Device) : (d.setMap m f).work = d.work := rfl
@[simp] theorem Device.setMap_fab (m : Nat) (f : MapRun → MapRun) (d : Device) : (d.setMap m f).fab = d.fab := rfl
@[simp] theorem Device.setMap_marks (m : Nat) (f : MapRun → MapRun) (d : Device) : (d.setMap m f).marks = d.marks := rfl
@[simp] theorem Device.setMap_free (m : Nat) (f : MapRun → MapRun) (d : Device) : (d.setMap m f).free = d.free := rfl

@[simp] theorem Device.setTile_clk (t : Nat) (f : Tile → Tile) (d : Device) : (d.setTile t f).clk = d.clk := rfl
@[simp] theorem Device.setTile_pw (t : Nat) (f : Tile → Tile) (d : Device) : (d.setTile t f).pw = d.pw := rfl
@[simp] theorem Device.setTile_regs (t : Nat) (f : Tile → Tile) (d : Device) : (d.setTile t f).regs = d.regs := rfl
@[simp] theorem Device.setTile_evts (t : Nat) (f : Tile → Tile) (d : Device) : (d.setTile t f).evts = d.evts := rfl
@[simp] theorem Device.setTile_bell (t : Nat) (f : Tile → Tile) (d : Device) : (d.setTile t f).bell = d.bell := rfl
@[simp] theorem Device.setTile_cnt (t : Nat) (f : Tile → Tile) (d : Device) : (d.setTile t f).cnt = d.cnt := rfl
@[simp] theorem Device.setTile_fw (t : Nat) (f : Tile → Tile) (d : Device) : (d.setTile t f).fw = d.fw := rfl
@[simp] theorem Device.setTile_chans (t : Nat) (f : Tile → Tile) (d : Device) : (d.setTile t f).chans = d.chans := rfl
@[simp] theorem Device.setTile_points (t : Nat) (f : Tile → Tile) (d : Device) : (d.setTile t f).points = d.points := rfl
@[simp] theorem Device.setTile_groups (t : Nat) (f : Tile → Tile) (d : Device) : (d.setTile t f).groups = d.groups := rfl
@[simp] theorem Device.setTile_trig (t : Nat) (f : Tile → Tile) (d : Device) : (d.setTile t f).trig = d.trig := rfl
@[simp] theorem Device.setTile_gran (t : Nat) (f : Tile → Tile) (d : Device) : (d.setTile t f).gran = d.gran := rfl
@[simp] theorem Device.setTile_jobs (t : Nat) (f : Tile → Tile) (d : Device) : (d.setTile t f).jobs = d.jobs := rfl
@[simp] theorem Device.setTile_ended (t : Nat) (f : Tile → Tile) (d : Device) : (d.setTile t f).ended = d.ended := rfl
@[simp] theorem Device.setTile_maps (t : Nat) (f : Tile → Tile) (d : Device) : (d.setTile t f).maps = d.maps := rfl
@[simp] theorem Device.setTile_port (t : Nat) (f : Tile → Tile) (d : Device) : (d.setTile t f).port = d.port := rfl
@[simp] theorem Device.setTile_nv (t : Nat) (f : Tile → Tile) (d : Device) : (d.setTile t f).nv = d.nv := rfl
@[simp] theorem Device.setTile_work (t : Nat) (f : Tile → Tile) (d : Device) : (d.setTile t f).work = d.work := rfl
@[simp] theorem Device.setTile_fab (t : Nat) (f : Tile → Tile) (d : Device) : (d.setTile t f).fab = d.fab := rfl
@[simp] theorem Device.setTile_marks (t : Nat) (f : Tile → Tile) (d : Device) : (d.setTile t f).marks = d.marks := rfl
@[simp] theorem Device.setTile_free (t : Nat) (f : Tile → Tile) (d : Device) : (d.setTile t f).free = d.free := rfl

@[simp] theorem Device.setFport_clk (k : Nat) (f : FPort → FPort) (d : Device) : (d.setFport k f).clk = d.clk := rfl
@[simp] theorem Device.setFport_pw (k : Nat) (f : FPort → FPort) (d : Device) : (d.setFport k f).pw = d.pw := rfl
@[simp] theorem Device.setFport_regs (k : Nat) (f : FPort → FPort) (d : Device) : (d.setFport k f).regs = d.regs := rfl
@[simp] theorem Device.setFport_evts (k : Nat) (f : FPort → FPort) (d : Device) : (d.setFport k f).evts = d.evts := rfl
@[simp] theorem Device.setFport_bell (k : Nat) (f : FPort → FPort) (d : Device) : (d.setFport k f).bell = d.bell := rfl
@[simp] theorem Device.setFport_cnt (k : Nat) (f : FPort → FPort) (d : Device) : (d.setFport k f).cnt = d.cnt := rfl
@[simp] theorem Device.setFport_fw (k : Nat) (f : FPort → FPort) (d : Device) : (d.setFport k f).fw = d.fw := rfl
@[simp] theorem Device.setFport_chans (k : Nat) (f : FPort → FPort) (d : Device) : (d.setFport k f).chans = d.chans := rfl
@[simp] theorem Device.setFport_points (k : Nat) (f : FPort → FPort) (d : Device) : (d.setFport k f).points = d.points := rfl
@[simp] theorem Device.setFport_groups (k : Nat) (f : FPort → FPort) (d : Device) : (d.setFport k f).groups = d.groups := rfl
@[simp] theorem Device.setFport_tiles (k : Nat) (f : FPort → FPort) (d : Device) : (d.setFport k f).tiles = d.tiles := rfl
@[simp] theorem Device.setFport_trig (k : Nat) (f : FPort → FPort) (d : Device) : (d.setFport k f).trig = d.trig := rfl
@[simp] theorem Device.setFport_gran (k : Nat) (f : FPort → FPort) (d : Device) : (d.setFport k f).gran = d.gran := rfl
@[simp] theorem Device.setFport_jobs (k : Nat) (f : FPort → FPort) (d : Device) : (d.setFport k f).jobs = d.jobs := rfl
@[simp] theorem Device.setFport_ended (k : Nat) (f : FPort → FPort) (d : Device) : (d.setFport k f).ended = d.ended := rfl
@[simp] theorem Device.setFport_maps (k : Nat) (f : FPort → FPort) (d : Device) : (d.setFport k f).maps = d.maps := rfl
@[simp] theorem Device.setFport_port (k : Nat) (f : FPort → FPort) (d : Device) : (d.setFport k f).port = d.port := rfl
@[simp] theorem Device.setFport_nv (k : Nat) (f : FPort → FPort) (d : Device) : (d.setFport k f).nv = d.nv := rfl
@[simp] theorem Device.setFport_work (k : Nat) (f : FPort → FPort) (d : Device) : (d.setFport k f).work = d.work := rfl
@[simp] theorem Device.setFport_marks (k : Nat) (f : FPort → FPort) (d : Device) : (d.setFport k f).marks = d.marks := rfl
@[simp] theorem Device.setFport_free (k : Nat) (f : FPort → FPort) (d : Device) : (d.setFport k f).free = d.free := rfl

@[simp] theorem Device.setPost_clk (p : Port) (t : Nat) (f : Posted → Posted) (d : Device) : (d.setPost p t f).clk = d.clk := rfl
@[simp] theorem Device.setPost_pw (p : Port) (t : Nat) (f : Posted → Posted) (d : Device) : (d.setPost p t f).pw = d.pw := rfl
@[simp] theorem Device.setPost_evts (p : Port) (t : Nat) (f : Posted → Posted) (d : Device) : (d.setPost p t f).evts = d.evts := rfl
@[simp] theorem Device.setPost_bell (p : Port) (t : Nat) (f : Posted → Posted) (d : Device) : (d.setPost p t f).bell = d.bell := rfl
@[simp] theorem Device.setPost_cnt (p : Port) (t : Nat) (f : Posted → Posted) (d : Device) : (d.setPost p t f).cnt = d.cnt := rfl
@[simp] theorem Device.setPost_fw (p : Port) (t : Nat) (f : Posted → Posted) (d : Device) : (d.setPost p t f).fw = d.fw := rfl
@[simp] theorem Device.setPost_chans (p : Port) (t : Nat) (f : Posted → Posted) (d : Device) : (d.setPost p t f).chans = d.chans := rfl
@[simp] theorem Device.setPost_points (p : Port) (t : Nat) (f : Posted → Posted) (d : Device) : (d.setPost p t f).points = d.points := rfl
@[simp] theorem Device.setPost_groups (p : Port) (t : Nat) (f : Posted → Posted) (d : Device) : (d.setPost p t f).groups = d.groups := rfl
@[simp] theorem Device.setPost_tiles (p : Port) (t : Nat) (f : Posted → Posted) (d : Device) : (d.setPost p t f).tiles = d.tiles := rfl
@[simp] theorem Device.setPost_trig (p : Port) (t : Nat) (f : Posted → Posted) (d : Device) : (d.setPost p t f).trig = d.trig := rfl
@[simp] theorem Device.setPost_gran (p : Port) (t : Nat) (f : Posted → Posted) (d : Device) : (d.setPost p t f).gran = d.gran := rfl
@[simp] theorem Device.setPost_jobs (p : Port) (t : Nat) (f : Posted → Posted) (d : Device) : (d.setPost p t f).jobs = d.jobs := rfl
@[simp] theorem Device.setPost_ended (p : Port) (t : Nat) (f : Posted → Posted) (d : Device) : (d.setPost p t f).ended = d.ended := rfl
@[simp] theorem Device.setPost_maps (p : Port) (t : Nat) (f : Posted → Posted) (d : Device) : (d.setPost p t f).maps = d.maps := rfl
@[simp] theorem Device.setPost_port (p : Port) (t : Nat) (f : Posted → Posted) (d : Device) : (d.setPost p t f).port = d.port := rfl
@[simp] theorem Device.setPost_nv (p : Port) (t : Nat) (f : Posted → Posted) (d : Device) : (d.setPost p t f).nv = d.nv := rfl
@[simp] theorem Device.setPost_work (p : Port) (t : Nat) (f : Posted → Posted) (d : Device) : (d.setPost p t f).work = d.work := rfl
@[simp] theorem Device.setPost_fab (p : Port) (t : Nat) (f : Posted → Posted) (d : Device) : (d.setPost p t f).fab = d.fab := rfl
@[simp] theorem Device.setPost_marks (p : Port) (t : Nat) (f : Posted → Posted) (d : Device) : (d.setPost p t f).marks = d.marks := rfl
@[simp] theorem Device.setPost_free (p : Port) (t : Nat) (f : Posted → Posted) (d : Device) : (d.setPost p t f).free = d.free := rfl

@[simp] theorem Device.setSession_clk (i : Nat) (f : Session → Session) (d : Device) : (d.setSession i f).clk = d.clk := rfl
@[simp] theorem Device.setSession_pw (i : Nat) (f : Session → Session) (d : Device) : (d.setSession i f).pw = d.pw := rfl
@[simp] theorem Device.setSession_regs (i : Nat) (f : Session → Session) (d : Device) : (d.setSession i f).regs = d.regs := rfl
@[simp] theorem Device.setSession_evts (i : Nat) (f : Session → Session) (d : Device) : (d.setSession i f).evts = d.evts := rfl
@[simp] theorem Device.setSession_bell (i : Nat) (f : Session → Session) (d : Device) : (d.setSession i f).bell = d.bell := rfl
@[simp] theorem Device.setSession_cnt (i : Nat) (f : Session → Session) (d : Device) : (d.setSession i f).cnt = d.cnt := rfl
@[simp] theorem Device.setSession_chans (i : Nat) (f : Session → Session) (d : Device) : (d.setSession i f).chans = d.chans := rfl
@[simp] theorem Device.setSession_points (i : Nat) (f : Session → Session) (d : Device) : (d.setSession i f).points = d.points := rfl
@[simp] theorem Device.setSession_groups (i : Nat) (f : Session → Session) (d : Device) : (d.setSession i f).groups = d.groups := rfl
@[simp] theorem Device.setSession_tiles (i : Nat) (f : Session → Session) (d : Device) : (d.setSession i f).tiles = d.tiles := rfl
@[simp] theorem Device.setSession_trig (i : Nat) (f : Session → Session) (d : Device) : (d.setSession i f).trig = d.trig := rfl
@[simp] theorem Device.setSession_gran (i : Nat) (f : Session → Session) (d : Device) : (d.setSession i f).gran = d.gran := rfl
@[simp] theorem Device.setSession_jobs (i : Nat) (f : Session → Session) (d : Device) : (d.setSession i f).jobs = d.jobs := rfl
@[simp] theorem Device.setSession_ended (i : Nat) (f : Session → Session) (d : Device) : (d.setSession i f).ended = d.ended := rfl
@[simp] theorem Device.setSession_maps (i : Nat) (f : Session → Session) (d : Device) : (d.setSession i f).maps = d.maps := rfl
@[simp] theorem Device.setSession_port (i : Nat) (f : Session → Session) (d : Device) : (d.setSession i f).port = d.port := rfl
@[simp] theorem Device.setSession_nv (i : Nat) (f : Session → Session) (d : Device) : (d.setSession i f).nv = d.nv := rfl
@[simp] theorem Device.setSession_work (i : Nat) (f : Session → Session) (d : Device) : (d.setSession i f).work = d.work := rfl
@[simp] theorem Device.setSession_fab (i : Nat) (f : Session → Session) (d : Device) : (d.setSession i f).fab = d.fab := rfl
@[simp] theorem Device.setSession_marks (i : Nat) (f : Session → Session) (d : Device) : (d.setSession i f).marks = d.marks := rfl
@[simp] theorem Device.setSession_free (i : Nat) (f : Session → Session) (d : Device) : (d.setSession i f).free = d.free := rfl

@[simp] theorem Device.setSyn_pw (x : SynId) (f : Syn → Syn) (d : Device) : (d.setSyn x f).pw = d.pw := rfl
@[simp] theorem Device.setSyn_regs (x : SynId) (f : Syn → Syn) (d : Device) : (d.setSyn x f).regs = d.regs := rfl
@[simp] theorem Device.setSyn_evts (x : SynId) (f : Syn → Syn) (d : Device) : (d.setSyn x f).evts = d.evts := rfl
@[simp] theorem Device.setSyn_bell (x : SynId) (f : Syn → Syn) (d : Device) : (d.setSyn x f).bell = d.bell := rfl
@[simp] theorem Device.setSyn_cnt (x : SynId) (f : Syn → Syn) (d : Device) : (d.setSyn x f).cnt = d.cnt := rfl
@[simp] theorem Device.setSyn_fw (x : SynId) (f : Syn → Syn) (d : Device) : (d.setSyn x f).fw = d.fw := rfl
@[simp] theorem Device.setSyn_chans (x : SynId) (f : Syn → Syn) (d : Device) : (d.setSyn x f).chans = d.chans := rfl
@[simp] theorem Device.setSyn_points (x : SynId) (f : Syn → Syn) (d : Device) : (d.setSyn x f).points = d.points := rfl
@[simp] theorem Device.setSyn_groups (x : SynId) (f : Syn → Syn) (d : Device) : (d.setSyn x f).groups = d.groups := rfl
@[simp] theorem Device.setSyn_tiles (x : SynId) (f : Syn → Syn) (d : Device) : (d.setSyn x f).tiles = d.tiles := rfl
@[simp] theorem Device.setSyn_trig (x : SynId) (f : Syn → Syn) (d : Device) : (d.setSyn x f).trig = d.trig := rfl
@[simp] theorem Device.setSyn_gran (x : SynId) (f : Syn → Syn) (d : Device) : (d.setSyn x f).gran = d.gran := rfl
@[simp] theorem Device.setSyn_jobs (x : SynId) (f : Syn → Syn) (d : Device) : (d.setSyn x f).jobs = d.jobs := rfl
@[simp] theorem Device.setSyn_ended (x : SynId) (f : Syn → Syn) (d : Device) : (d.setSyn x f).ended = d.ended := rfl
@[simp] theorem Device.setSyn_maps (x : SynId) (f : Syn → Syn) (d : Device) : (d.setSyn x f).maps = d.maps := rfl
@[simp] theorem Device.setSyn_port (x : SynId) (f : Syn → Syn) (d : Device) : (d.setSyn x f).port = d.port := rfl
@[simp] theorem Device.setSyn_nv (x : SynId) (f : Syn → Syn) (d : Device) : (d.setSyn x f).nv = d.nv := rfl
@[simp] theorem Device.setSyn_work (x : SynId) (f : Syn → Syn) (d : Device) : (d.setSyn x f).work = d.work := rfl
@[simp] theorem Device.setSyn_fab (x : SynId) (f : Syn → Syn) (d : Device) : (d.setSyn x f).fab = d.fab := rfl
@[simp] theorem Device.setSyn_marks (x : SynId) (f : Syn → Syn) (d : Device) : (d.setSyn x f).marks = d.marks := rfl
@[simp] theorem Device.setSyn_free (x : SynId) (f : Syn → Syn) (d : Device) : (d.setSyn x f).free = d.free := rfl

@[simp] theorem Device.synState_pw (x : SynId) (y : SynState) (d : Device) : (d.synState x y).pw = d.pw := rfl
@[simp] theorem Device.synState_regs (x : SynId) (y : SynState) (d : Device) : (d.synState x y).regs = d.regs := rfl
@[simp] theorem Device.synState_evts (x : SynId) (y : SynState) (d : Device) : (d.synState x y).evts = d.evts := rfl
@[simp] theorem Device.synState_bell (x : SynId) (y : SynState) (d : Device) : (d.synState x y).bell = d.bell := rfl
@[simp] theorem Device.synState_cnt (x : SynId) (y : SynState) (d : Device) : (d.synState x y).cnt = d.cnt := rfl
@[simp] theorem Device.synState_fw (x : SynId) (y : SynState) (d : Device) : (d.synState x y).fw = d.fw := rfl
@[simp] theorem Device.synState_chans (x : SynId) (y : SynState) (d : Device) : (d.synState x y).chans = d.chans := rfl
@[simp] theorem Device.synState_points (x : SynId) (y : SynState) (d : Device) : (d.synState x y).points = d.points := rfl
@[simp] theorem Device.synState_groups (x : SynId) (y : SynState) (d : Device) : (d.synState x y).groups = d.groups := rfl
@[simp] theorem Device.synState_tiles (x : SynId) (y : SynState) (d : Device) : (d.synState x y).tiles = d.tiles := rfl
@[simp] theorem Device.synState_trig (x : SynId) (y : SynState) (d : Device) : (d.synState x y).trig = d.trig := rfl
@[simp] theorem Device.synState_gran (x : SynId) (y : SynState) (d : Device) : (d.synState x y).gran = d.gran := rfl
@[simp] theorem Device.synState_jobs (x : SynId) (y : SynState) (d : Device) : (d.synState x y).jobs = d.jobs := rfl
@[simp] theorem Device.synState_ended (x : SynId) (y : SynState) (d : Device) : (d.synState x y).ended = d.ended := rfl
@[simp] theorem Device.synState_maps (x : SynId) (y : SynState) (d : Device) : (d.synState x y).maps = d.maps := rfl
@[simp] theorem Device.synState_port (x : SynId) (y : SynState) (d : Device) : (d.synState x y).port = d.port := rfl
@[simp] theorem Device.synState_nv (x : SynId) (y : SynState) (d : Device) : (d.synState x y).nv = d.nv := rfl
@[simp] theorem Device.synState_work (x : SynId) (y : SynState) (d : Device) : (d.synState x y).work = d.work := rfl
@[simp] theorem Device.synState_fab (x : SynId) (y : SynState) (d : Device) : (d.synState x y).fab = d.fab := rfl
@[simp] theorem Device.synState_marks (x : SynId) (y : SynState) (d : Device) : (d.synState x y).marks = d.marks := rfl
@[simp] theorem Device.synState_free (x : SynId) (y : SynState) (d : Device) : (d.synState x y).free = d.free := rfl

@[simp] theorem Device.ringBell_clk (t : Nat) (b : BitVec 5) (d : Device) : (d.ringBell t b).clk = d.clk := rfl
@[simp] theorem Device.ringBell_pw (t : Nat) (b : BitVec 5) (d : Device) : (d.ringBell t b).pw = d.pw := rfl
@[simp] theorem Device.ringBell_regs (t : Nat) (b : BitVec 5) (d : Device) : (d.ringBell t b).regs = d.regs := rfl
@[simp] theorem Device.ringBell_evts (t : Nat) (b : BitVec 5) (d : Device) : (d.ringBell t b).evts = d.evts := rfl
@[simp] theorem Device.ringBell_cnt (t : Nat) (b : BitVec 5) (d : Device) : (d.ringBell t b).cnt = d.cnt := rfl
@[simp] theorem Device.ringBell_fw (t : Nat) (b : BitVec 5) (d : Device) : (d.ringBell t b).fw = d.fw := rfl
@[simp] theorem Device.ringBell_chans (t : Nat) (b : BitVec 5) (d : Device) : (d.ringBell t b).chans = d.chans := rfl
@[simp] theorem Device.ringBell_points (t : Nat) (b : BitVec 5) (d : Device) : (d.ringBell t b).points = d.points := rfl
@[simp] theorem Device.ringBell_groups (t : Nat) (b : BitVec 5) (d : Device) : (d.ringBell t b).groups = d.groups := rfl
@[simp] theorem Device.ringBell_tiles (t : Nat) (b : BitVec 5) (d : Device) : (d.ringBell t b).tiles = d.tiles := rfl
@[simp] theorem Device.ringBell_trig (t : Nat) (b : BitVec 5) (d : Device) : (d.ringBell t b).trig = d.trig := rfl
@[simp] theorem Device.ringBell_gran (t : Nat) (b : BitVec 5) (d : Device) : (d.ringBell t b).gran = d.gran := rfl
@[simp] theorem Device.ringBell_jobs (t : Nat) (b : BitVec 5) (d : Device) : (d.ringBell t b).jobs = d.jobs := rfl
@[simp] theorem Device.ringBell_ended (t : Nat) (b : BitVec 5) (d : Device) : (d.ringBell t b).ended = d.ended := rfl
@[simp] theorem Device.ringBell_maps (t : Nat) (b : BitVec 5) (d : Device) : (d.ringBell t b).maps = d.maps := rfl
@[simp] theorem Device.ringBell_port (t : Nat) (b : BitVec 5) (d : Device) : (d.ringBell t b).port = d.port := rfl
@[simp] theorem Device.ringBell_nv (t : Nat) (b : BitVec 5) (d : Device) : (d.ringBell t b).nv = d.nv := rfl
@[simp] theorem Device.ringBell_work (t : Nat) (b : BitVec 5) (d : Device) : (d.ringBell t b).work = d.work := rfl
@[simp] theorem Device.ringBell_fab (t : Nat) (b : BitVec 5) (d : Device) : (d.ringBell t b).fab = d.fab := rfl
@[simp] theorem Device.ringBell_marks (t : Nat) (b : BitVec 5) (d : Device) : (d.ringBell t b).marks = d.marks := rfl
@[simp] theorem Device.ringBell_free (t : Nat) (b : BitVec 5) (d : Device) : (d.ringBell t b).free = d.free := rfl

@[simp] theorem Device.enterMode_clk (m : Mode) (d : Device) : (d.enterMode m).clk = d.clk := rfl
@[simp] theorem Device.enterMode_regs (m : Mode) (d : Device) : (d.enterMode m).regs = d.regs := rfl
@[simp] theorem Device.enterMode_evts (m : Mode) (d : Device) : (d.enterMode m).evts = d.evts := rfl
@[simp] theorem Device.enterMode_bell (m : Mode) (d : Device) : (d.enterMode m).bell = d.bell := rfl
@[simp] theorem Device.enterMode_cnt (m : Mode) (d : Device) : (d.enterMode m).cnt = d.cnt := rfl
@[simp] theorem Device.enterMode_fw (m : Mode) (d : Device) : (d.enterMode m).fw = d.fw := rfl
@[simp] theorem Device.enterMode_chans (m : Mode) (d : Device) : (d.enterMode m).chans = d.chans := rfl
@[simp] theorem Device.enterMode_points (m : Mode) (d : Device) : (d.enterMode m).points = d.points := rfl
@[simp] theorem Device.enterMode_groups (m : Mode) (d : Device) : (d.enterMode m).groups = d.groups := rfl
@[simp] theorem Device.enterMode_tiles (m : Mode) (d : Device) : (d.enterMode m).tiles = d.tiles := rfl
@[simp] theorem Device.enterMode_trig (m : Mode) (d : Device) : (d.enterMode m).trig = d.trig := rfl
@[simp] theorem Device.enterMode_gran (m : Mode) (d : Device) : (d.enterMode m).gran = d.gran := rfl
@[simp] theorem Device.enterMode_jobs (m : Mode) (d : Device) : (d.enterMode m).jobs = d.jobs := rfl
@[simp] theorem Device.enterMode_ended (m : Mode) (d : Device) : (d.enterMode m).ended = d.ended := rfl
@[simp] theorem Device.enterMode_maps (m : Mode) (d : Device) : (d.enterMode m).maps = d.maps := rfl
@[simp] theorem Device.enterMode_port (m : Mode) (d : Device) : (d.enterMode m).port = d.port := rfl
@[simp] theorem Device.enterMode_nv (m : Mode) (d : Device) : (d.enterMode m).nv = d.nv := rfl
@[simp] theorem Device.enterMode_work (m : Mode) (d : Device) : (d.enterMode m).work = d.work := rfl
@[simp] theorem Device.enterMode_fab (m : Mode) (d : Device) : (d.enterMode m).fab = d.fab := rfl
@[simp] theorem Device.enterMode_marks (m : Mode) (d : Device) : (d.enterMode m).marks = d.marks := rfl
@[simp] theorem Device.enterMode_free (m : Mode) (d : Device) : (d.enterMode m).free = d.free := rfl

@[simp] theorem Device.countChan_clk (n i : Nat) (d : Device) : (d.countChan n i).clk = d.clk := rfl
@[simp] theorem Device.countChan_pw (n i : Nat) (d : Device) : (d.countChan n i).pw = d.pw := rfl
@[simp] theorem Device.countChan_regs (n i : Nat) (d : Device) : (d.countChan n i).regs = d.regs := rfl
@[simp] theorem Device.countChan_evts (n i : Nat) (d : Device) : (d.countChan n i).evts = d.evts := rfl
@[simp] theorem Device.countChan_bell (n i : Nat) (d : Device) : (d.countChan n i).bell = d.bell := rfl
@[simp] theorem Device.countChan_fw (n i : Nat) (d : Device) : (d.countChan n i).fw = d.fw := rfl
@[simp] theorem Device.countChan_chans (n i : Nat) (d : Device) : (d.countChan n i).chans = d.chans := rfl
@[simp] theorem Device.countChan_points (n i : Nat) (d : Device) : (d.countChan n i).points = d.points := rfl
@[simp] theorem Device.countChan_groups (n i : Nat) (d : Device) : (d.countChan n i).groups = d.groups := rfl
@[simp] theorem Device.countChan_tiles (n i : Nat) (d : Device) : (d.countChan n i).tiles = d.tiles := rfl
@[simp] theorem Device.countChan_trig (n i : Nat) (d : Device) : (d.countChan n i).trig = d.trig := rfl
@[simp] theorem Device.countChan_gran (n i : Nat) (d : Device) : (d.countChan n i).gran = d.gran := rfl
@[simp] theorem Device.countChan_jobs (n i : Nat) (d : Device) : (d.countChan n i).jobs = d.jobs := rfl
@[simp] theorem Device.countChan_ended (n i : Nat) (d : Device) : (d.countChan n i).ended = d.ended := rfl
@[simp] theorem Device.countChan_maps (n i : Nat) (d : Device) : (d.countChan n i).maps = d.maps := rfl
@[simp] theorem Device.countChan_port (n i : Nat) (d : Device) : (d.countChan n i).port = d.port := rfl
@[simp] theorem Device.countChan_nv (n i : Nat) (d : Device) : (d.countChan n i).nv = d.nv := rfl
@[simp] theorem Device.countChan_work (n i : Nat) (d : Device) : (d.countChan n i).work = d.work := rfl
@[simp] theorem Device.countChan_fab (n i : Nat) (d : Device) : (d.countChan n i).fab = d.fab := rfl
@[simp] theorem Device.countChan_marks (n i : Nat) (d : Device) : (d.countChan n i).marks = d.marks := rfl
@[simp] theorem Device.countChan_free (n i : Nat) (d : Device) : (d.countChan n i).free = d.free := rfl

@[simp] theorem Device.countUnit_clk (u i : Nat) (d : Device) : (d.countUnit u i).clk = d.clk := rfl
@[simp] theorem Device.countUnit_pw (u i : Nat) (d : Device) : (d.countUnit u i).pw = d.pw := rfl
@[simp] theorem Device.countUnit_regs (u i : Nat) (d : Device) : (d.countUnit u i).regs = d.regs := rfl
@[simp] theorem Device.countUnit_evts (u i : Nat) (d : Device) : (d.countUnit u i).evts = d.evts := rfl
@[simp] theorem Device.countUnit_bell (u i : Nat) (d : Device) : (d.countUnit u i).bell = d.bell := rfl
@[simp] theorem Device.countUnit_fw (u i : Nat) (d : Device) : (d.countUnit u i).fw = d.fw := rfl
@[simp] theorem Device.countUnit_chans (u i : Nat) (d : Device) : (d.countUnit u i).chans = d.chans := rfl
@[simp] theorem Device.countUnit_points (u i : Nat) (d : Device) : (d.countUnit u i).points = d.points := rfl
@[simp] theorem Device.countUnit_groups (u i : Nat) (d : Device) : (d.countUnit u i).groups = d.groups := rfl
@[simp] theorem Device.countUnit_tiles (u i : Nat) (d : Device) : (d.countUnit u i).tiles = d.tiles := rfl
@[simp] theorem Device.countUnit_trig (u i : Nat) (d : Device) : (d.countUnit u i).trig = d.trig := rfl
@[simp] theorem Device.countUnit_gran (u i : Nat) (d : Device) : (d.countUnit u i).gran = d.gran := rfl
@[simp] theorem Device.countUnit_jobs (u i : Nat) (d : Device) : (d.countUnit u i).jobs = d.jobs := rfl
@[simp] theorem Device.countUnit_ended (u i : Nat) (d : Device) : (d.countUnit u i).ended = d.ended := rfl
@[simp] theorem Device.countUnit_maps (u i : Nat) (d : Device) : (d.countUnit u i).maps = d.maps := rfl
@[simp] theorem Device.countUnit_port (u i : Nat) (d : Device) : (d.countUnit u i).port = d.port := rfl
@[simp] theorem Device.countUnit_nv (u i : Nat) (d : Device) : (d.countUnit u i).nv = d.nv := rfl
@[simp] theorem Device.countUnit_work (u i : Nat) (d : Device) : (d.countUnit u i).work = d.work := rfl
@[simp] theorem Device.countUnit_fab (u i : Nat) (d : Device) : (d.countUnit u i).fab = d.fab := rfl
@[simp] theorem Device.countUnit_marks (u i : Nat) (d : Device) : (d.countUnit u i).marks = d.marks := rfl
@[simp] theorem Device.countUnit_free (u i : Nat) (d : Device) : (d.countUnit u i).free = d.free := rfl

@[simp] theorem Device.discardCart_clk (n : Nat) (d : Device) : (d.discardCart n).clk = d.clk := rfl
@[simp] theorem Device.discardCart_pw (n : Nat) (d : Device) : (d.discardCart n).pw = d.pw := rfl
@[simp] theorem Device.discardCart_regs (n : Nat) (d : Device) : (d.discardCart n).regs = d.regs := rfl
@[simp] theorem Device.discardCart_evts (n : Nat) (d : Device) : (d.discardCart n).evts = d.evts := rfl
@[simp] theorem Device.discardCart_bell (n : Nat) (d : Device) : (d.discardCart n).bell = d.bell := rfl
@[simp] theorem Device.discardCart_cnt (n : Nat) (d : Device) : (d.discardCart n).cnt = d.cnt := rfl
@[simp] theorem Device.discardCart_fw (n : Nat) (d : Device) : (d.discardCart n).fw = d.fw := rfl
@[simp] theorem Device.discardCart_chans (n : Nat) (d : Device) : (d.discardCart n).chans = d.chans := rfl
@[simp] theorem Device.discardCart_points (n : Nat) (d : Device) : (d.discardCart n).points = d.points := rfl
@[simp] theorem Device.discardCart_groups (n : Nat) (d : Device) : (d.discardCart n).groups = d.groups := rfl
@[simp] theorem Device.discardCart_tiles (n : Nat) (d : Device) : (d.discardCart n).tiles = d.tiles := rfl
@[simp] theorem Device.discardCart_trig (n : Nat) (d : Device) : (d.discardCart n).trig = d.trig := rfl
@[simp] theorem Device.discardCart_gran (n : Nat) (d : Device) : (d.discardCart n).gran = d.gran := rfl
@[simp] theorem Device.discardCart_jobs (n : Nat) (d : Device) : (d.discardCart n).jobs = d.jobs := rfl
@[simp] theorem Device.discardCart_ended (n : Nat) (d : Device) : (d.discardCart n).ended = d.ended := rfl
@[simp] theorem Device.discardCart_maps (n : Nat) (d : Device) : (d.discardCart n).maps = d.maps := rfl
@[simp] theorem Device.discardCart_nv (n : Nat) (d : Device) : (d.discardCart n).nv = d.nv := rfl
@[simp] theorem Device.discardCart_work (n : Nat) (d : Device) : (d.discardCart n).work = d.work := rfl
@[simp] theorem Device.discardCart_fab (n : Nat) (d : Device) : (d.discardCart n).fab = d.fab := rfl
@[simp] theorem Device.discardCart_marks (n : Nat) (d : Device) : (d.discardCart n).marks = d.marks := rfl
@[simp] theorem Device.discardCart_free (n : Nat) (d : Device) : (d.discardCart n).free = d.free := rfl

@[simp] theorem Device.raise_clk (i : Nat) (b : BitVec 24) (d : Device) : (d.raise i b).clk = d.clk := by unfold Device.raise; split <;> rfl
@[simp] theorem Device.raise_pw (i : Nat) (b : BitVec 24) (d : Device) : (d.raise i b).pw = d.pw := by unfold Device.raise; split <;> rfl
@[simp] theorem Device.raise_regs (i : Nat) (b : BitVec 24) (d : Device) : (d.raise i b).regs = d.regs := by unfold Device.raise; split <;> rfl
@[simp] theorem Device.raise_bell (i : Nat) (b : BitVec 24) (d : Device) : (d.raise i b).bell = d.bell := by unfold Device.raise; split <;> rfl
@[simp] theorem Device.raise_cnt (i : Nat) (b : BitVec 24) (d : Device) : (d.raise i b).cnt = d.cnt := by unfold Device.raise; split <;> rfl
@[simp] theorem Device.raise_fw (i : Nat) (b : BitVec 24) (d : Device) : (d.raise i b).fw = d.fw := by unfold Device.raise; split <;> rfl
@[simp] theorem Device.raise_chans (i : Nat) (b : BitVec 24) (d : Device) : (d.raise i b).chans = d.chans := by unfold Device.raise; split <;> rfl
@[simp] theorem Device.raise_points (i : Nat) (b : BitVec 24) (d : Device) : (d.raise i b).points = d.points := by unfold Device.raise; split <;> rfl
@[simp] theorem Device.raise_groups (i : Nat) (b : BitVec 24) (d : Device) : (d.raise i b).groups = d.groups := by unfold Device.raise; split <;> rfl
@[simp] theorem Device.raise_tiles (i : Nat) (b : BitVec 24) (d : Device) : (d.raise i b).tiles = d.tiles := by unfold Device.raise; split <;> rfl
@[simp] theorem Device.raise_trig (i : Nat) (b : BitVec 24) (d : Device) : (d.raise i b).trig = d.trig := by unfold Device.raise; split <;> rfl
@[simp] theorem Device.raise_gran (i : Nat) (b : BitVec 24) (d : Device) : (d.raise i b).gran = d.gran := by unfold Device.raise; split <;> rfl
@[simp] theorem Device.raise_jobs (i : Nat) (b : BitVec 24) (d : Device) : (d.raise i b).jobs = d.jobs := by unfold Device.raise; split <;> rfl
@[simp] theorem Device.raise_ended (i : Nat) (b : BitVec 24) (d : Device) : (d.raise i b).ended = d.ended := by unfold Device.raise; split <;> rfl
@[simp] theorem Device.raise_maps (i : Nat) (b : BitVec 24) (d : Device) : (d.raise i b).maps = d.maps := by unfold Device.raise; split <;> rfl
@[simp] theorem Device.raise_port (i : Nat) (b : BitVec 24) (d : Device) : (d.raise i b).port = d.port := by unfold Device.raise; split <;> rfl
@[simp] theorem Device.raise_nv (i : Nat) (b : BitVec 24) (d : Device) : (d.raise i b).nv = d.nv := by unfold Device.raise; split <;> rfl
@[simp] theorem Device.raise_work (i : Nat) (b : BitVec 24) (d : Device) : (d.raise i b).work = d.work := by unfold Device.raise; split <;> rfl
@[simp] theorem Device.raise_fab (i : Nat) (b : BitVec 24) (d : Device) : (d.raise i b).fab = d.fab := by unfold Device.raise; split <;> rfl
@[simp] theorem Device.raise_marks (i : Nat) (b : BitVec 24) (d : Device) : (d.raise i b).marks = d.marks := by unfold Device.raise; split <;> rfl
@[simp] theorem Device.raise_free (i : Nat) (b : BitVec 24) (d : Device) : (d.raise i b).free = d.free := by unfold Device.raise; split <;> rfl

@[simp] theorem Device.tickTo_pw (t : Nat) (d : Device) : (d.tickTo t).pw = d.pw := by unfold Device.tickTo; split <;> rfl
@[simp] theorem Device.tickTo_regs (t : Nat) (d : Device) : (d.tickTo t).regs = d.regs := by unfold Device.tickTo; split <;> rfl
@[simp] theorem Device.tickTo_evts (t : Nat) (d : Device) : (d.tickTo t).evts = d.evts := by unfold Device.tickTo; split <;> rfl
@[simp] theorem Device.tickTo_bell (t : Nat) (d : Device) : (d.tickTo t).bell = d.bell := by unfold Device.tickTo; split <;> rfl
@[simp] theorem Device.tickTo_cnt (t : Nat) (d : Device) : (d.tickTo t).cnt = d.cnt := by unfold Device.tickTo; split <;> rfl
@[simp] theorem Device.tickTo_fw (t : Nat) (d : Device) : (d.tickTo t).fw = d.fw := by unfold Device.tickTo; split <;> rfl
@[simp] theorem Device.tickTo_chans (t : Nat) (d : Device) : (d.tickTo t).chans = d.chans := by unfold Device.tickTo; split <;> rfl
@[simp] theorem Device.tickTo_points (t : Nat) (d : Device) : (d.tickTo t).points = d.points := by unfold Device.tickTo; split <;> rfl
@[simp] theorem Device.tickTo_groups (t : Nat) (d : Device) : (d.tickTo t).groups = d.groups := by unfold Device.tickTo; split <;> rfl
@[simp] theorem Device.tickTo_tiles (t : Nat) (d : Device) : (d.tickTo t).tiles = d.tiles := by unfold Device.tickTo; split <;> rfl
@[simp] theorem Device.tickTo_trig (t : Nat) (d : Device) : (d.tickTo t).trig = d.trig := by unfold Device.tickTo; split <;> rfl
@[simp] theorem Device.tickTo_gran (t : Nat) (d : Device) : (d.tickTo t).gran = d.gran := by unfold Device.tickTo; split <;> rfl
@[simp] theorem Device.tickTo_jobs (t : Nat) (d : Device) : (d.tickTo t).jobs = d.jobs := by unfold Device.tickTo; split <;> rfl
@[simp] theorem Device.tickTo_ended (t : Nat) (d : Device) : (d.tickTo t).ended = d.ended := by unfold Device.tickTo; split <;> rfl
@[simp] theorem Device.tickTo_maps (t : Nat) (d : Device) : (d.tickTo t).maps = d.maps := by unfold Device.tickTo; split <;> rfl
@[simp] theorem Device.tickTo_port (t : Nat) (d : Device) : (d.tickTo t).port = d.port := by unfold Device.tickTo; split <;> rfl
@[simp] theorem Device.tickTo_nv (t : Nat) (d : Device) : (d.tickTo t).nv = d.nv := by unfold Device.tickTo; split <;> rfl
@[simp] theorem Device.tickTo_work (t : Nat) (d : Device) : (d.tickTo t).work = d.work := by unfold Device.tickTo; split <;> rfl
@[simp] theorem Device.tickTo_fab (t : Nat) (d : Device) : (d.tickTo t).fab = d.fab := by unfold Device.tickTo; split <;> rfl
@[simp] theorem Device.tickTo_marks (t : Nat) (d : Device) : (d.tickTo t).marks = d.marks := by unfold Device.tickTo; split <;> rfl
@[simp] theorem Device.tickTo_free (t : Nat) (d : Device) : (d.tickTo t).free = d.free := by unfold Device.tickTo; split <;> rfl

@[simp] theorem Device.logPut_clk (k : Nat) (l : List Nat) (d : Device) : (d.logPut k l).clk = d.clk := by unfold Device.logPut; dsimp only; split <;> simp
@[simp] theorem Device.logPut_regs (k : Nat) (l : List Nat) (d : Device) : (d.logPut k l).regs = d.regs := by unfold Device.logPut; dsimp only; split <;> simp
@[simp] theorem Device.logPut_bell (k : Nat) (l : List Nat) (d : Device) : (d.logPut k l).bell = d.bell := by unfold Device.logPut; dsimp only; split <;> simp
@[simp] theorem Device.logPut_cnt (k : Nat) (l : List Nat) (d : Device) : (d.logPut k l).cnt = d.cnt := by unfold Device.logPut; dsimp only; split <;> simp
@[simp] theorem Device.logPut_fw (k : Nat) (l : List Nat) (d : Device) : (d.logPut k l).fw = d.fw := by unfold Device.logPut; dsimp only; split <;> simp
@[simp] theorem Device.logPut_chans (k : Nat) (l : List Nat) (d : Device) : (d.logPut k l).chans = d.chans := by unfold Device.logPut; dsimp only; split <;> simp
@[simp] theorem Device.logPut_points (k : Nat) (l : List Nat) (d : Device) : (d.logPut k l).points = d.points := by unfold Device.logPut; dsimp only; split <;> simp
@[simp] theorem Device.logPut_groups (k : Nat) (l : List Nat) (d : Device) : (d.logPut k l).groups = d.groups := by unfold Device.logPut; dsimp only; split <;> simp
@[simp] theorem Device.logPut_tiles (k : Nat) (l : List Nat) (d : Device) : (d.logPut k l).tiles = d.tiles := by unfold Device.logPut; dsimp only; split <;> simp
@[simp] theorem Device.logPut_trig (k : Nat) (l : List Nat) (d : Device) : (d.logPut k l).trig = d.trig := by unfold Device.logPut; dsimp only; split <;> simp
@[simp] theorem Device.logPut_gran (k : Nat) (l : List Nat) (d : Device) : (d.logPut k l).gran = d.gran := by unfold Device.logPut; dsimp only; split <;> simp
@[simp] theorem Device.logPut_jobs (k : Nat) (l : List Nat) (d : Device) : (d.logPut k l).jobs = d.jobs := by unfold Device.logPut; dsimp only; split <;> simp
@[simp] theorem Device.logPut_ended (k : Nat) (l : List Nat) (d : Device) : (d.logPut k l).ended = d.ended := by unfold Device.logPut; dsimp only; split <;> simp
@[simp] theorem Device.logPut_maps (k : Nat) (l : List Nat) (d : Device) : (d.logPut k l).maps = d.maps := by unfold Device.logPut; dsimp only; split <;> simp
@[simp] theorem Device.logPut_port (k : Nat) (l : List Nat) (d : Device) : (d.logPut k l).port = d.port := by unfold Device.logPut; dsimp only; split <;> simp
@[simp] theorem Device.logPut_work (k : Nat) (l : List Nat) (d : Device) : (d.logPut k l).work = d.work := by unfold Device.logPut; dsimp only; split <;> simp
@[simp] theorem Device.logPut_fab (k : Nat) (l : List Nat) (d : Device) : (d.logPut k l).fab = d.fab := by unfold Device.logPut; dsimp only; split <;> simp
@[simp] theorem Device.logPut_marks (k : Nat) (l : List Nat) (d : Device) : (d.logPut k l).marks = d.marks := by unfold Device.logPut; dsimp only; split <;> simp
@[simp] theorem Device.logPut_free (k : Nat) (l : List Nat) (d : Device) : (d.logPut k l).free = d.free := by unfold Device.logPut; dsimp only; split <;> simp

@[simp] theorem Device.violate_clk (k : BitVec 3) (a : Access) (d : Device) : (d.violate k a).clk = d.clk := by simp [Device.violate]
@[simp] theorem Device.violate_pw (k : BitVec 3) (a : Access) (d : Device) : (d.violate k a).pw = d.pw := by simp [Device.violate]
@[simp] theorem Device.violate_bell (k : BitVec 3) (a : Access) (d : Device) : (d.violate k a).bell = d.bell := by simp [Device.violate]
@[simp] theorem Device.violate_fw (k : BitVec 3) (a : Access) (d : Device) : (d.violate k a).fw = d.fw := by simp [Device.violate]
@[simp] theorem Device.violate_chans (k : BitVec 3) (a : Access) (d : Device) : (d.violate k a).chans = d.chans := by simp [Device.violate]
@[simp] theorem Device.violate_points (k : BitVec 3) (a : Access) (d : Device) : (d.violate k a).points = d.points := by simp [Device.violate]
@[simp] theorem Device.violate_groups (k : BitVec 3) (a : Access) (d : Device) : (d.violate k a).groups = d.groups := by simp [Device.violate]
@[simp] theorem Device.violate_tiles (k : BitVec 3) (a : Access) (d : Device) : (d.violate k a).tiles = d.tiles := by simp [Device.violate]
@[simp] theorem Device.violate_trig (k : BitVec 3) (a : Access) (d : Device) : (d.violate k a).trig = d.trig := by simp [Device.violate]
@[simp] theorem Device.violate_gran (k : BitVec 3) (a : Access) (d : Device) : (d.violate k a).gran = d.gran := by simp [Device.violate]
@[simp] theorem Device.violate_jobs (k : BitVec 3) (a : Access) (d : Device) : (d.violate k a).jobs = d.jobs := by simp [Device.violate]
@[simp] theorem Device.violate_ended (k : BitVec 3) (a : Access) (d : Device) : (d.violate k a).ended = d.ended := by simp [Device.violate]
@[simp] theorem Device.violate_maps (k : BitVec 3) (a : Access) (d : Device) : (d.violate k a).maps = d.maps := by simp [Device.violate]
@[simp] theorem Device.violate_port (k : BitVec 3) (a : Access) (d : Device) : (d.violate k a).port = d.port := by simp [Device.violate]
@[simp] theorem Device.violate_nv (k : BitVec 3) (a : Access) (d : Device) : (d.violate k a).nv = d.nv := by simp [Device.violate]
@[simp] theorem Device.violate_work (k : BitVec 3) (a : Access) (d : Device) : (d.violate k a).work = d.work := by simp [Device.violate]
@[simp] theorem Device.violate_fab (k : BitVec 3) (a : Access) (d : Device) : (d.violate k a).fab = d.fab := by simp [Device.violate]
@[simp] theorem Device.violate_marks (k : BitVec 3) (a : Access) (d : Device) : (d.violate k a).marks = d.marks := by simp [Device.violate]
@[simp] theorem Device.violate_free (k : BitVec 3) (a : Access) (d : Device) : (d.violate k a).free = d.free := by simp [Device.violate]

@[simp] theorem Device.raiseRange_clk (b : Nat) (d : Device) : (d.raiseRange b).clk = d.clk := by unfold Device.raiseRange; split <;> simp
@[simp] theorem Device.raiseRange_pw (b : Nat) (d : Device) : (d.raiseRange b).pw = d.pw := by unfold Device.raiseRange; split <;> simp
@[simp] theorem Device.raiseRange_regs (b : Nat) (d : Device) : (d.raiseRange b).regs = d.regs := by unfold Device.raiseRange; split <;> simp
@[simp] theorem Device.raiseRange_bell (b : Nat) (d : Device) : (d.raiseRange b).bell = d.bell := by unfold Device.raiseRange; split <;> simp
@[simp] theorem Device.raiseRange_cnt (b : Nat) (d : Device) : (d.raiseRange b).cnt = d.cnt := by unfold Device.raiseRange; split <;> simp
@[simp] theorem Device.raiseRange_fw (b : Nat) (d : Device) : (d.raiseRange b).fw = d.fw := by unfold Device.raiseRange; split <;> simp
@[simp] theorem Device.raiseRange_chans (b : Nat) (d : Device) : (d.raiseRange b).chans = d.chans := by unfold Device.raiseRange; split <;> simp
@[simp] theorem Device.raiseRange_points (b : Nat) (d : Device) : (d.raiseRange b).points = d.points := by unfold Device.raiseRange; split <;> simp
@[simp] theorem Device.raiseRange_groups (b : Nat) (d : Device) : (d.raiseRange b).groups = d.groups := by unfold Device.raiseRange; split <;> simp
@[simp] theorem Device.raiseRange_tiles (b : Nat) (d : Device) : (d.raiseRange b).tiles = d.tiles := by unfold Device.raiseRange; split <;> simp
@[simp] theorem Device.raiseRange_trig (b : Nat) (d : Device) : (d.raiseRange b).trig = d.trig := by unfold Device.raiseRange; split <;> simp
@[simp] theorem Device.raiseRange_gran (b : Nat) (d : Device) : (d.raiseRange b).gran = d.gran := by unfold Device.raiseRange; split <;> simp
@[simp] theorem Device.raiseRange_jobs (b : Nat) (d : Device) : (d.raiseRange b).jobs = d.jobs := by unfold Device.raiseRange; split <;> simp
@[simp] theorem Device.raiseRange_ended (b : Nat) (d : Device) : (d.raiseRange b).ended = d.ended := by unfold Device.raiseRange; split <;> simp
@[simp] theorem Device.raiseRange_maps (b : Nat) (d : Device) : (d.raiseRange b).maps = d.maps := by unfold Device.raiseRange; split <;> simp
@[simp] theorem Device.raiseRange_port (b : Nat) (d : Device) : (d.raiseRange b).port = d.port := by unfold Device.raiseRange; split <;> simp
@[simp] theorem Device.raiseRange_nv (b : Nat) (d : Device) : (d.raiseRange b).nv = d.nv := by unfold Device.raiseRange; split <;> simp
@[simp] theorem Device.raiseRange_work (b : Nat) (d : Device) : (d.raiseRange b).work = d.work := by unfold Device.raiseRange; split <;> simp
@[simp] theorem Device.raiseRange_fab (b : Nat) (d : Device) : (d.raiseRange b).fab = d.fab := by unfold Device.raiseRange; split <;> simp
@[simp] theorem Device.raiseRange_marks (b : Nat) (d : Device) : (d.raiseRange b).marks = d.marks := by unfold Device.raiseRange; split <;> simp
@[simp] theorem Device.raiseRange_free (b : Nat) (d : Device) : (d.raiseRange b).free = d.free := by unfold Device.raiseRange; split <;> simp

/-! ### The device's entries -/

@[simp] theorem Device.setSession_live (i : Nat) (f : Session → Session) (d : Device) : (d.setSession i f).fw.live = d.fw.live := rfl
@[simp] theorem Device.setSession_eff (i : Nat) (f : Session → Session) (d : Device) : (d.setSession i f).fw.eff = d.fw.eff := rfl
@[simp] theorem Device.setSession_txns (i : Nat) (f : Session → Session) (d : Device) : (d.setSession i f).fw.txns = d.fw.txns := rfl
@[simp] theorem Device.setSession_effective (i : Nat) (f : Session → Session) (d : Device) : (d.setSession i f).fw.effective = d.fw.effective := rfl
@[simp] theorem Device.setSession_committed (i : Nat) (f : Session → Session) (d : Device) : (d.setSession i f).fw.committed = d.fw.committed := rfl

/-- An event register records its occurrences and its neighbours stay (R314). -/
theorem Device.raise_evt {d : Device} (h : twf Evt.init d.evts = true) {i : Nat} {b : BitVec 24} (hb : b &&& evtMask i ≠ 0#24) (j : Nat) :
    (d.raise i b).evt j = if j = i then (d.evt i).record d.clk.cycle (b &&& evtMask i) else d.evt j := by
  unfold Device.raise Device.evt
  rw [if_neg hb]
  exact tget_tmod h i j _

theorem Device.setChan_chan {d : Device} (h : twf ChanRun.init d.chans = true) (n : Nat) (f : ChanRun → ChanRun) (m : Nat) :
    (d.setChan n f).chan m = if m = n then f (d.chan n) else d.chan m := tget_tmod h n m f

theorem Device.setPt_pt {d : Device} (h : twf PointRun.init d.points = true) (p : Nat) (f : PointRun → PointRun) (q : Nat) :
    (d.setPt p f).pt q = if q = p then f (d.pt p) else d.pt q := tget_tmod h p q f

theorem Device.setGroup_group {d : Device} (h : twf GroupRun.init d.groups = true) (g : Nat) (f : GroupRun → GroupRun) (k : Nat) :
    (d.setGroup g f).group k = if k = g then f (d.group g) else d.group k := tget_tmod h g k f

theorem Device.setFport_fport {d : Device} (h : twf FPort.init d.fab.ports = true) (k : Nat) (f : FPort → FPort) (j : Nat) :
    (d.setFport k f).fport j = if j = k then f (d.fport k) else d.fport j := tget_tmod h k j f

theorem Device.setPost_post {d : Device} (h : twf Posted.init d.regs.posted = true) (p : Port) (t : Nat) (f : Posted → Posted)
    (q : Port) (u : Nat) :
    (d.setPost p t f).regs.post q u = if postKey q u = postKey p t then f (d.regs.post p t) else d.regs.post q u :=
  tget_tmod h (postKey p t) (postKey q u) f

/-! ### Outside the device -/

@[simp] theorem onDev_eq (f : Device → Device) (s : State) : onDev f s = .next { s with dev := f s.dev } := rfl

@[simp] theorem State.setMailbox_dev (m : Nat) (f : Mailbox → Mailbox) (s : State) : (s.setMailbox m f).dev = s.dev := rfl
@[simp] theorem State.setMailbox_pending (m : Nat) (f : Mailbox → Mailbox) (s : State) : (s.setMailbox m f).pending = s.pending := rfl
@[simp] theorem State.withDev_mailbox (s : State) (d : Device) (m : Nat) : { s with dev := d }.mailbox m = s.mailbox m := rfl
@[simp] theorem State.withDev_asMailbox (s : State) (d : Device) (m : Nat) : { s with dev := d }.rawMailbox m = s.rawMailbox m := rfl

theorem State.setMailbox_mailbox {s : State} (h : twf Mailbox.init s.mbx = true) (m : Nat) (f : Mailbox → Mailbox) (k : Nat) :
    (s.setMailbox m f).mailbox k = if k = m then f (s.mailbox m) else s.mailbox k := tget_tmod h m k f

end Sys2Proof.Machine
end

