-- ==== Sys2Proof/Machine/Response.lean ====
section
/-! DEFINITION. What R81 and R83 ask of the coefficients of the point filters, over the real numbers: passband, stopband, nulls, minimum phase and group delay. Unity at zero offset and linear phase hold of every coefficient by `tapOf`; the rest is a condition on the coefficients that Config leaves free, which a claim about the values of samples takes as its hypothesis. -/

namespace Sys2Proof.Machine

/-- Coefficients in 2^−60 over offsets have the response re + j·im at an angle of θ for each wideband sample. -/
def HasResponse (l : List Int) (h : Int → Int) (θ re im : ℝ) : Prop :=
  re * 2 ^ 60 = (l.map fun k => (h k : ℝ) * Real.cos (θ * k)).sum ∧ im * 2 ^ 60 = (l.map fun k => (h k : ℝ) * Real.sin (θ * k)).sum

/-- The square of the gain at an offset of ν output rates from the carrier, at decimation D. -/
def GainAt (l : List Int) (h : Int → Int) (d : Nat) (ν : ℝ) (P : ℝ → Prop) : Prop :=
  ∀ re im, HasResponse l h (2 * Real.pi * ν / d) re im → P (re ^ 2 + im ^ 2)

/-- Ripple within ±(10/n) dB up to an edge. -/
def Passes (l : List Int) (h : Int → Int) (d : Nat) (edge : ℝ) (n : Nat) : Prop :=
  ∀ ν : ℝ, |ν| ≤ edge → GainAt l h d ν fun g => 1 / 10 ≤ g ^ n ∧ g ^ n ≤ 10

/-- Attenuation of at least 10·n dB between two edges. -/
def Stops (l : List Int) (h : Int → Int) (d : Nat) (edge upto : ℝ) (n : Nat) : Prop :=
  ∀ ν : ℝ, edge ≤ |ν| → |ν| ≤ upto → GainAt l h d ν fun g => g * 10 ^ n ≤ 1

/-- No zero lies outside the unit circle. -/
def MinimumPhase (l : List Int) (h : Int → Int) : Prop :=
  ∀ z : ℂ, 1 < ‖z‖ → (l.map fun k => (h k : ℂ) * z ^ k).sum ≠ 0

/-- The group delay after the window's newest sample, `last` samples after the output's instant, lies between 2.25 and 2.75 output periods up to an edge. -/
def DelayWithin (l : List Int) (h : Int → Int) (d : Nat) (last : Int) (edge : ℝ) : Prop :=
  ∀ ν : ℝ, |ν| ≤ edge → ∀ re im a b, HasResponse l h (2 * Real.pi * ν / d) re im →
    HasResponse l (fun k => (last - k) * h k) (2 * Real.pi * ν / d) a b →
    (9 / 4) * d * (re ^ 2 + im ^ 2) ≤ a * re + b * im ∧ a * re + b * im ≤ (11 / 4) * d * (re ^ 2 + im ^ 2)

/-- Attenuation of at least 170 dB within 0.002·fout of each null, in 2^−48 Hz of 62.5 MHz (R83). -/
def Nulls (l : List Int) (h : Int → Int) (d : Nat) (nulls : List Int) : Prop :=
  ∀ δ ∈ nulls, ∀ ν : ℝ, |ν - δ * d / (62500000 * 2 ^ 48)| ≤ 2 / 1000 → GainAt l h d ν fun g => g * 10 ^ 17 ≤ 1

/-- The coefficients of a point have the response that R81 and R83 give it; the wideband band ends at half its rate. -/
def MeetsResponse (x : PointCfg) (nulls : List Int) : Prop :=
  let l := windowOffsets (filterBefore x) (filterAfter x)
  let h := tapOf x nulls
  if x.response = 1 then
    Passes l h x.d (1 / 10) 500 ∧ Stops l h x.d (1 / 2) 1 5 ∧ Stops l h x.d 1 (x.d / 2) 13 ∧ MinimumPhase l h ∧
      DelayWithin l h x.d (5 * x.d / 2) (1 / 10)
  else Passes l h x.d (4 / 10) 10000 ∧ Stops l h x.d (6 / 10) (x.d / 2) 13 ∧ (x.response = 2 → Nulls l h x.d nulls)

/-- Every filter that a point can have meets its response. -/
def FiltersMeetResponses : Prop := ∀ (x : PointCfg) (nulls : List Int), 20 ≤ x.d → x.d ≤ 1048576 → MeetsResponse x nulls

end Sys2Proof.Machine
end

