-- ==== Sys2Proof/Safety.lean ====
section
/-! DEFINITION. The words that statements use: completing, what stays outside the device, a mailbox in good order, a request that stands in a mailbox and its answer, and the memory of the mailbox buffers. -/

namespace Sys2Proof.Machine

/-- Executing the command answers a next state, of which P holds. -/
def Completes (c : Instr) (s : State) (P : State → Prop) : Prop := ∃ t, exec c s = .next t ∧ P t

/-- Executing the command answers a next state with a given device, and the same mailboxes and queue. -/
def Gives (c : Instr) (s : State) (d : Device) : Prop := exec c s = .next { s with dev := d }

/-- Nothing outside the device differs: neither the mailboxes nor the queue. -/
def DeviceOnly (s t : State) : Prop := t.pending = s.pending ∧ t.mbx = s.mbx

/-! ### Mailboxes -/

/-- The memory of a mailbox buffer: canonical, and within its 1,024 bytes (R304). -/
def Memory.wf (b : Tbl Byte) : Bool := twf 0#8 b && b.all fun x => decide (x.1 < 1024)

/-- REQ_BUSY and RSP_VALID are never both 1 (R334, R337), and both buffers are in canonical form. -/
def Mailbox.inOrder (b : Mailbox) : Bool := !(b.reqBusy && b.rspValid) && Memory.wf b.request && Memory.wf b.response

/-- Every mailbox is in order, and so is their table. -/
def State.mailboxesInOrder (s : State) : Prop := twf Mailbox.init s.mbx = true ∧ ∀ m, (s.mailbox m).inOrder = true

/-! ### Requests -/

/-- A request of a command code stands in mailbox m, is not being worked on, is the next in order while the firmware serves (R336), and passes the header checks (R333); the mailboxes' table is canonical. -/
def State.stands (code m : Nat) (s : State) : Prop :=
  twf Mailbox.init s.mbx = true ∧
  s.dev.serves = true ∧ (s.mailbox m).reqBusy = true ∧ (s.mailbox m).taken = false ∧ s.oldest m = true ∧
    (s.rawMailbox m).code = code ∧ (s.dev.touchSession (s.rawMailbox m)).headerFails (s.rawMailbox m) = none

/-- The device with the named session's timer restarted (R343). -/
def State.touched (m : Nat) (s : State) : Device := s.dev.touchSession (s.rawMailbox m)

/-- The request as its command takes it, and its payload. -/
def State.request (m : Nat) (s : State) : Req := (s.rawMailbox m).req (s.touched m)
def State.body (m : Nat) (s : State) : List Byte := (s.request m).body

/-- The session, the transaction and the tag a request names. -/
def State.sessionNo (m : Nat) (s : State) : Nat := (s.rawMailbox m).session
def State.txnNo (m : Nat) (s : State) : Nat := (s.rawMailbox m).txn

/-- Who would wait for the request's completion. -/
def State.waiter (m : Nat) (s : State) : Waiter := (s.request m).waiter

/-- Executing the command answers mailbox m with a status and a payload, leaving the device d: the response and its length are written, RSP_VALID is set, REQ_BUSY is cleared and RESPONSE_READY is raised; the other mailboxes keep their buffers and what they hold for their hosts (R334). -/
def Answers (c : Instr) (m : Nat) (s : State) (st : BitVec 16) (payload : List Byte) (epoch : Nat) (d : Device) : Prop :=
  Completes c s fun t =>
    let bytes := d.answerBytes st (s.rawMailbox m).tag epoch payload
    t.dev = d.raise evMbx (ebit m) ∧ t.pending = s.pending ∧
    t.mailbox m = { s.mailbox m with
      response := bufWrite (s.mailbox m).response bytes, rspLen := BitVec.ofNat 11 bytes.length,
      reqBusy := false, rspValid := true, placed := false, taken := false } ∧
    ∀ k, k ≠ m → (t.mailbox k).request = (s.mailbox k).request ∧ (t.mailbox k).response = (s.mailbox k).response ∧
      (t.mailbox k).rspValid = (s.mailbox k).rspValid ∧ (t.mailbox k).overruns = (s.mailbox k).overruns

/-- The same with status OK and the present epoch. -/
def AnswersOk (c : Instr) (m : Nat) (s : State) (payload : List Byte) (d : Device) : Prop := Answers c m s stOk payload d.epoch d

/-- The same, with the device but for the session's timer as it was. -/
def AnswersSame (c : Instr) (m : Nat) (s : State) (P : List Byte → Prop) : Prop := ∃ p, P p ∧ AnswersOk c m s p (s.touched m)

/-- The request is refused with a status: nothing but the session's timer changes. -/
def Refuses (c : Instr) (m : Nat) (s : State) (st : BitVec 16) : Prop := Answers c m s st [] s.dev.epoch (s.touched m)

/-- A long command is taken for a session: ACCEPTED now, and the session counts one more that runs (R337). -/
def Accepts (c : Instr) (m : Nat) (s : State) (f : Device → Device) : Prop :=
  let d := f ((s.touched m).startLong (s.sessionNo m))
  Answers c m s stAccepted [] d.epoch d

/-! ### The table of firmware commands -/

/-- The 58 firmware commands with their codes (R356) and what runs for them; `errs`: the errors that `capture.read` and `density.read` meet. -/
def firmwareRows (errs : List ScrubErr) : List (Nat × (ReqSource → Instr)) :=
  [ (0x0101, .sessionOpen), (0x0102, .sessionClose), (0x0103, .sessionKeepalive), (0x0104, .sessionList),
    (0x0201, .txnBegin), (0x0202, .txnCommit), (0x0203, .txnAbort), (0x0204, .txnStatus),
    (0x0301, .chanConfig), (0x0302, .chanQuery), (0x0303, .chanEnable),
    (0x0401, .pointConfig), (0x0402, .pointQuery), (0x0403, .carrierPlanCheck),
    (0x0501, .linLoad), (0x0502, .linQuery), (0x0503, .linPersist),
    (0x0601, .streamConfig), (0x0602, .streamQuery), (0x0603, .regionConfig), (0x0604, .captureArm), (0x0605, .captureDisarm),
    (0x0606, fun src => .captureRead ⟨src, errs⟩), (0x0607, .tallyConfig), (0x0608, .aoutConfig),
    (0x0701, .millConfig), (0x0702, .millQuery), (0x0703, .densityConfig), (0x0704, fun src => .densityRead ⟨src, errs⟩),
    (0x0801, .trigConfig), (0x0802, .trigQuery), (0x0803, .trigForce),
    (0x0901, .calBegin), (0x0902, .calPoint), (0x0903, .calCommit), (0x0904, .calAbort), (0x0905, .ledgerRead), (0x0906, .shepherdConfig),
    (0x0A01, .timeSet), (0x0A02, .timeQuery), (0x0A03, .clockConfig), (0x0A04, .clockQuery), (0x0A05, .holdoverPolicy),
    (0x0B01, .fabricStatus), (0x0B02, .fabricPolicy), (0x0B03, .fabricRouteQuery), (0x0B04, .fabricForward), (0x0B05, .bellSchedule),
    (0x0C01, .modeSet), (0x0C02, .modeQuery), (0x0C03, .hearthEnter), (0x0C04, .supplyQuery),
    (0x0D01, .diagSelftest), (0x0D02, .diagLoopback), (0x0D03, .diagLogRead),
    (0x0E01, .fwStage), (0x0E02, .fwActivate), (0x0E03, .fwQuery) ]

end Sys2Proof.Machine
end

