-- ==== Sys2Proof/Laws/Mailboxes.lean ====
section
/-! SUPPORT. What a step can do to the mailboxes, said once: the moves of the firmware and of the host's control registers, and the one write of a request buffer. -/

namespace Sys2Proof.Machine

/-! ### The moves -/

/-- What the firmware does to the mailboxes, one move at a time. -/
inductive MbxMove : Tbl Mailbox → Tbl Mailbox → Prop where
  | answer (l : Tbl Mailbox) (m : Nat) (bytes : List Byte) (h : (tget Mailbox.init l m).reqBusy = true) :
      MbxMove l (tmod Mailbox.init l m (Mailbox.answer bytes))
  | place (l : Tbl Mailbox) (m : Nat) (bytes : List Byte)
      (h : (tget Mailbox.init l m).reqBusy = false ∧ (tget Mailbox.init l m).rspValid = false) :
      MbxMove l (tmod Mailbox.init l m (Mailbox.place bytes))
  | settle (l : Tbl Mailbox) (m : Nat) :
      MbxMove l (tmod Mailbox.init l m fun b => { b with taken := false, reqBusy := false })
  | take (l : Tbl Mailbox) (m : Nat) : MbxMove l (tmod Mailbox.init l m fun b => { b with taken := true })

/-- Any number of moves. -/
inductive MbxMoves : Tbl Mailbox → Tbl Mailbox → Prop where
  | refl {l : Tbl Mailbox} : MbxMoves l l
  | head {l l' l'' : Tbl Mailbox} (h : MbxMove l l') (t : MbxMoves l' l'') : MbxMoves l l''

theorem MbxMoves.single {l l' : Tbl Mailbox} (h : MbxMove l l') : MbxMoves l l' := .head h .refl

theorem MbxMoves.trans {l l' l'' : Tbl Mailbox} (a : MbxMoves l l') (b : MbxMoves l' l'') : MbxMoves l l'' := by
  induction a with
  | refl => exact b
  | head h _ ih => exact .head h (ih b)

/-- What every move keeps, all of them keep. -/
theorem MbxMoves.keeps {P : Tbl Mailbox → Prop} (hP : ∀ l l', MbxMove l l' → P l → P l') {l l' : Tbl Mailbox}
    (a : MbxMoves l l') (h : P l) : P l' := by
  induction a with
  | refl => exact h
  | head e _ ih => exact ih (hP _ _ e h)

/-- What one word that a port writes does to the mailboxes; none of it ends REQ_BUSY, and a request buffer changes only while it is clear. -/
inductive MbxWord : Tbl Mailbox → Tbl Mailbox → Prop where
  | write (l : Tbl Mailbox) (m off : Nat) (w : Word) (h : (tget Mailbox.init l m).reqBusy = false) (ho : off < 0x400) (ha : off % 4 = 0) :
      MbxWord l (tmod Mailbox.init l m fun b => { b with request := tputList 0#8 b.request off (leWord w) })
  | release (l : Tbl Mailbox) (m : Nat) : MbxWord l (tmod Mailbox.init l m Mailbox.release)
  | ring (l : Tbl Mailbox) (m n epoch : Nat)
      (h : (tget Mailbox.init l m).reqBusy = false ∧ (tget Mailbox.init l m).rspValid = false) :
      MbxWord l (tmod Mailbox.init l m fun b => { b with reqBusy := true, taken := false, arrived := n, epoch := epoch })
  | overrun (l : Tbl Mailbox) (m : Nat) : MbxWord l (tmod Mailbox.init l m fun b => { b with overruns := b.overruns + 1#16 })
  | length (l : Tbl Mailbox) (m : Nat) (f : BitVec 11 → BitVec 11) :
      MbxWord l (tmod Mailbox.init l m fun b => { b with reqLen := f b.reqLen })

/-- Any number of words. -/
inductive MbxWords : Tbl Mailbox → Tbl Mailbox → Prop where
  | refl {l : Tbl Mailbox} : MbxWords l l
  | head {l l' l'' : Tbl Mailbox} (h : MbxWord l l') (t : MbxWords l' l'') : MbxWords l l''

theorem MbxWords.single {l l' : Tbl Mailbox} (h : MbxWord l l') : MbxWords l l' := .head h .refl

theorem MbxWords.trans {l l' l'' : Tbl Mailbox} (a : MbxWords l l') (b : MbxWords l' l'') : MbxWords l l'' := by
  induction a with
  | refl => exact b
  | head h _ ih => exact .head h (ih b)

/-- What every word keeps, all of them keep. -/
theorem MbxWords.keeps {P : Tbl Mailbox → Prop} (hP : ∀ l l', MbxWord l l' → P l → P l') {l l' : Tbl Mailbox}
    (a : MbxWords l l') (h : P l) : P l' := by
  induction a with
  | refl => exact h
  | head e _ ih => exact ih (hP _ _ e h)

/-- What one command can do to the mailboxes: words that ports write and then moves of the firmware, or a reset that empties them. -/
def MbxStep (l l' : Tbl Mailbox) : Prop := (∃ k, MbxWords l k ∧ MbxMoves k l') ∨ l' = []

theorem MbxStep.moves {l l' : Tbl Mailbox} (h : MbxMoves l l') : MbxStep l l' := .inl ⟨l, .refl, h⟩
theorem MbxStep.words {l l' : Tbl Mailbox} (h : MbxWords l l') : MbxStep l l' := .inl ⟨l', h, .refl⟩
theorem MbxStep.refl {l : Tbl Mailbox} : MbxStep l l := .moves .refl

/-! ### The shared operations -/

variable {l : Tbl Mailbox} {s : State}

theorem State.setMailbox_mbx (m : Nat) (f : Mailbox → Mailbox) (s : State) :
    (s.setMailbox m f).mbx = tmod Mailbox.init s.mbx m f := rfl

theorem State.respond_moves (h : s.mbx = l) (v : Via) (i : Nat) (tag : Word) (a : Ans) :
    MbxMoves l (s.respond v i tag a).mbx := by
  subst h
  unfold State.respond
  cases v with
  | mailbox m =>
    simp only
    split
    · exact .single (.answer s.mbx m _ ‹_›)
    · exact .refl
  | returnLane => exact .refl
  | fabric p => exact .refl

theorem forList_moves {β : Type} (h : s.mbx = l) (xs : List β) (f : β → State → State)
    (hf : ∀ x s, MbxMoves s.mbx (f x s).mbx) : MbxMoves l (forList xs f s).mbx := by
  subst h
  unfold forList
  induction xs generalizing s with
  | nil => exact .refl
  | cons x xs ih => exact (hf x s).trans ih

theorem forNat_moves (h : s.mbx = l) (n : Nat) (f : Nat → State → State) (hf : ∀ x s, MbxMoves s.mbx (f x s).mbx) :
    MbxMoves l (forNat n f s).mbx := forList_moves h (List.range n) f hf

theorem State.settleMailboxes_moves (h : s.mbx = l) : MbxMoves l s.settleMailboxes.mbx := by
  unfold State.settleMailboxes
  refine forNat_moves h _ _ fun m s => ?_
  split
  · exact .single (.settle s.mbx m)
  · exact .refl

theorem State.deliver_moves (h : s.mbx = l) (r : Req) (a : Option Ans × Device) : MbxMoves l (s.deliver r a).mbx := by
  unfold State.deliver
  split
  · apply State.respond_moves
    exact h
  · subst h
    split
    · exact .single (.take s.mbx _)
    · exact .refl

theorem State.execute_moves (h : s.mbx = l) (k : Handler) (r : Raw) : MbxMoves l (s.execute k r).mbx := by
  unfold State.execute
  simp only
  split
  · apply State.respond_moves
    exact h
  · refine MbxMoves.trans ?_ (State.settleMailboxes_moves rfl)
    apply State.deliver_moves
    exact h

theorem State.executeFrame_moves (h : s.mbx = l) (k : Handler) (r : Raw) : MbxMoves l (s.executeFrame k r).mbx := by
  unfold State.executeFrame
  split
  · subst h
    exact .refl
  · subst h
    exact .refl
  · apply State.execute_moves
    exact h

theorem State.frameRow_moves (code : Nat) (k : Handler) (via : Via) (bytes : List Byte) (s : State) :
    MbxMoves s.mbx (s.frameRow code k via bytes).mbx := by
  unfold State.frameRow
  simp only
  split
  · exact .refl
  · split
    · split
      · apply State.executeFrame_moves
        rfl
      · exact .refl
    · split
      · exact State.executeFrame_moves rfl _ _
      · exact .refl

/-- A firmware command, from whatever source. -/
theorem fwRow_moves {code : Nat} {k : Handler} {src : ReqSource} {t : State} (e : fwRow code k src s = .next t) :
    MbxMoves s.mbx t.mbx := by
  induction src generalizing k with
  | mailbox m =>
    simp only [fwRow] at e
    split at e <;> cases e
    · exact State.execute_moves rfl _ _
    · exact .refl
  | returnLane f => exact Host.Outcome.next.inj e ▸ State.frameRow_moves _ _ _ _ s
  | fabric p f => exact Host.Outcome.next.inj e ▸ State.frameRow_moves _ _ _ _ s
  | faulted src ih => exact ih e

theorem State.overrun_words (m : Nat) (s : State) : MbxWords s.mbx (s.overrun m).mbx := .single (.overrun s.mbx m)

theorem State.answerUnknown_moves (h : s.mbx = l) (m : Nat) : MbxMoves l (s.answerUnknown m).mbx := by
  unfold State.answerUnknown
  simp only
  split
  · exact State.execute_moves h _ _
  · subst h
    exact .refl

theorem State.doorbell_words (m : Nat) (s : State) : MbxWords s.mbx (s.doorbell m).mbx := by
  unfold State.doorbell
  simp only
  split
  · exact State.overrun_words m s
  · rename_i h
    simp only [Bool.or_eq_true, not_or, Bool.not_eq_true] at h
    exact .single (.ring s.mbx m (s.dev.arrive m).1 s.dev.epoch h)

theorem State.mbxRegWrite_words (m off : Nat) (a : Access) (s : State) : MbxWords s.mbx (s.mbxRegWrite m off a).mbx := by
  unfold State.mbxRegWrite
  simp only
  split
  · split
    · exact .refl
    · split
      · exact .single (.release s.mbx m)
      · exact .refl
  · exact .refl
  · split
    · exact .refl
    · exact State.doorbell_words m s
  · exact .single (.length s.mbx m fun x => (aliased (aliasOf a.addr) 0x7FF#32 (x.setWidth 32) a.value).setWidth 11)
  · exact .refl
  · exact .refl

theorem mbxBuf_off {base m off : Nat} (h : mbxBuf base = some (m, off)) (hb : base % 4 = 0) : off % 4 = 0 := by
  unfold mbxBuf at h
  split at h
  · cases h
    omega
  · cases h

theorem State.mbxBufWrite_words {m off : Nat} (ho : off % 4 = 0) (a : Access) (s : State) :
    MbxWords s.mbx (s.mbxBufWrite m off a).mbx := by
  unfold State.mbxBufWrite
  split
  · exact .refl
  · split
    · exact .refl
    · split
      · exact State.overrun_words m s
      · rename_i h2 h3
        have h3 : (tget Mailbox.init s.mbx m).reqBusy = false := by
          cases hb : (tget Mailbox.init s.mbx m).reqBusy
          · rfl
          · exact absurd hb h3
        exact .single (.write s.mbx m off a.value h3 (by omega) ho)

theorem baseOf_aligned (a : BitVec 24) : baseOf a % 4 = 0 := by
  unfold baseOf
  omega

theorem State.write_words (a : Access) (s : State) : MbxWords s.mbx (s.write a).mbx := by
  unfold State.write
  simp only
  split
  · exact .refl
  · split
    · exact State.mbxRegWrite_words _ _ _ s
    · split
      · rename_i h
        exact State.mbxBufWrite_words (mbxBuf_off h (baseOf_aligned _)) _ s
      · exact .refl

theorem forList_words {β : Type} (xs : List β) (f : β → State → State)
    (hf : ∀ x s, MbxWords s.mbx (f x s).mbx) (s : State) : MbxWords s.mbx (forList xs f s).mbx := by
  unfold forList
  induction xs generalizing s with
  | nil => exact .refl
  | cons x xs ih => exact (hf x s).trans (ih (f x s))

theorem State.serve_words (n : Nat) (l : List Access) (s : State) : MbxWords s.mbx (State.serve n l s).mbx := by
  induction n generalizing l s with
  | zero => exact .refl
  | succ n ih =>
    unfold State.serve
    simp only
    split
    · exact forList_words _ _ State.write_words s
    · refine (forList_words (servedNow l) State.write State.write_words s).trans ?_
      exact ih _ { forList (servedNow l) State.write s with dev := (forList (servedNow l) State.write s).dev.tickTo _ }

/-- Words, and then what the firmware answers of itself. -/
theorem answered_moves {s t : State} (h : MbxWords s.mbx t.mbx) : MbxStep s.mbx (forNat 4 State.answerUnknown t).mbx :=
  .inl ⟨_, h, forNat_moves rfl _ _ fun m _ => State.answerUnknown_moves rfl m⟩

theorem State.writes_moves (l : List Access) (s : State) : MbxStep s.mbx (s.writes l).mbx := by
  unfold State.writes
  split
  · exact .refl
  · exact answered_moves (forList_words l _ State.write_words s)

theorem State.writeReg_moves (a : Access) (s : State) : MbxStep s.mbx (s.writeReg a).mbx := by
  unfold State.writeReg
  split
  · exact .inl ⟨_, State.write_words a s, State.answerUnknown_moves rfl _⟩
  · exact .words (State.write_words a s)

theorem writeRow_moves {ok : Nat → Bool} {a : Access} {t : State} (e : writeRow ok a s = .next t) :
    MbxStep s.mbx t.mbx := by
  unfold writeRow at e
  split at e <;> cases e
  · exact State.writeReg_moves a s
  · exact .refl

/-- A read changes no mailbox. -/
@[simp] theorem State.readReg_mbx (p : Port) (addr : BitVec 24) (s : State) : (s.readReg p addr).2.mbx = s.mbx := by
  unfold State.readReg
  simp only
  split
  · rfl
  · split
    · rfl
    · split <;> rfl

@[simp] theorem State.readBy_mbx (p : Port) (addr : BitVec 24) (s : State) : (s.readBy p addr).mbx = s.mbx :=
  State.readReg_mbx p addr s

@[simp] theorem State.readFrame_mbx (clocks : List (BitVec 4)) (s : State) : (s.readFrame clocks).mbx = s.mbx := by
  unfold State.readFrame forList
  simp only
  generalize cpReadFrom clocks = l
  have key : ∀ (l : List (BitVec 24)) (t : State), (l.foldl (fun s a =>
      { s.readBy .control a with dev := { (s.readBy .control a).dev with regs := { (s.readBy .control a).dev.regs with
        shifted := (s.readBy .control a).dev.regs.shifted ++ [(s.readReg .control a).1] } } }) t).mbx = t.mbx := by
    intro l
    induction l with
    | nil => intro t; rfl
    | cons a l ih =>
      intro t
      rw [List.foldl_cons, ih]
      exact State.readBy_mbx .control a t
  exact key l _

theorem State.placeCompletion_moves (i : Nat) (s : State) : MbxMoves s.mbx (s.placeCompletion i).mbx := by
  unfold State.placeCompletion
  split
  · exact .refl
  · split
    · exact .refl
    · simp only
      split
      · split
        · exact .refl
        · rename_i h
          simp only [Bool.or_eq_true, not_or, Bool.not_eq_true] at h
          exact .single (.place s.mbx _ _ h)
      · split <;> exact .refl

/-! ### Commits and the boundary -/

theorem State.writeAnswers_moves (h : s.mbx = l) (x : List (Waiter × BitVec 16 × List Byte × Nat)) :
    MbxMoves l (s.writeAnswers x).mbx := by
  unfold State.writeAnswers
  exact (forList_moves h x _ fun _ _ => State.respond_moves rfl _ _ _ _).trans (State.settleMailboxes_moves rfl)

theorem State.decideBatch_moves (h : s.mbx = l) : MbxMoves l s.decideBatch.mbx := by
  unfold State.decideBatch
  generalize s.dev.decideOn _ = d
  simp only
  split
  · subst h
    exact .refl
  · split
    · apply State.writeAnswers_moves
      exact h
    · subst h
      exact .refl

theorem State.reserveTimeout_moves (h : s.mbx = l) : MbxMoves l s.reserveTimeout.mbx := by
  unfold State.reserveTimeout
  split
  · split
    · split
      · apply State.decideBatch_moves
        exact h
      · apply State.decideBatch_moves
        exact h
    · subst h
      exact .refl
  · subst h
    exact .refl

theorem State.takeCommit_moves (s : State) : MbxMoves s.mbx s.takeCommit.mbx := by
  unfold State.takeCommit
  simp only
  split
  · exact State.execute_moves rfl _ _
  · split
    · apply State.executeFrame_moves
      rfl
    · exact .refl

theorem State.takeCommits_moves (h : s.mbx = l) : MbxMoves l s.takeCommits.mbx :=
  forNat_moves h _ _ fun _ s => State.takeCommit_moves s

theorem State.boundaryBatch_moves (h : s.mbx = l) : MbxMoves l s.boundaryBatch.mbx := by
  have h1 := forNat_moves h ((s.dev.fw.deciding.map (·.todo.length)).getD 0) (fun _ s => s.reserveTimeout)
    fun _ s => State.reserveTimeout_moves rfl
  refine (h1.trans (State.takeCommits_moves rfl)).trans ?_
  unfold State.boundaryBatch
  generalize State.takeCommits _ = u
  simp only
  split
  · exact .refl
  · apply State.decideBatch_moves
    rfl

theorem State.routeAnswer_moves (h : s.mbx = l) (r : ReserveReply) : MbxMoves l (s.routeAnswer r).mbx := by
  unfold State.routeAnswer
  split
  · subst h
    exact .refl
  · simp only
    split
    · split
      · apply State.decideBatch_moves
        exact h
      · split
        · apply State.decideBatch_moves
          exact h
        · apply State.decideBatch_moves
          exact h
    · subst h
      exact .refl

theorem State.reserveAnswer_moves (h : s.mbx = l) (r : ReserveReply) : MbxMoves l (s.reserveAnswer r).mbx := by
  cases r
  case noted | changed | ending => exact h ▸ .refl
  all_goals exact State.routeAnswer_moves h _

theorem State.answerAsk_moves (src key effect : Nat) (items : List ReserveItem) (lanes : List LaneSum) (s : State) :
    MbxMoves s.mbx (s.answerAsk src key effect items lanes).mbx := by
  unfold State.answerAsk
  dsimp only
  split
  · apply State.routeAnswer_moves
    rfl
  · exact .refl

theorem State.answerAsked_moves (h : s.mbx = l) : MbxMoves l s.answerAsked.mbx := by
  unfold State.answerAsked
  split
  · exact h ▸ .refl
  · apply forList_moves
    · exact h
    · rintro ⟨src, a, lanes⟩ s
      cases a
      case ask => exact State.answerAsk_moves _ _ _ _ _ s
      all_goals exact .refl

theorem State.takeAsk_moves (h : s.mbx = l) (src : Nat) (a : ReserveAsk) (lanes : List LaneSum) : MbxMoves l (s.takeAsk src a lanes).mbx := by
  subst h
  unfold State.takeAsk
  cases a
  case ask =>
    dsimp only
    split
    · exact State.answerAsk_moves _ _ _ _ _ s
    · exact .refl
  case report =>
    apply State.answerAsked_moves
    rfl
  all_goals exact .refl

theorem State.answerTo_moves (h : s.mbx = l) (x : Txn) (a : Ans) : MbxMoves l (s.answerTo x a).mbx := by
  unfold State.answerTo
  split
  · exact (State.respond_moves h _ _ _ _).trans (State.settleMailboxes_moves rfl)
  · subst h
    exact .refl

theorem State.beginFails_moves (x : Txn) (st : BitVec 16) (s : State) : MbxMoves s.mbx (s.beginFails x st).mbx := by
  unfold State.beginFails
  generalize s.dev.announce x false true = d
  apply State.answerTo_moves
  rfl

theorem State.openReply_moves (h : s.mbx = l) (src txn : Nat) (st : BitVec 16) : MbxMoves l (s.openReply src txn st).mbx := by
  subst h
  unfold State.openReply
  split
  · exact .refl
  · split
    · exact .refl
    · split
      · exact State.beginFails_moves _ _ s
      · simp only
        split
        · apply State.answerTo_moves
          rfl
        · exact .refl

theorem State.coordinate_moves (e : Nat) (x : Txn) (s : State) : MbxMoves s.mbx (s.coordinate e x).mbx := by
  unfold State.coordinate
  split
  · split
    · exact State.beginFails_moves _ _ s
    · exact .refl
  · split
    · split <;> exact .refl
    · exact .refl

theorem State.fabricTxns_moves (h : s.mbx = l) (e : Nat) : MbxMoves l (s.fabricTxns e).mbx := by
  have h1 := forList_moves h (s.dev.fw.txns.filter fun t => t.fabric && t.coord.isNone) (State.coordinate e)
    fun x s => State.coordinate_moves e x s
  unfold State.fabricTxns
  generalize forList _ (State.coordinate e) s = u at *
  exact h1

theorem State.boundaryFront_moves (x : EpochInput) (s : State) : MbxMoves s.mbx (s.boundaryFront x).mbx := by
  unfold State.boundaryFront
  generalize s.dev.reach _ = d
  dsimp only
  generalize Device.closeExpired _ _ = d
  have h1 : MbxMoves s.mbx ({ s with dev := d }.settleMailboxes).mbx := State.settleMailboxes_moves rfl
  generalize { s with dev := d }.settleMailboxes = u at *
  refine h1.trans ?_
  exact State.fabricTxns_moves rfl s.dev.clk.boundaryEpoch

theorem State.boundaryStep_moves (x : EpochInput) (s : State) : MbxMoves s.mbx (s.boundaryStep x).mbx := by
  refine MbxMoves.trans (State.boundaryFront_moves x s) ?_
  unfold State.boundaryStep
  generalize s.boundaryFront x = u
  dsimp only
  exact State.boundaryBatch_moves rfl

end Sys2Proof.Machine
end

