-- ==== Sys2Proof/Laws/Exec.lean ====
section
/-! SUPPORT. What executing any command can do to the mailboxes: moves of the firmware and of the control registers, one write of a request buffer, or a reset that empties them; and the whole step from it. -/

namespace Sys2Proof.Machine

/-! ### Commands whose whole effect is on the device -/

/-- The answer leaves the mailboxes alone. -/
def Still (s : State) (o : Host.Outcome State Fault Refusal) : Prop := ∀ t, o = .next t → t.mbx = s.mbx

theorem still_next (s : State) : Still s (.next s) := fun _ e => by cases e; rfl
theorem still_dev (s : State) (d : Device) : Still s (.next { s with dev := d }) := fun _ e => by cases e; rfl
theorem still_onDev (f : Device → Device) (s : State) : Still s (onDev f s) := fun _ e => by cases e; rfl
theorem still_ite {s : State} {p : Prop} [Decidable p] {a b : Host.Outcome State Fault Refusal} (ha : Still s a) (hb : Still s b) :
    Still s (if p then a else b) := by split <;> assumption

/-! ### Commands that touch mailboxes -/

variable {s t : State}

theorem writeRow_ite_moves {p : Prop} [Decidable p] {ok : Nat → Bool} {a : Access} (e : (if p then writeRow ok a s else .next s) = .next t) :
    MbxStep s.mbx t.mbx := by
  split at e
  · exact writeRow_moves e
  · cases e
    exact .refl

theorem resetTo_moves (d : Device) (s : State) : MbxStep s.mbx (s.resetTo d).mbx := .inr rfl

theorem resetAssert_moves (e : execResetAssert s = .next t) : MbxStep s.mbx t.mbx := by
  unfold execResetAssert at e
  split at e
  · exact still_onDev _ _ _ e ▸ .refl
  · exact Host.Outcome.next.inj e ▸ resetTo_moves _ s

theorem brownout_moves {r : BitVec 6} (e : execBrownout r s = .next t) : MbxStep s.mbx t.mbx := by
  by_cases h0 : r = 0#6
  · rw [execBrownout, if_pos h0] at e
    exact still_next s _ e ▸ .refl
  · by_cases h1 : r = 0x3F#6
    · rw [execBrownout, if_neg h0, if_pos h1] at e
      exact Host.Outcome.next.inj e ▸ resetTo_moves _ s
    · by_cases h2 : s.dev.pw.mode = .reset
      · rw [execBrownout, if_neg h0, if_neg h1, if_pos h2] at e
        exact still_onDev _ _ _ e ▸ .refl
      · rw [execBrownout, if_neg h0, if_neg h1, if_neg h2] at e
        exact Host.Outcome.next.inj e ▸ resetTo_moves _ s

theorem epochBoundary_moves {x : EpochInput} (e : execEpochBoundary x s = .next t) : MbxStep s.mbx t.mbx := by
  unfold execEpochBoundary at e
  split at e
  · exact still_next s _ e ▸ .refl
  · split at e
    · exact Host.Outcome.next.inj e ▸ resetTo_moves _ s
    · have h := State.boundaryStep_moves x ({ s with dev := s.dev.wrapTime } : State)
      rw [← Host.Outcome.next.inj e]
      exact .moves h

theorem completionPlace_moves {i : Fin 17} (e : execCompletionPlace i s = .next t) : MbxMoves s.mbx t.mbx := by
  unfold execCompletionPlace at e
  split at e <;> cases e
  · exact State.placeCompletion_moves _ s
  · exact .refl

theorem lockstepRepaired_moves (e : execLockstepRepaired s = .next t) : MbxMoves s.mbx t.mbx := by
  unfold execLockstepRepaired at e
  split at e <;> cases e
  · apply forNat_moves
    · rfl
    · exact fun m _ => State.answerUnknown_moves rfl m
  · exact .refl

theorem reserveRequest_moves {src : Nat} {a : ReserveAsk} {l : List LaneSum} (e : execReserveRequest src a l s = .next t) :
    MbxMoves s.mbx t.mbx := by
  unfold execReserveRequest at e
  split at e
  · split at e <;> cases e
    · exact State.takeAsk_moves rfl _ _ _
    · apply State.takeAsk_moves
      rfl
  · cases e
    exact .refl

theorem reserveAnswer_moves {r : ReserveReply} (e : execReserveAnswer r s = .next t) : MbxMoves s.mbx t.mbx := by
  unfold execReserveAnswer at e
  split at e <;> cases e
  · exact .refl
  · apply State.reserveAnswer_moves
    rfl

theorem openReply_moves {src txn : Nat} {st : BitVec 16} (e : execFabricTxnOpenReply src txn st s = .next t) :
    MbxMoves s.mbx t.mbx := by
  cases e
  apply State.openReply_moves
  rfl

theorem reserveTimeout_moves (e : execReserveTimeout s = .next t) : MbxMoves s.mbx t.mbx := by
  cases e
  exact State.reserveTimeout_moves rfl

theorem messageResponse_still (peer : Nat) (b : List Byte) : Still s (execFabricMessageResponse peer b s) := by
  unfold execFabricMessageResponse
  split
  · exact still_dev _ _
  · exact still_ite (still_next _) (still_onDev _ _)

theorem remoteRegister_moves {src : Nat} {w : Bool} {a : BitVec 24} {v : Word} (e : execRemoteRegisterAccess src w a v s = .next t) :
    MbxStep s.mbx t.mbx := by
  unfold execRemoteRegisterAccess at e
  split at e
  · cases e
    exact .refl
  · split at e
    · cases e
      exact .refl
    · split at e <;> cases e
      · exact State.writeReg_moves _ s
      · exact .moves (State.readBy_mbx .fabric a s ▸ .refl)

theorem registerWrite_moves {w : WriteIn} (e : execRegisterWrite w s = .next t) : MbxStep s.mbx t.mbx := by
  cases w with
  | one a =>
    cases e
    exact State.writeReg_moves a s
  | frame clocks =>
    unfold execRegisterWrite at e
    simp only at e
    split at e <;> cases e
    · exact .refl
    · exact State.writes_moves _ s
  | together l =>
    cases e
    exact answered_moves (State.serve_words 3 l s)

theorem parityRepair_still (a : BitVec 24) (c : Option (Fin 128)) (p : Option (Fin 1024)) (b h : Bool) : Still s (execParityRepair a c p b h s) := by
  unfold execParityRepair
  split
  · exact still_ite (still_onDev _ _) (still_next _)
  · exact still_next _

theorem badFrame_moves {opcode rest : List (BitVec 4)} (e : execBadFrame opcode rest s = .next t) : MbxStep s.mbx t.mbx := by
  unfold execBadFrame at e
  simp only at e
  split at e
  · rw [← Host.Outcome.next.inj e]
    exact State.writes_moves (cpWrites (opcode ++ rest)) s
  · cases e
    exact .refl

theorem read_moves (p : Port) (a : BitVec 24) (e : (.next (s.readBy p a) : Host.Outcome State Fault Refusal) = .next t) :
    MbxMoves s.mbx t.mbx := by
  cases e
  rw [State.readBy_mbx]
  exact .refl

theorem readFrame_moves {p : Prop} [Decidable p] {clocks : List (BitVec 4)} (e : (if p then .next (s.readFrame clocks) else .next s :
    Host.Outcome State Fault Refusal) = .next t) : MbxMoves s.mbx t.mbx := by
  split at e <;> cases e
  · rw [State.readFrame_mbx]
    exact .refl
  · exact .refl

theorem cartFifoPop_moves {r : RegRead} (e : execCartFifoPop r s = .next t) : MbxMoves s.mbx t.mbx := by
  cases r with
  | one p => exact read_moves p _ e
  | frame clocks => exact readFrame_moves e

theorem timeLoRead_moves {r : RegRead} (e : execTimeLoRead r s = .next t) : MbxMoves s.mbx t.mbx := by
  cases r with
  | one p => exact read_moves p _ e
  | frame clocks => exact readFrame_moves e

/-! ### Commands whose effect is on the device, case by case -/

theorem currentSwap_still (x0 : Fin 128) (x1 : Nat) : Still s (execCurrentSwap x0 x1 s) := by
  unfold execCurrentSwap
  try dsimp only
  repeat' first | exact still_onDev _ _ | exact still_next _ | exact still_dev _ _ | split

theorem healthReport_still (x0 : List Byte) (x1 : Nat) : Still s (execHealthReport x0 x1 s) := by
  unfold execHealthReport
  try dsimp only
  repeat' first | exact still_onDev _ _ | exact still_next _ | exact still_dev _ _ | split

theorem countWindow_still (x0 : SynId) (x1 x2 : Nat) (x3 : BitVec 64) : Still s (execCountWindow x0 x1 x2 x3 s) := by
  unfold execCountWindow
  try dsimp only
  repeat' first | exact still_onDev _ _ | exact still_next _ | exact still_dev _ _ | split

theorem bandSearchEnd_still (x0 : SynId) (x1 : SearchIn) : Still s (execBandSearchEnd x0 x1 s) := by
  unfold execBandSearchEnd
  try dsimp only
  repeat' first | exact still_onDev _ _ | exact still_next _ | exact still_dev _ _ | split

theorem synthesizerRetry_still (x0 : SynId) : Still s (execSynthesizerRetry x0 s) := by
  unfold execSynthesizerRetry
  try dsimp only
  repeat' first | exact still_onDev _ _ | exact still_next _ | exact still_dev _ _ | split

theorem referenceLost_still : Still s (execReferenceLost s) := by
  unfold execReferenceLost
  try dsimp only
  repeat' first | exact still_onDev _ _ | exact still_next _ | exact still_dev _ _ | split

theorem postedAccessDone_still (x0 : Port) (x1 : Fin 4) : Still s (execPostedAccessDone x0 x1 s) := by
  unfold execPostedAccessDone
  try dsimp only
  repeat' first | exact still_onDev _ _ | exact still_next _ | exact still_dev _ _ | split

theorem postedAccessNack_still (x0 : Port) (x1 : Fin 4) : Still s (execPostedAccessNack x0 x1 s) := by
  unfold execPostedAccessNack
  try dsimp only
  repeat' first | exact still_onDev _ _ | exact still_next _ | exact still_dev _ _ | split

theorem lockLost_still (x0 : SynId) (x1 : Nat) : Still s (execLockLost x0 x1 s) := still_onDev _ _

theorem timeStep_still : Still s (execTimeStep s) := by
  unfold execTimeStep
  try dsimp only
  repeat' first | exact still_onDev _ _ | exact still_next _ | exact still_dev _ _ | split

theorem timeSetTimeout_still : Still s (execTimeSetTimeout s) := by
  unfold execTimeSetTimeout
  try dsimp only
  repeat' first | exact still_onDev _ _ | exact still_next _ | exact still_dev _ _ | split

theorem guardCurrentLimit_still (x0 : Fin 32) (x1 : Nat) : Still s (execGuardCurrentLimit x0 x1 s) := by
  unfold execGuardCurrentLimit
  try dsimp only
  repeat' first | exact still_onDev _ _ | exact still_next _ | exact still_dev _ _ | split

theorem cartFillTimeout_still (x0 : Nat) (x1 : Nat) : Still s (execCartFillTimeout x0 x1 s) := by
  unfold execCartFillTimeout
  try dsimp only
  repeat' first | exact still_onDev _ _ | exact still_next _ | exact still_dev _ _ | split

theorem cartDelivery_still (x0 : Fin 3) (x1 : DeliveryIn) : Still s (execCartDelivery x0 x1 s) := by
  unfold execCartDelivery
  try dsimp only
  repeat' first | exact still_onDev _ _ | exact still_next _ | exact still_dev _ _ | split

theorem millResultReady_still (x0 : MillIn) : Still s (execMillResultReady x0 s) := by
  unfold execMillResultReady
  try dsimp only
  repeat' first | exact still_onDev _ _ | exact still_next _ | exact still_dev _ _ | split

theorem densitySnapshotComplete_still (x0 : Fin 16) : Still s (execDensitySnapshotComplete x0 s) := by
  unfold execDensitySnapshotComplete
  try dsimp only
  repeat' first | exact still_onDev _ _ | exact still_next _ | exact still_dev _ _ | split

theorem gainSwitch_still (x0 : Fin 128) (x1 : Nat) : Still s (execGainSwitch x0 x1 s) := by
  unfold execGainSwitch
  try dsimp only
  repeat' first | exact still_onDev _ _ | exact still_next _ | exact still_dev _ _ | split

theorem gainReady_still (x0 : Fin 128) (x1 : Nat) (x2 : Option (F64 × F64)) (x3 : Bool) : Still s (execGainReady x0 x1 x2 x3 s) := by
  unfold execGainReady
  try dsimp only
  repeat' first | exact still_onDev _ _ | exact still_next _ | exact still_dev _ _ | split

theorem checkPhase_still (x0 : Fin 32) (x1 : Fin 4) (x2 : List PhaseMeas) : Still s (execCheckPhase x0 x1 x2 s) := by
  unfold execCheckPhase
  try dsimp only
  repeat' first | exact still_onDev _ _ | exact still_next _ | exact still_dev _ _ | split

theorem checkClassification_still (x0 : Fin 32) : Still s (execCheckClassification x0 s) := by
  unfold execCheckClassification
  try dsimp only
  repeat' first | exact still_onDev _ _ | exact still_next _ | exact still_dev _ _ | split

theorem externalEdgeAccepted_still (x0 : Fin 32) (x1 : Bool) (x2 : Nat) : Still s (execExternalEdgeAccepted x0 x1 x2 s) := by
  unfold execExternalEdgeAccepted
  try dsimp only
  repeat' first | exact still_onDev _ _ | exact still_next _ | exact still_dev _ _ | split

theorem recordClose_still (x0 : Fin 8) (x1 : Nat) : Still s (execRecordClose x0 x1 s) := by
  unfold execRecordClose
  try dsimp only
  repeat' first | exact still_onDev _ _ | exact still_next _ | exact still_dev _ _ | split

theorem fabricTriggerSend_still (x0 : Nat) : Still s (execFabricTriggerSend x0 s) := still_onDev _ _

theorem bellTick_still (x0 : Nat) : Still s (execBellTick x0 s) := by
  unfold execBellTick
  try dsimp only
  repeat' first | exact still_onDev _ _ | exact still_next _ | exact still_dev _ _ | split

theorem holdingWindowSwitch_still : Still s (execHoldingWindowSwitch s) := by
  unfold execHoldingWindowSwitch
  try dsimp only
  repeat' first | exact still_onDev _ _ | exact still_next _ | exact still_dev _ _ | split

theorem fabricForwardTimeout_still (x0 : Nat) (x1 : Word) : Still s (execFabricForwardTimeout x0 x1 s) := by
  unfold execFabricForwardTimeout
  try dsimp only
  repeat' first | exact still_onDev _ _ | exact still_next _ | exact still_dev _ _ | split

theorem fabricBell_still (x0 : Nat) (x1 : Nat) : Still s (execFabricBell x0 x1 s) := by
  unfold execFabricBell
  try dsimp only
  repeat' first | exact still_onDev _ _ | exact still_next _ | exact still_dev _ _ | split

theorem fabricBellAck_still (x0 : Nat) (x1 : Nat) : Still s (execFabricBellAck x0 x1 s) := by
  unfold execFabricBellAck
  try dsimp only
  repeat' first | exact still_onDev _ _ | exact still_next _ | exact still_dev _ _ | split

theorem fabricVote_still (x0 : Nat) (x1 : Nat) (x2 : BitVec 16) : Still s (execFabricVote x0 x1 x2 s) := still_onDev _ _

theorem fabricDecisionAck_still (x0 : Nat) (x1 : Nat) : Still s (execFabricDecisionAck x0 x1 s) := still_onDev _ _

theorem fabricCart_still (x0 : Cart) (x1 x2 : Nat) (x3 : List Hop) (x4 : Nat) : Still s (execFabricCart x0 x1 x2 x3 x4 s) := by
  unfold execFabricCart
  try dsimp only
  repeat' first | exact still_onDev _ _ | exact still_next _ | exact still_dev _ _ | split

theorem bankWriteDone_still (x0 : Fin 2) : Still s (execBankWriteDone x0 s) := by
  unfold execBankWriteDone
  try dsimp only
  repeat' first | exact still_onDev _ _ | exact still_next _ | exact still_dev _ _ | split

theorem calMeasurementDone_still (x0 : Nat) : Still s (execCalMeasurementDone x0 s) := by
  unfold execCalMeasurementDone
  try dsimp only
  repeat' first | exact still_onDev _ _ | exact still_next _ | exact still_dev _ _ | split

theorem selftestDone_still (x0 x1 : Word) (x2 : List Word) : Still s (execSelftestDone x0 x1 x2 s) := by
  unfold execSelftestDone
  try dsimp only
  repeat' first | exact still_onDev _ _ | exact still_next _ | exact still_dev _ _ | split

theorem loopbackDone_still (x0 x1 : Nat) : Still s (execLoopbackDone x0 x1 s) := by
  unfold execLoopbackDone
  try dsimp only
  repeat' first | exact still_onDev _ _ | exact still_next _ | exact still_dev _ _ | split

theorem fwVerifyDone_still : Still s (execFwVerifyDone s) := by
  unfold execFwVerifyDone
  try dsimp only
  repeat' first | exact still_onDev _ _ | exact still_next _ | exact still_dev _ _ | split

theorem captureReadoutDone_still (x0 : Fin 64) : Still s (execCaptureReadoutDone x0 s) := still_onDev _ _

theorem guardCurrentLimitReleased_still (x0 : Fin 32) (x1 : Nat) : Still s (execGuardCurrentLimitReleased x0 x1 s) := still_onDev _ _

theorem rampDownEnd_still (x0 : Fin 128) (x1 : Nat) : Still s (execRampDownEnd x0 x1 s) := by
  unfold execRampDownEnd
  try dsimp only
  repeat' first | exact still_onDev _ _ | exact still_next _ | exact still_dev _ _ | split

theorem returnLaneLockLost_still : Still s (execReturnLaneLockLost s) := still_onDev _ _

theorem hostOkTimeout_still : Still s (execHostOkTimeout s) := by
  unfold execHostOkTimeout
  try dsimp only
  repeat' first | exact still_onDev _ _ | exact still_next _ | exact still_dev _ _ | split

theorem jtagInstruction_still (x0 : JtagInstr) (x1 x2 : Bool) : Still s (execJtagInstruction x0 x1 x2 s) := still_onDev _ _

/-! ### Every command -/

/-- Whatever is executed, the mailboxes move as the firmware and the control registers move them, or one word of a request buffer that belongs to the host is written, or a reset empties them. -/
theorem exec_moves {c : Instr} (e : exec c s = .next t) : MbxStep s.mbx t.mbx := by
  have key : ∀ o, o = exec c s → Still s o → MbxStep s.mbx t.mbx := fun o ho h => by
    rw [h t (ho.trans e)]
    exact .refl
  cases c
  case resetRelease => exact key _ rfl (still_ite (still_onDev _ _) (still_next _))
  case identityReady => exact key _ rfl (still_ite (still_next _) (still_onDev _ _))
  case bootStageEnd => exact key _ rfl (still_ite (still_onDev _ _) (still_next _))
  case supplyWarning => exact key _ rfl (still_ite (still_next _) (still_onDev _ _))
  case supplyWarningCleared => exact key _ rfl (still_ite (still_onDev _ _) (still_next _))
  case xoAbsent => exact key _ rfl (still_ite (still_onDev _ _) (still_next _))
  case parityRepair => exact key _ rfl (parityRepair_still _ _ _ _ _)
  case granarySelfRefresh => exact key _ rfl (still_ite (still_onDev _ _) (still_next _))
  case synthesizerReady => exact key _ rfl (still_ite (still_onDev _ _) (still_next _))
  case referenceEdge => exact key _ rfl (still_ite (still_onDev _ _) (still_next _))
  case slewDone => exact key _ rfl (still_ite (still_onDev _ _) (still_next _))
  case modulatorOverload => exact key _ rfl (still_ite (still_onDev _ _) (still_next _))
  case modulatorRecovered => exact key _ rfl (still_ite (still_onDev _ _) (still_next _))
  case widebandSample => exact key _ rfl (still_ite (still_onDev _ _) (still_next _))
  case pointSampleReady => exact key _ rfl (still_ite (still_onDev _ _) (still_next _))
  case granaryWrite => exact key _ rfl (still_ite (still_next _) (still_onDev _ _))
  case granaryScrubPass => exact key _ rfl (still_ite (still_next _) (still_onDev _ _))
  case isolationSwitchesClosed => exact key _ rfl (still_ite (still_onDev _ _) (still_next _))
  case modulatorRelease => exact key _ rfl (still_ite (still_onDev _ _) (still_next _))
  case excitationRampEnd => exact key _ rfl (still_ite (still_onDev _ _) (still_next _))
  case qServoSettle => exact key _ rfl (still_ite (still_onDev _ _) (still_next _))
  case disablePinsReleased => exact key _ rfl (still_ite (still_onDev _ _) (still_next _))
  case pointRampUp => exact key _ rfl (still_ite (still_next _) (still_onDev _ _))
  case fastDetection => exact key _ rfl (still_ite (still_onDev _ _) (still_next _))
  case detectorRelease => exact key _ rfl (still_ite (still_onDev _ _) (still_next _))
  case trigInEdge => exact key _ rfl (still_ite (still_onDev _ _) (still_next _))
  case trigOutPulse => exact key _ rfl (still_ite (still_onDev _ _) (still_next _))
  case bellInEdge => exact key _ rfl (still_ite (still_onDev _ _) (still_next _))
  case alignmentMarker => exact key _ rfl (still_ite (still_onDev _ _) (still_next _))
  case laneFault => exact key _ rfl (still_ite (still_onDev _ _) (still_next _))
  case returnLaneBadCrc => exact key _ rfl (still_ite (still_onDev _ _) (still_next _))
  case registerWrite => exact registerWrite_moves e
  case bellSnap => exact writeRow_ite_moves (ok := (· == 0x2000)) e
  case lockSet => exact writeRow_moves e
  case dlForce => exact writeRow_ite_moves (ok := (· == 0x7000)) e
  case postedWrite => exact writeRow_moves e
  case badFrame => exact badFrame_moves e
  case lockstepMismatch => exact key _ rfl (still_ite (still_onDev _ _) (still_next _))
  case fabricPortUp => exact key _ rfl (still_ite (still_onDev _ _) (still_next _))
  case fabricPortDown => exact key _ rfl (still_onDev _ _)
  case fabricRetrain => exact key _ rfl (still_ite (still_onDev _ _) (still_next _))
  case hello => exact key _ rfl (still_ite (still_onDev _ _) (still_next _))
  case beacon => exact key _ rfl (still_ite (still_onDev _ _) (still_next _))
  case delayExchange => exact key _ rfl (still_ite (still_onDev _ _) (still_next _))
  case addressRequest => exact key _ rfl (still_ite (still_onDev _ _) (still_next _))
  case addressAssignment => exact key _ rfl (still_ite (still_onDev _ _) (still_next _))
  case fabricTriggerMessage => exact key _ rfl (still_ite (still_next _) (still_onDev _ _))
  case fabricTxnOpen => exact key _ rfl (still_ite (still_next _) (still_onDev _ _))
  case fabricPrepare => exact key _ rfl (still_ite (still_next _) (still_onDev _ _))
  case fabricDecision => exact key _ rfl (still_ite (still_next _) (still_onDev _ _))
  case fabricDecisionQuery => exact key _ rfl (still_ite (still_next _) (still_onDev _ _))
  case routeFailure => exact key _ rfl (still_ite (still_next _) (still_onDev _ _))
  case streamAck => exact key _ rfl (still_ite (still_onDev _ _) (still_next _))
  case sessionOpen => exact .moves (fwRow_moves e)
  case sessionClose => exact .moves (fwRow_moves e)
  case sessionKeepalive => exact .moves (fwRow_moves e)
  case sessionList => exact .moves (fwRow_moves e)
  case txnBegin => exact .moves (fwRow_moves e)
  case txnCommit => exact .moves (fwRow_moves e)
  case txnAbort => exact .moves (fwRow_moves e)
  case txnStatus => exact .moves (fwRow_moves e)
  case chanConfig => exact .moves (fwRow_moves e)
  case chanQuery => exact .moves (fwRow_moves e)
  case chanEnable => exact .moves (fwRow_moves e)
  case pointConfig => exact .moves (fwRow_moves e)
  case pointQuery => exact .moves (fwRow_moves e)
  case carrierPlanCheck => exact .moves (fwRow_moves e)
  case linLoad => exact .moves (fwRow_moves e)
  case linQuery => exact .moves (fwRow_moves e)
  case linPersist => exact .moves (fwRow_moves e)
  case streamConfig => exact .moves (fwRow_moves e)
  case streamQuery => exact .moves (fwRow_moves e)
  case regionConfig => exact .moves (fwRow_moves e)
  case captureArm => exact .moves (fwRow_moves e)
  case captureDisarm => exact .moves (fwRow_moves e)
  case captureRead => exact .moves (fwRow_moves e)
  case tallyConfig => exact .moves (fwRow_moves e)
  case aoutConfig => exact .moves (fwRow_moves e)
  case millConfig => exact .moves (fwRow_moves e)
  case millQuery => exact .moves (fwRow_moves e)
  case densityConfig => exact .moves (fwRow_moves e)
  case densityRead => exact .moves (fwRow_moves e)
  case trigConfig => exact .moves (fwRow_moves e)
  case trigQuery => exact .moves (fwRow_moves e)
  case trigForce => exact .moves (fwRow_moves e)
  case calBegin => exact .moves (fwRow_moves e)
  case calPoint => exact .moves (fwRow_moves e)
  case calCommit => exact .moves (fwRow_moves e)
  case calAbort => exact .moves (fwRow_moves e)
  case ledgerRead => exact .moves (fwRow_moves e)
  case shepherdConfig => exact .moves (fwRow_moves e)
  case timeSet => exact .moves (fwRow_moves e)
  case timeQuery => exact .moves (fwRow_moves e)
  case clockConfig => exact .moves (fwRow_moves e)
  case clockQuery => exact .moves (fwRow_moves e)
  case holdoverPolicy => exact .moves (fwRow_moves e)
  case fabricStatus => exact .moves (fwRow_moves e)
  case fabricPolicy => exact .moves (fwRow_moves e)
  case fabricRouteQuery => exact .moves (fwRow_moves e)
  case fabricForward => exact .moves (fwRow_moves e)
  case bellSchedule => exact .moves (fwRow_moves e)
  case modeSet => exact .moves (fwRow_moves e)
  case modeQuery => exact .moves (fwRow_moves e)
  case hearthEnter => exact .moves (fwRow_moves e)
  case supplyQuery => exact .moves (fwRow_moves e)
  case diagSelftest => exact .moves (fwRow_moves e)
  case diagLoopback => exact .moves (fwRow_moves e)
  case diagLogRead => exact .moves (fwRow_moves e)
  case fwStage => exact .moves (fwRow_moves e)
  case fwActivate => exact .moves (fwRow_moves e)
  case fwQuery => exact .moves (fwRow_moves e)
  case basePresent => exact key _ rfl (still_ite (still_next _) (still_onDev _ _))
  case returnLaneLocked => exact key _ rfl (still_ite (still_onDev _ _) (still_next _))
  case fabricFrameBadCrc => exact key _ rfl (still_ite (still_onDev _ _) (still_next _))
  case controlFrameForward => exact key _ rfl (still_ite (still_onDev _ _) (still_next _))
  case densityReadoutDone => exact key _ rfl (still_ite (still_onDev _ _) (still_next _))
  case hearthPowerDownDone => exact key _ rfl (still_ite (still_onDev _ _) (still_next _))
  case resetAssert => exact resetAssert_moves e
  case brownout => exact brownout_moves e
  case epochBoundary => exact epochBoundary_moves e
  case eventClear =>
    simp only [exec, execEventClear] at e
    exact writeRow_moves e
  case mbxRequestWrite =>
    simp only [exec, execMbxRequestWrite] at e
    exact writeRow_moves e
  case mbxDoorbell =>
    simp only [exec, execMbxDoorbell] at e
    exact writeRow_moves e
  case rspDone =>
    simp only [exec, execRspDone] at e
    exact writeRow_moves e
  case bellRing =>
    simp only [exec, execBellRing] at e
    exact writeRow_moves e
  case dlEnable =>
    simp only [exec, execDlEnable] at e
    exact writeRow_moves e
  case dlDisable =>
    simp only [exec, execDlDisable] at e
    split at e
    · cases e
      exact .refl
    · exact writeRow_moves e
  case completionPlace => exact .moves (completionPlace_moves e)
  case cartFifoPop r => exact .moves (cartFifoPop_moves e)
  case timeLoRead r => exact .moves (timeLoRead_moves e)
  case postedRead p a =>
    simp only [exec, execPostedRead] at e
    split at e
    · exact .moves (read_moves p a e)
    · cases e
      exact .refl
  case lockstepRepaired => exact .moves (lockstepRepaired_moves e)
  case fabricMessageResponse => exact key _ rfl (messageResponse_still _ _)
  case reserveRequest => exact .moves (reserveRequest_moves e)
  case reserveAnswer => exact .moves (reserveAnswer_moves e)
  case remoteRegisterAccess => exact remoteRegister_moves e
  case reserveTimeout => exact .moves (reserveTimeout_moves e)
  case fabricTxnOpenReply => exact .moves (openReply_moves e)
  case currentSwap => exact key _ rfl (currentSwap_still _ _)
  case healthReport => exact key _ rfl (healthReport_still _ _)
  case countWindow => exact key _ rfl (countWindow_still _ _ _ _)
  case bandSearchEnd => exact key _ rfl (bandSearchEnd_still _ _)
  case synthesizerRetry => exact key _ rfl (synthesizerRetry_still _)
  case referenceLost => exact key _ rfl (referenceLost_still)
  case postedAccessDone => exact key _ rfl (postedAccessDone_still _ _)
  case postedAccessNack => exact key _ rfl (postedAccessNack_still _ _)
  case lockLost => exact key _ rfl (lockLost_still _ _)
  case timeStep => exact key _ rfl (timeStep_still)
  case timeSetTimeout => exact key _ rfl (timeSetTimeout_still)
  case guardCurrentLimit => exact key _ rfl (guardCurrentLimit_still _ _)
  case cartFillTimeout => exact key _ rfl (cartFillTimeout_still _ _)
  case cartDelivery => exact key _ rfl (cartDelivery_still _ _)
  case millResultReady => exact key _ rfl (millResultReady_still _)
  case densitySnapshotComplete => exact key _ rfl (densitySnapshotComplete_still _)
  case gainSwitch => exact key _ rfl (gainSwitch_still _ _)
  case gainReady => exact key _ rfl (gainReady_still _ _ _ _)
  case checkPhase => exact key _ rfl (checkPhase_still _ _ _)
  case checkClassification => exact key _ rfl (checkClassification_still _)
  case externalEdgeAccepted => exact key _ rfl (externalEdgeAccepted_still _ _ _)
  case recordClose => exact key _ rfl (recordClose_still _ _)
  case fabricTriggerSend => exact key _ rfl (fabricTriggerSend_still _)
  case bellTick => exact key _ rfl (bellTick_still _)
  case holdingWindowSwitch => exact key _ rfl (holdingWindowSwitch_still)
  case fabricForwardTimeout => exact key _ rfl (fabricForwardTimeout_still _ _)
  case fabricBell => exact key _ rfl (fabricBell_still _ _)
  case fabricBellAck => exact key _ rfl (fabricBellAck_still _ _)
  case fabricVote => exact key _ rfl (fabricVote_still _ _ _)
  case fabricDecisionAck => exact key _ rfl (fabricDecisionAck_still _ _)
  case fabricCart => exact key _ rfl (fabricCart_still _ _ _ _ _)
  case bankWriteDone => exact key _ rfl (bankWriteDone_still _)
  case calMeasurementDone => exact key _ rfl (calMeasurementDone_still _)
  case selftestDone => exact key _ rfl (selftestDone_still _ _ _)
  case loopbackDone => exact key _ rfl (loopbackDone_still _ _)
  case fwVerifyDone => exact key _ rfl (fwVerifyDone_still)
  case captureReadoutDone => exact key _ rfl (captureReadoutDone_still _)
  case guardCurrentLimitReleased => exact key _ rfl (guardCurrentLimitReleased_still _ _)
  case rampDownEnd => exact key _ rfl (rampDownEnd_still _ _)
  case returnLaneLockLost => exact key _ rfl (returnLaneLockLost_still)
  case hostOkTimeout => exact key _ rfl (hostOkTimeout_still)
  case jtagInstruction => exact key _ rfl (jtagInstruction_still _ _ _)

/-- One step, from an empty queue or from its front. -/
theorem step_moves (e : step s = .next t) : MbxStep s.mbx t.mbx := by
  unfold step at e
  split at e
  · cases e
    exact .refl
  · rename_i c cs _
    exact exec_moves (c := c) (s := { s with pending := cs }) e

end Sys2Proof.Machine
end

