-- ==== Sys2Proof/Laws/Frames.lean ====
section
/-! SUPPORT. What the data path leaves alone. Everything that samples, results, records, carts, frames and counters do stays outside the device's inner part: the clocks, power, registers, firmware state, channels, points, groups, tiles, nonvolatile die, long work and marks. One lemma for each shared operation. -/

namespace Sys2Proof.Machine

/-- The device without its event registers, Bell, counters, triggers, Granary, Mill, ports, fabric and count of free values. -/
def Device.inner (d : Device) : Device :=
  { d with evts := [], bell := Bell.reset, cnt := Counters.init, trig := Trig.reset, gran := ⟨[], [], [], [], [], false⟩,
           jobs := [], ended := [], maps := [], port := PortSt.reset, fab := Fabric.reset, free := 0 }

theorem Device.inner_of {d e : Device} (h : d.inner = e.inner) :
    d.clk = e.clk ∧ d.pw = e.pw ∧ d.regs = e.regs ∧ d.fw = e.fw ∧ d.chans = e.chans ∧ d.points = e.points ∧ d.groups = e.groups ∧
      d.tiles = e.tiles ∧ d.nv = e.nv ∧ d.work = e.work ∧ d.marks = e.marks :=
  ⟨congrArg (·.clk) h, congrArg (·.pw) h, congrArg (·.regs) h, congrArg (·.fw) h, congrArg (·.chans) h, congrArg (·.points) h,
    congrArg (·.groups) h, congrArg (·.tiles) h, congrArg (·.nv) h, congrArg (·.work) h, congrArg (·.marks) h⟩

theorem forList_inner {β : Type} (l : List β) (f : β → Device → Device) (h : ∀ x d, (f x d).inner = d.inner) (d : Device) :
    (forList l f d).inner = d.inner := by
  induction l generalizing d with
  | nil => rfl
  | cons x l ih => exact (ih (f x d)).trans (h x d)

theorem forNat_inner (n : Nat) (f : Nat → Device → Device) (h : ∀ x d, (f x d).inner = d.inner) (d : Device) :
    (forNat n f d).inner = d.inner := forList_inner (List.range n) f h d

@[simp] theorem Device.raise_inner (i : Nat) (b : BitVec 24) (d : Device) : (d.raise i b).inner = d.inner := by
  unfold Device.raise
  split <;> rfl

@[simp] theorem Device.cnt_inner (d : Device) (x : Counters) : Device.inner { d with cnt := x } = d.inner := rfl
@[simp] theorem Device.port_inner (d : Device) (x : PortSt) : Device.inner { d with port := x } = d.inner := rfl
@[simp] theorem Device.gran_inner (d : Device) (x : Granary) : Device.inner { d with gran := x } = d.inner := rfl
@[simp] theorem Device.trig_inner (d : Device) (x : Trig) : Device.inner { d with trig := x } = d.inner := rfl
@[simp] theorem Device.bell_inner (d : Device) (x : Bell) : Device.inner { d with bell := x } = d.inner := rfl
@[simp] theorem Device.fab_inner (d : Device) (x : Fabric) : Device.inner { d with fab := x } = d.inner := rfl
@[simp] theorem Device.ended_inner (d : Device) (x : Tbl (List JobRun)) : Device.inner { d with ended := x } = d.inner := rfl
@[simp] theorem Device.free_inner (d : Device) (x : Nat) : Device.inner { d with free := x } = d.inner := rfl
@[simp] theorem Device.portFree_inner (d : Device) (x : PortSt) (n : Nat) : Device.inner { d with port := x, free := n } = d.inner := rfl
@[simp] theorem Device.portCnt_inner (d : Device) (x : PortSt) (c : Counters) : Device.inner { d with port := x, cnt := c } = d.inner := rfl

@[simp] theorem Device.setUnit_inner (u : Nat) (f : UnitRun → UnitRun) (d : Device) : (d.setUnit u f).inner = d.inner := rfl
@[simp] theorem Device.setRegion_inner (u : Nat) (f : RegionRun → RegionRun) (d : Device) : (d.setRegion u f).inner = d.inner := rfl
@[simp] theorem Device.setJob_inner (u : Nat) (f : JobRun → JobRun) (d : Device) : (d.setJob u f).inner = d.inner := rfl
@[simp] theorem Device.setMap_inner (u : Nat) (f : MapRun → MapRun) (d : Device) : (d.setMap u f).inner = d.inner := rfl
@[simp] theorem Device.countRegion_inner (r i : Nat) (d : Device) (n : Nat) : (d.countRegion r i n).inner = d.inner := rfl
@[simp] theorem Device.countUnit_inner (r i : Nat) (d : Device) : (d.countUnit r i).inner = d.inner := rfl
@[simp] theorem Device.countJob_inner (r i : Nat) (d : Device) (n : Nat) : (d.countJob r i n).inner = d.inner := rfl
@[simp] theorem Device.countMap_inner (r i : Nat) (d : Device) : (d.countMap r i).inner = d.inner := rfl
@[simp] theorem Device.countPort_inner (r i : Nat) (d : Device) (n : Nat) : (d.countPort r i n).inner = d.inner := rfl
@[simp] theorem Device.countAt_inner (i : Nat) (p : Option Nat) (d : Device) : (d.countAt i p).inner = d.inner := by
  unfold Device.countAt
  split <;> rfl
@[simp] theorem Device.ctlRx_inner (src : Nat) (d : Device) : (d.ctlRx src).inner = d.inner := d.countAt_inner _ _
@[simp] theorem Device.ringBell_inner (t : Nat) (s : BitVec 5) (d : Device) : (d.ringBell t s).inner = d.inner := rfl

@[simp] theorem Device.send_inner (x : OutFrame) (d : Device) : (d.send x).inner = d.inner := by
  exact forList_inner _ (fun k d => d.countPort k fcTx) (fun _ _ => by rfl) d

@[simp] theorem Device.tell_inner (x : OutFrame) (d : Device) : (d.tell x).inner = d.inner := d.send_inner x

@[simp] theorem Device.nextAsk_inner (d : Device) : d.nextAsk.2.inner = d.inner := rfl

/-- Numbers of RESERVE frames rise by one. -/
@[simp] theorem Device.nextAsk_asks (d : Device) : d.nextAsk.2.fab.asks = d.nextAsk.1 + 1 := rfl

@[simp] theorem Device.tellAgain_inner (d : Device) : d.tellAgain.inner = d.inner := by
  have h := forList_inner d.fab.telling Device.send (fun x e => e.send_inner x) d
  simp only [Device.tellAgain]
  split
  · exact (Device.tell_inner _ _).trans h
  · exact h

/-! ### Carts -/

@[simp] theorem Device.discardCart_inner (s : Nat) (d : Device) : (d.discardCart s).inner = d.inner := rfl

@[simp] theorem Device.toPort_inner (x : ReadyCart) (d : Device) : (d.toPort x).inner = d.inner := by
  unfold Device.toPort
  split <;> rfl

@[simp] theorem Device.toFifo_inner (c : Cart) (d : Device) : (d.toFifo c).inner = d.inner := by
  simp only [Device.toFifo]
  split <;> rfl

@[simp] theorem Device.toFabric_inner (x : ReadyCart) (d : Device) : (d.toFabric x).inner = d.inner := rfl

@[simp] theorem Device.formCartAt_inner (a ty s t : Nat) (tag : BitVec 16) (fl : BitVec 14) (n : Nat) (ws : List Word) (b dests : Nat)
    (d : Device) : (d.formCartAt a ty s t tag fl n ws b dests).inner = d.inner := by
  simp [Device.formCartAt, apply_ite Device.inner]

@[simp] theorem Device.formCart_inner (ty s t : Nat) (tag : BitVec 16) (fl : BitVec 14) (n : Nat) (ws : List Word) (b dests : Nat)
    (d : Device) : (d.formCart ty s t tag fl n ws b dests).inner = d.inner := d.formCartAt_inner _ ty s t tag fl n ws b dests

@[simp] theorem Device.closeCart_inner (s : Nat) (f : OpenCart → Nat) (d : Device) : (d.closeCart s f).inner = d.inner := by
  unfold Device.closeCart
  split <;> simp

@[simp] theorem Device.shut_inner (s : Nat) (d : Device) : (d.shut s).inner = d.inner := d.closeCart_inner s _

@[simp] theorem Device.makeRoom_inner (s t n : Nat) (d : Device) : (d.makeRoom s t n).inner = d.inner := by
  simp [Device.makeRoom, apply_ite Device.inner]

@[simp] theorem Device.pushElem_inner (s t a r : Nat) (fl : BitVec 14) (b : List Byte) (d : Device) :
    (d.pushElem s t a r fl b).inner = d.inner := by
  simp [Device.pushElem, apply_ite Device.inner]

@[simp] theorem Device.cutAfter_inner (s n : Nat) (d : Device) : (d.cutAfter s n).inner = d.inner := by
  unfold Device.cutAfter
  split <;> simp

@[simp] theorem Device.appendElem_inner (s t r : Nat) (fl : BitVec 14) (b : List Byte) (d : Device) :
    (d.appendElem s t r fl b).inner = d.inner := by
  simp only [Device.appendElem]
  split <;> simp

/-! ### Readouts and the Granary -/

@[simp] theorem Device.readCart_inner (r : Nat) (x : Readout) (d : Device) : (d.readCart r x).inner = d.inner := by
  unfold Device.readCart
  dsimp only
  split <;> simp [apply_ite Device.inner]

@[simp] theorem Device.pumpRegion_inner (r now n : Nat) (d : Device) : (d.pumpRegion r now n).inner = d.inner := by
  induction n generalizing d with
  | zero => rfl
  | succ n ih =>
    unfold Device.pumpRegion
    split
    · rfl
    · split
      · rfl
      · rw [ih, Device.readCart_inner]

@[simp] theorem Device.pumpPaced_inner (now : Nat) (l : List Paced) (d : Device) : (Device.pumpPaced now l d).inner = d.inner := by
  induction l generalizing d with
  | nil => rfl
  | cons p l ih =>
    unfold Device.pumpPaced
    split
    · rw [ih, Device.formCart_inner]
    · rfl

@[simp] theorem Device.pump_inner (now : Nat) (d : Device) : (d.pump now).inner = d.inner := by
  unfold Device.pump
  rw [Device.pumpPaced_inner]
  exact forList_inner _ _ (fun _ _ => Device.pumpRegion_inner _ _ _ _) d

@[simp] theorem Device.settleSlot_inner (r k : Nat) (d : Device) : (d.settleSlot r k).inner = d.inner := by
  simp only [Device.settleSlot]
  repeat' split
  all_goals simp

@[simp] theorem Device.promote_inner (r f : Nat) (d : Device) : (d.promote r f).inner = d.inner := by
  unfold Device.promote
  repeat' split
  all_goals simp

@[simp] theorem Device.startCapture_inner (r : Nat) (t : Int) (n : Word) (l : Bool) (c : Nat) (d : Device) :
    (d.startCapture r t n l c).2.inner = d.inner := by
  unfold Device.startCapture
  split
  · rfl
  · dsimp only
    split <;> simp

@[simp] theorem Device.wrap_inner (r : Nat) (w : Bool) (d : Device) : (d.wrap r w).inner = d.inner := by
  simp only [Device.wrap]
  repeat' split
  all_goals simp

@[simp] theorem Device.writeRing_inner (r s : Nat) (cut : Bool) (e : Elem) (d : Device) : (d.writeRing r s cut e).inner = d.inner := by
  simp [Device.writeRing]

@[simp] theorem Device.writeHistory_inner (r s : Nat) (cut : Bool) (w : Waiting) (d : Device) :
    (d.writeHistory r s cut w).inner = d.inner := by
  unfold Device.writeHistory
  dsimp only
  split
  · split <;> simp
  · rfl

@[simp] theorem Device.writeFilling_inner (r k s : Nat) (cut : Bool) (w : Waiting) (d : Device) :
    (d.writeFilling r k s cut w).inner = d.inner := by
  simp [Device.writeFilling, apply_ite Device.inner]

@[simp] theorem Device.writeRegion_inner (r s : Nat) (cut : Bool) (w : Waiting) (d : Device) :
    (d.writeRegion r s cut w).inner = d.inner := by
  unfold Device.writeRegion
  refine (forList_inner _ _ (fun _ _ => by simp) _).trans ?_
  simp [apply_ite Device.inner]

@[simp] theorem Device.granWrite_inner (s : Nat) (d : Device) : (d.granWrite s).inner = d.inner := by
  unfold Device.granWrite
  split
  · rfl
  · refine (forList_inner _ _ (fun _ _ => by simp) _).trans ?_
    exact Device.pump_inner _ _

@[simp] theorem Device.toGranary_inner (s r a : Nat) (e : Elem) (d : Device) : (d.toGranary s r a e).inner = d.inner := by
  unfold Device.toGranary
  split <;> rfl

/-! ### Tallies, outputs and triggers -/

@[simp] theorem Device.setTallyAt_inner (p t : Nat) (r : TallyRun) (d : Device) : (d.setTallyAt p t r).inner = d.inner := by
  unfold Device.setTallyAt
  split <;> rfl

@[simp] theorem Device.tallyWrite_inner (r : Nat) (b : List Byte) (f : BitVec 14) (d : Device) : (d.tallyWrite r b f).inner = d.inner := by
  simp [Device.tallyWrite, apply_ite Device.inner]

@[simp] theorem Device.tallyStore_inner (p t ready : Nat) (c : TallyCfg) (f hb : Bool) (v : Word) (fl : BitVec 14) (d : Device) :
    (d.tallyStore p t ready c f hb v fl).inner = d.inner := by
  unfold Device.tallyStore
  dsimp only
  simp [apply_ite Device.inner]

@[simp] theorem Device.tallySample_inner (p t ready ts : Nat) (f : Bool) (e : F32) (fl : BitVec 14) (d : Device) :
    (d.tallySample p t ready ts f e fl).inner = d.inner := by
  unfold Device.tallySample
  dsimp only
  repeat' split
  all_goals simp

@[simp] theorem Device.aoutReach_inner (t : Nat) (d : Device) : (d.aoutReach t).inner = d.inner := rfl
@[simp] theorem Device.aoutPut_inner (a t c : Nat) (v : Bool) (d : Device) : (d.aoutPut a t c v).inner = d.inner := rfl

@[simp] theorem Device.aoutSample_inner (p t r : Nat) (e : F32) (fl : BitVec 14) (d : Device) :
    (d.aoutSample p t r e fl).inner = d.inner := by
  unfold Device.aoutSample
  split
  · rfl
  · exact (forList_inner _ _ (fun _ _ => by simp [apply_ite Device.inner]) _).trans (Device.aoutReach_inner _ d)

@[simp] theorem Device.setUnitAt_inner (u t : Nat) (r : UnitRun) (d : Device) : (d.setUnitAt u t r).inner = d.inner := by
  unfold Device.setUnitAt
  split <;> rfl

@[simp] theorem Device.addFiring_inner (g k i c : Nat) (l f : Bool) (x : Firing) (d : Device) :
    (d.addFiring g k i c l f x).inner = d.inner := rfl

@[simp] theorem Device.fire_inner (u : Nat) (x : UnitCfg) (late : Option Nat) (lm f : Bool) (det : Detection) (d : Device) :
    (d.fire u x late lm f det).inner = d.inner := by
  unfold Device.fire
  dsimp only
  split <;> rw [Device.addFiring_inner] <;> refine (forList_inner _ _ (fun _ _ => by simp) _).trans ?_ <;> simp

@[simp] theorem Device.detect_inner (u : Nat) (x : UnitCfg) (det : Detection) (d : Device) (late : Option Nat) (lm : Bool) :
    (d.detect u x det late lm).inner = d.inner := by
  unfold Device.detect
  dsimp only
  repeat' split
  all_goals simp

@[simp] theorem Device.offer_inner (w : Bool) (src ts t : Nat) (f : BitVec 14) (v : Nat → F64) (d : Device) :
    (d.offer w src ts t f v).inner = d.inner := by
  unfold Device.offer
  split
  · rfl
  · refine forList_inner _ _ (fun x d => ?_) d
    dsimp only
    split
    · rfl
    · refine (forList_inner _ _ (fun _ _ => by simp) _).trans ?_
      simp

@[simp] theorem Device.occur_inner (c b t td : Nat) (f : BitVec 14) (d : Device) : (d.occur c b t td f).inner = d.inner := by
  unfold Device.occur
  exact forList_inner _ _ (fun _ _ => by simp) d

@[simp] theorem Device.captures_inner (l : List Nat) (t : Int) (n : Word) (late : Bool) (c : Nat) (d : Device) :
    (d.captures l t n late c).2.inner = d.inner := by
  unfold Device.captures
  suffices h : ∀ (x : Bool × Device), (l.foldl (fun (m, d) r =>
      let x := Device.startCapture r t n late c d
      (m || !x.1, x.2)) x).2.inner = x.2.inner from h (false, d)
  induction l with
  | nil => intro x; rfl
  | cons r l ih => intro x; rw [List.foldl_cons, ih]; simp

@[simp] theorem Device.closeRecord_inner (r : OpenRec) (d : Device) : (d.closeRecord r).inner = d.inner := by
  unfold Device.closeRecord
  dsimp only
  split
  · rfl
  · have h (l : List Firing) (d : Device) : (forList l (fun f d => d.countUnit f.unit 3) d).inner = d.inner :=
      forList_inner l _ (fun _ _ => by rfl) d
    simp [apply_ite Device.inner, h]

/-! ### Messages and frames -/

@[simp] theorem Device.trigMessage_inner (m : TrigMsg) (t : Nat) (d : Device) : (d.trigMessage m t).inner = d.inner := by
  unfold Device.trigMessage
  exact forList_inner _ _ (fun _ _ => by simp) d

@[simp] theorem Device.sendTriggers_inner (t : Nat) (d : Device) : (d.sendTriggers t).inner = d.inner := by
  unfold Device.sendTriggers
  dsimp only
  refine (forList_inner _ _ (fun _ _ => by simp) _).trans ?_
  refine (forList_inner _ _ (fun _ _ => by simp) _).trans ?_
  rfl

@[simp] theorem Device.latchBell_inner (x : BellDue) (d : Device) : (d.latchBell x).inner = d.inner := by
  unfold Device.latchBell
  split <;> rfl

@[simp] theorem Device.ringAt_inner (x : BellDue) (d : Device) : (d.ringAt x).inner = d.inner := by
  have h (d : Device) : (d.fireBellUnits x).inner = d.inner := by
    unfold Device.fireBellUnits
    refine forList_inner _ _ (fun y d => ?_) d
    dsimp only
    split <;> simp
  have g (d : Device) : (d.pulseBell x).inner = d.inner := by
    unfold Device.pulseBell
    split <;> rfl
  simp [Device.ringAt, apply_ite Device.inner, h, g]

@[simp] theorem Device.failLane_inner (l : Nat) (d : Device) : (d.failLane l).inner = d.inner := by
  unfold Device.failLane
  split <;> rfl

@[simp] theorem Device.dropReady_inner (k : ReadyCart → Bool) (d : Device) : (d.dropReady k).inner = d.inner := by
  simp only [Device.dropReady, Device.portCnt_inner]
  exact forList_inner _ _ (fun _ _ => by rfl) d

@[simp] theorem Device.stopLanes_inner (o : Option Cart) (d : Device) : (d.stopLanes o).inner = d.inner := by
  cases o <;> exact Device.dropReady_inner _ d

@[simp] theorem Device.forcedLane_inner (d : Device) : d.forcedLane.inner = d.inner := by
  simp [Device.forcedLane, apply_ite Device.inner]

@[simp] theorem Device.marker_inner (d : Device) : d.marker.inner = d.inner := by
  simp only [Device.marker, apply_ite Device.inner, Device.stopLanes_inner, Device.port_inner, Device.forcedLane_inner, ite_self]

@[simp] theorem Device.health_inner (h : Health) (t : Nat) (d : Device) : (d.health h t).inner = d.inner := by
  have g (d : Device) : (forNat 9 (fun p d => if h.fail.getLsbD p then d.failLane p else d) d).inner = d.inner :=
    forNat_inner _ _ (fun _ _ => by simp [apply_ite Device.inner]) d
  simp [Device.health, apply_ite Device.inner, g]

@[simp] theorem Device.sendPort_inner (d : Device) : d.sendPort.inner = d.inner := by
  unfold Device.sendPort
  split <;> rfl

@[simp] theorem Device.sendCart_inner (dest : Nat) (a : RouteAns) (c : Cart) (d : Device) : (d.sendCart dest a c).inner = d.inner := by
  unfold Device.sendCart
  split <;> simp [apply_ite Device.inner]

@[simp] theorem Device.sendFabric_inner (d : Device) : d.sendFabric.inner = d.inner := by
  unfold Device.sendFabric
  dsimp only
  split
  · rfl
  · split
    · rfl
    · split
      · rfl
      · split <;> simp <;> rfl

/-! ### The Mill -/

@[simp] theorem Device.sendSnapshot_inner (m s : Nat) (d : Device) : (d.sendSnapshot m s).inner = d.inner := by
  unfold Device.sendSnapshot
  split <;> rfl

@[simp] theorem Device.mapBoundary_inner (m : Nat) (x : MapDue) (d : Device) : (d.mapBoundary m x).inner = d.inner := by
  simp [Device.mapBoundary, apply_ite Device.inner]

@[simp] theorem Device.mapAdd_inner (m : Nat) (l : List Nat) (d : Device) : (d.mapAdd m l).inner = d.inner := by
  simp [Device.mapAdd, apply_ite Device.inner]

@[simp] theorem Device.mapTake_inner (m : Nat) (x : MapResult) (d : Device) : (d.mapTake m x).inner = d.inner := by
  simp [Device.mapTake, apply_ite Device.inner]

@[simp] theorem Device.mapSettle_inner (k m : Nat) (d : Device) : (Device.mapSettle k m d).inner = d.inner := by
  induction k generalizing d with
  | zero => rfl
  | succ k ih =>
    have h (l : List MapResult) (d : Device) : (forList l (Device.mapTake m) d).inner = d.inner :=
      forList_inner _ _ (fun _ _ => by simp) d
    simp only [Device.mapSettle]
    split
    · simp [h]
    · split <;> simp [ih, h]

@[simp] theorem Device.density_inner (j i t a : Nat) (l : List Int) (f : BitVec 14) (d : Device) :
    (d.density j i t a l f).inner = d.inner := by
  unfold Device.density
  exact forList_inner _ _ (fun _ _ => by simp [apply_ite Device.inner]) d

@[simp] theorem Device.maskUnit_inner (u : Nat) (x : UnitCfg) (t n : Nat) (f : BitVec 14) (d : Device) :
    (d.maskUnit u x t n f).inner = d.inner := by
  simp [Device.maskUnit, apply_ite Device.inner]

@[simp] theorem Device.bandUnit_inner (u : Nat) (x : UnitCfg) (t : Nat) (p : F64) (f : BitVec 14) (d : Device) :
    (d.bandUnit u x t p f).inner = d.inner := by
  simp [Device.bandUnit, apply_ite Device.inner]

@[simp] theorem Device.sendFragments_inner (s t a r n k : Nat) (f : BitVec 14) (w : List Word) (d : Device) :
    (d.sendFragments s t a r n k f w).inner = d.inner := by
  unfold Device.sendFragments
  exact forNat_inner _ _ (fun _ _ => by simp) d

@[simp] theorem Device.sendResult_inner (s t a r p : Nat) (f : BitVec 14) (w : List Word) (d : Device) :
    (d.sendResult s t a r p f w).inner = d.inner := by
  simp [Device.sendResult, apply_ite Device.inner]

@[simp] theorem Device.verdict_inner (i t : Nat) (eval has : Bool) (n : Nat) (l : List F64) (f : BitVec 14) (d : Device) :
    (d.verdict i t eval has n l f).inner = d.inner := by
  have h2 (l : List (Nat × UnitCfg)) (d : Device) : (forList l (fun (u, y) d => d.maskUnit u y t n f) d).inner = d.inner :=
    forList_inner _ _ (fun _ _ => by simp) d
  have h3 (m : List (Nat × UnitCfg)) (d : Device) :
      (forList m (fun (u, y) d => d.bandUnit u y t (l.getD y.m F64.zero) f) d).inner = d.inner :=
    forList_inner _ _ (fun _ _ => by simp) d
  simp only [Device.verdict, apply_ite Device.inner, h2, h3, ite_self]

@[simp] theorem Device.emit_inner (i : Nat) (r : JobRun) (k : Taken) (c : Cfg) (j : JobCfg) (d : Device) :
    (d.emit i r k c j).inner = d.inner := by
  simp [Device.emit, apply_ite Device.inner]

@[simp] theorem Device.setRun_inner (i : Nat) (p : Option Nat) (r : JobRun) (d : Device) : (d.setRun i p r).inner = d.inner := by
  unfold Device.setRun
  split <;> simp

@[simp] theorem Device.millErrors_inner (x : MillIn) (d : Device) : (d.millErrors x).inner = d.inner := by
  simp [Device.millErrors, apply_ite Device.inner]

@[simp] theorem Device.transform_inner (x : MillIn) (n : MillNext) (c : Cfg) (j : JobCfg) (d : Device) :
    (d.transform x n c j).inner = d.inner := by
  simp only [Device.transform, apply_ite Device.inner, Device.raise_inner, ite_self]
  split <;> simp [apply_ite Device.inner]

end Sys2Proof.Machine
end

