-- ==== Sys2Proof/Laws/Requests.lean ====
section
/-! SUPPORT. What a firmware command does once a request for it stands in a mailbox: one lemma for an answer at once, one for an answer that comes later. -/

namespace Sys2Proof.Machine

/-! ### A mailbox after a change -/

theorem State.mailbox_setMailbox {s : State} (hw : twf Mailbox.init s.mbx = true) (x k : Nat) (f : Mailbox → Mailbox) :
    (s.setMailbox x f).mailbox k = if k = x then f (s.mailbox x) else s.mailbox k := tget_tmod hw x k f

theorem State.wf_setMailbox {s : State} (hw : twf Mailbox.init s.mbx = true) (x : Nat) (f : Mailbox → Mailbox) :
    twf Mailbox.init (s.setMailbox x f).mbx = true := twf_tmod hw x f

/-! ### Freeing the mailboxes of requests that are answered to no one -/

/-- A mailbox whose request is not being worked on stays as it is; of the others only `taken` and `reqBusy` can change. -/
def Mailbox.Settled (a b : Mailbox) : Prop :=
  (a.taken = false → b = a) ∧ b.request = a.request ∧ b.response = a.response ∧ b.rspValid = a.rspValid ∧ b.overruns = a.overruns

theorem Mailbox.Settled.refl (a : Mailbox) : a.Settled a := ⟨fun _ => rfl, rfl, rfl, rfl, rfl⟩

theorem Mailbox.Settled.trans {a b c : Mailbox} (h : a.Settled b) (g : b.Settled c) : a.Settled c := by
  refine ⟨fun ha => ?_, g.2.1.trans h.2.1, g.2.2.1.trans h.2.2.1, g.2.2.2.1.trans h.2.2.2.1, g.2.2.2.2.trans h.2.2.2.2⟩
  have hb := h.1 ha
  rw [g.1 (by rw [hb]; exact ha), hb]

/-- What freeing mailboxes can do to a state. -/
def State.SettledTo (s t : State) : Prop :=
  t.dev = s.dev ∧ t.pending = s.pending ∧ twf Mailbox.init t.mbx = true ∧ ∀ k, (s.mailbox k).Settled (t.mailbox k)

theorem State.settleMailboxes_settled {s : State} (hw : twf Mailbox.init s.mbx = true) : s.SettledTo s.settleMailboxes := by
  unfold State.settleMailboxes forNat
  generalize List.range 4 = l
  induction l generalizing s with
  | nil => exact ⟨rfl, rfl, hw, fun _ => .refl _⟩
  | cons x l ih =>
    simp only [List.foldl_cons]
    split
    · rename_i h
      have hk (k : Nat) := State.mailbox_setMailbox hw x k fun b => { b with taken := false, reqBusy := false }
      obtain ⟨h1, h2, h3, h4⟩ := ih (State.wf_setMailbox hw x fun b => { b with taken := false, reqBusy := false })
      refine ⟨h1, h2, h3, fun k => ?_⟩
      have h5 := h4 k
      rw [hk k] at h5
      by_cases hx : k = x
      · rw [if_pos hx] at h5
        subst hx
        have ht : (s.mailbox k).taken = true := by simp at h; exact h.1
        exact ⟨fun c => by simp [ht] at c, h5.2⟩
      · rwa [if_neg hx] at h5
    · exact ih hw

/-! ### An answer at once -/

variable {c : Instr} {m : Fin 4} {s : State} {code : Nat} {h : Handler}

/-- A request that stands is executed: what its handler answers is what the mailbox holds. -/
theorem answers_of_handler (hc : exec c s = fwRow code h (.mailbox m) s) (hs : s.stands code m) {a : Ans} {d : Device}
    (hh : h (s.request m) (s.touched m) = (some a, d)) : Answers c m s a.status a.payload (a.epoch.getD d.epoch) d := by
  obtain ⟨hw, hb, hr, ht, ho, hcode, hf⟩ := hs
  let bytes := d.answerBytes a.status (s.rawMailbox m).tag (a.epoch.getD d.epoch) a.payload
  let s1 : State := { ({ s with dev := d } : State).setMailbox m (Mailbox.answer bytes) with dev := d.raise evMbx (ebit m) }
  have e : s.execute h (s.rawMailbox m) = s1.settleMailboxes := by
    unfold State.execute
    simp only [hf]
    have hh' : h ((s.rawMailbox m).req (s.dev.touchSession (s.rawMailbox m))) (s.dev.touchSession (s.rawMailbox m)) = (some a, d) := hh
    rw [hh']
    refine congrArg State.settleMailboxes ?_
    have hr' : (({ s with dev := d } : State).mailbox m).reqBusy = true := hr
    exact if_pos hr'
  have hm (k : Nat) : s1.mailbox k = if k = m.val then Mailbox.answer bytes (s.mailbox m) else s.mailbox k := State.mailbox_setMailbox (s := { s with dev := d }) hw m k _
  have hw1 : twf Mailbox.init s1.mbx = true := State.wf_setMailbox (s := { s with dev := d }) hw m _
  obtain ⟨g1, g2, -, g4⟩ := State.settleMailboxes_settled hw1
  refine ⟨s1.settleMailboxes, ?_, g1, g2, ?_, fun k hk => ?_⟩
  · rw [hc]
    simp only [fwRow]
    rw [if_pos (by simp [hb, hr, ht, ho, hcode]), e]
  · have := (g4 m).1
    rw [hm, if_pos rfl] at this
    rw [this rfl]
    rfl
  · have := (g4 k).2
    rw [hm, if_neg hk] at this
    exact ⟨this.1, this.2.1, this.2.2.1, this.2.2.2⟩

/-- The same for status OK. -/
theorem answersOk_of_handler (hc : exec c s = fwRow code h (.mailbox m) s) (hs : s.stands code m) {p : List Byte} {d : Device}
    (hh : h (s.request m) (s.touched m) = (some (Ans.ok p), d)) : AnswersOk c m s p d := by
  have g := answers_of_handler hc hs hh
  simp only [Ans.ok, Option.getD_none] at g
  exact g

theorem State.touched_epoch (m : Nat) (s : State) : (s.touched m).epoch = s.dev.epoch := by
  unfold State.touched Device.touchSession
  split <;> rfl

/-- The same for a refusal by the command itself. -/
theorem refuses_of_handler (hc : exec c s = fwRow code h (.mailbox m) s) (hs : s.stands code m) {st : BitVec 16}
    (hh : h (s.request m) (s.touched m) = (some (Ans.st st), s.touched m)) : Refuses c m s st := by
  have g := answers_of_handler hc hs hh
  simp only [Ans.st, Option.getD_none, State.touched_epoch] at g
  exact g

/-- A header check refuses: the answer, with the device but for the session's timer as it was. -/
theorem answers_of_refusal (hc : exec c s = fwRow code h (.mailbox m) s) (hw : twf Mailbox.init s.mbx = true)
    (hb : s.dev.serves = true) (hr : (s.mailbox m).reqBusy = true)
    (ht : (s.mailbox m).taken = false) (ho : s.oldest m = true) (hcode : (s.rawMailbox m).code = code) {st : BitVec 16}
    (hf : (s.touched m).headerFails (s.rawMailbox m) = some st) (hn : stagingCodes.contains (s.rawMailbox m).code = false) :
    Answers c m s st [] s.dev.epoch (s.touched m) := by
  have he := State.touched_epoch m s
  let bytes := (s.touched m).answerBytes st (s.rawMailbox m).tag s.dev.epoch []
  let s1 : State := { ({ s with dev := s.touched m } : State).setMailbox m (Mailbox.answer bytes) with
    dev := (s.touched m).raise evMbx (ebit m) }
  have e : s.execute h (s.rawMailbox m) = s1 := by
    unfold State.execute
    have hf' : (s.dev.touchSession (s.rawMailbox m)).headerFails (s.rawMailbox m) = some st := hf
    simp only [hf']
    have hr' : (({ s with dev := s.touched m } : State).mailbox m).reqBusy = true := hr
    unfold Device.refusal
    rw [hn]
    refine (if_pos hr').trans ?_
    show ({ ({ s with dev := s.touched m } : State).setMailbox m
      (Mailbox.answer ((s.touched m).answerBytes st (s.rawMailbox m).tag (s.touched m).epoch [])) with
      dev := (s.touched m).raise evMbx (ebit m) } : State) = s1
    rw [he]
  have hm (k : Nat) : s1.mailbox k = if k = m.val then Mailbox.answer bytes (s.mailbox m) else s.mailbox k :=
    State.mailbox_setMailbox (s := { s with dev := s.touched m }) hw m k _
  refine ⟨s1, ?_, rfl, rfl, ?_, fun k hk => ?_⟩
  · rw [hc]
    simp only [fwRow]
    rw [if_pos (by simp [hb, hr, ht, ho, hcode]), e]
  · rw [hm, if_pos rfl]
    rfl
  · rw [hm, if_neg hk]
    exact ⟨rfl, rfl, rfl, rfl⟩

/-- A request whose answer comes later: its mailbox is kept, and nothing is written. -/
theorem kept_of_handler (hc : exec c s = fwRow code h (.mailbox m) s) (hs : s.stands code m) {d : Device}
    (hh : h (s.request m) (s.touched m) = (none, d)) (ha : d.awaits m = true) :
    Completes c s fun t => t.dev = d ∧ t.pending = s.pending ∧ t.mailbox m = { s.mailbox m with taken := true } := by
  obtain ⟨hw, hb, hr, ht, ho, hcode, hf⟩ := hs
  let s1 : State := ({ s with dev := d } : State).setMailbox m fun b => { b with taken := true }
  have e : s.execute h (s.rawMailbox m) = s1.settleMailboxes := by
    unfold State.execute
    simp only [hf]
    have hh' : h ((s.rawMailbox m).req (s.dev.touchSession (s.rawMailbox m))) (s.dev.touchSession (s.rawMailbox m)) = (none, d) := hh
    rw [hh']
    rfl
  have hm (k : Nat) : s1.mailbox k = if k = m.val then { s.mailbox m with taken := true } else s.mailbox k :=
    State.mailbox_setMailbox (s := { s with dev := d }) hw m k _
  have hw1 : twf Mailbox.init s1.mbx = true := State.wf_setMailbox (s := { s with dev := d }) hw m _
  have key (l : List Nat) (u : State) (hu : twf Mailbox.init u.mbx = true) (hd : u.dev = d) :
      (l.foldl (fun s m => if ((s.mailbox m).taken && !(s.dev.awaits m)) = true then
        s.setMailbox m fun b => { b with taken := false, reqBusy := false } else s) u).mailbox m = u.mailbox m := by
    induction l generalizing u with
    | nil => rfl
    | cons x l ih =>
      simp only [List.foldl_cons]
      split
      · rename_i h
        rw [ih _ (State.wf_setMailbox hu x _) hd]
        refine (State.mailbox_setMailbox hu x m _).trans (if_neg fun hx => ?_)
        rw [← hx, hd, ha] at h
        simp at h
      · exact ih u hu hd
  obtain ⟨g1, g2, -, -⟩ := State.settleMailboxes_settled hw1
  refine ⟨s1.settleMailboxes, ?_, g1, g2, ?_⟩
  · rw [hc]
    simp only [fwRow]
    rw [if_pos (by simp [hb, hr, ht, ho, hcode]), e]
  · refine (key (List.range 4) s1 hw1 rfl).trans ?_
    rw [hm, if_pos rfl]

/-- Accepting a long command is its answer. -/
theorem accepts_of_handler (hc : exec c s = fwRow code h (.mailbox m) s) (hs : s.stands code m) {f : Device → Device}
    (hfull : (s.touched m).longFull (s.sessionNo m) = false)
    (hh : h (s.request m) (s.touched m) = acceptLong (s.request m) (s.touched m) f) : Accepts c m s f := by
  have e : h (s.request m) (s.touched m) = (some (Ans.st stAccepted), f ((s.touched m).startLong (s.sessionNo m))) := by
    rw [hh]
    exact if_neg (by rw [show (s.request m).session = s.sessionNo m from rfl, hfull]; simp)
  have g := answers_of_handler hc hs e
  simp only [Ans.st, Option.getD_none] at g
  exact g

end Sys2Proof.Machine
end

