-- ==== Sys2Proof/Certificates/Slice0/Obligations.lean ====
section
/-! DEFINITION. The statements about the block, for the provers. -/

section

open Sys2Proof Sys2Proof.Machine

/-! ### The machine as a whole -/

/-- A step takes the command at the front of the queue and runs it on the state with the queue's rest. -/
def Obligations.StepRunsTheFrontCommand : Prop :=
  ∀ (c : Instr) (cs : List Instr) (s : State), s.pending = c :: cs → step s = exec c { s with pending := cs }

/-- No command ends in a fault or a refusal, and none touches the queue: a run stops nowhere. In part the model's choice: log 2. -/
def Obligations.EveryCommandCompletes : Prop :=
  ∀ (c : Instr) (s : State), Completes c s fun t => t.pending = s.pending

/-- The state after reset: the values R311, R314, R322 to R329 and R348 state. The mailboxes are in order right after reset. In part the model's choice: log 18. -/
def Obligations.ResetHoldsTheStatedValues : Prop :=
  (let d := State.reset.dev
   State.reset.pending = [] ∧ d.pw.mode = .reset ∧ d.modeWord = 0#32 ∧
     (∀ i, (d.evt i).word = 0#32) ∧ d.regs.intMask = 0#13 ∧ d.bell.ctl = 0xF0#32 ∧ d.bell.shown = Snapshot.zero ∧
     (d.regs.lockDbg || d.regs.lockCal || d.regs.lockFw) = false ∧ d.regs.viol.info = 0#32 ∧
     d.port.ctl = 0x14C#32 ∧ d.port.stat = 0xF0000#32 ∧ d.port.level = 0x10000#32 ∧
     (∀ m, State.reset.mbxStat m = 0#32) ∧ d.fw.sessions = [] ∧ d.fw.txns = [] ∧ d.fw.committed = 0#16 ∧ d.fw.effective = 0#16) ∧
  (State.reset.mailboxesInOrder)

/-- Whatever command a step runs, REQ_BUSY and RSP_VALID of no mailbox are both 1 afterwards, and its buffers stay canonical and within their 1,024 bytes. -/
def Obligations.EveryStepKeepsMailboxesInOrder : Prop :=
  ∀ s t : State, s.mailboxesInOrder → step s = .next t → t.mailboxesInOrder

/-- While REQ_BUSY is 1 the request buffer belongs to the firmware: no command changes a byte of it. Only a reset ends this: it empties every mailbox, and leaves the mode RESET. -/
def Obligations.BusyRequestBufferDoesNotChange : Prop :=
  ∀ (s t : State) (m : Nat), s.mailboxesInOrder → step s = .next t → (s.mailbox m).reqBusy = true →
    (t.mbx = [] ∧ t.dev.pw.mode = .reset) ∨ (t.mailbox m).request = (s.mailbox m).request

/-! ### Resets, boot, supplies, JTAG, lockstep -/

/-- RESET_N and a brownout return everything volatile to its reset value. They keep the locks, the pending anti-rollback work and the nonvolatile die, but for a bank of firmware that was being written; a brownout records its lowest rail. A power-on reset clears the locks and that record too. In part the model's choice: log 10, 18, 21 and 156. -/
def Obligations.ResetsKeepOnlyTheirSurvivors : Prop :=
  ∀ (s : State) (rails : BitVec 6), s.dev.pw.mode ≠ .reset →
    let cleared (t : State) : Prop := t.pending = s.pending ∧ t.mbx = [] ∧ t.dev.pw.mode = .reset ∧ t.dev.pw.booted = false ∧
      { t.dev with regs := Regs.reset, work := Work.reset, pw := Power.reset, free := 0 } = Device.resetWith t.dev.nv ∧
      { t.dev.regs with lockDbg := false, lockCal := false, lockFw := false } = Regs.reset ∧
      { t.dev.work with otpPending := none } = Work.reset ∧
      { t.dev.nv with fwA := s.dev.nv.fwA, fwB := s.dev.nv.fwB } = s.dev.nv ∧
      t.dev.nv.fwBank s.dev.nv.fwForceB = s.dev.nv.fwBank s.dev.nv.fwForceB ∧ (s.dev.work.verify = none → t.dev.nv = s.dev.nv)
    let kept (t : State) : Prop := t.dev.regs.lockDbg = s.dev.regs.lockDbg ∧ t.dev.regs.lockCal = s.dev.regs.lockCal ∧
      t.dev.regs.lockFw = s.dev.regs.lockFw ∧ t.dev.work.otpPending = s.dev.work.otpPending
    Completes .resetAssert s (fun t => cleared t ∧ kept t ∧ t.dev.pw.resetN = true ∧ t.dev.pw.lastBrownout = s.dev.pw.lastBrownout) ∧
    (rails ≠ 0#6 → rails ≠ 0x3F#6 → Completes (.brownout rails) s fun t =>
      cleared t ∧ kept t ∧ rails.getLsbD t.dev.pw.lastBrownout.toNat = true ∧
        ∀ k, k < t.dev.pw.lastBrownout.toNat → rails.getLsbD k = false) ∧
    Completes (.brownout 0x3F#6) s fun t => cleared t ∧ t.dev.regs = Regs.reset ∧ t.dev.work = Work.reset ∧ t.dev.pw = { Power.reset with resetN := s.dev.pw.resetN }

/-- At the release of RESET the pins are sampled and a bank is selected: A for 0b01, B for 0b10, else the bank in force. A reboot by RESET_N under LOCK_FW uses the bank in force and says so; the reboot of `fw.activate` uses the bank it named. The mode becomes BOOT. In part the model's choice: log 14. -/
def Obligations.ReleaseOfResetSelectsTheBank : Prop :=
  ∀ (s : State) (sel : BitVec 2), s.dev.pw.mode = .reset →
    let locked := s.dev.pw.byResetN && s.dev.regs.lockFw
    Completes (.resetRelease sel) s fun t =>
      DeviceOnly s t ∧ t.dev.pw.mode = .boot ∧ t.dev.pw.bootSel = sel ∧ t.dev.pw.selIgnored = locked ∧
      (t.dev.pw.fwBankB = true ↔ (locked = false ∧ s.dev.pw.activated = false ∧ sel = 0b10#2) ∨
        ((locked = true ∨ s.dev.pw.activated = true ∨ sel = 0b00#2 ∨ sel = 0b11#2) ∧ s.dev.nv.fwForceB = true)) ∧
      { t.dev with pw := s.dev.pw } = s.dev

/-- The identity is ready once, after RESET: ID_READY is set and FW_VER shows the header of the image that boots: the selected bank's, else the other bank's; where no bank holds one, its value is free. Until boot ends every read has no effect but on the word its port last read, and pops nothing, and every write, of any row and by any port, has none at all; a read answers zero before the identity is ready, and after it the seven registers DEV_ID to MODE, with zero elsewhere. In part the model's choice: log 13. -/
def Obligations.ControlPortUntilBootEnds : Prop :=
  (∀ s : State, s.dev.pw.mode ≠ .reset → s.dev.pw.idReady = false →
     let b := s.dev.pw.fwBankB
     Completes .identityReady s fun t =>
       DeviceOnly s t ∧ t.dev.pw = { s.dev.pw with idReady := true, fwVer := t.dev.pw.fwVer } ∧
       ((s.dev.nv.fwBank b).valid = true → t.dev.pw.fwVer = (s.dev.nv.fwBank b).fwVer) ∧
       ((s.dev.nv.fwBank b).valid = false → (s.dev.nv.fwBank !b).valid = true → t.dev.pw.fwVer = (s.dev.nv.fwBank !b).fwVer) ∧
       { t.dev with pw := s.dev.pw, free := s.dev.free } = s.dev) ∧
  (∀ (s : State) (p : Port) (addr : BitVec 24) (a : Access), s.dev.pw.booted = false →
     (∀ c ∈ [Instr.registerWrite (.one a), .mbxRequestWrite a, .mbxDoorbell a, .rspDone a, .eventClear a, .bellRing a, .bellSnap a, .lockSet a,
       .dlForce a, .dlEnable a, .dlDisable a, .postedWrite a], exec c s = .next s) ∧
     (∀ clocks, exec (.registerWrite (.frame clocks)) s = .next s) ∧
     (Completes (.cartFifoPop (.one p)) s fun u => DeviceOnly s u ∧ u.dev.port = s.dev.port ∧
       { u.dev with regs := { u.dev.regs with lastRead := s.dev.regs.lastRead } } = s.dev) ∧
     (s.readReg p addr).2 = s ∧
     (s.dev.pw.idReady = false → (s.readReg p addr).1 = 0#32) ∧
     (s.dev.pw.idReady = true →
       (baseOf addr = 0x00 → (s.readReg p addr).1 = 0x554D8128#32) ∧ (baseOf addr = 0x04 → (s.readReg p addr).1 = 0x00000B01#32) ∧
       (baseOf addr = 0x08 → (s.readReg p addr).1 = Config.uid.extractLsb' 0 32) ∧
       (baseOf addr = 0x0C → (s.readReg p addr).1 = Config.uid.extractLsb' 32 32) ∧
       (baseOf addr = 0x10 → (s.readReg p addr).1 = s.dev.pw.fwVer) ∧ (baseOf addr = 0x14 → (s.readReg p addr).1 = s.dev.pw.bootStat) ∧
       (baseOf addr = 0x18 → (s.readReg p addr).1 = s.dev.modeWord) ∧ (0x18 < baseOf addr → (s.readReg p addr).1 = 0#32)))

/-- Boot passes through its stages in order: each that passes leads to the next, STORES when the factory region's CRC-32C matches. VERIFY boots the selected image if it verifies, else the other one with SIG_FAIL and FALLBACK set, else boot halts in SAFE with STAGE 0xE0; FW_VER, once readable, reports the image that boots. DONE brings IDLE with the boot configuration under tag 0 and BOOT_DONE. A failure of the clocks halts boot in SAFE under cause 5 with STAGE 0xE0; one of the later stages fails into SAFE under cause 5 with SELFTEST_FAIL and its STAGE. In part the model's choice: log 11, 12 and 15. -/
def Obligations.BootPassesOrEndsInSafe : Prop :=
  (∀ (s : State) (r : BootResult), s.dev.pw.mode = .boot →
     (s.dev.pw.stage = 1 ∨ s.dev.pw.stage = 2 ∨ s.dev.pw.stage = 5 ∨ (s.dev.pw.stage = 4 ∧ s.dev.clk.counting = true) ∨
         (s.dev.pw.stage = 6 ∧ s.dev.nv.factory.sound = true) ∨ (7 ≤ s.dev.pw.stage ∧ s.dev.pw.stage ≤ 9 ∧ r.pass = true) →
       Completes (.bootStageEnd r) s fun t =>
         DeviceOnly s t ∧ t.dev.pw.stage = s.dev.pw.stage + 1 ∧ t.dev.pw.mode = .boot ∧ t.dev.pw.booted = s.dev.pw.booted) ∧
     (s.dev.pw.stage = 3 → s.dev.pw.declared = none →
       let nv := s.dev.nv
       let b := s.dev.pw.fwBankB
       let own := nv.accepts (nv.fwBank b)
       let boots := own || nv.accepts (nv.fwBank !b)
       let taken := if own then b else !b
       Completes (.bootStageEnd r) s fun t =>
         DeviceOnly s t ∧ t.dev.pw.stage = (if boots then 4 else 0xE0) ∧ t.dev.pw.mode = (if boots then .boot else .safe) ∧
         t.dev.pw.fwBankB = (if boots then taken else b) ∧ t.dev.pw.sigFail = (s.dev.pw.sigFail || !own) ∧
         t.dev.pw.fallback = (s.dev.pw.fallback || (boots && !own)) ∧
         t.dev.pw.fwVer = (if boots && s.dev.pw.idReady then (nv.fwBank taken).fwVer else s.dev.pw.fwVer) ∧
         t.dev.clk.synA.state = (if boots then .search else s.dev.clk.synA.state) ∧
         t.dev.clk.synB = s.dev.clk.synB) ∧
     (s.dev.pw.stage = 10 → Completes (.bootStageEnd r) s fun t =>
       DeviceOnly s t ∧ t.dev.pw.mode = .idle ∧ t.dev.pw.prior = .boot ∧ t.dev.pw.booted = true ∧ t.dev.fw.committed = 0#16 ∧
       t.dev.fw.effective = 0#16 ∧ t.dev.fw.eff = { Cfg.boot with lins := s.dev.persistedLins } ∧ t.dev.fw.live = t.dev.fw.eff ∧
       (t.dev.evt evSys).bits.getLsbD 3 = true ∧ t.dev.nv.fwForceB = s.dev.pw.fwBankB)) ∧
  (∀ (s : State) (r : BootResult), s.dev.pw.mode = .boot → s.dev.pw.declared = none →
     ((s.dev.pw.stage = 4 ∧ s.dev.clk.counting = false) ∨ (s.dev.pw.stage = 6 ∧ s.dev.nv.factory.sound = false) ∨
       (7 ≤ s.dev.pw.stage ∧ s.dev.pw.stage ≤ 9 ∧ r.pass = false)) →
     Completes (.bootStageEnd r) s fun t =>
       DeviceOnly s t ∧ t.dev.pw.mode = .safe ∧ t.dev.pw.safeCause = 5 ∧ t.dev.pw.booted = true ∧
       (t.dev.evt evSys).bits.getLsbD 2 = true ∧ (t.dev.evt evSys).bits.getLsbD 6 = true ∧
       (s.dev.pw.stage ≤ 4 → t.dev.pw.stage = 0xE0) ∧
       (6 ≤ s.dev.pw.stage → t.dev.pw.stage = s.dev.pw.stage ∧ t.dev.pw.selftestFail = true))

/-- A rail that enters warning shows in SUP_STAT and raises its event bit; leaving clears it and raises the bit 8 above. Neither changes the mode, the configuration, the stack or the registers. -/
def Obligations.SupplyWarningsShow : Prop :=
  ∀ (s : State) (rail : Fin 6),
    let same (t : State) : Prop := DeviceOnly s t ∧ t.dev.pw.mode = s.dev.pw.mode ∧ t.dev.fw.eff = s.dev.fw.eff ∧
      t.dev.fw.live = s.dev.fw.live ∧ t.dev.regs = s.dev.regs ∧ t.dev.gran = s.dev.gran ∧ t.dev.clk = s.dev.clk ∧ t.dev.chans = s.dev.chans
    (s.dev.pw.mode ≠ .reset → s.dev.pw.warn.getLsbD rail.val = false → Completes (.supplyWarning rail) s fun t =>
      same t ∧ t.dev.pw.warn = s.dev.pw.warn ||| (1#6 <<< rail.val) ∧ t.dev.pw.warnTime = s.dev.clk.time ∧
      (t.dev.evt evSupply).bits.getLsbD rail.val = true) ∧
    (s.dev.pw.warn.getLsbD rail.val = true → Completes (.supplyWarningCleared rail) s fun t =>
      same t ∧ t.dev.pw.warn = s.dev.pw.warn &&& ~~~(1#6 <<< rail.val) ∧ (t.dev.evt evSupply).bits.getLsbD (8 + rail.val) = true)

/-- While TRST_N is low no instruction reaches the pins or the device; else a JTAG instruction reaches the TAP. A private one acts only with LOCK_DBG clear and in MAINTAIN, and as BYPASS in another mode with the lock clear; EXTEST acts only while RESET_N is low with every rail up, and as SAMPLE otherwise. Nothing else changes. -/
def Obligations.JtagInstructionsActUnderTheLock : Prop :=
  ∀ (s : State) (i : JtagInstr) (rails : Bool),
    (Completes (.jtagInstruction i rails true) s fun t => t.dev.pw.jtagActs ≠ .priv ∧ t.dev.pw.jtagActs ≠ .extest) ∧
    Completes (.jtagInstruction i rails false) s fun t =>
      t = { s with dev := { s.dev with pw := { s.dev.pw with jtag := i, railsUp := rails, jtagActs := t.dev.pw.jtagActs } } } ∧
      (i = .priv → (t.dev.pw.jtagActs = .priv ↔ s.dev.regs.lockDbg = false ∧ s.dev.pw.mode = .maintain) ∧
        (s.dev.regs.lockDbg = false → t.dev.pw.jtagActs ≠ .priv → t.dev.pw.jtagActs = .bypass)) ∧
      (i = .extest → (t.dev.pw.jtagActs = .extest ↔ s.dev.pw.resetN = true ∧ rails = true) ∧
        (t.dev.pw.jtagActs ≠ .extest → t.dev.pw.jtagActs = .sample)) ∧
      (i = .bypass ∨ i = .sample → t.dev.pw.jtagActs = i)

/-- A lockstep mismatch stops the taking of commands and changes nothing else; its end counts a repair, raises its event bit, and leaves sessions, transactions and age tickets as they stood. Only a request with an unknown code that came meanwhile is answered then. Asleep, the Granary enters self-refresh once every sample of before H has been written, and the tiles go down; power falls to its limit, with which `hearth.enter` completes; neither changes the mode or the configuration. -/
def Obligations.LockstepRestartAndSleepKeepTheRest : Prop :=
  (∀ s : State,
     (s.dev.pw.booted = true → Gives .lockstepMismatch s { s.dev with work := { s.dev.work with lockstep := true } }) ∧
     (s.dev.work.lockstep = true → Completes .lockstepRepaired s fun t =>
         t.pending = s.pending ∧ t.dev.work = { s.dev.work with lockstep := false } ∧
         t.dev.cnt = { s.dev.cnt with lockstepRepairs := s.dev.cnt.lockstepRepairs + 1#32 } ∧
         (t.dev.evt evSys).bits.getLsbD 7 = true ∧ t.dev.clk = s.dev.clk ∧ t.dev.regs = s.dev.regs ∧
         t.dev.fw.txns = s.dev.fw.txns ∧ t.dev.fw.tickets = s.dev.fw.tickets ∧ t.dev.fw.eff = s.dev.fw.eff ∧
         t.dev.fw.sessions.map (·.id) = s.dev.fw.sessions.map (·.id) ∧
         ((∀ m, m < 4 → (s.mailbox m).reqBusy = true → (cmdModes (s.rawMailbox m).code).isSome = true) →
           t.mbx = s.mbx ∧ t.dev.fw = s.dev.fw))) ∧
  (∀ (s : State) (t : Nat), s.dev.pw.mode = .hearth →
     (s.dev.gran.selfRefresh = false → s.dev.writesDone = true → Completes (.granarySelfRefresh t) s fun u =>
       DeviceOnly s u ∧ (∀ k, k < 4 → (u.dev.tile k).linkUp = false) ∧
         { u.dev with tiles := s.dev.tiles } = { s.dev.tickTo t with gran := { s.dev.gran with selfRefresh := true } }) ∧
     (s.dev.pw.powerLow = false → s.dev.pw.wake = none → Completes (.hearthPowerDownDone t) s fun u =>
       DeviceOnly s u ∧ u.dev.pw = { s.dev.pw with powerLow := true, hearthWaiter := none } ∧ u.dev.gran = s.dev.gran ∧
       u.dev.fw.eff = s.dev.fw.eff ∧ u.dev.fw.txns = s.dev.fw.txns ∧
       (s.dev.pw.hearthWaiter = none → u.dev = { s.dev.tickTo t with pw := u.dev.pw })))

/-! ### The epoch boundary, parity -/

/-- The epoch boundary: device time stands at the next multiple of 3,000,000 ticks, with the measurements of the ended epoch taken over and the locks as they were. The count is one of 64 bits: where it has no room for another boundary it returns to 0. At the boundary that `fw.activate` named, the device resets as under RESET_N: RESET, empty mailboxes, and the locks still set. In part the model's choice: log 4, 10, 169 and 209. -/
def Obligations.EpochBoundaryBeginsTheNextEpoch : Prop :=
  (∀ (s : State) (x : EpochInput), s.dev.clk.counting = true → s.dev.work.activate = none →
     let e := if s.dev.clk.landed = true ∨ boundary (s.dev.epoch + 1) < 2 ^ 64 then s.dev.clk.boundaryEpoch else 0
     Completes (.epochBoundary x) s fun t =>
       t.pending = s.pending ∧ t.dev.clk.time = boundary e ∧ t.dev.epoch = e ∧
       t.dev.clk.counting = true ∧ t.dev.clk.landed = false ∧ t.dev.pw.vhv = x.vhv ∧ t.dev.pw.rails.length = 6 ∧
       (∀ k, k < 6 → k < x.rails.length → t.dev.pw.rails[k]? = x.rails[k]?) ∧
       t.dev.regs.lockDbg = s.dev.regs.lockDbg ∧ t.dev.regs.lockCal = s.dev.regs.lockCal ∧ t.dev.regs.lockFw = s.dev.regs.lockFw) ∧
  (∀ (s : State) (x : EpochInput) (e : Nat), s.dev.clk.counting = true → s.dev.work.activate = some e → e ≤ s.dev.clk.boundaryEpoch →
     Completes (.epochBoundary x) s fun t =>
       t.pending = s.pending ∧ t.mbx = [] ∧ t.dev.pw.mode = .reset ∧ t.dev.pw.byResetN = true ∧ t.dev.regs.lockDbg = s.dev.regs.lockDbg ∧
       t.dev.regs.lockCal = s.dev.regs.lockCal ∧ t.dev.regs.lockFw = s.dev.regs.lockFw)

/-- At an epoch boundary the batches that are due come into force: EFFECTIVE and the configuration are those of the last of them, and none that was due is left; with none due, both stay. A mode change that is due takes effect, with PRIOR naming the mode that was left, and none does so before its boundary; a declared cause enters SAFE. The local commits that waited from before the ended epoch's boundary are decided: each is accepted or stays open with its items; if any is accepted, one new batch under the next COMMITTED tag takes effect at the next boundary, else COMMITTED and the live configuration stay. 0xFFFF is followed by 0x0001. Of two commits that touch one entity the younger, by age ticket, is not accepted where the older one is. The oldest one is accepted where its checks pass without routes, and none is undecided where no stream leaves by the fabric. Batches that take effect bring the transactions of each, in one swap, and the former configuration stays known for samples of earlier instants. In part the model's choice: log 25, 26, 178, 211, 218 and 244. -/
def Obligations.BoundaryTakesBatchesAndModes : Prop :=
  (∀ (d : Device) (b e : Nat) (bs : List Batch) (last : Batch), bs.getLast? = some last → last.cal = false → (∀ x ∈ bs, x.cal = false) →
     let u := d.applyBatches b e bs
     u.fw.eff = last.cfg ∧ u.fw.effective = last.tag ∧ u.fw.committed = d.fw.committed ∧ u.fw.live = d.fw.live ∧
     (∃ p ∈ u.fw.past, p.until_ = b ∧ p.cfg = d.fw.eff ∧ p.tag = d.fw.effective) ∧
     (∀ t ∈ u.fw.txns, ¬(t.state = .accepted ∧ ∃ x ∈ bs, x.tag = t.tag)) ∧ u.clk = d.clk ∧ u.regs = d.regs) ∧
  (∀ (d : Device) (e at_ : Nat) (m : Mode) (w : Option Waiter), d.pw.pending = some (m, at_, w) → d.pw.mode ≠ .safe →
     (e < at_ → d.takeMode (boundary e) e = d) ∧
     (at_ ≤ e → (d.takeMode (boundary e) e).pw.mode = m ∧ (d.takeMode (boundary e) e).pw.prior = d.pw.mode ∧
       (d.takeMode (boundary e) e).pw.pending = none ∧ (d.takeMode (boundary e) e).fw.eff = d.fw.eff)) ∧
  (nextTag 0xFFFF#16 = 1#16 ∧ ∀ t, t ≠ 0xFFFF#16 → nextTag t = t + 1#16) ∧
  ∀ (s : State) (x : EpochInput), s.dev.clk.counting = true → s.dev.work.activate = none → s.dev.pw.mode ≠ .safe →
    s.dev.clk.landed = true ∨ boundary (s.dev.epoch + 1) < 2 ^ 64 →
    let e := s.dev.clk.boundaryEpoch
    let due := s.dev.fw.batches.filter fun y => decide (y.effect ≤ e)
    (∀ c, s.dev.pw.declared = some c → Completes (.epochBoundary x) s fun u => u.dev.pw.mode = .safe ∧ u.dev.pw.safeCause = c ∧
      u.dev.pw.prior = s.dev.pw.mode ∧ u.dev.pw.pending = none) ∧
    (s.dev.pw.declared = none → s.dev.pw.mode ≠ .hearth → s.dev.pw.mode ≠ .boot → s.dev.pw.wake = none → s.dev.pw.hearth = none →
      (due = [] → Completes (.epochBoundary x) s fun u => u.dev.fw.eff = s.dev.fw.eff ∧ u.dev.fw.effective = s.dev.fw.effective) ∧
      (∀ last, due.getLast? = some last → (∃ y ∈ due, y.effect = e) → (due.map (·.tag)).Nodup → s.dev.fw.lag = [] → x.lag = [] →
        Completes (.epochBoundary x) s fun u => u.dev.fw.eff = last.cfg ∧ u.dev.fw.effective = last.tag ∧ ∀ y ∈ u.dev.fw.batches, e < y.effect) ∧
      (s.dev.pw.pending = none → Completes (.epochBoundary x) s fun u => u.dev.pw.mode = s.dev.pw.mode) ∧
      (∀ m at_ w, s.dev.pw.pending = some (m, at_, w) →
        (e < at_ → Completes (.epochBoundary x) s fun u => u.dev.pw.mode = s.dev.pw.mode ∧ u.dev.pw.pending = s.dev.pw.pending) ∧
        (at_ ≤ e → Completes (.epochBoundary x) s fun u => u.dev.pw.mode = m ∧ u.dev.pw.prior = s.dev.pw.mode ∧
          u.dev.pw.modeSince = boundary e ∧ u.dev.pw.pending = none)) ∧
      (s.standing = [] → s.dev.fw.frames = [] → s.dev.fw.deciding = none → s.dev.work.calJoin = false → (∀ y ∈ s.dev.fw.sessions, boundary e ≤ y.deadline) →
        (∀ t ∈ s.dev.fw.txns, t.coord = none ∧ t.fabric = false ∧ t.prepared = false) → (s.dev.fw.txns.map (·.id)).Nodup →
        let waits (t : Txn) : Prop := t ∈ s.dev.fw.txns ∧ t.state = .waiting ∧ t.arrived < e
        let taken (u : State) (t : Txn) : Prop := ∃ y, u.dev.txn? none t.id = some y ∧ y.state = .accepted ∧ y.items = t.items ∧
          y.effect = e + 1 ∧ y.tag = nextTag s.dev.fw.committed
        let open_ (u : State) (t : Txn) : Prop := ∃ y, u.dev.txn? none t.id = some y ∧ y.state = .open_ ∧ y.items = t.items
        Completes (.epochBoundary x) s fun u =>
          (s.dev.fw.live.fabricTerms = [] → (∀ t ∈ s.dev.fw.txns, ∀ i ∈ t.items, i.entity.1 ≠ 4) → u.dev.fw.deciding = none) ∧
          (u.dev.fw.deciding = none →
            (∀ t, waits t → taken u t ∨ open_ u t) ∧
            ((∃ t, waits t ∧ taken u t) → u.dev.fw.committed = nextTag s.dev.fw.committed ∧
              ∃ y ∈ u.dev.fw.batches, y.effect = e + 1 ∧ y.tag = u.dev.fw.committed ∧ y.cfg = u.dev.fw.live) ∧
            ((∀ t, waits t → open_ u t) → u.dev.fw.committed = s.dev.fw.committed ∧ u.dev.fw.live = s.dev.fw.live) ∧
            ∀ t t', waits t → waits t' → t.ticket < t'.ticket → itemsTouch t.items t'.items = true → taken u t → open_ u t') ∧
          ∀ t (z : Deciding) cfg, waits t → (∀ t', waits t' → t' = t ∨ t.ticket < t'.ticket) →
            z.epoch = e → z.cfg = s.dev.fw.live → z.items = [] → z.parts = [] → z.vref = s.dev.pw.vref →
            (s.boundaryFront x).dev.judge z t = .passes cfg [] → u.dev.fw.deciding = none → taken u t))

/-- After the swaps a scrub pass finds the protected words whose parity bit is not that of what they hold. A word that it found and that still fails is restored: counted, reported, logged and marked. A shadow that cannot be corrected declares SAFE under cause 1; a word that another port has rewritten is left as it is; an address at which no word fails changes nothing. In part the model's choice: log 175, 176 and 247. -/
def Obligations.ParityIsRepairedOrDeclared : Prop :=
  (∀ (d : Device) (l : List ParityIn) (x : ParityIn), x ∈ l → baseOf x.addr = 0x1100 ∨ baseOf x.addr = 0x2000 ∨ baseOf x.addr = 0x7000 →
    (parityOf x.live ≠ x.bit → (⟨x.addr, x.live, x.chan.map (·.val), x.point.map (·.val)⟩ : BadWord) ∈ (d.scrubParity l).regs.struck) ∧
    ∀ y ∈ (d.scrubParity l).regs.struck, ∃ z ∈ l, z.addr = y.addr ∧ z.live = y.live ∧ parityOf z.live ≠ z.bit) ∧
  (∀ (w : Word) (k : Nat), k < 32 → parityOf (w ^^^ (1#32 <<< k)) = !(parityOf w)) ∧
  (∀ (s : State) (addr : BitVec 24) (ch : Option (Fin 128)) (pt : Option (Fin 1024)) (still shadow : Bool),
    (s.dev.regs.struck.any fun x => x.addr == addr) = false → exec (.parityRepair addr ch pt still shadow) s = .next s) ∧
  ∀ (s : State) (addr : BitVec 24) (ch : Option (Fin 128)) (pt : Option (Fin 1024)) (x : BadWord), s.dev.clk.counting = true →
    s.dev.regs.struck = [x] → x.addr = addr → x.chan = ch.map (·.val) → x.point = pt.map (·.val) →
    (Completes (.parityRepair addr ch pt true false) s fun t =>
      DeviceOnly s t ∧ t.dev.regs = { s.dev.regs with struck := [] } ∧ t.dev.cnt = { s.dev.cnt with parityRepairs := s.dev.cnt.parityRepairs + 1#32 } ∧
      (t.dev.evt evParity).bits.getLsbD 0 = true ∧ t.dev.pw.declared = s.dev.pw.declared ∧ t.dev.nv.logNext = s.dev.nv.logNext + 1 ∧
      t.dev.marks = { s.dev.marks with parity := (s.dev.epoch, ch.map (·.val), pt.map (·.val)) :: s.dev.marks.parity }) ∧
    Gives (.parityRepair addr ch pt false false) s { s.dev with regs := { s.dev.regs with struck := [] } } ∧
    ∀ still, Completes (.parityRepair addr ch pt still true) s fun t =>
      DeviceOnly s t ∧ (t.dev.evt evParity).bits.getLsbD 1 = true ∧ t.dev.cnt = s.dev.cnt ∧
      (s.dev.pw.mode ≠ .boot → s.dev.pw.mode ≠ .safe → s.dev.pw.declared = none → t.dev.pw.declared = some 1)

/-! ### Clocks and time -/

/-- While a synthesizer acquires, each window counts ROOT against the base, the expected count 491,520·2^mult including the factor 1 + s: four windows in a row within ±2 counts lock it and lead to ALIGN with the mean word held; one above ±8 sends it to UNLOCKED, to retry 100 µs later or after a failed search 1 ms; one between starts the count afresh. The next window follows at once. Nothing but that synthesizer changes, but that a first failure of A in BOOT lets B begin its search. A window of a locked synthesizer within ±2 counts renews its held word, and one above that up to ±8 changes nothing; the next follows. One above ±8 is a loss of lock: a standby goes to UNLOCKED; the active one hands over to a READY standby, and else the device coasts on B. In a coast each window judges ROOT against the base: above 50 ppm SAFE is declared under cause 2. Without the base nothing is counted. In part the model's choice: log 12 and 220. -/
def Obligations.WindowsLockAndJudgeSynthesizers : Prop :=
  (∀ (s : State) (x : SynId) (first last : Nat) (word : BitVec 64),
     let y := s.dev.syn x
     let count := last - first
     y.state = .acquire → s.dev.clk.xoOk = true → s.dev.clk.reaches y.due = true →
     Completes (.countWindow x first last word) s fun t =>
       let err := ((count : Int) * 2 ^ 40 - 491520 * 2 ^ y.mult * (2 ^ 40 + s.dev.clk.steer)).natAbs
       let now := t.dev.clk.time
       let z := { y with due := Max.max y.due now + 491520 * 2 ^ y.mult }
       let first := decide (8 * 2 ^ 40 < err ∧ s.dev.pw.mode = .boot ∧ x = .A ∧ s.dev.clk.synB.state = .off)
       DeviceOnly s t ∧ { t.dev with clk := s.dev.clk } = s.dev ∧
       t.dev.syn (SynId.other x) = (if first then (s.dev.syn (SynId.other x)).enter now .search else s.dev.syn (SynId.other x)) ∧
       { t.dev.clk with synA := s.dev.clk.synA, synB := s.dev.clk.synB } = (s.dev.tickTo y.due).clk ∧
       (8 * 2 ^ 40 < err →
         t.dev.syn x = { y with state := .unlocked, good := 0, due := now + (if y.failed then 3000000 else 300000) }) ∧
       (2 * 2 ^ 40 < err → err ≤ 8 * 2 ^ 40 → t.dev.syn x = { z with good := 0 }) ∧
       (err ≤ 2 * 2 ^ 40 → y.good < 3 → t.dev.syn x = { z with good := y.good + 1, held := some word }) ∧
       (err ≤ 2 * 2 ^ 40 → 3 ≤ y.good → t.dev.syn x = { z with state := .align, good := 0, held := some word })) ∧
  (∀ (s : State) (x : SynId) (first last : Nat) (word : BitVec 64),
     let y := s.dev.syn x
     let err := (y.error s.dev.clk.steer (last - first)).natAbs
     let d := s.dev.tickTo y.due
     let next := Max.max y.due d.clk.time + y.window
     (s.dev.clk.xoOk = false → exec (.countWindow x first last word) s = .next s) ∧
     (s.dev.clk.xoOk = true → s.dev.clk.reaches y.due = true →
       (y.state = .align ∨ y.state = .ready ∨ y.state = .active →
         (err ≤ 2 * 2 ^ 40 → Gives (.countWindow x first last word) s (d.setSyn x fun z => { z with due := next, held := some word })) ∧
         (2 * 2 ^ 40 < err → err ≤ 8 * 2 ^ 40 → Gives (.countWindow x first last word) s (d.setSyn x fun z => { z with due := next }))) ∧
       (8 * 2 ^ 40 < err →
         (y.state = .align ∨ y.state = .ready → Completes (.countWindow x first last word) s fun t =>
           DeviceOnly s t ∧ (t.dev.evt evClk).bits.getLsbD (clkLost x) = true ∧ t.dev.syn (SynId.other x) = s.dev.syn (SynId.other x) ∧
           t.dev.syn x = { y with state := .unlocked, good := 0, lost := true, due := d.clk.time + (if y.failed then 3000000 else 300000) } ∧
           t.dev.clk.driver = s.dev.clk.driver ∧ t.dev.clk.coasting = s.dev.clk.coasting ∧ t.dev.fw = s.dev.fw ∧ t.dev.pw = s.dev.pw) ∧
         (y.state = .active → (s.dev.syn (SynId.other x)).state = .ready → Completes (.countWindow x first last word) s fun t =>
           DeviceOnly s t ∧ (t.dev.evt evClk).bits.getLsbD (clkLost x) = true ∧ (t.dev.evt evClk).bits.getLsbD (clkSwitch (SynId.other x)) = true ∧
           (t.dev.syn x).state = .unlocked ∧ (t.dev.syn (SynId.other x)).state = .active ∧ t.dev.clk.driver = SynId.other x ∧
           t.dev.cnt = { s.dev.cnt with synSwitches := s.dev.cnt.synSwitches + 1#32 } ∧ t.dev.fw = s.dev.fw ∧ t.dev.pw = s.dev.pw) ∧
         (y.state = .active → (s.dev.syn (SynId.other x)).state ≠ .ready → (s.dev.syn (SynId.other x)).state ≠ .active →
           s.dev.clk.synB.held.isSome = true → Completes (.countWindow x first last word) s fun t =>
             DeviceOnly s t ∧ (t.dev.evt evClk).bits.getLsbD clkBothLost = true ∧ t.dev.clk.coasting = true ∧ t.dev.clk.driver = .B ∧
             t.dev.clk.synB.state = .coast ∧ t.dev.clk.synA.state ≠ .active ∧ t.dev.cnt = s.dev.cnt ∧ t.dev.fw = s.dev.fw)) ∧
       (y.state = .coast → s.dev.pw.mode ≠ .boot → s.dev.pw.mode ≠ .safe → s.dev.pw.declared = none →
         let over_ := decide ((y.window : Int) * (2 ^ 40 + s.dev.clk.steer) < 20000 * err)
         Completes (.countWindow x first last word) s fun t =>
           DeviceOnly s t ∧ t.dev.pw.declared = (if over_ then some 2 else none) ∧
           t.dev.clk = { (d.setSyn x fun z => { z with due := next }).clk with coastBad := over_ })))

/-- The active synthesizer loses lock while the other is READY: the other drives ROOT from then on, the switch is counted and marked in its epoch, and LOCK_LOST and SWITCH are raised. The time counter keeps its place. The active synthesizer loses lock with the other not READY: BOTH_LOST is raised, and B coasts and drives ROOT; an A that is part-way to lock carries on; where B has never held a control word, SAFE is entered at once under cause 6. A standby that loses lock only waits to retry. The base's presence and its loss show in XO_OK. Without the base a synthesizer that was locked loses lock, and B coasts from then on; SAFE under cause 3 is declared, in a coast too, which cannot go on. In part the model's choice: log 93 and 246. -/
def Obligations.LossOfLockSwitchesOrCoasts : Prop :=
  (∀ (s : State) (x : SynId) (t : Nat), (s.dev.syn x).state = .active → (s.dev.syn (SynId.other x)).state = .ready →
     Completes (.lockLost x t) s fun u =>
       DeviceOnly s u ∧ (u.dev.syn x).state = .unlocked ∧ (u.dev.syn x).lost = true ∧ (u.dev.syn (SynId.other x)).state = .active ∧
       u.dev.clk.driver = (SynId.other x) ∧ u.dev.clk.coasting = s.dev.clk.coasting ∧
       u.dev.cnt = { s.dev.cnt with synSwitches := s.dev.cnt.synSwitches + 1#32 } ∧
       (u.dev.evt evClk).bits.getLsbD (clkLost x) = true ∧ (u.dev.evt evClk).bits.getLsbD (clkSwitch (SynId.other x)) = true ∧
       u.dev.marks.clksw = Max.max t s.dev.clk.time / Config.epochTicks :: s.dev.marks.clksw ∧
       u.dev.clk.time = (s.dev.tickTo t).clk.time ∧ u.dev.fw = s.dev.fw ∧ u.dev.pw = s.dev.pw) ∧
  (∀ (s : State) (x : SynId) (t : Nat),
     (s.dev.clk.driver = x → (s.dev.syn x).state = .active → (s.dev.syn (SynId.other x)).state ≠ .ready → (s.dev.syn (SynId.other x)).state ≠ .active →
       (s.dev.clk.synB.held.isSome = true → Completes (.lockLost x t) s fun u =>
         DeviceOnly s u ∧ u.dev.clk.coasting = true ∧ u.dev.clk.driver = .B ∧ u.dev.clk.synB.state = .coast ∧
         u.dev.clk.synA.state ≠ .active ∧ (u.dev.evt evClk).bits.getLsbD clkBothLost = true ∧
         (u.dev.evt evClk).bits.getLsbD (clkLost x) = true ∧ u.dev.cnt = s.dev.cnt ∧ u.dev.clk.time = (s.dev.tickTo t).clk.time ∧
         u.dev.clk.steer = s.dev.clk.steer ∧ u.dev.fw = s.dev.fw ∧
         (x = .B → s.dev.clk.change ≠ 1 → s.dev.clk.synA.state ≠ .off → u.dev.clk.synA = s.dev.clk.synA)) ∧
       (s.dev.clk.synB.held = none → s.dev.pw.mode ≠ .safe → s.dev.pw.declared = none → Completes (.lockLost x t) s fun u =>
         DeviceOnly s u ∧ u.dev.clk.coasting = true ∧ u.dev.pw.mode = .safe ∧ u.dev.pw.safeCause = 6 ∧
         (u.dev.evt evSys).bits.getLsbD sysSafe = true)) ∧
     ((s.dev.syn x).state = .ready ∨ (s.dev.syn x).state = .align → Completes (.lockLost x t) s fun u =>
       DeviceOnly s u ∧ u.dev.syn x = { s.dev.syn x with
         state := .unlocked, good := 0, lost := true, due := u.dev.clk.time + (if (s.dev.syn x).failed then 3000000 else 300000) } ∧
       u.dev.syn (SynId.other x) = s.dev.syn (SynId.other x) ∧ u.dev.clk.activeB = s.dev.clk.activeB ∧ u.dev.clk.coasting = s.dev.clk.coasting ∧
       (u.dev.evt evClk).bits.getLsbD (clkLost x) = true)) ∧
  (∀ s : State,
     (s.dev.pw.mode ≠ .reset → Gives .basePresent s { s.dev with clk := { s.dev.clk with xoOk := true } }) ∧
     (s.dev.clk.xoOk = true → Completes .xoAbsent s fun t =>
       DeviceOnly s t ∧ t.dev.clk.xoOk = false ∧ t.dev.clk.time = s.dev.clk.time ∧
       (s.dev.clk.synB.held.isSome = true → t.dev.fw = s.dev.fw) ∧
       ((s.dev.syn (s.dev.clk.driver)).state = .active → s.dev.clk.coasting = false →
         t.dev.clk.coasting = true ∧ t.dev.clk.activeB = true ∧ t.dev.clk.synB.state = .coast ∧
         (t.dev.evt evClk).bits.getLsbD 4 = true) ∧
       (s.dev.pw.mode ≠ .boot → s.dev.pw.mode ≠ .safe → s.dev.pw.declared = none →
         (s.dev.clk.coasting = true ∧ s.dev.clk.synA.state ≠ .active) ∨
         (s.dev.clk.coasting = false ∧ (s.dev.syn s.dev.clk.driver).state = .active ∧ s.dev.clk.synB.held.isSome = true) →
         t.dev.pw.declared = some 3)))

/-- A band search ends 25 µs after it began. Its five trial counts choose the band; the band's own count, against 24,000·(1 + s), leads to ACQUIRE when it is within 0.5 %, with the first window 50 µs later, and else to UNLOCKED with its event, to retry after 1 ms. The retry leads back to SEARCH. A synthesizer that is aligned becomes READY and reports a regained lock. The first in BOOT becomes ACTIVE, and device time starts at 0; B begins to search once A is there or has failed; in a coast A takes over from B, which goes back to SEARCH, and the offset of a reference that is present is treated as that of a returning one. In a change of the reference path the standby that is READY at the new setting takes over by a planned switch and the former active one goes to search at it; READY there ends the change, and REF_MULT shows the new setting. In part the model's choice: log 12 and 219. -/
def Obligations.SynthesizersSearchAndBecomeReady : Prop :=
  (∀ (s : State) (x : SynId) (steps : List Nat) (count : Nat),
     let y := s.dev.syn x
     let d := s.dev.tickTo y.due
     s.dev.clk.reaches y.due = true →
     (y.state = .search → Completes (.bandSearchEnd x ⟨steps, count⟩) s fun t =>
       let b := searchBand s.dev.clk.steer steps
       let bad := 24000 * (2 ^ 40 + s.dev.clk.steer) < 200 * (((count : Int) * 2 ^ 40 - 24000 * (2 ^ 40 + s.dev.clk.steer)).natAbs : Int)
       let first := s.dev.pw.mode = .boot ∧ x = .A ∧ s.dev.clk.synB.state = .off
       DeviceOnly s t ∧ b < 32 ∧ (¬(bad ∧ first) → t.dev.syn (SynId.other x) = s.dev.syn (SynId.other x)) ∧
       (bad → first → t.dev.clk.synB = s.dev.clk.synB.enter d.clk.time .search) ∧
       (¬bad → t.dev.syn x = { y with band := b, state := .acquire, good := 0, due := d.clk.time + 150000 + y.window } ∧ t.dev.evts = s.dev.evts) ∧
       (bad → t.dev.syn x = { y with band := b, state := .unlocked, good := 0, failed := true, due := d.clk.time + 3000000 } ∧
         (t.dev.evt evClk).bits.getLsbD clkSearchFail = true)) ∧
     (y.state = .unlocked → Gives (.synthesizerRetry x) s
       (d.setSyn x fun y => { y with state := .search, good := 0, failed := false, due := d.clk.time + 75000 }))) ∧
  (∀ (s : State) (x : SynId) (t : Nat), (s.dev.syn x).state = .align →
     (s.dev.clk.counting = false → Completes (.synthesizerReady x t) s fun u =>
       DeviceOnly s u ∧ u.dev.clk.counting = true ∧ u.dev.clk.time = 0 ∧ (u.dev.syn x).state = .active ∧ u.dev.clk.driver = x ∧
       (s.dev.pw.mode = .boot → x = .A → s.dev.clk.synB.state = .off → u.dev.clk.synB.state = .search)) ∧
     (s.dev.clk.counting = true → s.dev.clk.coasting = false → s.dev.clk.change ≠ 1 → s.dev.clk.change ≠ 2 →
       Completes (.synthesizerReady x t) s fun u =>
         DeviceOnly s u ∧ u.dev.syn x = { s.dev.syn x with state := .ready, good := 0, lost := false, failed := false } ∧
         u.dev.syn (SynId.other x) = s.dev.syn (SynId.other x) ∧ u.dev.clk.activeB = s.dev.clk.activeB ∧
         ((s.dev.syn x).lost = true → (u.dev.evt evClk).bits.getLsbD (clkRegained x) = true) ∧
         ((s.dev.syn x).lost = false → u.dev.evts = s.dev.evts)) ∧
     (s.dev.clk.counting = true → s.dev.clk.coasting = true → x = .A → Completes (.synthesizerReady x t) s fun u =>
       DeviceOnly s u ∧ u.dev.clk.coasting = false ∧ u.dev.clk.driver = .A ∧ u.dev.clk.synA.state = .active ∧
       u.dev.clk.synB.state = .search ∧ (u.dev.evt evClk).bits.getLsbD clkCoastEnded = true ∧
       u.dev.cnt.synSwitches = s.dev.cnt.synSwitches + 1#32 ∧
       (s.dev.clk.refPresent = true → s.dev.clk.under = .holdover ∨ s.dev.clk.under = .held →
         (s.dev.clk.offset.natAbs ≤ 192 → u.dev.clk.under = .locked) ∧
         (192 < s.dev.clk.offset.natAbs → s.dev.clk.policy = 2 → u.dev.clk.under = .held) ∧
         (64 * s.dev.clk.jumpThresh < s.dev.clk.offset.natAbs → (u.dev.evt evClk).bits.getLsbD clkJump = true))) ∧
     (s.dev.clk.counting = true → s.dev.clk.coasting = false → s.dev.clk.change = 1 → Completes (.synthesizerReady x t) s fun u =>
       DeviceOnly s u ∧ u.dev.clk.driver = x ∧ (u.dev.syn x).state = .active ∧ (u.dev.syn x).mult = (s.dev.syn x).mult ∧
       (u.dev.syn (SynId.other x)).state = .search ∧ (u.dev.syn (SynId.other x)).mult = s.dev.clk.changeTo ∧
       u.dev.clk.change = 2 ∧ u.dev.clk.refMult = s.dev.clk.refMult ∧ (u.dev.evt evClk).bits.getLsbD (clkSwitch x) = true ∧
       u.dev.cnt = { s.dev.cnt with synSwitches := s.dev.cnt.synSwitches + 1#32 } ∧ u.dev.clk.time = (s.dev.tickTo t).clk.time) ∧
     (s.dev.clk.counting = true → s.dev.clk.coasting = false → s.dev.clk.change = 2 → Completes (.synthesizerReady x t) s fun u =>
       DeviceOnly s u ∧ u.dev.syn x = { s.dev.syn x with state := .ready, good := 0, lost := false, failed := false } ∧
       u.dev.clk.change = 0 ∧ u.dev.clk.refMult = s.dev.clk.changeTo ∧ u.dev.clk.driver = s.dev.clk.driver ∧
       u.dev.syn (SynId.other x) = s.dev.syn (SynId.other x) ∧ u.dev.cnt = s.dev.cnt))

/-- An edge of the selected reference, one that is expected of a present PPS, measures the offset from its target, reduced into half a period. In LOCKED, SLEWING and AWAIT_STEP the loop takes its word within ±100 ppm; in HELD and in HOLDOVER, while the reference is present, only the offset is measured. In ACQUIRING the edge that meets the return criterion captures the target and leads to LOCKED, but for PPS once TAI is set: that, and the edge that meets the criterion in HOLDOVER or HELD, is a return. It raises REF_RETURNED, and PHASE_JUMP above JUMP_THRESH, and leads to LOCKED within 3 ticks and else to what the policy says, outside a coast. An edge of the other input moves neither. A selected reference that meets its loss criterion is absent from then on. From LOCKED, SLEWING or AWAIT_STEP this leads to HOLDOVER with REF_LOST and HOLDOVER raised: the steering stays, a slew is dropped, and a scheduled step is cancelled; in another state the discipline stays. In part the model's choice: log 89, 90, 91, 92 and 221. -/
def Obligations.ReferencesSteerAndAreLost : Prop :=
  (∀ (s : State) (pps : Bool) (t64 : Nat) (steer : Int), s.dev.clk.counting = true →
     let c := s.dev.clk
     let selected := (pps = true ∧ c.source = 2) ∨ (pps = false ∧ c.source = 1)
     let back := ({ c with ppsEdges := if pps then (c.ppsEdges ++ [t64]).drop (c.ppsEdges.length - 2) else c.ppsEdges }).returned
     let measured (u : State) : Prop := DeviceOnly s u ∧ u.dev.clk.disc = c.disc ∧ u.dev.clk.resume = c.resume ∧
       -(c.refPeriod) < 2 * u.dev.clk.offset ∧ 2 * u.dev.clk.offset ≤ c.refPeriod ∧
       c.refPeriod ∣ (t64 : Int) - c.refTarget - u.dev.clk.offset ∧ u.dev.clk.lastEdge = t64 ∧ u.dev.evts = s.dev.evts ∧ u.dev.fw = s.dev.fw
     (selected → c.expects t64 = true →
       (c.under = .locked ∨ c.under = .slewing ∨ c.under = .awaitStep → Completes (.referenceEdge pps t64 steer) s fun u =>
         measured u ∧ -109951162 ≤ u.dev.clk.steer ∧ u.dev.clk.steer ≤ 109951162 ∧
         (-109951162 ≤ steer → steer ≤ 109951162 → u.dev.clk.steer = steer)) ∧
       (c.under = .acquiring → back = false ∨ c.coasting = true → Completes (.referenceEdge pps t64 steer) s fun u =>
         DeviceOnly s u ∧ u.dev.clk.under = .acquiring ∧ u.dev.clk.refPresent = c.refPresent ∧ u.dev.clk.steer = c.steer ∧ u.dev.evts = s.dev.evts) ∧
       (c.under = .acquiring → back = true → c.coasting = false → (c.source = 2 → c.taiSet = false) → Completes (.referenceEdge pps t64 steer) s fun u =>
         DeviceOnly s u ∧ u.dev.clk.under = .locked ∧ u.dev.clk.refPresent = true ∧ u.dev.clk.offset = 0 ∧
         u.dev.clk.target = some ((t64 : Int) % c.refPeriod).toNat ∧ u.dev.clk.steer = c.steer ∧ u.dev.evts = s.dev.evts) ∧
       ((c.under = .acquiring ∧ c.source = 2 ∧ c.taiSet = true ∧ c.coasting = false) ∨ ((c.under = .holdover ∨ c.under = .held) ∧ c.refPresent = false) →
         back = true → Completes (.referenceEdge pps t64 steer) s fun u =>
         let x := c.edgeOffset t64
         DeviceOnly s u ∧ u.dev.clk.refPresent = true ∧ u.dev.clk.offset = x ∧ u.dev.clk.steer = c.steer ∧
         (u.dev.evt evClk).bits.getLsbD clkReturned = true ∧
         (64 * c.jumpThresh < x.natAbs → (u.dev.evt evClk).bits.getLsbD clkJump = true) ∧
         (c.coasting = true → u.dev.clk.under = c.under) ∧
         (c.coasting = false → x.natAbs ≤ 192 → u.dev.clk.under = .locked) ∧
         (c.coasting = false → 192 < x.natAbs →
           u.dev.clk.under = (if c.policy = 1 then Disc.awaitStep else if c.policy = 2 then .held else .slewing))) ∧
       ((c.under = .held ∨ c.under = .holdover) ∧ c.refPresent = true → Completes (.referenceEdge pps t64 steer) s fun u =>
         measured u ∧ u.dev.clk.steer = c.steer)) ∧
     (¬selected ∨ c.expects t64 = false → Completes (.referenceEdge pps t64 steer) s fun u =>
       DeviceOnly s u ∧ u.dev.clk.offset = c.offset ∧ u.dev.clk.steer = c.steer ∧ u.dev.clk.disc = c.disc ∧
       u.dev.clk.lastEdge = c.lastEdge ∧ u.dev.evts = s.dev.evts ∧ u.dev.fw = s.dev.fw)) ∧
  (∀ s : State,
     let c := s.dev.clk
     let t := c.lossAt
     let same (u : State) : Prop := DeviceOnly s u ∧ u.dev.clk.refPresent = false ∧ u.dev.clk.goodEpochs = 0 ∧ u.dev.clk.steer = c.steer ∧
       u.dev.clk.time = (s.dev.tickTo t).clk.time ∧ u.dev.fw = s.dev.fw ∧ u.dev.regs = s.dev.regs ∧ u.dev.chans = s.dev.chans
     ((s.dev.tickTo t).refGone = false → exec .referenceLost s = .next s) ∧ ((s.dev.tickTo t).refGone = true →
     (c.refPresent = false → Completes .referenceLost s fun u => same u ∧ u.dev.clk.under = c.under ∧ u.dev.evts = s.dev.evts) ∧
     (c.refPresent = true → Completes .referenceLost s fun u =>
       same u ∧ (u.dev.evt evClk).bits.getLsbD clkRefLost = true ∧
       (c.under = .locked ∨ c.under = .slewing ∨ c.under = .awaitStep →
         u.dev.clk.under = .holdover ∧ u.dev.clk.due = c.due.filter (fun x => x.kind != 0) ∧
         (u.dev.evt evClk).bits.getLsbD clkHoldover = true) ∧
       (c.under = .free ∨ c.under = .acquiring ∨ c.under = .holdover ∨ c.under = .held →
         u.dev.clk.under = c.under ∧ u.dev.clk.due = c.due))))

/-- Device time steps by the difference rounded to a multiple of 48 ticks, so that at most 24 ticks are left; the count is one of 64 bits. What is left is slewed, and DISC shows SLEWING meanwhile. The step is counted, reported and raised, and a `time.set` binds time to TAI. Slewing ends when |offset| has come to 3 ticks at the slew rate, or a step's remainder to nothing: SLEW_DONE is raised, and the discipline goes to LOCKED, or back to the state it held before a step's remainder was slewed; an offset that waited behind the remainder is slewed next. An AT_PPS `time.set` that no edge answered within 2 s is forgotten: device time, TAI and every other pending step stay. In part the model's choice: log 95, 101, 103, 209, 222 and 245. -/
def Obligations.DeviceTimeStepsAndSlews : Prop :=
  (∀ (s : State) (x : StepDue), s.dev.clk.counting = true → s.dev.nextStep = some x →
     Completes .timeStep s fun t => ∃ delta : Int,
       DeviceOnly s t ∧ 48 ∣ delta ∧ (64 * delta - x.size s.dev.clk).natAbs ≤ 1536 ∧
       (t.dev.clk.time : Int) = (((Max.max s.dev.clk.time x.at_ : Nat) : Int) + delta) % 2 ^ 64 ∧ t.dev.clk.stepS = Max.max s.dev.clk.time x.at_ ∧
       t.dev.clk.stepD = delta ∧ t.dev.clk.stepCount = s.dev.clk.stepCount + 1 ∧ (t.dev.evt evClk).bits.getLsbD clkStepDone = true ∧
       (64 * delta ≠ x.size s.dev.clk → t.dev.clk.disc = .slewing ∧
         (s.dev.clk.disc ≠ .slewing → t.dev.clk.remain = 64 * delta - x.size s.dev.clk)) ∧
       (x.kind = 1 ∨ x.kind = 5 → t.dev.clk.taiSet = true ∧ (t.dev.evt evClk).bits.getLsbD clkTimeSet = true) ∧
       t.dev.fw.eff = s.dev.fw.eff ∧ t.dev.fw.effective = s.dev.fw.effective ∧ t.dev.regs = s.dev.regs) ∧
  (∀ s : State, s.dev.clk.disc = .slewing → s.dev.clk.reaches s.dev.clk.slewEnd = true → Completes .slewDone s fun t =>
     DeviceOnly s t ∧
     (let c := (s.dev.tickTo s.dev.clk.slewEnd).clk
      t.dev.clk = { c with remain := if c.resume = some .slewing then c.later else 0, slewAt := c.time, rate := c.slewRate,
                           later := 0, resume := none, disc := c.resume.getD .locked }) ∧
     (t.dev.evt evClk).bits.getLsbD clkSlewDone = true ∧ t.dev.fw = s.dev.fw ∧ t.dev.regs = s.dev.regs) ∧
  (∀ (s : State) (x : StepDue), s.dev.clk.due.find? (fun y => y.kind == 2) = some x →
     let end_ := x.at_ + 2 * Config.secondTicks
     (s.dev.clk.reaches end_ = false → exec .timeSetTimeout s = .next s) ∧ (s.dev.clk.reaches end_ = true → Completes .timeSetTimeout s fun t =>
     DeviceOnly s t ∧ t.dev.clk = { (s.dev.tickTo end_).clk with due := s.dev.clk.due.erase x } ∧ t.dev.evts = s.dev.evts ∧ t.dev.fw.eff = s.dev.fw.eff ∧
     (∀ w, x.waiter = some w → ∀ y, s.dev.session? w.session = some y → y.serial = w.serial → y.transport = 0 → ∃ z, t.dev.session? w.session = some z ∧
       ∃ c, z.queue = y.queue ++ [c] ∧ c.status = stDenied ∧ c.tag = w.tag ∧ c.payload = [])))

/-! ### The channel front end and the combiner -/

/-- A crossfade moves the weight along its fixed grid, in 1/32: from the low side 1, 3, …, 31 and then 32; toward the high path the same in reverse; one that reverses part-way goes on from where it stands in steps of 2. It takes 16 samples. -/
def Obligations.CrossfadesFollowTheGrid : Prop :=
  (∀ k, k ≤ 15 → forNat (k + 1) (fun _ => fadeStep .high) 0 = 2 * k + 1 ∧ forNat (k + 1) (fun _ => fadeStep .low) 32 = 31 - 2 * k) ∧
  forNat 17 (fun _ => fadeStep .high) 0 = 32 ∧ forNat 17 (fun _ => fadeStep .low) 32 = 0 ∧
  (∀ w, w % 2 = 1 → w < 31 → fadeStep .high w = w + 2) ∧ (∀ w, w % 2 = 1 → 1 < w → w < 32 → fadeStep .low w = w - 2) ∧
  fadeStep .high 31 = 32 ∧ fadeStep .low 1 = 0 ∧ 16 * 48 = 768

/-- The machine of AUTO, sample by sample, while the high path is usable: in HIGH an at-risk instant in the sample's span begins TO_LOW with 1/32; TO_LOW rises by 2/32 to LOW; LOW counts clean samples, and once they are 64 leaves for TO_HIGH, with 31/32, unless at risk; TO_HIGH falls to HIGH, or turns back where it stands. The span of a sample at t reaches from t − 768 to the look-ahead's end, t + 1,152; its clean window is that of its high-path filter. -/
def Obligations.AutoFollowsItsStates : Prop :=
  (∀ (c : ChanRun) (t : Nat),
    (c.leaving t = none → c.weigh 0 t true = c.auto (c.atRisk t) (!(c.busyAt t))) ∧
    (c.atRisk t = true ↔ ∃ r ∈ c.risks, t ≤ r + 768 ∧ r ≤ t + 1152) ∧ (c.busyAt t = true ↔ ∃ r ∈ c.busys, t ≤ r + 768 ∧ r ≤ t + 768)) ∧
  ∀ (c : ChanRun) (risk clean : Bool),
    let o := c.auto risk clean
    let r := o.run
    (c.comb = .high → risk = false → r.w = 0 ∧ r.comb = .high ∧ o.toLow = false) ∧
    (c.comb = .high → risk = true → r.w = 1 ∧ r.comb = .toLow ∧ o.toLow = true) ∧
    (c.comb = .toLow → c.w % 2 = 1 → c.w < 31 → r.w = c.w + 2 ∧ r.comb = .toLow) ∧
    (c.comb = .toLow → c.w = 31 → r.w = 32 ∧ r.comb = .low ∧ r.clean = 0) ∧
    (c.comb = .low → (c.clean < 64 ∨ risk = true) → r.w = 32 ∧ r.comb = .low ∧ r.clean = (if clean then c.clean + 1 else 0)) ∧
    (c.comb = .low → 64 ≤ c.clean → risk = false → r.w = 31 ∧ r.comb = .toHigh) ∧
    (c.comb = .toHigh → risk = false → c.w % 2 = 1 →
      (1 < c.w → c.w < 32 → r.w = c.w - 2 ∧ r.comb = .toHigh) ∧ (c.w = 1 → r.w = 0 ∧ r.comb = .high ∧ o.arrived = true)) ∧
    (c.comb = .toHigh → risk = true → c.w % 2 = 1 → o.toLow = true ∧
      (c.w < 31 → r.w = c.w + 2 ∧ r.comb = .toLow) ∧ (c.w = 31 → r.w = 32 ∧ r.comb = .low ∧ r.clean = 0))

/-- A guard cut: in AUTO, an unusable high path leaves w = 1 and LOW on every sample; where the state of R100 gave the sample less, it is cut, and the count of clean samples starts again. In part the model's choice: log 197. -/
def Obligations.UnusableHighPathForcesLow : Prop :=
  ∀ (c : ChanRun) (t : Nat), c.leaving t = none →
    let o := c.weigh 0 t false
    o.run.w = 32 ∧ o.run.comb = .low ∧ (o.cut = true ↔ (c.auto (c.atRisk t) false).run.w < 32) ∧ (o.cut = true → o.run.clean = 0) ∧
    (c.comb = .high → o.cut = true) ∧ (c.comb = .low → c.clean < 64 → o.cut = false ∧ o.run.clean = 0)

/-- The tag and the weight a sample finally uses: that of the state when every permitted path with weight is usable, else the usable path's, and CLIP when no permitted path is usable. -/
def Obligations.TagFollowsTheUsablePaths : Prop :=
  ∀ w : Nat, w ≤ 32 →
    (∀ high low, (w ≠ 32 → high = true) → (w ≠ 0 → low = true) →
      decideTag true true high low w = (w, if w = 0 then tagHigh else if w = 32 then tagLow else tagCross)) ∧
    (w ≠ 32 → decideTag true true false true w = (32, tagLow)) ∧ (w ≠ 0 → decideTag true true true false w = (0, tagHigh)) ∧
    (∀ ph pl high low, (ph && high) = false → (pl && low) = false → (decideTag ph pl high low w).2 = tagClip) ∧
    decideTag true false true false 0 = (0, tagHigh) ∧ decideTag false true false true 32 = (32, tagLow)

/-- The next wideband sample of a channel, once its look-ahead has come in: both paths are judged, delayed, scaled and weighed by the combiner, whose weight, state and count of clean samples move on; the sample is the stream's latest and stands for its points. Registers, configuration and mode stay. In part the model's choice: log 193, 194, 195, 196, 197 and 208. -/
def Obligations.WidebandSampleMovesTheCombiner : Prop :=
  ∀ (s : State) (x : WideIn),
    let n := x.ch.val
    let t := (s.dev.chan n).wideNext
    twf ChanRun.init s.dev.chans = true → (s.dev.chan n).wideDue x = true →
    Completes (.widebandSample x) s fun u =>
      let c := (((s.dev.tickTo (t + wideDelay)).forceGain n t).chan n).intake t x.raws
      let y := c.combine ((s.dev.cfgAt t).chan n) x.sat t
      let v := u.dev.chan n
      DeviceOnly s u ∧ v.wlast = t ∧ v.w = y.out.run.w ∧ v.comb = y.out.run.comb ∧ v.clean = y.out.run.clean ∧
      v.look = c.look.tail ∧ v.wides = ⟨t, y.wide.value, y.wide.weight, y.wide.tag == tagClip⟩ :: c.wides ∧
      (∀ k, k ≠ n → u.dev.chan k = s.dev.chan k) ∧ u.dev.points = s.dev.points ∧ u.dev.fw = s.dev.fw ∧ u.dev.regs = s.dev.regs ∧ u.dev.pw = s.dev.pw

/-- While a channel's modulators convert, an overload shows on its path and is counted, from the instant at which the input passed 1.05 times full scale; its recovery ends it, and the path is usable again 1,536 ticks later. At both the channel's overload condition is looked at again. Nothing but that channel changes. A guard driver's current limit holds from its onset to its release, for its group alone, and the overload conditions of the group's channels are looked at again. In part the model's choice: log 199. -/
def Obligations.OverloadsAndGuardLimitsShow : Prop :=
  (∀ (s : State) (ch : Fin 128) (t : Nat),
     let n := ch.val
     let c := s.dev.chan n
     let at_ (f : ChanRun → ChanRun) : Device := ((s.dev.tickTo t).setChan n f).watch n t
     (c.released = true → c.ovlLow = false → Gives (.modulatorOverload ch .low t) s
       (at_ fun c => { c with ovlLow := true, ovlCount := c.ovlCount + 1#32, spanLow := c.spanLow ++ [⟨t, none⟩] })) ∧
     (c.released = true → c.ovlHigh = false → Gives (.modulatorOverload ch .high t) s
       (at_ fun c => { c with ovlHigh := true, ovlCount := c.ovlCount + 1#32, spanHigh := c.spanHigh ++ [⟨t, none⟩] })) ∧
     (c.ovlLow = true → Gives (.modulatorRecovered ch .low t) s (at_ fun c => { c with ovlLow := false, spanLow := endSpan t c.spanLow })) ∧
     (c.ovlHigh = true → Gives (.modulatorRecovered ch .high t) s (at_ fun c => { c with ovlHigh := false, spanHigh := endSpan t c.spanHigh })) ∧
     (∀ a l, (⟨a, some (t + 1536)⟩ : OvlSpan) ∈ endSpan t (l ++ [⟨a, none⟩])) ∧ (∀ l, ∀ o ∈ endSpan t l, o.to_.isSome = true) ∧
     ∀ d : Device, twf ChanRun.init d.chans = true → ((d.watch n t).chan n).ovlCond = d.overloaded n ∧
       ∀ k, k ≠ n → (d.watch n t).chan k = d.chan k) ∧
  (∀ (s : State) (g : Fin 32) (t : Nat),
     let at_ (on : Bool) : Device := ((s.dev.tickTo t).setGroup g.val fun x => { x with limit := on }).watchAll (groupChans g.val) t
     (s.dev.pw.mode = .run ∨ s.dev.pw.mode = .calibrate → Gives (.guardCurrentLimit g t) s (at_ true)) ∧
     Gives (.guardCurrentLimitReleased g t) s (at_ false))

/-- The start sequence, counted from tick 0: the background gain starts at 1 and the class at UNCHECKED; at 3,000 the switches toward the input or the calibration bus are closed; at 15,000 the modulators are released with the estimator seeded from the factory table and the combiner in HIGH, or LOW where forced; at 315,000 a Q-mode servo turns slow. The ends of ramps: a point stands at full amplitude at the end of its ramp with its monitored envelopes; restarting points ramp up at theirs, and the pins' roles follow the cycle count there. 30,000 ticks after its boundary a ramp-down ends in a new start sequence or opens the converters, and 3,000 later the pins are disabled. In part the model's choice: log 173. -/
def Obligations.StartsAndRampsKeepTheirTicks : Prop :=
  (∀ (s : State) (ch : Fin 128),
     let c := s.dev.chan ch.val
     let at_ (t : Nat) (f : ChanRun → ChanRun) : Device := (s.dev.tickTo t).setChan ch.val f
     (c.phase = .starting → c.isoClosed = false → c.calClosed = false → Gives (.isolationSwitchesClosed ch (c.tick0 + 3000)) s
       (at_ (c.tick0 + 3000) fun y => { y with isoClosed := !y.calBus, calClosed := y.calBus })) ∧
     (c.phase = .starting → c.joined = true → twf ChanRun.init s.dev.chans = true →
       Completes (.modulatorRelease ch (c.tick0 + 15000)) s fun u =>
         let v := u.dev.chan ch.val
         let g := s.dev.fw.eff.chan ch.val
         let rho := Factory.rho s.dev.factory ch.val g.gl g.gh (s.dev.tileTemp ch.val)
         let delta := Factory.delta s.dev.factory ch.val g.gl g.gh (s.dev.tileTemp ch.val)
         DeviceOnly s u ∧ v.phase = .running ∧ v.released = true ∧ v.est = .seeded ∧
         v.rho = rho ∧ v.delta = delta ∧ v.gamma = c.gamma ∧ v.appliedAt (c.tick0 + 15000) = ⟨c.tick0 + 15000, rho, delta, c.gamma⟩ ∧
         (g.range = 2 → v.comb = .low ∧ v.w = 32) ∧ (g.range ≠ 2 → v.comb = .high ∧ v.w = 0) ∧
         (∀ n, n ≠ ch.val → u.dev.chan n = s.dev.chan n) ∧ { u.dev with chans := s.dev.chans, clk := s.dev.clk } = s.dev) ∧
     (c.phase = .running → (s.dev.fw.eff.chan ch.val).mode = 1 → c.servoSlow = false → Gives (.qServoSettle ch (c.tick0 + 315000)) s
       (at_ (c.tick0 + 315000) fun y => { y with servoSlow := true })) ∧
     ∀ b tick0 settle nswap phase, (c.begin b tick0 settle phase nswap).gamma = F64.one ∧ (c.begin b tick0 settle phase nswap).cls = 0) ∧
  (∀ (s : State) (ch : Fin 128) (p : Fin 1024) (env : List (ChPin × F32)) (t : Nat),
     let c := s.dev.chan ch.val
     let at_ (t : Nat) (f : ChanRun → ChanRun) : Device := (s.dev.tickTo t).setChan ch.val f
     let seen (t : Nat) (f : ChanRun → ChanRun) : Device := (at_ t f).watch ch.val t
     ((s.dev.pt p.val).full = false → (s.dev.pt p.val).phase2 = false → (s.dev.pt p.val).on = true →
       (s.dev.chan (p.val / 8)).released = true → (s.dev.chan (p.val / 8)).calBus = false →
       Gives (.excitationRampEnd p (s.dev.pt p.val).rampEnd env) s ((s.dev.tickTo (s.dev.pt p.val).rampEnd).setPt p.val fun y =>
         { y with full := true, e0 := env.filter fun (x, e) => s.dev.monitored p.val x e })) ∧
     (let ps := (s.dev.fw.eff.pointsOf ch.val).filter fun q => (s.dev.pt q).phase2 && (s.dev.pt q).rampFrom == t
      ps ≠ [] → Gives (.pointRampUp ch t) s
        ((forList ps (fun q d => d.setPt q fun y => { y with phase2 := false }) (s.dev.tickTo t)).setSwap ch.val t)) ∧
     (c.phase = .rampRestart → Gives (.rampDownEnd ch (c.from_ + 30000)) s (seen (c.from_ + 30000) fun y =>
       { y with phase := .starting, isoClosed := false, calClosed := false, released := false, ovlLow := false, ovlHigh := false })) ∧
     (c.phase = .rampOff → Gives (.rampDownEnd ch (c.from_ + 30000)) s (seen (c.from_ + 30000) fun y =>
       { y with released := false, ovlLow := false, ovlHigh := false })) ∧
     (c.phase = .rampOff → c.released = false → Gives (.disablePinsReleased ch (c.from_ + 33000)) s (at_ (c.from_ + 33000) fun y =>
       { y with phase := .stopped, isoClosed := false, calClosed := false, servoSlow := false })))

/-- A single-path gain change at B: at B + 2,304 the gain switches, and the estimator goes on from the new pair's factory values with the difference carried over; from B + 18,840 on, once the re-acquisition has settled, and at B + 3,018,840 in any case, the path returns with GAIN_READY raised once an epoch, the combiner as it stood. Current swapping hands the roles over at a wrap whose count is a multiple of Nswap. In part the model's choice: log 198. -/
def Obligations.GainChangesAndCurrentSwaps : Prop :=
  ∀ (s : State) (ch : Fin 128) (x : PathId) (b t cycle : Nat) (found : Option (F64 × F64)) (settled : Bool), twf ChanRun.init s.dev.chans = true →
    let n := ch.val
    let c := s.dev.chan n
    let only (u : State) : Prop := DeviceOnly s u ∧ (∀ k, k ≠ n → u.dev.chan k = s.dev.chan k) ∧
      { u.dev with chans := s.dev.chans, clk := s.dev.clk, evts := s.dev.evts } = s.dev
    (c.outPath = some (x, b) → c.switched = false → Completes (.gainSwitch ch (b + 2304)) s fun u =>
      let v := u.dev.chan n
      let g := s.dev.fw.eff.chan n
      let f := s.dev.factory
      let temp := s.dev.tileTemp n
      only u ∧ v.switched = true ∧ v.ratioGl = g.gl ∧ v.ratioGh = g.gh ∧ v.outPath = c.outPath ∧ v.comb = c.comb ∧ v.w = c.w ∧
      v.rho = F64.add (Factory.rho f n g.gl g.gh temp) (F64.sub c.rho (Factory.rho f n c.ratioGl c.ratioGh temp)) ∧
      v.delta = F64.add (Factory.delta f n g.gl g.gh temp) (F64.sub c.delta (Factory.delta f n c.ratioGl c.ratioGh temp))) ∧
    (c.outPath = some (x, b) → c.switched = true → b + 18840 ≤ t → t ≤ b + 3018840 → (settled = true ∨ t = b + 3018840) →
      Completes (.gainReady ch t found settled) s fun u =>
        let v := u.dev.chan n
        only u ∧ v.outPath = none ∧ (v.rho, v.delta) = found.getD (c.rho, c.delta) ∧ v.est = .tracking ∧ v.comb = c.comb ∧ v.w = c.w ∧
        v.clean = c.clean ∧ v.outages = endOutages t c.outages ∧
        ((s.dev.evt evRange).epoch.getLsbD 2 = false → (u.dev.evt evRange).bits.getLsbD 2 = true) ∧
        ((s.dev.evt evRange).epoch.getLsbD 2 = true → u.dev.evts = s.dev.evts)) ∧
    ((s.dev.fw.eff.chan n).swaps = true → c.released = true → s.dev.swapDue n cycle = some t →
      Completes (.currentSwap ch cycle) s fun u => only u ∧ u.dev.evts = s.dev.evts ∧
        ∃ p o, s.dev.cycleAt n t = some (p, o) ∧
          u.dev.chan n = { c with swap := o.cycle t / s.dev.nswapAt n t % 2, swapLast := t })

/-! ### Samples, carts, the Granary, the Mill -/

/-- A point sample in its turn, once the wideband samples of its window have come: its words are the demodulated value, mixed with the accumulator's phase and filtered, after the owner correction as Q31 and the linearised E; its CLIP and LPF flags are those of the window's samples. Every other point, the channels, the firmware's state and the registers stay. In part the model's choice: log 186, 188, 189, 190 and 192. -/
def Obligations.PointSamplesGiveTheirWords : Prop :=
  ∀ (s : State) (x : PointIn), s.dev.pointDue x.p.val x.t = true → twf PointRun.init s.dev.points = true →
    let c := s.dev.cfgAt x.t
    let dm := s.dev.demodAt x.p.val x.t
    let z := ownerApply (tfind (s.dev.pastAt x.t).owner x.p.val) c x.p.val dm.z
    Completes (.pointSampleReady x) s fun u =>
      let y := u.dev.pt x.p.val
      DeviceOnly s u ∧ y.last = x.t ∧ y.lastI = wordQ31 z.re ∧ y.lastQ = wordQ31 z.im ∧
      y.lastE = (s.dev.linearise c x.p.val (wordQ31 z.re) (wordQ31 z.im) x.t).1 ∧
      y.lastFlags.getLsbD fClip = dm.clip ∧ y.lastFlags.getLsbD fLow = (lpfOf dm.lp dm.n != 0) ∧
      (∀ p, p ≠ x.p.val → u.dev.pt p = s.dev.pt p) ∧ u.dev.chans = s.dev.chans ∧ u.dev.fw = s.dev.fw ∧
      u.dev.regs = s.dev.regs ∧ u.dev.pw = s.dev.pw ∧ u.dev.nv = s.dev.nv

/-- An open cart closes FILL_TO ticks after its first element is ready: it takes its SEQUENCE and waits at the data port with its delivery bound; in SAFE only an EVENT cart is formed. The data port sends the ready cart of the least bound, as words on the stripe, else a FILL cart; a copy for the CART_FIFO is delivered at its close. Errors that readouts find are corrected or reported. Registers, configuration and mode stay. In part the model's choice: log 47 and 181. -/
def Obligations.CartsCloseAndLeave : Prop :=
  ∀ (s : State) (stream t : Nat) (errs : List ScrubErr),
    let same (u : State) : Prop := DeviceOnly s u ∧ u.dev.fw = s.dev.fw ∧ u.dev.regs = s.dev.regs ∧ u.dev.pw = s.dev.pw ∧
      u.dev.chans = s.dev.chans ∧ u.dev.points = s.dev.points ∧ u.dev.nv = s.dev.nv
    (∀ o, tfind s.dev.port.open_ stream = some o → o.ready + ((s.dev.cfgAt o.at_).stream stream).fillTo ≤ t →
      Completes (.cartFillTimeout stream t) s fun u =>
        same u ∧ u.dev.port.open_ = terase s.dev.port.open_ stream ∧ (s.dev.pw.mode = .safe → streamType stream ≠ 7 → { u.dev.port with open_ := s.dev.port.open_ } = s.dev.port) ∧
        (s.dev.pw.mode ≠ .safe ∨ streamType stream = 7 → u.dev.port.seqs = tbump s.dev.port.seqs stream) ∧
        (((s.dev.cfgAt o.at_).stream stream).dest = 1 → s.dev.portSends (streamType stream) = true →
          u.dev.port.fifo = s.dev.port.fifo ∧
          ∃ flags, (flags = o.flags ∨ flags = o.flags ||| (1#14 <<< fChange)) ∧
            u.dev.port.ready = readyInsert ⟨(s.dev.cfgAt o.at_).cartBound stream o,
              ⟨streamType stream, s.dev.fab.address, stream, tget 0#32 s.dev.port.seqs stream, o.time, o.tag, flags, o.count,
                wordsOf o.bytes⟩⟩ s.dev.port.ready)) ∧
    (s.dev.lanesRun = true → s.dev.prbs = false → (s.dev.port.gridAt.any fun g => decide (g ≤ (t : Int))) = true →
      Completes (.cartDelivery 0 ⟨t, []⟩) s fun u => same u ∧
        (∀ r l, (s.dev.pumpTo t).port.ready = r :: l → u.dev.port = { (s.dev.pumpTo t).port.sendWords (cartStripe r.cart) with ready := l, sent := some r.cart } ∧
          u.dev.free = (s.dev.pumpTo t).free) ∧
        ((s.dev.pumpTo t).port.ready = [] → u.dev.port.ready = [] ∧ ∃ c, u.dev.port.sent = some c ∧ c.type = 15 ∧ c.stream = 0xFFF)) ∧
    (s.dev.working = true → Completes (.cartDelivery 2 ⟨t, []⟩) s fun u =>
      same u ∧ u.dev.port.fabReady = (s.dev.pumpTo t).port.fabReady.tail) ∧
    Gives (.cartDelivery 1 ⟨t, []⟩) s (s.dev.pumpTo t) ∧
    Gives (.cartDelivery 1 ⟨t, errs⟩) s ((s.dev.findErrors errs).pumpTo t) ∧
    (s.dev.gran.selfRefresh = false → (s.dev.findErrors errs).cnt.corrected =
        s.dev.cnt.corrected + BitVec.ofNat 32 (errs.filter fun e => !e.double).length ∧
      (s.dev.findErrors errs).cnt.uncorrected = s.dev.cnt.uncorrected + BitVec.ofNat 32 (errs.filter fun e => e.double).length)

/-- The Granary writes the oldest waiting element of a stream and keeps the others in their order; a scrub pass counts itself, its corrected and its uncorrected errors. In self-refresh neither happens, and the scrubber pauses in HEARTH. In part the model's choice: log 71. -/
def Obligations.GranaryWritesAndScrubs : Prop :=
  ∀ (s : State) (stream t : Nat) (errs : List ScrubErr),
    let same (u : State) : Prop := DeviceOnly s u ∧ u.dev.fw = s.dev.fw ∧ u.dev.regs = s.dev.regs ∧ u.dev.chans = s.dev.chans ∧
      u.dev.points = s.dev.points ∧ u.dev.pw.mode = s.dev.pw.mode
    (s.dev.gran.selfRefresh = true → exec (.granaryWrite stream t) s = .next s) ∧ (s.dev.scrubs = false → exec (.granaryScrubPass errs) s = .next s) ∧
    (s.dev.gran.selfRefresh = false →
      (Completes (.granaryWrite stream t) s fun u => same u ∧ u.dev.nv = s.dev.nv ∧
        u.dev.gran.waiting = (takeWaiting stream s.dev.gran.waiting).elim s.dev.gran.waiting (·.2))) ∧
    (s.dev.gran.selfRefresh = false → s.dev.pw.mode ≠ .hearth →
      Completes (.granaryScrubPass errs) s fun u => same u ∧
        u.dev.cnt.scrubPasses = s.dev.cnt.scrubPasses + 1#32 ∧
        u.dev.cnt.corrected = s.dev.cnt.corrected + BitVec.ofNat 32 (errs.filter fun e => !e.double).length ∧
        u.dev.cnt.uncorrected = s.dev.cnt.uncorrected + BitVec.ofNat 32 (errs.filter fun e => e.double).length ∧
        ((errs.any fun e => !e.double) = true → (u.dev.evt evGran).bits.getLsbD 2 = true) ∧
        ((errs.any fun e => e.double) = true → (u.dev.evt evGran).bits.getLsbD 3 = true))

/-- The next transform of a Mill job, once the samples of its window have come, with bins as near to its exact spectrum as the Mill delivers them: it is counted, it enters the run and its average, and a replay that has none left is over. The oldest gathered boundary of a density map completes its snapshot once every result of before it has been added. Registers, configuration, channels and points stay. The ends of STREAM readouts: the readout of a region, or of a density snapshot, is over, and its command completes for the session that waits, with the elements sent and skipped, or with the snapshot's epoch. In part the model's choice: log 37, 83, 213 and 214. -/
def Obligations.MillResultsSnapshotsAndReadoutsComplete : Prop :=
  (∀ (s : State) (x : MillIn) (map : Fin 16),
     let i := x.job.val
     let d := s.dev.replayErrors x
     let same (u : State) : Prop := DeviceOnly s u ∧ u.dev.fw = s.dev.fw ∧ u.dev.regs = s.dev.regs ∧ u.dev.chans = s.dev.chans ∧
       u.dev.points = s.dev.points ∧ u.dev.pw = s.dev.pw
     (∀ n j, d.millNext i = some n → n.place = none → (d.windowCfg n.win).job i = some j → d.millFits x n j = true →
       twf JobRun.init d.jobs = true → Completes (.millResultReady x) s fun u =>
       let w := spoilt x.struck n.win
       let r := (n.run.spoil ((w.head?.map (·.idx)).getD 0) x.struck).take j x w
       let ends := j.replay && (r.window j.size j.hop).isNone && r.stop.isNone
       same u ∧ u.dev.nv = d.nv ∧ (u.dev.job i).last = r.last ∧ (u.dev.job i).buf = r.buf ∧ (u.dev.job i).idle = ends ∧
       (twf 0#32 s.dev.cnt.job = true →
         tget 0#32 u.dev.cnt.job (4 * i + cntTransforms) = tget 0#32 s.dev.cnt.job (4 * i + cntTransforms) + 1#32) ∧
       (∀ k, k ≠ i → u.dev.job k = d.job k) ∧ (ends = true → (u.dev.evt evMill).bits.getLsbD 3 = true)) ∧
     (d.millNext i = none → exec (.millResultReady x) s = .next { s with dev := d }) ∧
     (∀ d l, (s.dev.map map.val).due = d :: l → s.dev.mapReady map.val d.epoch = true → twf MapRun.init s.dev.maps = true →
       Completes (.densitySnapshotComplete map) s fun u =>
       same u ∧ u.dev.nv = s.dev.nv ∧ u.dev.jobs = s.dev.jobs ∧ (u.dev.map map.val).snap = some (d.epoch, (s.dev.map map.val).counts) ∧
       (d.halve = false → d.clear = false → (u.dev.map map.val).counts = (s.dev.map map.val).counts) ∧
       (d.clear = true → (u.dev.map map.val).counts = []) ∧ (∀ m, m ≠ map.val → u.dev.map m = s.dev.map m))) ∧
  (∀ (s : State) (region : Fin 64) (map : Fin 16),
     let same (u : State) : Prop := DeviceOnly s u ∧ u.dev.fw.eff = s.dev.fw.eff ∧ u.dev.fw.txns = s.dev.fw.txns ∧ u.dev.regs = s.dev.regs ∧
       u.dev.chans = s.dev.chans ∧ u.dev.points = s.dev.points ∧ u.dev.pw = s.dev.pw ∧ u.dev.nv = s.dev.nv
     let told (u : State) (w : Waiter) (n : Nat) : Prop := ∀ y, s.dev.session? w.session = some y → y.serial = w.serial → y.transport = 0 →
       ∃ z c, u.dev.session? w.session = some z ∧ z.queue = y.queue ++ [c] ∧ z.running = y.running - 1 ∧ c.status = stOk ∧
         c.tag = w.tag ∧ c.command = w.command ∧ c.payload.length = n
     (∀ x, (s.dev.region region.val).readout = some x → twf RegionRun.init s.dev.gran.regions = true →
       Completes (.captureReadoutDone region) s fun u => same u ∧ (u.dev.region region.val).readout = none ∧ told u x.waiter 16) ∧
     (∀ w e, (s.dev.map map.val).waiter = some (w, e) → twf MapRun.init s.dev.maps = true →
       Completes (.densityReadoutDone map) s fun u => same u ∧ (u.dev.map map.val).waiter = none ∧ told u w 4))

/-! ### The Shepherd -/

/-- A detector that is armed fires on its condition at td: an episode opens back-dated by the detector's lag, the detection counts itself and raises FAST. The release, its condition gone, ends what nothing holds any longer. A periodic check of the group is abandoned and an urgent one is called for; an invalidating class at the release calls for one too. In part the model's choice: log 85, 203 and 204. -/
def Obligations.FastDetectionsOpenEpisodes : Prop :=
  ∀ (s : State) (ch : Fin 128) (x : Detector) (t : Nat) (env : EnvIn),
    twf ChanRun.init s.dev.chans = true → twf GroupRun.init s.dev.groups = true →
    let c := s.dev.chan ch.val
    let g := ch.val / 4
    let same (u : State) : Prop := DeviceOnly s u ∧ u.dev.fw = s.dev.fw ∧ u.dev.regs = s.dev.regs ∧ u.dev.pw = s.dev.pw ∧
      u.dev.points = s.dev.points ∧ u.dev.nv = s.dev.nv ∧ ∀ k, k ≠ g → u.dev.group k = s.dev.group k
    (s.dev.canFire ch.val x t env = true → Completes (.fastDetection ch x ⟨t, env⟩) s fun u =>
      let v := u.dev.chan ch.val
      let te := t - s.dev.lagOf x
      same u ∧ v.asserted = c.asserted ++ [x] ∧ v.cls = c.cls ∧
      (∃ e, v.episodes = e :: c.episodes ∧ e.from_ = te ∧ e.onset = te ∧ e.to_ = none ∧ e.det = some x ∧ e.mark = t + 96) ∧
      (u.dev.evt (evShep (ch.val / 16))).bits.getLsbD 16 = true ∧ (u.dev.evt (evShep (ch.val / 16))).bits.getLsbD (ch.val % 16) = true ∧
      ((s.dev.group g).check = none → (u.dev.group g).urgent = true ∧ ∀ n, n ≠ ch.val → u.dev.chan n = s.dev.chan n) ∧
      (∀ k, (s.dev.group g).check = some k → k.urgent = false → (u.dev.group g).check = none ∧ (u.dev.group g).urgent = true)) ∧
    (s.dev.canRelease ch.val x t env = true → Completes (.detectorRelease ch x ⟨t, env⟩) s fun u =>
      let v := u.dev.chan ch.val
      same u ∧ v.asserted = c.asserted.erase x ∧ v.cls = c.cls ∧ (∀ n, n ≠ ch.val → u.dev.chan n = s.dev.chan n) ∧
      (badClass c.cls = false → u.dev.group g = s.dev.group g) ∧
      (badClass c.cls = false → c.asserted = [x] → (∀ e, e ∈ v.episodes → e.to_.isSome = true) ∧
        ((c.episodes.any fun e => e.to_.isNone) = true → v.endT = t ∧ (u.dev.evt (evShep (ch.val / 16))).bits.getLsbD 19 = true)) ∧
      (badClass c.cls = true → ((s.dev.group g).check.all fun k => !k.urgent) = true → (u.dev.group g).urgent = true))

/-- The dwell of a check that ends at a boundary leaves its place to the next one, and a second urgent check is called for at the first boundary after it. A phase stores what it measured for each checked channel and moves on. At the end every checked channel that still runs as it did at the start gets its class by the check's mode and points; a channel that has stopped or started since gets none. In part the model's choice: log 78, 79, 205 and 206. -/
def Obligations.ChecksMeasureAndClassify : Prop :=
  (∀ (b : Nat) (x : GroupRun),
    (∀ k, x.check = some k → k.start + 6000000 ≤ b → x.turn b = { x with check := none, ended := some k }) ∧
    (∀ k, x.check = some k → b < k.start + 6000000 → x.turn b = x) ∧
    (x.check = none → (x.turn b).urgent = (x.urgent || x.second) ∧ (x.turn b).second = false ∧ (x.turn b).check = none)) ∧
  ∀ (s : State) (g : Fin 32) (c : Check), c.chans.Nodup →
    twf ChanRun.init s.dev.chans = true → twf GroupRun.init s.dev.groups = true →
    let same (u : State) : Prop := DeviceOnly s u ∧ u.dev.fw = s.dev.fw ∧ u.dev.regs = s.dev.regs ∧ u.dev.pw = s.dev.pw ∧
      u.dev.points = s.dev.points ∧ u.dev.nv = s.dev.nv ∧ (∀ k, k ≠ g.val → u.dev.group k = s.dev.group k) ∧
      ∀ n, n ∉ c.chans → u.dev.chan n = s.dev.chan n
    (∀ (k : Fin 4) (ms : List PhaseMeas), (s.dev.group g.val).inPhase k.val = some c → (c.chans.all fun n => ms.any fun m => m.ch == n) = true →
      Completes (.checkPhase g k ms) s fun u =>
        same u ∧ (u.dev.group g.val).inPhase (k.val + 1) = some { c with phase := k.val + 1 } ∧
        (u.dev.group g.val).urgent = (s.dev.group g.val).urgent ∧
        ∀ n m, n ∈ c.chans → ms.find? (fun m => m.ch == n) = some m →
          u.dev.chan n = { s.dev.chan n with
            meas := (s.dev.chan n).meas.measure k.val (((s.dev.cfgAt c.start).chan n).mode == 1) (c.tones.contains (n, k.val)) m }) ∧
    ((s.dev.group g.val).ended = some c → c.phase = 4 → Completes (.checkClassification g) s fun u =>
      same u ∧ u.dev.group g.val = { s.dev.group g.val with ended := none } ∧
      ∀ n, n ∈ c.chans →
        (s.dev.stillRuns c.start n = false → u.dev.chan n = s.dev.chan n) ∧
        (s.dev.stillRuns c.start n = true →
          let captures := (s.dev.chan n).capture.any fun e => decide (e < c.start + 6000000)
          (u.dev.chan n).cls = (classify (s.dev.classCfg c.start) n (s.dev.chan n).meas (if captures then none else (s.dev.chan n).base)).1 ∧
          (u.dev.chan n).lastCheck = c.start + 6000000 ∧ (u.dev.chan n).fastPins = 0#8 ∧ (u.dev.chan n).meas = (s.dev.chan n).meas))

/-! ### Triggers, Bells, lanes -/

/-- A level change on a `TRIG_IN` pin passes, unless it falls within 96 ticks after the last that passed: then it is dropped, counted against the pin, and raises PIN_OVERRUN. An EXTERNAL unit whose edge has held, and a FABRIC unit that matches a message, detect: the detection counts. One that the holdoff or an earlier shot holds does no more; with no sequencer a free one fires, and the firing stands in a record of the unit's group with its key ⌊t_d/48⌋, or in a record of its own where the message has come late. The pins follow their pulses, which stay high until the latest end; trigger messages leave at C + 96, each to the device it names. In part the model's choice: log 62, 66 and 67. -/
def Obligations.TriggersFireAndLeave : Prop :=
  (∀ (s : State) (pin : Fin 4) (rising : Bool) (t : Nat), inSpans s.dev.marks.runs t = true →
     (∀ l, tfind s.dev.trig.pinLast pin.val = some l → t < l + 96 → Completes (.trigInEdge pin rising t) s fun u =>
       DeviceOnly s u ∧ u.dev.trig = s.dev.trig ∧ u.dev.cnt = { s.dev.cnt with pin := tbump s.dev.cnt.pin pin.val } ∧
       (u.dev.evt evTrig0).bits.getLsbD 19 = true ∧ { u.dev with evts := s.dev.evts, cnt := s.dev.cnt, clk := s.dev.clk } = s.dev) ∧
     ((∀ l, tfind s.dev.trig.pinLast pin.val = some l → l + 96 ≤ t) → Completes (.trigInEdge pin rising t) s fun u =>
       DeviceOnly s u ∧ tfind u.dev.trig.pinLast pin.val = some t ∧ u.dev.trig.pinLevel.getLsbD pin.val = rising ∧
       (∀ k, k < 4 → k ≠ pin.val → u.dev.trig.pinLevel.getLsbD k = s.dev.trig.pinLevel.getLsbD k) ∧
       { u.dev with trig := s.dev.trig, clk := s.dev.clk } = s.dev)) ∧
  (∀ (s : State) (u : Fin 32) (x : UnitCfg) (t : Nat),
     let same (v : State) : Prop := DeviceOnly s v ∧ v.dev.fw = s.dev.fw ∧ v.dev.regs = s.dev.regs ∧ v.dev.pw = s.dev.pw ∧
       v.dev.chans = s.dev.chans ∧ v.dev.points = s.dev.points ∧ v.dev.nv = s.dev.nv
     let detected (v : State) (key : Nat) (f : Firing) : Prop :=
       (twf 0#32 s.dev.cnt.unit = true → tget 0#32 v.dev.cnt.unit (4 * u.val) = tget 0#32 s.dev.cnt.unit (4 * u.val) + 1#32) ∧
       ((s.dev.unitAt u.val f.td).holds x f.t = true → v.dev.cnt.unit = tbump s.dev.cnt.unit (4 * u.val) ∧ v.dev.trig = s.dev.trig) ∧
       ((s.dev.unitAt u.val f.td).holds x f.t = false → x.seqmode = 0 →
         v.dev.cnt.unit = tbump (tbump s.dev.cnt.unit (4 * u.val)) (4 * u.val + 1) ∧
         ∃ r, r ∈ v.dev.trig.recs ∧ r.grp = x.rgrp ∧ r.key = key ∧ f ∈ r.fires)
     (∀ rising : Bool, (s.dev.cfgAt t).unit u.val = some x → x.enable = true → x.type = 7 → (x.sel = 2 ∨ (x.sel = 0 ↔ rising = true)) →
       tfind s.dev.trig.pinLast x.src = some t → s.dev.trig.pinLevel.getLsbD x.src = rising → inSpans s.dev.marks.runs t = true →
       Completes (.externalEdgeAccepted u rising t) s fun v =>
         same v ∧ detected v (t / 48) ⟨u.val, 7, 256 * t, t, BitVec.ofNat 32 (bit01 rising), 0#14⟩) ∧
     ∀ m : TrigMsg, s.dev.fab.address ≠ 0 →
       let late := decide (m.close + 48096 < t)
       let at_ := if late then t else m.close
       Completes (.fabricTriggerMessage m t) s fun v =>
         same v ∧
         (((s.dev.cfgAt at_).units.filter fun (_, y) => y.enable && y.type == 8 && y.m == m.id && (y.p1 == 0xFFF || y.p1 == m.origin)) = [] →
           v.dev.cnt.unit = s.dev.cnt.unit ∧ v.dev.trig = s.dev.trig) ∧
         (inSpans s.dev.marks.runs at_ = true → x.type = 8 →
           ((s.dev.cfgAt at_).units.filter fun (_, y) => y.enable && y.type == 8 && y.m == m.id && (y.p1 == 0xFFF || y.p1 == m.origin))
             = [(u.val, x)] →
           detected v (if late then t else m.close / 48) ⟨u.val, 8, 256 * m.time + m.frac, m.close, BitVec.ofNat 32 m.id, m.flags⟩)) ∧
  (∀ (s : State) (pin : Fin 4) (t : Nat),
     ((s.dev.trig.pulses.any fun (q, a, b) => q == pin.val && (a == t || b == t)) = true →
       Completes (.trigOutPulse pin t) s fun u =>
         DeviceOnly s u ∧ (∀ k, k < 4 → (u.dev.trig.outs.getLsbD k = true ↔ ∃ a b, (k, a, b) ∈ s.dev.trig.pulses ∧ a ≤ t ∧ t < b)) ∧
         (∀ k a b, (k, a, b) ∈ u.dev.trig.pulses ↔ (k, a, b) ∈ s.dev.trig.pulses ∧ t < b) ∧
         { u.dev with trig := s.dev.trig, clk := s.dev.clk } = s.dev ∧
         { u.dev.trig with outs := s.dev.trig.outs, pulses := s.dev.trig.pulses } = s.dev.trig) ∧
     Completes (.fabricTriggerSend t) s fun u =>
       DeviceOnly s u ∧ u.dev.trig.msgs = s.dev.trig.msgs.filter (fun (a, _, _) => !decide (a ≤ t)) ∧
       (∀ a dest m, (a, dest, m) ∈ s.dev.trig.msgs → a ≤ t → dest ≠ s.dev.fab.address → OutFrame.trigger dest m ∈ u.dev.fab.out) ∧
       u.dev.fw = s.dev.fw ∧ u.dev.regs = s.dev.regs ∧ u.dev.chans = s.dev.chans ∧ u.dev.pw = s.dev.pw ∧ u.dev.gran = s.dev.gran)

/-- A record closes at C: it is gone, RECNO counts it, the record counter of its primary unit rises, every unit with EVENT raises its bit, and units with CART send one TRIGGER cart on the primary unit's stream. A Bell rings at the first multiple of 16 ticks at or after C, a message leaves at C + 96, the pins pulse from t + OUT_DELAY but not before C + 48, and the head of an armed queue takes the capture at the record's time; none armed is a missed capture. What no unit asks for does not happen: no capture, no Bell, no pulse, no message. In part the model's choice: log 64, 65 and 68. -/
def Obligations.RecordsCloseOnce : Prop :=
  ∀ (s : State) (grp : Fin 8) (key : Nat) (r : OpenRec) (prime : Firing),
    s.dev.trig.recs.find? (fun r => r.grp == grp.val && r.key == key) = some r → s.dev.inEpoch r.close = true →
    primaryOf r.entries = some prime →
    let unit (f : Firing) : Option UnitCfg := (s.dev.cfgAt r.inst).unit f.unit
    let asks (k : Nat) : Prop := ∃ f ∈ r.entries, ∃ x, unit f = some x ∧ hasBit x.act k = true
    Completes (.recordClose grp key) s fun u =>
      DeviceOnly s u ∧ u.dev.trig.recs = s.dev.trig.recs.erase r ∧ u.dev.trig.recno = s.dev.trig.recno + 1#32 ∧
      u.dev.trig.units = s.dev.trig.units ∧
      (twf 0#32 s.dev.cnt.unit = true →
        tget 0#32 u.dev.cnt.unit (4 * prime.unit + 2) = tget 0#32 s.dev.cnt.unit (4 * prime.unit + 2) + 1#32) ∧
      (∀ f ∈ r.entries, ∀ x, unit f = some x → hasBit x.act 1 = true →
        (f.unit < 16 → (u.dev.evt evTrig0).bits.getLsbD f.unit = true) ∧ (16 ≤ f.unit → (u.dev.evt evTrig1).bits.getLsbD (f.unit - 16) = true)) ∧
      (s.dev.pw.mode ≠ .safe → asks 0 → u.dev.port.seqs = tbump s.dev.port.seqs (0x700 + prime.unit)) ∧
      (¬asks 0 → u.dev.port = s.dev.port) ∧ (¬asks 2 → u.dev.gran = s.dev.gran) ∧ (¬asks 3 → u.dev.bell = s.dev.bell) ∧
      (asks 3 → ∃ y ∈ u.dev.bell.due, y.tick % 16 = 0 ∧ r.close ≤ y.tick ∧ y.tick < r.close + 16 ∧ y.sources &&& srcTrigger = srcTrigger) ∧
      (∀ f ∈ r.entries, ∀ x, unit f = some x →
        (hasBit x.act 4 = true → ∃ m : TrigMsg, (r.close + 96, x.bcDest, m) ∈ u.dev.trig.msgs ∧ m.origin = s.dev.fab.address ∧ m.id = x.bcId ∧
          m.time = wholeOf prime.t ∧ m.frac = fracOf prime.t ∧ m.close = r.close ∧ m.flags = r.fires.foldl (fun w y => w ||| y.flags) 0#14) ∧
        (hasBit x.act 5 = true → ∀ p, p < 4 → hasBit x.outpins p = true →
          let rise := Max.max (wholeOf (f.t + 128) + x.outDelay) (r.close + 48)
          (p, rise, rise + x.outWidth) ∈ u.dev.trig.pulses) ∧
        (hasBit x.act 2 = true → twf RegionRun.init s.dev.gran.regions = true → twf Slot.init (s.dev.region x.region).slots = true →
          ((s.dev.region x.region).queue = [] → (u.dev.evt evTrig0).bits.getLsbD 18 = true ∧ u.dev.region x.region = s.dev.region x.region) ∧
          ∀ k q, (s.dev.region x.region).queue = k :: q →
            let z := (u.dev.region x.region).slot k
            (z.state = .filling ∨ z.state = .done) ∧ z.time = prime.t ∧ z.recno = s.dev.trig.recno ∧ (u.dev.region x.region).queue = q ∧
            z.p = ((s.dev.region x.region).slot k).p ∧ z.q = ((s.dev.region x.region).slot k).q)) ∧
      (¬asks 4 → u.dev.trig.msgs = s.dev.trig.msgs) ∧ (¬asks 5 → u.dev.trig.pulses = s.dev.trig.pulses) ∧
      u.dev.fw = s.dev.fw ∧ u.dev.regs = s.dev.regs ∧ u.dev.chans = s.dev.chans

/-- `BELL_IN` rings a Bell at the first multiple of 16 at or after the edge + 48 ticks. A Bell at its tick is counted whether it is latched or not; one less than 3,000 ticks after the last latched, or local and less than 3,000 ticks before a fabric Bell, is dropped and counted. The copied half comes into view in one switch. A partner's Bell rings at its tick and is acknowledged, unless its tick is past. An acknowledgement of a scheduled Bell is taken; the last missing one completes the Bell with OK. -/
def Obligations.BellsAreCountedLatchedOrDropped : Prop :=
  (∀ (s : State) (rising : Bool) (tick : Nat) (x : BellDue),
     let b := s.dev.bell
     let same (u : State) : Prop := DeviceOnly s u ∧ u.dev.fw = s.dev.fw ∧ u.dev.regs = s.dev.regs ∧ u.dev.pw = s.dev.pw ∧
       u.dev.chans = s.dev.chans ∧ u.dev.points = s.dev.points ∧ u.dev.nv = s.dev.nv
     (s.dev.clk.counting = true → s.dev.pw.idReady = true → b.inEn = true → rising = !b.inEdge →
       Completes (.bellInEdge rising tick) s fun u =>
         same u ∧ u.dev.cnt = { s.dev.cnt with bellInEdges := s.dev.cnt.bellInEdges + 1#32 } ∧ u.dev.evts = s.dev.evts ∧
         ∃ at_, at_ % 16 = 0 ∧ tick + 48 ≤ at_ ∧ at_ < tick + 64 ∧ u.dev.bell = { b with due := bellInsert ⟨at_, srcBellIn⟩ b.due }) ∧
     (b.due.find? (fun y => y.tick == tick) = some x → s.dev.clk.counting = true → s.dev.inEpoch tick = true →
       Completes (.bellTick tick) s fun u =>
         let near := (b.lastLatched.any fun l => decide (tick < l + 3000)) ||
           (decide (x.sources &&& srcFabric = 0#5) && (b.due.erase x).any fun y =>
             decide (y.sources &&& srcFabric ≠ 0#5) && decide (tick < y.tick) && decide (y.tick < tick + 3000))
         same u ∧ u.dev.bell.count = b.count + 1#32 ∧ u.dev.bell.due = b.due.erase x ∧
         (near = false → u.dev.bell.drops = b.drops ∧ u.dev.bell.lastLatched = some tick ∧
           ∃ w, u.dev.bell.idleHalf = some w ∧ w.time = tick ∧ w.sources = x.sources ∧ w.count = b.count + 1#32) ∧
         (near = true → u.dev.bell.drops = b.drops + 1#8 ∧ u.dev.cnt.bellsDropped = s.dev.cnt.bellsDropped + 1#32 ∧
           u.dev.bell.idleHalf = b.idleHalf ∧ u.dev.bell.lastLatched = b.lastLatched) ∧
         (x.sources ≠ srcSnap → (x.sources.setWidth 4) &&& b.outSrc ≠ 0#4 → tick + 3000 ≤ u.dev.bell.outUntil)) ∧
     (∀ w, b.idleHalf = some w → Gives .holdingWindowSwitch s { s.dev with bell := { b with window := some w, idleHalf := none } })) ∧
  (∀ (s : State) (src tick : Nat),
     let same (u : State) : Prop := DeviceOnly s u ∧ u.dev.fw.eff = s.dev.fw.eff ∧ u.dev.fw.txns = s.dev.fw.txns ∧ u.dev.regs = s.dev.regs ∧
       u.dev.pw = s.dev.pw ∧ u.dev.chans = s.dev.chans ∧ u.dev.evts = s.dev.evts ∧ u.dev.clk = s.dev.clk
     (s.dev.fab.address ≠ 0 → s.dev.clk.time < tick → Completes (.fabricBell src tick) s fun u =>
       same u ∧ u.dev.bell = { s.dev.bell with due := bellInsert ⟨tick, srcFabric⟩ s.dev.bell.due } ∧
       u.dev.fab.out = s.dev.fab.out ++ [.bellAck src tick]) ∧
     (s.dev.fab.address ≠ 0 → tick ≤ s.dev.clk.time → Completes (.fabricBell src tick) s fun u =>
       same u ∧ u.dev.bell = s.dev.bell ∧ u.dev.fab.out = s.dev.fab.out) ∧
     (∀ x, s.dev.bell.sched.find? (fun x => x.tick == tick && x.dests.contains src) = some x →
       let y := { x with acked := x.acked ++ [src] }
       let l := s.dev.bell.sched.map fun z => if z = x then y else z
       (y.missing ≠ [] → Completes (.fabricBellAck src tick) s fun u =>
         same u ∧ u.dev.bell = { s.dev.bell with sched := l } ∧ u.dev.fw = s.dev.fw) ∧
       (y.missing = [] → Completes (.fabricBellAck src tick) s fun u =>
         same u ∧ u.dev.bell = { s.dev.bell with sched := l.erase y } ∧
         ∀ w y, x.waiter = some w → s.dev.session? w.session = some y → y.serial = w.serial → y.transport = 0 →
           ∃ z c, u.dev.session? w.session = some z ∧ z.queue = y.queue ++ [c] ∧ c.status = stOk ∧ c.tag = w.tag ∧ c.payload = [])))

/-- A lane fault shows in FAILED. The next marker acts on it, once: parity stops, MAP_GEN moves, and a data lane's logical lane goes to the spare unless the spare itself has failed. FORCE is such a fault at the marker. A marker counts itself, applies a new lane count, and ends a transmission that ENABLE no longer wants, counting the carts that waited and the one it cut off. Data blocks go through their lane's scrambler; an idle lane sends none. The return lane locks while RX_ENABLE is set; a frame with a bad CRC is counted and does nothing else; a HEALTH report that qualifies sets HOST_OK, which 2 ms without one clears, and fails the lanes it names while HOST_FAIL_EN is 1. In part the model's choice: log 46, 181 and 210. -/
def Obligations.LanesFailOverAndReportHealth : Prop :=
  ((∀ (p : PortSt) (lane : Nat) (w : BitVec 64), p.idle lane = false →
     (p.dataBlock lane w).blocks = p.blocks ++ [(lane, (scrambleWord (tget 0#58 p.scramble lane) w).1 ++ 0b01#2)] ∧
     (twf 0#58 p.scramble = true → tget 0#58 (p.dataBlock lane w).scramble lane = (scrambleWord (tget 0#58 p.scramble lane) w).2 ∧
       ∀ l, l ≠ lane → tget 0#58 (p.dataBlock lane w).scramble l = tget 0#58 p.scramble l)) ∧
   (∀ (p : PortSt) (lane : Nat) (w : BitVec 64) (b : List Byte), p.idle lane = true → p.dataBlock lane w = p ∧ p.controlBlock lane b = p) ∧
   ∀ (s : State) (lane : Fin 9) (t : Nat), s.dev.lanesRun = true →
     let p := s.dev.port
     let f := s.dev.forcedLane.port
     (p.failed.getLsbD lane.val = false → Gives (.laneFault lane) s
       { s.dev with port := { p with failed := p.failed ||| (1#9 <<< lane.val), failing := p.failing ++ [lane.val] } }) ∧
     (p.failed.getLsbD lane.val = true → exec (.laneFault lane) s = .next s) ∧
     (p.force = false → f = p) ∧
     (s.dev.onGrid t = true → Completes (.alignmentMarker t) s fun u =>
       let q := u.dev.port
       DeviceOnly s u ∧ q.force = false ∧ q.failing = [] ∧ q.failed = f.failed ∧ q.markerCount = p.markerCount + 1#8 ∧
       q.lanes = p.newLanes.getD p.lanes ∧ q.newLanes = none ∧
       (∀ l, f.failing = [l] → p.parity = true → l < p.lanes ∨ l = 8 →
         q.parity = false ∧ q.mapGen = p.mapGen + 1#8 ∧
         (l < p.lanes → f.failed.getLsbD 8 = false → q.spareFor = BitVec.ofNat 4 l) ∧
         (p.lanes ≤ l ∨ f.failed.getLsbD 8 = true → q.spareFor = p.spareFor)) ∧
       (f.failing = [] ∨ p.parity = false → q.parity = p.parity ∧ q.spareFor = p.spareFor ∧ q.mapGen = p.mapGen) ∧
       (p.stopping = false → q.gridAt = p.gridAt ∧ q.ready = p.ready ∧ u.dev.cnt = s.dev.cnt) ∧
       (p.stopping = true → q.gridAt = none ∧ q.ready = [] ∧ q.stopping = false ∧
         u.dev.cnt.cartsDiscarded = s.dev.cnt.cartsDiscarded + BitVec.ofNat 32 p.ready.length +
           (if p.carry ≠ [] ∧ p.sent.isSome = true then 1#32 else 0#32)) ∧
       u.dev.fw = s.dev.fw ∧ u.dev.regs = s.dev.regs ∧ u.dev.pw = s.dev.pw ∧ u.dev.gran = s.dev.gran)) ∧
  (∀ (s : State) (frame : List Byte) (t : Nat),
     let p := s.dev.port
     (p.rxEnable = true → Gives .returnLaneLocked s { s.dev with port := { p with rxLock := true } }) ∧
     Gives .returnLaneLockLost s { s.dev with port := { p with rxLock := false } } ∧
     (∀ g, p.hostGood = some g →
       (s.dev.clk.reaches (g + 6000000) = true → Gives .hostOkTimeout s
         { s.dev.tickTo (g + 6000000) with port := { (s.dev.tickTo (g + 6000000)).port with hostOk := false, hostGood := none } }) ∧
       (s.dev.clk.reaches (g + 6000000) = false → exec .hostOkTimeout s = .next s)) ∧
     (p.hostGood = none → exec .hostOkTimeout s = .next s) ∧
     (p.rxEnable = true → p.rxLock = true → s.dev.pw.mode ≠ .hearth →
       let bad := { s.dev with cnt := { s.dev.cnt with returnBadCrc := s.dev.cnt.returnBadCrc + 1#32 } }
       Gives .returnLaneBadCrc s bad ∧ (laneCrcOk frame = false → Gives (.healthReport frame t) s bad)) ∧
     (s.dev.receives = false → exec .returnLaneBadCrc s = .next s ∧ exec (.healthReport frame t) s = .next s) ∧
     (p.rxEnable = true → p.rxLock = true → s.dev.pw.mode ≠ .hearth → ∀ h, healthFrame frame = some h → Completes (.healthReport frame t) s fun u =>
       DeviceOnly s u ∧ { u.dev with port := p, clk := s.dev.clk } = s.dev ∧
       u.dev.port.hostOk = (p.hostOk || s.dev.healthGood h) ∧
       u.dev.port.hostGood = (if s.dev.healthGood h then some t else p.hostGood) ∧
       (p.hostFailEn = false → u.dev.port.failed = p.failed ∧ u.dev.port.failing = p.failing) ∧
       (p.hostFailEn = true → u.dev.port.failed = p.failed ||| h.fail.setWidth 9) ∧
       { u.dev.port with hostOk := p.hostOk, hostGood := p.hostGood, failed := p.failed, failing := p.failing } = p))

/-! ### Register accesses -/

/-- R311. A write with bit 0 set sets a lock, and with bit 0 clear changes nothing and is not logged; a write to a set lock, normal or aliased, is ignored and logged as LOCKED_WRITE; an aliased write to a clear lock is ignored and logged as ALIAS_ON_RO. All this holds for every port. Once set, a lock holds whatever command is executed, resets included, but for a brownout of all six rails at once, which is the power-on reset. -/
def Obligations.LocksAreSetOnceAndHold : Prop :=
  let locks (s : State) : List Bool := [s.dev.regs.lockDbg, s.dev.regs.lockCal, s.dev.regs.lockFw]
  (∀ (s : State) (a : Access) (k : Fin 3) (c : Instr), (c = .lockSet a ∨ c = .registerWrite (.one a)) → a.wf = true → s.dev.pw.booted = true →
    baseOf a.addr = 0x5000 + 4 * k.val →
    let logged (kind : BitVec 3) (u : State) : Prop := DeviceOnly s u ∧ locks u = locks s ∧
      u.dev.cnt = { s.dev.cnt with violations := s.dev.cnt.violations + 1#32 } ∧ (u.dev.evt evViol).bits.getLsbD kind.toNat = true ∧
      ((s.dev.evt evViol).bits &&& 0x3F#24 = 0#24 → u.dev.regs.viol.kind = kind ∧ u.dev.regs.viol.count = 1#16) ∧
      { u.dev with evts := s.dev.evts, cnt := s.dev.cnt, regs := { u.dev.regs with viol := s.dev.regs.viol } } = s.dev
    ((locks s)[k.val]? = some true → Completes c s (logged 1#3)) ∧
    ((locks s)[k.val]? = some false → aliasOf a.addr ≠ 0 → Completes c s (logged 3#3)) ∧
    ((locks s)[k.val]? = some false → aliasOf a.addr = 0 → a.value.getLsbD 0 = false → exec c s = .next s) ∧
    ((locks s)[k.val]? = some false → aliasOf a.addr = 0 → a.value.getLsbD 0 = true → Completes c s fun u =>
      DeviceOnly s u ∧ locks u = (locks s).set k.val true ∧ u.dev.evts = s.dev.evts ∧ u.dev.regs.viol = s.dev.regs.viol ∧
      u.dev.cnt = s.dev.cnt)) ∧
  (∀ (c : Instr) (s t : State) (k : Nat), exec c s = .next t → c ≠ .brownout 0x3F#6 → (locks s)[k]? = some true → (locks t)[k]? = some true)

/-- R314. SEQ stands in [31:24] and the event bits in [23:0]. Recording occurrences sets their bits, reserved bits apart, and increments SEQ once in a BUS cycle; a write clears its bits if its [31:24] equals SEQ, and nothing otherwise; what is recorded after a clear is not lost to it. An aliased write clears nothing and is logged as ALIAS_ON_RO. In part the model's choice: log 224. -/
def Obligations.EventRegistersClearBySequence : Prop :=
  (∀ e : Evt, e.word.extractLsb' 24 8 = e.seq ∧ e.word.extractLsb' 0 24 = e.bits) ∧
  (∀ (d : Device) (i : Nat) (bits : BitVec 24), twf Evt.init d.evts = true → bits &&& evtMask i ≠ 0#24 →
    ((d.evt i).cycle = none ∨ (d.evt i).cycle ≠ d.clk.cycle → ((d.raise i bits).evt i).seq = (d.evt i).seq + 1#8) ∧
    (d.clk.counting = true → (d.evt i).cycle = some (d.clk.time / 16) → ((d.raise i bits).evt i).seq = (d.evt i).seq) ∧
    (d.clk.counting = true → ((d.raise i bits).evt i).cycle = some (d.clk.time / 16)) ∧ ((d.raise i bits).evt i).bits = (d.evt i).bits ||| (bits &&& evtMask i)) ∧
  (∀ (e : Evt) (v : Word) (bits : BitVec 24) (n : Option Nat),
    ((e.clear v).record n bits).bits &&& bits = bits ∧ ((e.clear v).record n bits).seq = e.seq + 1#8) ∧
  ∀ (s : State) (a : Access) (c : Instr) (i : Nat), (c = .eventClear a ∨ c = .registerWrite (.one a)) → a.wf = true → s.dev.pw.booted = true →
    evtAt (baseOf a.addr) = some i → twf Evt.init s.dev.evts = true →
    (aliasOf a.addr = 0 → Completes c s fun u =>
      DeviceOnly s u ∧ (u.dev.evt i).seq = (s.dev.evt i).seq ∧
      (u.dev.evt i).bits = (if a.value.extractLsb' 24 8 = (s.dev.evt i).seq then (s.dev.evt i).bits &&& ~~~(a.value.extractLsb' 0 24)
        else (s.dev.evt i).bits) ∧
      (∀ k, k ≠ i → u.dev.evt k = s.dev.evt k) ∧ { u.dev with evts := s.dev.evts } = s.dev) ∧
    (aliasOf a.addr ≠ 0 → Completes c s fun u =>
      DeviceOnly s u ∧ u.dev.cnt = { s.dev.cnt with violations := s.dev.cnt.violations + 1#32 } ∧ (u.dev.evt evViol).bits.getLsbD 3 = true ∧
      (∀ k, k ≠ evViol → u.dev.evt k = s.dev.evt k) ∧
      { u.dev with evts := s.dev.evts, cnt := s.dev.cnt, regs := { u.dev.regs with viol := s.dev.regs.viol } } = s.dev)

/-- The first violation while `EVT_VIOL` bits [5:0] are zero is latched with a COUNT of 1; later ones only count, up to 0xFFFF (R328). Each sets its bit and counts in the window. A frame on the control port with an unknown opcode is one, of kind 5, and so is a write frame whose last word is cut short, of which the whole words stand; a sound frame is none, and its words take effect in order. From word to word the address goes on by 4 within its 22 bits, but stays at CART_FIFO. In part the model's choice: log 248. -/
def Obligations.ViolationsLatchTheFirst : Prop :=
  (∀ clocks : List (BitVec 4), 8 ≤ clocks.length →
    (cpOpcode (cpOp clocks) = none → cpBad clocks = true) ∧
    (∀ o, cpOpcode (cpOp clocks) = some o → cpBad clocks = (o.write && (clocks.length - (32 + o.dummy)) % o.wordClocks != 0))) ∧
  (∀ a : BitVec 24, aliasOf (cpNext a) = aliasOf a ∧ (baseOf a = 0x030000 → cpNext a = a) ∧
    (baseOf a ≠ 0x030000 → baseOf (cpNext a) = (baseOf a + 4) % 2 ^ 22)) ∧
  ∀ (s : State) (opcode rest : List (BitVec 4)), s.dev.pw.booted = true →
    let clocks := opcode ++ rest
    let t := s.writes (cpWrites clocks)
    (cpOpcode (cpOp clocks) = none → t = s) ∧
    (cpBad clocks = false → exec (.registerWrite (.frame clocks)) s = .next t) ∧
    (∀ o, cpOpcode (cpOp clocks) = some o → o.write = true → (cpWrites clocks).length = (clocks.length - (32 + o.dummy)) / o.wordClocks ∧
      (∀ x ∈ (cpWrites clocks).head?, x.addr = cpAddr clocks ∧ x.opcode = cpOp clocks ∧ x.port = .control) ∧
      ∀ k x y, (cpWrites clocks)[k]? = some x → (cpWrites clocks)[k + 1]? = some y → y.addr = cpNext x.addr) ∧
    (cpBad clocks = false → exec (.badFrame opcode rest) s = .next s) ∧
    (cpBad clocks = true → Completes (.badFrame opcode rest) s fun u =>
      u = { t with dev := u.dev } ∧ (u.dev.evt evViol).bits.getLsbD 5 = true ∧
      u.dev.cnt = { t.dev.cnt with violations := t.dev.cnt.violations + 1#32 } ∧
      ((t.dev.evt evViol).bits &&& 0x3F#24 = 0#24 → u.dev.regs.viol = ⟨cpAddr clocks, 1#16, cpOp clocks, 0#2, 5#3⟩) ∧
      ((t.dev.evt evViol).bits &&& 0x3F#24 ≠ 0#24 → t.dev.regs.viol.count ≠ 0xFFFF#16 →
        u.dev.regs.viol = { t.dev.regs.viol with count := t.dev.regs.viol.count + 1#16 }) ∧
      { u.dev with evts := t.dev.evts, cnt := t.dev.cnt, regs := t.dev.regs } = t.dev ∧
      { u.dev.regs with viol := t.dev.regs.viol } = t.dev.regs)

/-- A mailbox's exchange from the host's side. A write into an idle mailbox's request buffer stores its four bytes and no other; a busy one ignores it and reports REQUEST_OVERRUN. A doorbell on an idle mailbox hands the request to the firmware, behind those of earlier BUS cycles, and is counted; on a busy or unread one it is refused with an overrun. RSP_DONE releases the response. A session's oldest completion is placed only in an idle mailbox; over the return lane and the fabric it is sent as a message. In part the model's choice: log 225 and 243. -/
def Obligations.MailboxesExchangeInOrder : Prop :=
  ∀ (s : State) (a : Access) (m off : Nat), s.mailboxesInOrder → a.wf = true → s.dev.pw.booted = true → m < 4 → aliasOf a.addr = 0 →
    let others (u : State) : Prop := u.pending = s.pending ∧ ∀ k, k ≠ m → u.mailbox k = s.mailbox k
    let overrun (u : State) : Prop := others u ∧ (u.dev.evt evMbx).bits.getLsbD (4 + m) = true ∧
      u.mailbox m = { s.mailbox m with overruns := (s.mailbox m).overruns + 1#16 } ∧ { u.dev with evts := s.dev.evts } = s.dev
    (off < 1024 → off % 4 = 0 → baseOf a.addr = 0x10000 + 0x800 * m + off →
      ((s.mailbox m).reqBusy = true → Completes (.mbxRequestWrite a) s overrun) ∧
      ((s.mailbox m).reqBusy = false → Completes (.mbxRequestWrite a) s fun u =>
        others u ∧ u.dev = s.dev ∧ u.mailbox m = { s.mailbox m with request := (u.mailbox m).request } ∧
        tgetList 0#8 (u.mailbox m).request off 4 = leWord a.value ∧
        ∀ k, k < off ∨ off + 4 ≤ k → tget 0#8 (u.mailbox m).request k = tget 0#8 (s.mailbox m).request k)) ∧
    (baseOf a.addr = 0x108 + 0x40 * m →
      ((s.mailbox m).reqBusy = true ∨ (s.mailbox m).rspValid = true → Completes (.mbxDoorbell a) s overrun) ∧
      ((s.mailbox m).reqBusy = false → (s.mailbox m).rspValid = false → (cmdModes (s.rawMailbox m).code).isSome = true →
        Completes (.mbxDoorbell a) s fun u =>
          let cycle := s.dev.clk.time / 16
          let n := if s.dev.fw.arrival.1 = cycle then s.dev.fw.arrival.2 else s.dev.fw.arrival.2 + 1
          others u ∧ u.mailbox m = { s.mailbox m with reqBusy := true, taken := false, arrived := 6 * n + m, epoch := s.dev.epoch } ∧
          u.dev = { s.dev with fw := { s.dev.fw with arrival := (cycle, n) },
                               cnt := { s.dev.cnt with mbxAccepted := tbump s.dev.cnt.mbxAccepted m } })) ∧
    (baseOf a.addr = 0x100 + 0x40 * m → a.value.getLsbD 0 = true → Completes (.rspDone a) s fun u =>
      others u ∧ u.dev = s.dev ∧ u.mailbox m = { s.mailbox m with rspValid := false, placed := false }) ∧
    (∀ (i : Fin 17) (x : Session) (c : Completion) (q : List Completion), s.dev.session? i.val = some x → x.queue = c :: q →
      s.dev.work.lockstep = false →
      (x.transport ≠ 0 → s.dev.canMessage x.via = true → Completes (.completionPlace i) s fun u =>
        DeviceOnly s u ∧ (∃ y, u.dev.session? i.val = some y ∧ y.queue = q) ∧
        (x.transport ≠ 1 → u.dev.fab.out = s.dev.fab.out ++ [.message x.peer (s.dev.completionBytes c)])) ∧
      (x.transport = 0 → x.mbx = m → ((s.mailbox m).reqBusy || (s.mailbox m).rspValid) = false → Completes (.completionPlace i) s fun u =>
        others u ∧ (u.mailbox m).rspValid = true ∧ (u.mailbox m).placed = true ∧ (u.mailbox m).reqBusy = false ∧
        (u.mailbox m).request = (s.mailbox m).request ∧
        (u.mailbox m).response = bufWrite (s.mailbox m).response (s.dev.completionBytes c) ∧
        (u.dev.evt evMbx).bits.getLsbD 8 = true ∧ ∃ y, u.dev.session? i.val = some y ∧ y.queue = q))

/-- Writes of `INT_MASK`, `BELL_CTL` and `DL_CTL` in the normal and the three alias forms, and reads with an effect. A normal write of RING or SNAP rings a Bell in the next BUS cycle. ENABLE begins at the next multiple of 135,168 ticks and, cleared, stops at a marker, which ENABLE set again before it undoes; while `LOCK_DBG` is set a 1 in FORCE is ignored and logged, and the rest of the write takes effect. Each renews the parity of its word. A read-only register logs a write. `CART_FIFO` gives and removes its oldest word; `TIME_LO` gives the low word and latches the high one for its port. In part the model's choice: log 87. -/
def Obligations.ControlRegistersAct : Prop :=
  ∀ (s : State) (a : Access), a.wf = true → s.dev.pw.booted = true →
    -- a write of a protected word renews its parity, of that word alone (R306)
    let renewed := s.dev.regs.struck.filter fun x => baseOf x.addr != baseOf a.addr
    let al := aliasOf a.addr
    let p := s.dev.port
    -- the word a write leaves in the fields of a mask: written, set, cleared or toggled (R302)
    let word (mask old : Word) : Word :=
      if al = 0 then (old &&& ~~~mask) ||| (a.value &&& mask) else if al = 1 then old ||| (a.value &&& mask)
      else if al = 2 then old &&& ~~~(a.value &&& mask) else old ^^^ (a.value &&& mask)
    let b := word 0x3F0#32 s.dev.bell.ctl
    let fields (u : State) : Prop := u.dev.bell.inEdge = b.getLsbD 9 ∧ u.dev.bell.inEn = b.getLsbD 8 ∧ u.dev.bell.outSrc = b.extractLsb' 4 4
    let written (v : Word) (q : PortSt) : Prop := q.hostFailEn = v.getLsbD 8 ∧ q.txPreset = v.extractLsb' 4 4 ∧ q.rxEnable = v.getLsbD 1 ∧
      q.forceLane = v.extractLsb' 9 3 ∧ q.enable = v.getLsbD 0 ∧
      (v.getLsbD 0 = true → p.enable = false → p.stopping = false → ∃ g, q.gridAt = some g ∧ 135168 ∣ g ∧ s.dev.clk.time / 16 * 16 ≤ g ∧
        g < s.dev.clk.time / 16 * 16 + 135168) ∧
      (v.getLsbD 0 = true → p.enable = false → p.stopping = true → q.stopping = false ∧ q.gridAt = p.gridAt) ∧
      (v.getLsbD 0 = false → p.enable = true → q.stopping = true ∧ q.gridAt = p.gridAt) ∧
      (v.getLsbD 0 = p.enable → q.stopping = p.stopping ∧ q.gridAt = p.gridAt)
    let logged (u : State) (kind : Nat) : Prop := DeviceOnly s u ∧ u.dev.cnt.violations = s.dev.cnt.violations + 1#32 ∧
      (u.dev.evt evViol).bits.getLsbD kind = true
    (baseOf a.addr = 0x1100 → Gives (.registerWrite (.one a)) s
      { s.dev with regs := { s.dev.regs with struck := renewed, intMask := (word 0x1FFF#32 (s.dev.regs.intMask.setWidth 32)).setWidth 13 } }) ∧
    (roRegs.contains (baseOf a.addr) = true → Completes (.registerWrite (.one a)) s fun u => logged u (if al = 0 then 0 else 3) ∧
      { u.dev with evts := s.dev.evts, cnt := s.dev.cnt, regs := { u.dev.regs with viol := s.dev.regs.viol } } = s.dev) ∧
    (baseOf a.addr = 0x2000 → ∀ c, (c = .bellRing a ∨ c = .registerWrite (.one a) ∨ (c = .bellSnap a ∧ a.value.getLsbD 1 = true)) → Completes c s fun u =>
      DeviceOnly s u ∧ fields u ∧ { u.dev with bell := s.dev.bell, regs := s.dev.regs } = s.dev ∧
      u.dev.regs = { s.dev.regs with struck := renewed } ∧
      { u.dev.bell with inEdge := s.dev.bell.inEdge, inEn := s.dev.bell.inEn, outSrc := s.dev.bell.outSrc, due := s.dev.bell.due } = s.dev.bell ∧
      (al ≠ 0 ∨ a.value &&& 3#32 = 0#32 → u.dev.bell.due = s.dev.bell.due) ∧
      (al = 0 → a.value &&& 3#32 ≠ 0#32 →
        ∃ src, u.dev.bell.due = bellInsert ⟨s.dev.clk.time / 16 * 16 + 16, src⟩ s.dev.bell.due ∧
          src.getLsbD 0 = a.value.getLsbD 0 ∧ src.getLsbD 4 = a.value.getLsbD 1 ∧ src &&& 0xE#5 = 0#5)) ∧
    (baseOf a.addr = 0x7000 → ∀ c, (c = .registerWrite (.one a) ∨ c = .dlEnable a ∨ (c = .dlForce a ∧ a.value.getLsbD 12 = true) ∨
        (c = .dlDisable a ∧ (word 0x1FF3#32 p.ctl).getLsbD 0 = false)) →
      ((a.value.getLsbD 12 = false ∨ s.dev.regs.lockDbg = false) → Completes c s fun u =>
        DeviceOnly s u ∧ { u.dev with port := p, regs := s.dev.regs } = s.dev ∧ u.dev.regs = { s.dev.regs with struck := renewed } ∧ written (word 0x1FF3#32 p.ctl) u.dev.port ∧
        u.dev.port.force = (word 0x1FF3#32 p.ctl).getLsbD 12) ∧
      (a.value.getLsbD 12 = true → s.dev.regs.lockDbg = true → Completes c s fun u =>
        logged u 1 ∧ written (word 0xFF3#32 p.ctl) u.dev.port ∧ u.dev.port.force = p.force)) ∧
    ∀ port : Port,
      let back (u : State) (w : Word) : Prop := u.dev.regs.lastRead = tput 0#32 s.dev.regs.lastRead (portIndex port) w
      Completes (.cartFifoPop (.one port)) s (fun u =>
        let f := (s.dev.pump s.dev.clk.time).port.fifo
        DeviceOnly s u ∧ u.dev.port.fifo = f.tail ∧ back u ((f.head?.map (·.1)).getD 0#32) ∧ u.dev.fw = s.dev.fw) ∧
      Completes (.timeLoRead (.one port)) s fun u =>
        DeviceOnly s u ∧ back u (BitVec.ofNat 32 (s.dev.clk.time / 16 * 16)) ∧
        u.dev.clk.latched port = some (BitVec.ofNat 32 (s.dev.clk.time / 16 * 16 / 2 ^ 32)) ∧
        (∀ q, q ≠ port → u.dev.clk.latched q = s.dev.clk.latched q) ∧
        { u.dev with regs := s.dev.regs, clk := s.dev.clk } = s.dev

/-- Accesses to a tile window are posted, for each port and tile apart. A write is taken only in MAINTAIN with `LOCK_DBG` clear and the tile idle; a read returns zero and launches, or returns the value that came for its address and clears RD_VALID. An access that ends within 12,288 ticks frees the tile, with the value read, the write applied, or NACK for an unknown register; one that the tile link has not answered by then ends with NACK. In part the model's choice: log 41. -/
def Obligations.TileAccessesArePosted : Prop :=
  ∀ (s : State) (a : Access) (t : Fin 4) (off : Nat), a.wf = true → s.dev.pw.booted = true → off < 0x10000 → off % 4 = 0 →
    baseOf a.addr = 0x200000 + 0x10000 * t.val + off → twf Posted.init s.dev.regs.posted = true →
    let x := s.dev.regs.post a.port t.val
    let at_ : Access := { a with addr := a.addr &&& 0xFFFFFC#24 }
    let only (u : State) : Prop := DeviceOnly s u ∧ { u.dev with regs := s.dev.regs } = s.dev ∧
      { u.dev.regs with posted := s.dev.regs.posted, lastRead := s.dev.regs.lastRead } = s.dev.regs ∧
      ∀ q k, k < 4 → (q ≠ a.port ∨ k ≠ t.val) → u.dev.regs.post q k = s.dev.regs.post q k
    let back (u : State) (w : Word) : Prop := u.dev.regs.lastRead = tput 0#32 s.dev.regs.lastRead (portIndex a.port) w
    (tileWritable off = true →
      (s.dev.regs.lockDbg = true → Gives (.postedWrite a) s (s.dev.violate 1#3 at_)) ∧
      (s.dev.regs.lockDbg = false → s.dev.pw.mode ≠ .maintain → Gives (.postedWrite a) s (s.dev.violate 4#3 at_)) ∧
      (s.dev.regs.lockDbg = false → s.dev.pw.mode = .maintain → x.busy = true → Gives (.postedWrite a) s (s.dev.violate 2#3 at_)) ∧
      (s.dev.regs.lockDbg = false → s.dev.pw.mode = .maintain → x.busy = false → Completes (.postedWrite a) s fun u =>
        only u ∧ u.dev.regs.lastRead = s.dev.regs.lastRead ∧
        u.dev.regs.post a.port t.val =
          { x with busy := true, nack := false, addr := at_.addr, value := a.value, write := true, since := s.dev.clk.time })) ∧
    Completes (.postedRead a.port a.addr) s (fun u => only u ∧
      (x.busy = true → back u 0#32 ∧ u.dev.regs.post a.port t.val = x) ∧
      (x.busy = false → x.valid = true → baseOf x.readAddr = baseOf a.addr →
        back u x.readValue ∧ u.dev.regs.post a.port t.val = { x with valid := false }) ∧
      (x.busy = false → (x.valid = false ∨ baseOf x.readAddr ≠ baseOf a.addr) →
        back u 0#32 ∧ u.dev.regs.post a.port t.val =
          { x with busy := true, nack := false, addr := a.addr, write := false, since := s.dev.clk.time })) ∧
    (x.busy = true → s.dev.clk.time < x.since + 12288 →
      (tileKnown (tileOff (baseOf x.addr)) = false → Completes (.postedAccessDone a.port t) s fun u =>
        only u ∧ u.dev.regs.post a.port t.val = { x with busy := false, nack := true }) ∧
      (tileKnown (tileOff (baseOf x.addr)) = true → x.write = false → Completes (.postedAccessDone a.port t) s fun u =>
        only u ∧ u.dev.regs.post a.port t.val = { x with busy := false, valid := true, readAddr := x.addr,
                                                         readValue := s.dev.tileWord t.val (tileOff (baseOf x.addr)) }) ∧
      (tileKnown (tileOff (baseOf x.addr)) = true → x.write = true → Completes (.postedAccessDone a.port t) s fun u =>
        DeviceOnly s u ∧ u.dev.regs.post a.port t.val = { x with busy := false } ∧
        { u.dev with regs := s.dev.regs, tiles := s.dev.tiles, chans := s.dev.chans } = s.dev ∧
        { u.dev.regs with posted := s.dev.regs.posted } =
          { s.dev.regs with struck := s.dev.regs.struck.filter fun y => baseOf y.addr != baseOf x.addr }) ∧
      (tileOff (baseOf x.addr) = 0x400 → aliasOf x.addr = 0 → x.write = true → twf Tile.init s.dev.tiles = true →
        Completes (.postedAccessDone a.port t) s fun u =>
          DeviceOnly s u ∧ u.dev.regs.post a.port t.val = { x with busy := false } ∧
          u.dev.tile t.val = { s.dev.tile t.val with test := x.value.getLsbD 0 } ∧
          { u.dev with regs := s.dev.regs, tiles := s.dev.tiles } = s.dev)) ∧
    (x.since + 12288 ≤ s.dev.clk.time → exec (.postedAccessDone a.port t) s = .next s) ∧
    (x.busy = true → s.dev.clk.reaches (x.since + 12288) = true → Completes (.postedAccessNack a.port t) s fun u =>
        DeviceOnly s u ∧ u.dev.clk = (s.dev.tickTo (x.since + 12288)).clk ∧
        { u.dev with regs := s.dev.regs, clk := s.dev.clk } = s.dev ∧ { u.dev.regs with posted := s.dev.regs.posted } = s.dev.regs ∧
        (∀ q k, k < 4 → (q ≠ a.port ∨ k ≠ t.val) → u.dev.regs.post q k = s.dev.regs.post q k) ∧ u.dev.regs.post a.port t.val = { x with busy := false, nack := true })

/-! ### The Commons -/

/-- The life of a fabric port: a HELLO trains it and names the neighbour, and is answered while the port is down; a trained port with a neighbour of its own version comes up with UP; one that goes down stays down for 1,000 epochs with DOWN; it retrains; the epoch's seventeenth bad frame raises LINK_ERRORS. The other ports stay as they were. In part the model's choice: log 182. -/
def Obligations.FabricPortsComeAndGo : Prop :=
  ∀ (s : State) (k : Fin 4) (h : HelloIn) (frame : List Byte) (blocks : Nat), twf FPort.init s.dev.fab.ports = true →
    let p := s.dev.fport k.val
    let same (u : State) : Prop := DeviceOnly s u ∧ u.dev.fw.eff = s.dev.fw.eff ∧ u.dev.regs = s.dev.regs ∧ u.dev.pw = s.dev.pw ∧
      u.dev.clk = s.dev.clk ∧ u.dev.chans = s.dev.chans ∧ ∀ n, n ≠ k.val → u.dev.fport n = s.dev.fport n
    (s.dev.portLives k.val = true → Completes (.hello k h) s fun u =>
      same u ∧ u.dev.fport k.val = { p with trained := true, nbUid := some h.uid, nbVersion := h.version, nbPort := h.port } ∧
      u.dev.evts = s.dev.evts ∧ u.dev.fab.out = s.dev.fab.out ++ (if p.up then [] else [.hello k.val s.dev.fab.candidate s.dev.fab.quality])) ∧
    (s.dev.portLives k.val = true → p.trained = true → p.nbVersion = 3 → p.up = false → Completes (.fabricPortUp k) s fun u =>
      same u ∧ u.dev.fport k.val = { p with up := true, crcCount := 0, crcRun := 0 } ∧ (u.dev.evt evFab).bits.getLsbD 0 = true) ∧
    (p.up = true → Completes (.fabricPortDown k) s fun u =>
      same u ∧ u.dev.fport k.val = { p with up := false, trained := false, nbUid := none, beacon := none, crcCount := 0, crcRun := 0,
                                            holdUntil := s.dev.epoch + 1000 } ∧ (u.dev.evt evFab).bits.getLsbD 1 = true) ∧
    (s.dev.portLives k.val = true → p.up = false → p.holdUntil ≠ 0 → Completes (.fabricRetrain k) s fun u =>
      same u ∧ u.dev.fport k.val = { p with holdUntil := 0, trained := false } ∧ u.dev.evts = s.dev.evts ∧
      u.dev.fab.out = s.dev.fab.out ++ [.hello k.val s.dev.fab.candidate s.dev.fab.quality]) ∧
    (s.dev.portLives k.val = true → frameSound frame = false → Completes (.fabricFrameBadCrc ⟨k, frame, blocks⟩) s fun u =>
      same u ∧ u.dev.fport k.val = { p with crcCount := p.crcCount + 1 } ∧ u.dev.fab.out = s.dev.fab.out ∧
      (p.crcCount = 16 → (u.dev.evt evFab).bits.getLsbD 8 = true) ∧ (p.crcCount ≠ 16 → u.dev.evts = s.dev.evts)) ∧
    (frameSound frame = true → exec (.fabricFrameBadCrc ⟨k, frame, blocks⟩) s = .next s)

/-- The Commons forms. A beacon is kept for its port; the only key heard is adopted with its Bellringer, one level further away, unless its sequence has not advanced for 4 epochs. A neighbour's exchange is answered with its times. An exchange gives the link's delay and, with the parent, the offset. The Bellringer gives a device the first address that applies, the one it prefers where none is held, and of two that kept one address through a merge the lower UID keeps it; a device takes the address assigned to its UID and closes its fabric sessions. In part the model's choice: log 124, 126, 128, 129, 131 and 249. -/
def Obligations.TheCommonsForms : Prop :=
  ∀ (s : State) (k : Fin 4), (s.dev.fport k.val).up = true → s.dev.clk.counting = true → twf FPort.init s.dev.fab.ports = true →
    let same (u : State) : Prop := DeviceOnly s u ∧ u.dev.fw.eff = s.dev.fw.eff ∧ u.dev.regs = s.dev.regs ∧ u.dev.pw = s.dev.pw ∧
      u.dev.chans = s.dev.chans ∧ u.dev.clk.time = s.dev.clk.time
    (∀ b : BeaconIn, Completes (.beacon k b) s fun u => same u ∧ (u.dev.fport k.val).nbUid = some b.nbUid ∧
      ∃ nb, (u.dev.fport k.val).beacon = some nb ∧ nb.hasKey = b.hasKey ∧ nb.keyUid = b.keyUid ∧ nb.keyQual = b.keyQual ∧
        nb.keySeq = b.keySeq ∧ nb.keyAddr = b.keyAddr ∧ nb.level = b.level) ∧
    (∀ b : BeaconIn, (∀ n, (s.dev.fport n).beacon = none) → b.hasKey = true → b.keyUid ≠ ownUid →
      (∀ y ∈ s.dev.fab.keys, y.uid = b.keyUid → y.qual = b.keyQual → y.seq < b.keySeq) →
      (s.dev.eligible = false ∨ s.dev.epoch < s.dev.fab.electAfter) → Completes (.beacon k b) s fun u =>
        same u ∧ u.dev.fab.hasKey = true ∧ u.dev.fab.keyUid = b.keyUid ∧ u.dev.fab.keyQual = b.keyQual ∧ u.dev.fab.bellringer = b.keyAddr ∧
        u.dev.fab.level = b.level + 1 ∧ (s.dev.fab.brUid ≠ b.keyUid ∨ s.dev.fab.brQual ≠ b.keyQual → (u.dev.evt evFab).bits.getLsbD 5 = true)) ∧
    (∀ b : BeaconIn, (∀ n, (s.dev.fport n).beacon = none) → b.hasKey = true → b.keyUid ≠ ownUid →
      (∃ y ∈ s.dev.fab.keys, y.uid = b.keyUid ∧ y.qual = b.keyQual ∧ b.keySeq ≤ y.seq ∧ y.advanced + 4 ≤ s.dev.epoch ∧ s.dev.epoch ≤ y.heard + 70) →
      (∀ y z, y ∈ s.dev.fab.keys → z ∈ s.dev.fab.keys → y.uid = z.uid → y.qual = z.qual → y = z) →
      (s.dev.eligible = false ∨ s.dev.epoch < s.dev.fab.electAfter) → Completes (.beacon k b) s fun u => same u ∧ u.dev.fab.hasKey = false) ∧
    (∀ t1 t2 t3 steer : Int, Gives (.delayExchange k t1 t2 t3 none steer) s ((s.dev.countPort k.val fcRx).send (.delay k.val (some (t1, t2, t3))))) ∧
    (∀ t1 t2 t3 t4 steer : Int, Completes (.delayExchange k t1 t2 t3 (some t4) steer) s fun u =>
      same u ∧ (u.dev.fport k.val).delay512 = (t4 - t1) - (t3 - t2) ∧ u.dev.fab.keyUid = s.dev.fab.keyUid ∧
      (s.dev.fab.isBellringer = true → u.dev.clk = s.dev.clk ∧ u.dev.fab.offset512 = s.dev.fab.offset512) ∧
      ((((s.dev.countPort k.val fcRx).setFport k.val fun p => { p with delay512 := (t4 - t1) - (t3 - t2) }).refreshOwn.fab.parent.any
          fun x => x.1 == k.val) = true → s.dev.clk.source ≠ 3 →
        u.dev.fab.offset512 = (t1 - t2) + (t4 - t3) ∧ u.dev.fab.offsetAt = some s.dev.epoch ∧ u.dev.clk = s.dev.clk)) ∧
    (∀ (uid : BitVec 64) (pref : Nat),
      (s.dev.fab.isBellringer = false → Gives (.addressRequest k uid pref) s (s.dev.countPort k.val fcRx)) ∧
      (s.dev.fab.isBellringer = true → uid ≠ ownUid →
        let known := s.dev.fab.leases.any fun l => l.uid == uid && l.inUse
        let rival := s.dev.fab.leases.find? fun l => l.addr == pref && l.inUse && decide (s.dev.epoch < l.merged) && decide (uid < l.uid)
        let gets (a : Nat) (u : State) : Prop := same u ∧ .addressAssign uid a ∈ u.dev.fab.out ∧
          (known = false → (u.dev.fab.members.any fun m => m.addr == a) = true ∧ (u.dev.evt evFab).bits.getLsbD 2 = true)
        (rival = none → ∀ a, s.dev.fab.choose s.dev.epoch uid pref = some a → Completes (.addressRequest k uid pref) s fun u =>
          gets a u ∧ u.dev.fab.out = s.dev.fab.out ++ [.addressAssign uid a]) ∧
        (rival = none → s.dev.fab.choose s.dev.epoch uid pref = none → Gives (.addressRequest k uid pref) s (s.dev.countPort k.val fcRx)) ∧
        (rival.isSome = true → known = false → Completes (.addressRequest k uid pref) s (gets pref)))) ∧
    (∀ (now : Nat) (f : Fabric) (uid : BitVec 64) (pref : Nat), f.leases = [] → 1 ≤ pref → pref ≤ 4094 → pref ≠ f.address →
      f.choose now uid pref = some pref) ∧
    ∀ a, s.dev.fab.admitted = true → s.dev.fab.isBellringer = false → 1 ≤ a → a ≤ 4094 → Completes (.addressAssignment ownUid a) s fun u =>
      same u ∧ u.dev.fab.address = a ∧
      (a = s.dev.fab.address → u.dev.evts = s.dev.evts ∧ u.dev.fw = s.dev.fw) ∧
      (a ≠ s.dev.fab.address → u.dev.fab.lastAddress = a ∧ (u.dev.evt evFab).bits.getLsbD 4 = true ∧
        (s.dev.fab.address ≠ 0 → ∀ x, x ∈ u.dev.fw.sessions → x.transport ≠ 2))

/-- Fabric transactions. A participant opens a linked transaction for a coordinator with a session, at most 16, and answers; PREPARE makes an open one wait for its batch, and is answered YES if it has voted and TXN_STALE if it is unknown; a decision, in doubt too, is remembered and acknowledged, and a query of it is answered. At the coordinator the last good answer opens the transaction, a bad one closes it, one NO aborts the commit, the last YES decides it and tells every participant, and acknowledgements are ticked off. In part the model's choice: log 134 and 138. -/
def Obligations.FabricTransactionsAreDecidedOnce : Prop :=
  ∀ (s : State) (a txn n : Nat) (parts : List Nat) (closed : Bool), s.dev.fab.address ≠ 0 → a ≠ s.dev.fab.address →
    let same (u : State) : Prop := u.pending = s.pending ∧ u.dev.fw.eff = s.dev.fw.eff ∧ u.dev.fw.live = s.dev.fw.live ∧
      u.dev.regs = s.dev.regs ∧ u.dev.pw = s.dev.pw ∧ u.dev.clk = s.dev.clk ∧ u.dev.chans = s.dev.chans
    let sends (u : State) (l : List OutFrame) : Prop := u.dev.fab.out = s.dev.fab.out ++ l
    let hosted := s.dev.fw.sessions.any fun x => x.transport == 2 && x.peer == a
    (s.dev.txn? (some a) txn = none →
      (hosted = false → Completes (.fabricTxnOpen a txn n parts) s fun u =>
        same u ∧ u.mbx = s.mbx ∧ u.dev.fw = s.dev.fw ∧ sends u [.txnOpenReply a txn stBadField]) ∧
      (hosted = true → 16 ≤ (s.dev.fw.txns.filter fun t => t.coord.isSome).length → Completes (.fabricTxnOpen a txn n parts) s fun u =>
        same u ∧ u.mbx = s.mbx ∧ u.dev.fw = s.dev.fw ∧ sends u [.txnOpenReply a txn stTxnLimit]) ∧
      (hosted = true → (s.dev.fw.txns.filter fun t => t.coord.isSome).length < 16 → Completes (.fabricTxnOpen a txn n parts) s fun u =>
        same u ∧ u.mbx = s.mbx ∧ sends u [.txnOpenReply a txn stOk] ∧
        ∃ t, u.dev.txn? (some a) txn = some t ∧ t.state = .open_ ∧ t.ticket = n ∧ t.items = [] ∧ u.dev.fw.txns = s.dev.fw.txns ++ [t]) ∧
      Completes (.fabricPrepare a txn n) s fun u => same u ∧ u.mbx = s.mbx ∧ u.dev.fw = s.dev.fw ∧ sends u [.vote a txn stTxnStale]) ∧
    (∀ t, s.dev.txn? (some a) txn = some t →
      (t.prepared = true → Completes (.fabricPrepare a txn n) s fun u => same u ∧ u.dev.fw = s.dev.fw ∧ sends u [.vote a txn stOk]) ∧
      (t.prepared = false → t.state = .open_ → Completes (.fabricPrepare a txn n) s fun u =>
        same u ∧ sends u [] ∧ u.dev.txn? (some a) txn = some { t with state := .waiting, target := n, arrived := s.dev.epoch, decision := none }) ∧
      (t.state = .waiting → t.prepared = true → Completes (.fabricDecision a txn true closed) s fun u =>
        same u ∧ u.mbx = s.mbx ∧ sends u [.decisionAck a txn] ∧ u.dev.txn? (some a) txn = some { t with decision := some true } ∧
        (u.dev.fw.decided.any fun x => decide (x.coord = some a) && x.txn == txn && x.commit) = true) ∧
      (t.state = .waiting → Completes (.fabricDecision a txn false closed) s fun u =>
        same u ∧ u.mbx = s.mbx ∧ .decisionAck a txn ∈ u.dev.fab.out ∧ (closed = true → u.dev.txn? (some a) txn = none) ∧
        (closed = false → ∃ y, u.dev.txn? (some a) txn = some y ∧ y.state = .open_ ∧ y.prepared = false ∧ y.items = t.items)) ∧
      (t.state = .inDoubt → t.doubtEnd = none → Completes (.fabricDecision a txn true closed) s fun u =>
        same u ∧ sends u [.decisionAck a txn] ∧ ∃ y, u.dev.txn? (some a) txn = some y ∧ y.decision = some true ∧ y.doubtEnd = some (s.dev.epoch + 2))) ∧
    (∀ x, s.dev.fw.decided.find? (fun x => decide (x.coord = none) && x.txn == txn) = some x →
      Completes (.fabricDecisionQuery a s.dev.fab.address txn) s fun u =>
        same u ∧ u.mbx = s.mbx ∧ u.dev.fw = s.dev.fw ∧ sends u [.decision a s.dev.fab.address txn x.commit x.closed]) ∧
    Completes (.fabricDecisionAck a txn) s (fun u =>
      same u ∧ u.mbx = s.mbx ∧ sends u [] ∧ ∀ x, x ∈ u.dev.fw.decided → x.coord = none → x.txn = txn → a ∉ x.unacked) ∧
    ∀ t, s.dev.txn? none txn = some t →
      (∀ w m st, t.fabric = true → t.state = .open_ → t.waiter = some w → w.via = .mailbox m → (s.mailbox m).reqBusy = true →
        twf Mailbox.init s.mbx = true → (t.parts.any fun p => p.addr == a && !p.opened) = true →
        let t' := t.atPart a fun p => { p with opened := true }
        let answered (u : State) (st : BitVec 16) (p : List Byte) : Prop := (u.mailbox m).rspValid = true ∧ (u.mailbox m).reqBusy = false ∧
          (u.mailbox m).response = bufWrite (s.mailbox m).response (s.dev.answerBytes st w.tag s.dev.epoch p)
        (t'.parts.all (·.opened) = true → Completes (.fabricTxnOpenReply a txn stOk) s fun u =>
          same u ∧ sends u [] ∧ u.dev.txn? none txn = some { t' with waiter := none } ∧ answered u stOk (leBytes 4 t.id ++ leBytes 8 t.ticket)) ∧
        (t'.parts.all (·.opened) = false → Completes (.fabricTxnOpenReply a txn stOk) s fun u =>
          same u ∧ u.mbx = s.mbx ∧ sends u [] ∧ u.dev.txn? none txn = some t') ∧
        (st ≠ stOk → Completes (.fabricTxnOpenReply a txn st) s fun u => same u ∧ u.dev.txn? none txn = none ∧ answered u st [])) ∧
      (t.prepared = true → t.decision = none → t.state = .waiting →
        let voted (st : BitVec 16) : Txn := t.atPart a fun p => { p with vote := some st }
        ((∀ p ∈ (voted stOk).parts, p.vote = some stOk) → Completes (.fabricVote a txn stOk) s fun u =>
          same u ∧ u.mbx = s.mbx ∧ sends u (t.parts.map fun p => .decision p.addr s.dev.fab.address t.id true false) ∧
          u.dev.txn? none txn = some { voted stOk with decision := some true }) ∧
        ((∀ p ∈ (voted stOk).parts, p.vote = none ∨ p.vote = some stOk) → (∃ p ∈ (voted stOk).parts, p.vote = none) →
          Completes (.fabricVote a txn stOk) s fun u => same u ∧ u.mbx = s.mbx ∧ sends u [] ∧ u.dev.txn? none txn = some (voted stOk)) ∧
        (∀ st, st ≠ stOk → (∃ p ∈ t.parts, p.addr = a) →
          let lives : Prop := ∃ w y, t.waiter = some w ∧ s.dev.session? w.session = some y ∧ y.serial = w.serial
          (lives → Completes (.fabricVote a txn st) s fun u =>
            same u ∧ ∃ y, u.dev.txn? none txn = some y ∧ y.state = .open_ ∧ y.prepared = false ∧ y.items = t.items) ∧
          (¬lives → Completes (.fabricVote a txn st) s fun u => same u ∧ u.dev.txn? none txn = none)))

/-- Frames on their way. A control frame for another device leaves by the next hop, one hop older, or is dropped; a partner with a session reads and writes registers, one without is dropped; a cart for this device leaves unchanged by its data port, a repeated one is dropped, and one on its way takes its route's hop; an acknowledgement frees the carts it covers; a failed link moves a stream to its backup. In part the model's choice: log 88, 123, 144 and 182. -/
def Obligations.FramesAndCartsTravel : Prop :=
  ∀ (s : State) (a t : Nat) (k : Fin 4) (frame : List Byte) (c : Cart), s.dev.fab.address ≠ 0 →
    let f := frameHdr frame
    let same (u : State) : Prop := DeviceOnly s u ∧ u.dev.fw = s.dev.fw ∧ u.dev.regs = s.dev.regs ∧ u.dev.pw = s.dev.pw ∧
      u.dev.chans = s.dev.chans ∧ u.dev.points = s.dev.points ∧ u.dev.nv = s.dev.nv
    ((s.dev.fport k.val).up = true → frameSound frame = true → f.vc ≤ 1 → f.dest ≠ 0 → f.dest ≠ s.dev.fab.address →
      (s.dev.fab.admitted = false → Completes (.controlFrameForward k frame) s fun u => same u ∧ u.dev.fab = s.dev.fab) ∧
      (s.dev.fab.admitted = true → f.dest ≠ 0xFFF → Completes (.controlFrameForward k frame) s fun u => same u ∧
        u.dev.fab = { s.dev.fab with out := s.dev.fab.out ++
          ((s.dev.fab.onward k.val f.dest).map fun n => OutFrame.forwarded n (frameOn frame)).toList })) ∧
    (∀ (addr : BitVec 24) (v : Word) (write : Bool), (s.dev.fw.sessions.any fun x => x.transport == 2 && x.peer == a) = false →
      Completes (.remoteRegisterAccess a write addr v) s fun u => same u ∧ u.dev.fab = s.dev.fab) ∧
    (∀ (addr : BitVec 24) (v : Word), (s.dev.fw.sessions.any fun x => x.transport == 2 && x.peer == a) = true →
      let w := s.writeReg ⟨.fabric, 0#8, addr, v⟩
      exec (.remoteRegisterAccess a true addr v) s = .next { w with dev := w.dev.send (.register a 0#32) } ∧
      Completes (.remoteRegisterAccess a false addr v) s fun u =>
        DeviceOnly s u ∧ .register a (s.readReg .fabric addr).1 ∈ u.dev.fab.out ∧ u.dev.fw = s.dev.fw) ∧
    (s.dev.fab.received.find? (fun x => x.1 == 4096 * c.source + c.stream) = none → s.dev.portSends c.type = true →
      Completes (.fabricCart c s.dev.fab.address a [] t) s fun u =>
        same u ∧ u.dev.port = { s.dev.port with ready := readyInsert ⟨t + 24000, c⟩ s.dev.port.ready } ∧
        (u.dev.fab.received.any fun x => x.1 == 4096 * c.source + c.stream && x.2.1 == c.seq + 1#32) = true) ∧
    (∀ later, s.dev.fab.received.find? (fun x => x.1 == 4096 * c.source + c.stream) = some (4096 * c.source + c.stream, c.seq + 1#32, later) →
      Completes (.fabricCart c s.dev.fab.address a [] t) s fun u => same u ∧ u.dev.port = s.dev.port ∧ u.dev.cnt = s.dev.cnt) ∧
    (∀ dest hops h, dest ≠ s.dev.fab.address → hops.find? (fun x => x.addr == s.dev.fab.address) = some h →
      ((s.dev.fport h.port).up = false → Completes (.fabricCart c dest a hops t) s fun u =>
        same u ∧ u.dev.port = s.dev.port ∧ u.dev.fab = s.dev.fab) ∧
      ((s.dev.fport h.port).up = true → Completes (.fabricCart c dest a hops t) s fun u =>
        same u ∧ u.dev.port = s.dev.port ∧ u.dev.fab.out = s.dev.fab.out ++ [.cart dest a c] ∧ (c.source, c.stream, h.port) ∈ u.dev.fab.transit)) ∧
    (∀ stream seq, (s.dev.fab.routes.any fun x => x.stream == stream && x.dest == a) = true → Completes (.streamAck a stream seq) s fun u =>
      same u ∧ u.dev.fab = { s.dev.fab with routes := s.dev.fab.routes.map fun x =>
        if x.stream = stream then { x with acked := some seq, kept := x.kept.filter fun y => seqLater y.2.seq seq } else x }) ∧
    (∀ addr port, (s.dev.fab.routes.map (·.stream)).Nodup →
      let hit (l : List Hop) : Bool := l.any (bothWays s.dev.fab.links [⟨addr, port⟩]).contains
      let moves (x : Route) : Bool := hit x.ans.primary && !x.ans.backup.isEmpty && !(hit x.ans.backup)
      Completes (.routeFailure addr port) s fun u =>
        same u ∧ (s.dev.fab.routes.any moves = true → (u.dev.evt evFab).bits.getLsbD 6 = true) ∧
        u.dev.fab.routes = s.dev.fab.routes.map fun x =>
          if moves x then { x with lost := (if x.lost = [] then x.ans.primary else x.lost), ans := { x.ans with primary := x.ans.backup, backup := [] } }
          else if hit x.ans.backup then { x with ans := { x.ans with backup := [] } } else x)

/-- Requests of the fabric that something waits for. A partner's response within 20 ms completes the request that was forwarded, as it stands; a later one completes nothing, and 20 ms without an answer complete it with FAB_TIMEOUT. The Bellringer answers a reservation and keeps it if it fits; while devices still owe it their reports a question waits. It acknowledges when a commit takes effect, a cancellation, which takes its reservations out of the table, and a report, which stands for what it knew of that device. New routes are taken over, the streams that end here are noted and acknowledged, and what is acknowledged is sent no more. An answer, or none in time, decides the commit that waits for its routes, a refusal leaving the configuration as it was; an answer that nothing waits for changes nothing. In part the model's choice: log 123, 142 and 143. -/
def Obligations.FabricRequestsAreAnswered : Prop :=
  ∀ (s : State) (a : Nat) (tag : Word) (bytes : List Byte) (r : ReserveReply),
    let sameAt (c : Clock) (u : State) : Prop := u.pending = s.pending ∧ u.dev.fw.eff = s.dev.fw.eff ∧ u.dev.fw.effective = s.dev.fw.effective ∧
      u.dev.regs = s.dev.regs ∧ u.dev.pw = s.dev.pw ∧ u.dev.clk = c ∧ u.dev.chans = s.dev.chans
    let same (u : State) : Prop := sameAt s.dev.clk u
    let kept (u : State) : Prop := same u ∧ u.mbx = s.mbx ∧ u.dev.fw = s.dev.fw
    let told (u : State) (w : Waiter) (st : BitVec 16) (l : List Byte) : Prop :=
      ∀ y, s.dev.session? w.session = some y → y.serial = w.serial → y.transport = 0 → ∃ z c, u.dev.session? w.session = some z ∧ z.queue = y.queue ++ [c] ∧
        z.running = y.running - 1 ∧ c.status = st ∧ c.tag = w.tag ∧ c.command = w.command ∧ c.payload = l
    (∀ f, s.dev.fab.forwards.find? (fun f => f.peer == a && f.tag == BitVec.ofNat 32 (u32 bytes 4)) = some f →
      (s.dev.clk.time ≤ f.ends → Completes (.fabricMessageResponse a bytes) s fun u =>
        same u ∧ u.mbx = s.mbx ∧ u.dev.fab.forwards = s.dev.fab.forwards.erase f ∧ told u f.waiter stOk (bytes.take (16 + u16 bytes 0))) ∧
      (f.ends < s.dev.clk.time → Completes (.fabricMessageResponse a bytes) s fun u => kept u ∧ u.dev.fab = s.dev.fab)) ∧
    (∀ f, s.dev.fab.forwards.find? (fun f => f.peer == a && f.tag == tag) = some f →
      (s.dev.clk.reaches f.ends = true → Completes (.fabricForwardTimeout a tag) s fun u =>
        sameAt (s.dev.tickTo f.ends).clk u ∧ u.mbx = s.mbx ∧ u.dev.fab.forwards = s.dev.fab.forwards.erase f ∧ told u f.waiter stFabTimeout []) ∧
      (s.dev.clk.reaches f.ends = false → exec (.fabricForwardTimeout a tag) s = .next s)) ∧
    (∀ (key e : Nat) (items : List ReserveItem) (lanes : List LaneSum), s.dev.fab.isBellringer = true → a ≠ s.dev.fab.address →
      let f := s.dev.fab
      let noted (u : State) : Prop := kept u ∧ .reserveReply a (.noted key) ∈ u.dev.fab.out
      (f.unreported = [] → Completes (.reserveRequest a (.ask key e items) lanes) s fun u =>
        kept u ∧ .reserveReply a (f.reserve a key e items lanes).1 ∈ u.dev.fab.out ∧
        u.dev.fab.reservations = (f.reserve a key e items lanes).2.reservations) ∧
      (f.unreported ≠ [] → Completes (.reserveRequest a (.ask key e items) lanes) s fun u =>
        kept u ∧ u.dev.fab = { f with asked := f.asked ++ [(a, .ask key e items, lanes)] }) ∧
      (∀ o, Completes (.reserveRequest a (.due key o) lanes) s fun u => noted u ∧ u.dev.fab.reservations = dueKey a key o f.reservations) ∧
      Completes (.reserveRequest a (.cancel key) lanes) s (fun u => noted u ∧ u.dev.fab.reservations = cancelKey a key f.reservations) ∧
      (∀ rs, (∃ x ∈ f.unreported, x ≠ a) → Completes (.reserveRequest a (.report key rs) lanes) s fun u =>
        noted u ∧ u.dev.fab.unreported = f.unreported.filter (· != a) ∧ u.dev.fab.asked = f.asked ∧
        u.dev.fab.reservations = (f.reservations.filter fun x => x.src != a) ++ rs.map fun x => { x with src := a }) ∧
      Completes (.reserveRequest a .noted lanes) s fun u => kept u ∧ u.dev.fab.out = f.out ∧ u.dev.fab.reservations = f.reservations ∧
        ∀ x, x ∈ u.dev.fab.telling ↔ x ∈ f.telling ∧ ∀ l, x ≠ .reserveReply a (.ending l)) ∧
    (s.dev.fab.address ≠ 0 →
      (∀ rs, Completes (.reserveAnswer (.changed rs)) s fun u =>
        kept u ∧ u.dev.fab = { s.dev.fab with routes := s.dev.fab.routes.map (Route.offer rs) }) ∧
      (∀ l, Completes (.reserveAnswer (.ending l)) s fun u =>
        kept u ∧ u.dev.fab = { s.dev.fab with ending := l, out := s.dev.fab.out ++ [.reserve .noted] }) ∧
      (∀ k, Completes (.reserveAnswer (.noted k)) s fun u => kept u ∧ u.dev.fab.out = s.dev.fab.out ∧
        ∀ x, x ∈ u.dev.fab.telling ↔ x ∈ s.dev.fab.telling ∧ ∀ y, x = .reserve y → ReserveAsk.key? y ≠ some k) ∧
      (s.dev.fw.deciding = none → ∀ rs, Completes (.reserveAnswer (.routes rs)) s fun u => kept u ∧ u.dev.fab = s.dev.fab)) ∧
    ∀ x key items k keys t, s.dev.fw.deciding = some x → x.waits = some (key, items) → x.todo = k :: keys → s.dev.txn? k.1 k.2 = some t →
      t.state = .waiting →
      ((∀ k l rs, r ≠ .noted k ∧ r ≠ .ending l ∧ r ≠ .changed rs) → s.dev.fab.address ≠ 0 → Completes (.reserveAnswer r) s fun u =>
        same u ∧ (keys = [] → u.dev.fw.deciding = none)) ∧
      (k ∉ keys → k.2 ∉ x.txns →
        let open_ (u : State) : Prop := same u ∧ ∃ y, u.dev.txn? k.1 k.2 = some y ∧ y.state = .open_ ∧ y.items = t.items
        (s.dev.fab.address ≠ 0 → Completes (.reserveAnswer .noMember) s open_) ∧ Completes .reserveTimeout s open_) ∧
      (keys = [] → x.txns = [] → x.join = false →
        (s.dev.fab.address ≠ 0 → Completes (.reserveAnswer .noMember) s fun u =>
          same u ∧ u.dev.fw.deciding = none ∧ u.dev.fw.live = s.dev.fw.live ∧ u.dev.fw.committed = s.dev.fw.committed ∧
          ∃ y, u.dev.txn? k.1 k.2 = some y ∧ y.state = .open_ ∧ y.items = t.items) ∧
        Completes .reserveTimeout s fun u =>
          same u ∧ u.dev.fw.deciding = none ∧ u.dev.fw.live = s.dev.fw.live ∧ u.dev.fw.committed = s.dev.fw.committed ∧
          ∃ y, u.dev.txn? k.1 k.2 = some y ∧ y.state = .open_ ∧ y.items = t.items)

/-! ### Long work that ends -/

/-- A bank write completes: the bank that did not hold the newest commit holds the records under the next SEQ, and its commit record matches its header and its payload. A calibration's corrections stand for the next batch, its write is reported, and both waiting commands complete. The ends of a `cal.point`, a self-test, a loopback run and a verification: each completes for the session that waits. A `cal.point` ends once the samples of all its measurements have come, or with its third restart; measurements that pass every check stand as the accepted ones; the first failure is counted and closes the calibration; a failed test raises its event bit; a good image stands in the bank not in force, and another leaves the nonvolatile die as it was. In part the model's choice: log 110, 111, 112, 117, 118, 119, 149, 150, 151, 215, 216 and 217. -/
def Obligations.LongWorkCompletes : Prop :=
  (∀ (s : State) (w : StoreWrite) (ws : List StoreWrite), s.dev.work.writes = w :: ws →
     let same (u : State) : Prop := DeviceOnly s u ∧ u.dev.fw.eff = s.dev.fw.eff ∧ u.dev.fw.live = s.dev.fw.live ∧ u.dev.fw.txns = s.dev.fw.txns ∧
       u.dev.regs = s.dev.regs ∧ u.dev.clk = s.dev.clk ∧ u.dev.chans = s.dev.chans ∧ u.dev.points = s.dev.points ∧ u.dev.pw = s.dev.pw ∧
       u.dev.work.writes = ws
     let told (u : State) (st : BitVec 16) (P : List Byte → Prop) : Prop := ∀ x, w.waiter = some x → ∀ y, s.dev.session? x.session = some y →
       y.serial = x.serial → y.transport = 0 → ∃ z c, u.dev.session? x.session = some z ∧ z.queue = y.queue ++ [c] ∧ z.running = y.running - 1 ∧ c.status = st ∧
         c.tag = x.tag ∧ c.command = x.command ∧ P c.payload
     (w.store = 0 → Completes (.bankWriteDone 0) s fun u =>
       let b := targetBank s.dev.nv.newestOwner
       same u ∧ u.dev.nv.log = s.dev.nv.log ∧
       ((∀ y ∈ ws, y.store ≠ 0) → u.dev.nv.owner (!b) = s.dev.nv.owner (!b) ∧ (u.dev.nv.owner b).valid = true ∧
         (u.dev.nv.owner b).seq = s.dev.work.ownerSeq + 1#32 ∧ (u.dev.nv.owner b).recs = w.recs ∧
         (w.kind ≠ 0 → (u.dev.nv.owner b).ledger = w.ledger)) ∧
       (u.dev.evt evCal).bits.getLsbD 2 = true ∧
       (w.kind = 0 → u.dev.work.ownerNew = some w.recs ∧ u.dev.work.calJoin = true ∧ (u.dev.evt evCal).bits.getLsbD 0 = true ∧
         u.dev.work.ownerLedger.ownerCount = w.ledger.ownerCount + 1#32 ∧ told u stOk fun _ => True) ∧
       (w.kind ≠ 0 → u.dev.work.ownerNew = s.dev.work.ownerNew ∧ u.dev.work.ownerLedger = s.dev.work.ownerLedger ∧
         u.dev.fw.sessions = s.dev.fw.sessions)) ∧
     (w.store = 1 → Completes (.bankWriteDone 1) s fun u =>
       let b := targetBank s.dev.nv.newestLin
       same u ∧ u.dev.nv.log = s.dev.nv.log ∧
       ((∀ y ∈ ws, y.store ≠ 1) → u.dev.nv.lin (!b) = s.dev.nv.lin (!b) ∧ (u.dev.nv.lin b).valid = true ∧
         (u.dev.nv.lin b).seq = s.dev.work.linSeq + 1#32 ∧ (u.dev.nv.lin b).sets = w.sets) ∧
       told u stOk fun p => p = byteOf (bit01 b) ++ zeros 3 ++ leWord (s.dev.work.linSeq + 1#32))) ∧
  (∀ s : State,
     let same (u : State) : Prop := DeviceOnly s u ∧ u.dev.fw.eff = s.dev.fw.eff ∧ u.dev.fw.live = s.dev.fw.live ∧ u.dev.fw.txns = s.dev.fw.txns ∧
       u.dev.regs = s.dev.regs ∧ u.dev.clk = s.dev.clk ∧ u.dev.chans = s.dev.chans ∧ u.dev.points = s.dev.points ∧ u.dev.pw = s.dev.pw
     let told (u : State) (x : Waiter) (st : BitVec 16) (P : List Byte → Prop) : Prop := ∀ y, s.dev.session? x.session = some y →
       y.serial = x.serial → y.transport = 0 → ∃ z c, u.dev.session? x.session = some z ∧ z.queue = y.queue ++ [c] ∧ z.running = y.running - 1 ∧ c.status = st ∧
         c.tag = x.tag ∧ c.command = x.command ∧ P c.payload
     (∀ c level, s.dev.work.cal = some c → c.level = some level → s.dev.measuredAll c = true →
       let fails := s.dev.measureFails c level
       ∀ t, Completes (.calMeasurementDone t) s fun u => same { u with dev := { u.dev with clk := s.dev.clk } } ∧ u.dev.clk = (s.dev.tickTo t).clk ∧
         (fails = [] → (∀ w, c.waiter = some w → told u w stOk fun p => p = []) ∧ u.dev.nv = s.dev.nv ∧ ∃ k, u.dev.work.cal = some k ∧ k.level = none ∧
           k.closing = c.closing ∧ k.chans = c.chans ∧ k.points = c.points) ∧
         (∀ f, firstFail fails = some f → (∀ w, c.waiter = some w → told u w (checkStatus f.code) fun p => p = f.report level) ∧
           (u.dev.evt evCal).bits.getLsbD 1 = true ∧ u.dev.work.ownerLedger.rejectCount = s.dev.work.ownerLedger.rejectCount + 1#32 ∧
           ∃ k, u.dev.work.cal = some k ∧ k.closing = true)) ∧
     (∀ tests w (pass fail : Word) detail, s.dev.work.selftest = some (tests, w) → pass.toNat + fail.toNat = tests → pass &&& fail = 0#32 →
       detail.length = 4 * testCount fail.toNat → Completes (.selftestDone pass fail detail) s fun u =>
         same u ∧ u.dev.work = { s.dev.work with selftest := none } ∧ told u w stOk (fun p => p.take 8 = leWord pass ++ leWord fail) ∧
         (fail ≠ 0#32 → (u.dev.evt evSys).bits.getLsbD 6 = true)) ∧
     (∀ x bits errors, s.dev.work.loopback = some x → x.ends ≤ s.dev.epoch → Completes (.loopbackDone bits errors) s fun u =>
       same u ∧ u.dev.work = { s.dev.work with loopback := none } ∧ told u x.waiter stOk fun p => p = leBytes 8 bits ++ leBytes 8 errors) ∧
     ∀ r size w, s.dev.work.verify = some (r, size, w) →
       let l := (s.dev.region r).image size s.dev.free
       Completes .fwVerifyDone s fun u =>
         same u ∧ u.dev.work = { s.dev.work with verify := none } ∧ told u w (s.dev.nv.verify l) (fun p => p = []) ∧
         (s.dev.nv.verify l = stOk → u.dev.nv = s.dev.nv.setFwBank (!s.dev.nv.fwForceB) (imageBank l) ∧
           (u.dev.evt evSys).bits.getLsbD 5 = true) ∧
         (s.dev.nv.verify l ≠ stOk → u.dev.nv = s.dev.nv))

/-! ### The firmware's commands -/

/-- The queries, from any mailbox: each answers OK and changes nothing but its session's timer; a `capture.read` also reports the memory errors that it meets. With TXN 0 they report the live configuration (R346). In part the model's choice: log 57, 109 and 118. -/
def Obligations.QueriesAnswerAndChangeNothing : Prop :=
  ∀ (s : State) (m : Fin 4),
    let q := ReqSource.mailbox m
    let l := s.body m
    let live := s.dev.fw.live
    let asks (code n : Nat) : Prop := s.stands code m ∧ l.length = n ∧ s.txnNo m = 0
    (asks 0x0104 0 → AnswersSame (.sessionList q) m s fun p => p.take 4 = leBytes 4 s.dev.fw.sessions.length) ∧
    (asks 0x0204 4 → (u32 l 0 = 0 → AnswersSame (.txnStatus q) m s fun p => p.length = 20 ∧ p.take 1 = byteOf 0xFF) ∧
      ∀ t, u32 l 0 ≠ 0 → s.dev.reported (s.sessionNo m) (u32 l 0) = some t → AnswersSame (.txnStatus q) m s fun p =>
        p.take 4 = byteOf t.state.code ++ byteOf (bit01 (t.fabric || t.coord.isSome)) ++ leBytes 2 t.items.length) ∧
    (asks 0x0302 4 → u16 l 0 < 128 → u16 l 2 = 0 → AnswersSame (.chanQuery q) m s fun p =>
      p.take 12 = writeChan (u16 l 0) (live.chan (u16 l 0))) ∧
    (asks 0x0402 4 → u16 l 0 < 1024 → u16 l 2 = 0 → AnswersSame (.pointQuery q) m s fun p =>
      p.take 24 = writePoint (u16 l 0) (live.point (u16 l 0))) ∧
    (asks 0x0403 4 → u16 l 0 + u16 l 2 ≤ 128 → 0 < u16 l 2 →
      let clashes := planClashes live (u16 l 0) (u16 l 2) s.dev.pw.vref
      (clashes = [] → AnswersSame (.carrierPlanCheck q) m s fun p => p = []) ∧
      (clashes ≠ [] → Answers (.carrierPlanCheck q) m s stPlanClash (clashReport clashes) s.dev.epoch (s.touched m))) ∧
    (asks 0x0502 4 → 1 ≤ u16 l 2 → u16 l 2 ≤ 8 → u16 l 0 + u16 l 2 ≤ 1024 → AnswersSame (.linQuery q) m s fun p =>
      p = (List.range (u16 l 2)).flatMap fun i => writeLin (u16 l 0 + i) (live.lin (u16 l 0 + i))) ∧
    (asks 0x0602 4 → streamExists (u16 l 0) = true → u16 l 0 ≠ 0xFFF → u16 l 2 = 0 → AnswersSame (.streamQuery q) m s fun p =>
      p.take 16 = writeStream (u16 l 0) (live.stream (u16 l 0))) ∧
    (asks 0x0702 4 → l.take 2 = [0#8, 0#8] → u16 l 2 < 128 → AnswersSame (.millQuery q) m s fun p =>
      p.take 48 = writeJob (u16 l 2) (live.job (u16 l 2))) ∧
    (asks 0x0802 4 → l.take 2 = [0#8, 0#8] → u16 l 2 < 32 → AnswersSame (.trigQuery q) m s fun p =>
      p.take 64 = writeUnit (u16 l 2) (live.unit (u16 l 2))) ∧
    (asks 0x0905 4 → u16 l 2 ≤ 28 → u16 l 0 + u16 l 2 ≤ 1024 → AnswersSame (.ledgerRead q) m s fun p =>
      p.take 8 = leWord s.dev.work.ownerLedger.ownerCount ++ leWord s.dev.work.ownerLedger.rejectCount) ∧
    (asks 0x0A02 0 → AnswersSame (.timeQuery q) m s fun p => p.length = 40 ∧ p.take 8 = leBytes 8 s.dev.clk.time) ∧
    (asks 0x0A04 0 → AnswersSame (.clockQuery q) m s fun p => p.length = 44 ∧ p.take 4 = leWord s.dev.clk.stat) ∧
    (asks 0x0B01 0 → AnswersSame (.fabricStatus q) m s fun p => p.length = 28 ∧ p.take 2 = leBytes 2 s.dev.fab.address) ∧
    (asks 0x0B03 4 → u16 l 0 ≤ 0xFFF → s.dev.fab.address ≠ 0 →
      let dest := if u16 l 0 = 0xFFF then s.dev.fab.bellringer else u16 l 0
      (dest ≠ 0 → u16 l 2 = 0xFFFF → ∀ hops, s.dev.fab.route dest = some hops → AnswersSame (.fabricRouteQuery q) m s fun p =>
        p = leBytes 2 hops.length ++ zeros 10 ++ hops.flatMap hopBytes) ∧
      (dest ≠ 0 → u16 l 2 ≠ 0xFFFF → ∀ x, s.dev.fab.routes.find? (fun x => x.stream == u16 l 2 && x.dest == dest) = some x →
        AnswersSame (.fabricRouteQuery q) m s fun p => p = leBytes 2 x.ans.primary.length ++ leBytes 2 x.ans.backup.length ++
          leBytes 8 (x.num / x.den) ++ x.ans.primary.flatMap hopBytes ++ x.ans.backup.flatMap hopBytes)) ∧
    (asks 0x0C02 0 → AnswersSame (.modeQuery q) m s fun p =>
      p = leWord s.dev.modeWord ++ leBytes 8 s.dev.pw.modeSince ++ leWord s.dev.pw.pendingWord) ∧
    (asks 0x0C04 0 → AnswersSame (.supplyQuery q) m s fun p => p.length = 64 ∧ p.drop 60 = leWord s.dev.pw.supStat) ∧
    (asks 0x0E03 0 → AnswersSame (.fwQuery q) m s fun p => p.length = 40) ∧
    (asks 0x0704 8 → u8 l 0 < 16 → u8 l 1 = 0 → u8 l 3 = 0 → 1 ≤ u16 l 6 → u16 l 6 ≤ 224 → u16 l 4 + u16 l 6 ≤ 1024 →
      ∀ e counts, (s.dev.map (u8 l 0)).snap = some (e, counts) → AnswersSame (.densityRead ⟨q, []⟩) m s fun p =>
        p = ep32 e ++ leBytes 4 (u16 l 6) ++ (tgetList 0 counts (1024 * u8 l 2 + u16 l 4) (u16 l 6)).flatMap (leBytes 4)) ∧
    (asks 0x0606 28 → u8 l 0 < 64 → u8 l 1 = 0 → allZero l 24 4 = true → (s.dev.fw.eff.region (u8 l 0)).type = 2 →
      (s.dev.fw.eff.region (u8 l 0)).holds (u16 l 2) = true → u32 l 4 < (s.dev.fw.eff.region (u8 l 0)).slots →
      s.dev.takenSlot (u8 l 0) (u32 l 4) = false → ∀ errs,
        let d := if s.dev.gran.selfRefresh ∨ errs = [] then s.touched m else (s.touched m).foundErrors errs
        AnswersOk (.captureRead ⟨q, errs⟩) m s
          (((d.region (u8 l 0)).slot (u32 l 4)).header (u32 l 4) (u16 l 2) ++ regionCounters (u8 l 0) d) d) ∧
    ∀ a b, asks 0x0D03 8 → 1 ≤ u32 l 4 → u32 l 4 ≤ 62 → s.dev.nv.log.head? = some a → s.dev.nv.log.getLast? = some b →
      let es := logSlice s.dev.nv.log (u32 l 0) (u32 l 4)
      AnswersOk (.diagLogRead q) m s (leBytes 4 a.index ++ leBytes 4 b.index ++ leBytes 4 es.length ++ zeros 4 ++ es.flatMap LogEntry.bytes)
        { s.touched m with pw := { s.dev.pw with logRead := s.dev.pw.logRead || es.contains b } }

/-- The twelve staging commands, from any mailbox, with good records: the transaction the header names takes each as its item, an earlier item of the same entity replaced, and the staging response reports them. In part the model's choice: log 58. -/
def Obligations.StagingCommandsTakeTheirRecord : Prop :=
  ∀ (s : State) (m : Fin 4) (t : Txn) (is : List Item), is ≠ [] →
    (∀ code, (s.touched m).openTxn code (s.sessionNo m) (s.txnNo m) = some t) →
    (t.items.length + is.length ≤ itemLimit ∨ ∃ i, is = [i] ∧ itemsHold t.items i = true) →
    let l := s.body m
    let items := is.foldl stageItem t.items
    let takes (code : Nat) (c : ReqSource → Instr) : Prop := s.stands code m →
      AnswersOk (c (.mailbox m)) m s (leBytes 4 is.length ++ leBytes 2 items.length ++ leBytes 2 0xFFFF)
        ((s.touched m).setTxn t.coord t.id fun x => { x with items := items })
    let records (size : Nat) (read : List Byte → Option Item) : Prop :=
      l.length = size * is.length ∧ (chunks size is.length l).map read = is.map some
    (records 12 (fun l => (readChan l).map fun x => .chan x.1 x.2) → takes 0x0301 .chanConfig) ∧
    (records 12 (fun l => (readTally l).map fun x => .tally x.1 x.2) → takes 0x0607 .tallyConfig) ∧
    (records 4 (fun l => (readEnable l).map fun x => .enable x.1 x.2) → takes 0x0303 .chanEnable) ∧
    (records 24 (fun l => (readPoint l).map fun x => .point x.1 x.2) → takes 0x0401 .pointConfig) ∧
    (records 24 (fun l => (readRegion l).map fun x => .region x.1 x.2) → takes 0x0603 .regionConfig) ∧
    (records 16 readStream → takes 0x0601 .streamConfig) ∧
    (records 16 (fun l => (readAout l).map fun x => .aout x.1 x.2) → takes 0x0608 .aoutConfig) ∧
    (records 20 (fun l => (readMap l).map fun x => .map x.1 x.2.1 x.2.2) → takes 0x0703 .densityConfig) ∧
    (records 64 (fun l => (readUnit l).map fun x => .unit x.1 x.2) → takes 0x0801 .trigConfig) ∧
    (records 64 readShepherd → takes 0x0906 .shepherdConfig) ∧
    (records 120 (fun l => (readLin l).map fun x => .lin x.1 x.2) → is.length ≤ 8 →
      (∀ k, k < is.length → linCheck (s.touched m) ((is.take (k + 1)).foldl stageItem t.items) = none) → takes 0x0501 .linLoad) ∧
    (millItems (l.length + 1) l = some (is.map .item) → takes 0x0701 .millConfig)

/-- R84: output words. A staged point has words of the five codes, the second also none, and never twice the same; the default is IQ; a request whose record names the same word twice, or no first word, is refused with BAD_FIELD and leaves its transaction as it was. -/
def Obligations.OutputWordsDiffer : Prop :=
  PointCfg.init.word0 = 1 ∧ PointCfg.init.word1 = 2 ∧
  (∀ l p c, readPoint l = some (p, c) → 1 ≤ c.word0 ∧ c.word0 ≤ 5 ∧ c.word1 ≤ 5 ∧ c.word1 ≠ c.word0) ∧
  (∀ l : List Byte, u8 l 22 = u8 l 21 ∨ u8 l 21 = 0 → readPoint l = none) ∧
  ∀ (s : State) (m : Fin 4) (t : Txn), s.stands 0x0401 m → (s.body m).length = 24 →
    (s.touched m).openTxn 0x0401 (s.sessionNo m) (s.txnNo m) = some t →
    (u8 (s.body m) 22 = u8 (s.body m) 21 ∨ u8 (s.body m) 21 = 0) →
    ∃ d, Answers (.pointConfig (.mailbox m)) m s stBadField (leBytes 4 0 ++ leBytes 2 t.items.length ++ leBytes 2 0) d.epoch d ∧
      d.fw.eff = s.dev.fw.eff ∧ d.fw.live = s.dev.fw.live ∧ d.openTxn 0x0401 (s.sessionNo m) (s.txnNo m) = some t

/-- Sessions from any mailbox. `session.open` takes a free id of 1 to 16, the mailbox and the keep-alive time it names or else its own mailbox and 10,000 epochs, and is refused with DENIED when none is free; `session.keepalive` restarts the timer; `session.close` ends the session with its open transactions. In part the model's choice: log 86. -/
def Obligations.SessionsOpenAndClose : Prop :=
  ∀ (s : State) (m : Fin 4),
    let q := ReqSource.mailbox m
    let l := s.body m
    (s.stands 0x0101 m → l.length = 20 → (u8 l 0 = 0xFF ∨ u8 l 0 ≤ 3) → u8 l 1 = 0 → (u16 l 2 = 0 ∨ (100 ≤ u16 l 2 ∧ u16 l 2 ≤ 60000)) →
      let own := if u8 l 0 = 0xFF then m.val else u8 l 0
      let keep := if u16 l 2 = 0 then 10000 else u16 l 2
      ((s.touched m).freeIds ≠ [] → ∃ id d, 1 ≤ id ∧ id ≤ 16 ∧ s.dev.session? id = none ∧
        AnswersOk (.sessionOpen q) m s (leBytes 2 id ++ byteOf own ++ zeros 1 ++ leBytes 4 keep) d ∧
        { d with fw := s.dev.fw, free := s.dev.free } = s.dev ∧
        d.fw = { (s.touched m).fw with sessions := d.fw.sessions, opened := s.dev.fw.opened + 1 } ∧ d.fw.sessions.length = s.dev.fw.sessions.length + 1 ∧
        ∃ x, d.session? id = some x ∧ x.transport = 0 ∧ x.mbx = own ∧ x.keepalive = keep ∧ x.label = l.drop 4 ∧ x.queue = [] ∧ x.serial = s.dev.fw.opened ∧
          x.deadline = s.dev.clk.time + keep * Config.epochTicks) ∧
      ((s.touched m).freeIds = [] → Refuses (.sessionOpen q) m s stDenied)) ∧
    (s.stands 0x0103 m → l.length = 0 → AnswersOk (.sessionKeepalive q) m s [] (s.touched m) ∧
      ∃ x, (s.touched m).session? (s.sessionNo m) = some x ∧ x.deadline = s.dev.clk.time + x.keepalive * Config.epochTicks) ∧
    (s.stands 0x0102 m → l.length = 0 → ∃ d, AnswersOk (.sessionClose q) m s [] d ∧ d.session? (s.sessionNo m) = none ∧
      (∀ t ∈ d.fw.txns, ¬(t.session = s.sessionNo m ∧ t.coord = none ∧ t.prepared = false ∧ (t.state = .open_ ∨ t.state = .waiting))) ∧
      (∀ id, id ≠ s.sessionNo m → d.session? id = (s.touched m).session? id) ∧
      d.fw.live = s.dev.fw.live ∧ d.fw.eff = s.dev.fw.eff ∧ d.work = s.dev.work ∧ d.clk = s.dev.clk ∧ d.regs = s.dev.regs)

/-- Transactions from any mailbox. `txn.begin` takes the next id and ticket, and a fifth of a session is refused with TXN_LIMIT; one of FABRIC scope asks its partners first. `txn.abort` closes its transaction, or marks one whose commit waits. `txn.commit` of no items closes at once with nothing changed; one with items, or of FABRIC scope, waits for its batch and keeps its mailbox. In part the model's choice: log 49. -/
def Obligations.TransactionsBeginCommitAndAbort : Prop :=
  ∀ (s : State) (m : Fin 4),
    let q := ReqSource.mailbox m
    let l := s.body m
    let d := s.touched m
    let kept (u : State) : Prop := u.pending = s.pending ∧ u.mailbox m = { s.mailbox m with taken := true } ∧
      u.dev.fw.eff = s.dev.fw.eff ∧ u.dev.fw.live = s.dev.fw.live ∧ u.dev.regs = s.dev.regs ∧ u.dev.clk = s.dev.clk
    (s.stands 0x0201 m →
      (l = [0#8, 0#8, 0#8, 0#8] →
        (d.openCount (s.sessionNo m) < 4 → ∃ t, t.id = s.dev.fw.nextTxn ∧ t.ticket = s.dev.fw.tickets + 1 ∧ t.session = s.sessionNo m ∧
          t.state = .open_ ∧ t.items = [] ∧ t.fabric = false ∧ t.coord = none ∧
          AnswersOk (.txnBegin q) m s (leBytes 4 t.id ++ leBytes 8 t.ticket)
            { d with fw := { d.fw with txns := d.fw.txns ++ [t], nextTxn := t.id + 1, tickets := t.ticket } }) ∧
        (4 ≤ d.openCount (s.sessionNo m) → Refuses (.txnBegin q) m s stTxnLimit)) ∧
      (∀ n, u8 l 0 = 1 → u8 l 1 = 0 → u16 l 2 = n → l.length = 4 + 2 * n → 1 ≤ n → n ≤ 64 → d.openCount (s.sessionNo m) < 4 →
        let parts := addrsOf l 4 n
        parts.Nodup → (∀ a ∈ parts, 1 ≤ a ∧ a ≤ 0xFFE ∧ d.reaches a = true) →
        Completes (.txnBegin q) s fun u => kept u ∧ u.dev.fw.nextTxn = s.dev.fw.nextTxn + 1 ∧
          u.dev.fab.out = s.dev.fab.out ++ parts.map fun a => .txnOpen a s.dev.fw.nextTxn (s.dev.fw.tickets + 1) parts)) ∧
    (∀ t, s.stands 0x0203 m → l.length = 0 → d.openTxn 0x0203 (s.sessionNo m) (s.txnNo m) = some t →
      (t.state = .waiting → ∃ e, AnswersOk (.txnAbort q) m s [] e ∧ (∀ x ∈ e.fw.txns, x.coord = t.coord → x.id = t.id → x.state = .aborted ∧ x.items = []) ∧
        e.fw.live = s.dev.fw.live ∧ e.fw.eff = s.dev.fw.eff ∧ e.fw.sessions = d.fw.sessions) ∧
      (t.state = .open_ → ∃ e, AnswersOk (.txnAbort q) m s [] e ∧ (∀ x ∈ e.fw.txns, x ∈ d.fw.txns ∧ ¬(x.coord = t.coord ∧ x.id = t.id)) ∧
        e.fw.live = s.dev.fw.live ∧ e.fw.eff = s.dev.fw.eff ∧ e.fw.sessions = d.fw.sessions)) ∧
    (∀ t target, s.stands 0x0202 m → l.length = 4 → d.openTxn 0x0202 (s.sessionNo m) (s.txnNo m) = some t → t.coord = none → t.state = .open_ →
      t.fabric = true → commitTarget s.dev.epoch (u32 l 0) = some target → d.longFull (s.sessionNo m) = false →
      Completes (.txnCommit q) s fun u => kept u ∧ ∃ x ∈ u.dev.fw.txns, x.id = t.id ∧ x.state = .waiting ∧ x.target = target ∧
        x.arrived = Min.min (s.mailbox m).epoch s.dev.epoch ∧ x.waiter = some (s.waiter m)) ∧
    ∀ t, s.stands 0x0202 m → l = [0#8, 0#8, 0#8, 0#8] → d.openTxn 0x0202 (s.sessionNo m) (s.txnNo m) = some t → t.coord = none →
      t.state = .open_ → t.fabric = false →
      (t.items = [] → ∃ e, AnswersOk (.txnCommit q) m s [] e ∧ (∀ x ∈ e.fw.txns, x ∈ d.fw.txns ∧ ¬(x.coord = none ∧ x.id = t.id)) ∧
        e.fw.live = s.dev.fw.live ∧ e.fw.eff = s.dev.fw.eff ∧ e.fw.committed = s.dev.fw.committed ∧ e.fw.effective = s.dev.fw.effective) ∧
      (t.items ≠ [] → Completes (.txnCommit q) s fun u => kept u ∧ u.dev.fw.committed = s.dev.fw.committed ∧
        ∃ x ∈ u.dev.fw.txns, x.id = t.id ∧ x.state = .waiting ∧
          x.arrived = Min.min (s.mailbox m).epoch s.dev.epoch ∧ x.waiter = some (s.waiter m))

/-- R22. A mode request that *Mode transitions* does not hold is refused with WRONG_MODE, whatever transport it comes by, and the device stays in its mode and everything else as it was. One that it does hold is accepted for its boundary, two epochs on from a working mode and the next otherwise, unless a change waits already or the log is unread in SAFE. In part the model's choice: log 22, 51, 57 and 155. -/
def Obligations.ModeRequestsFollowTheTransitions : Prop :=
  let listed (now target prior : Mode) : Prop := (now = .idle ∧ (target = .run ∨ target = .calibrate ∨ target = .maintain)) ∨
    ((now = .run ∨ now = .calibrate ∨ now = .maintain ∨ now = .safe) ∧ target = .idle) ∨ (now = .hearth ∧ target = prior)
  (∀ (d : Device) (r : Req) (k : Fin 8) (target : Mode), r.body = [BitVec.ofNat 8 k, 0#8, 0#8, 0#8] → Mode.ofCode k = some target →
    ¬listed d.pw.mode target d.pw.prior → modeSet r d = (some (Ans.st stWrongMode), d)) ∧
  ∀ (s : State) (m : Fin 4) (k : Fin 8) (target : Mode),
    s.stands 0x0C01 m → s.body m = [BitVec.ofNat 8 k, 0#8, 0#8, 0#8] → Mode.ofCode k = some target →
    let now := s.dev.pw.mode
    (¬listed now target s.dev.pw.prior → Refuses (.modeSet (.mailbox m)) m s stWrongMode ∧ (s.touched m).pw.mode = now) ∧
    (listed now target s.dev.pw.prior → s.dev.pw.changing = false → (now = .safe → s.dev.pw.logRead = true) →
      (s.touched m).longFull (s.sessionNo m) = false →
      ∃ d, Answers (.modeSet (.mailbox m)) m s stAccepted [] (if s.dev.working then s.dev.epoch + 2 else s.dev.epoch + 1) d ∧
        d.pw.mode = now ∧ d.pw.changing = true ∧ d.fw.eff = s.dev.fw.eff ∧ d.fw.live = s.dev.fw.live ∧ d.regs = s.dev.regs ∧
        (now ≠ .hearth → now ≠ .safe → d.pw.pending = some (target, s.dev.epoch + 2, some (s.waiter m))) ∧
        (now ≠ .calibrate → d.work = s.dev.work))

/-- Commands from any mailbox that answer OK and act at once: a forced trigger, two in an epoch at the most; clock and holdover settings; the fabric's policy; arming and disarming of slots; opening and closing a calibration; naming the boot record of `fw.activate`; a chunk of an image. In part the model's choice: log 63, 80, 81, 114 and 153. -/
def Obligations.CommandsActAtOnce : Prop :=
  ∀ (s : State) (m : Fin 4),
    let q := ReqSource.mailbox m
    let l := s.body m
    let d := s.touched m
    (∀ u x, s.stands 0x0803 m → l = [BitVec.ofNat 8 u, 0#8, 0#8, 0#8] → u < 32 → s.dev.fw.eff.unit u = some x → x.enable = true →
      let used := (s.dev.unit u).forcedIn s.dev.epoch
      (used = 0 → ∃ e, AnswersOk (.trigForce q) m s (leBytes 8 ((s.dev.clk.time + 47) / 48 * 48)) e ∧ e.fw = d.fw ∧ e.clk = s.dev.clk ∧
        e.regs = s.dev.regs ∧ e.pw = s.dev.pw ∧ e.chans = s.dev.chans ∧ e.points = s.dev.points ∧
        e.cnt.unit = tbump s.dev.cnt.unit (4 * u + 1) ∧
        ∃ r ∈ e.trig.recs, r.grp = x.rgrp ∧ r.forced = true ∧ ∃ f ∈ r.fires, f.unit = u ∧ f.td = (s.dev.clk.time + 47) / 48 * 48 ∧ f.t = 256 * (f.td : Int)) ∧
      (used = 1 → AnswersOk (.trigForce q) m s (leBytes 8 (boundary (s.dev.epoch + 1)))
        (d.setUnit u fun y => { y with forceEpoch := s.dev.epoch, forceUsed := 2, forceHeld := true })) ∧
      (2 ≤ used → Refuses (.trigForce q) m s stDenied)) ∧
    (s.stands 0x0A03 m → l.length = 4 → u8 l 0 ≤ 3 → (hasBit (u8 l 0) 0 = true → u8 l 1 ≤ 3 ∧ u8 l 2 ≤ 3) →
      (hasBit (u8 l 0) 1 = true → u8 l 3 ≤ 2 ∧ s.dev.clk.change ≠ 1 ∧ s.dev.clk.change ≠ 2) →
      let src := if hasBit (u8 l 0) 0 then some (u8 l 1, u8 l 2) else s.dev.clk.newSource
      (hasBit (u8 l 0) 1 = false ∨ u8 l 3 = s.dev.clk.refMult → AnswersOk (.clockConfig q) m s [] { d with clk := { s.dev.clk with newSource := src } }) ∧
      (hasBit (u8 l 0) 1 = true → u8 l 3 ≠ s.dev.clk.refMult → ∃ e, AnswersOk (.clockConfig q) m s [] e ∧ e.clk.newSource = src ∧
        e.clk.change = 1 ∧ e.clk.changeTo = u8 l 3 ∧ e.clk.driver = s.dev.clk.driver ∧
        (e.syn (SynId.other s.dev.clk.driver)).mult = u8 l 3 ∧ (e.syn (SynId.other s.dev.clk.driver)).state = .search ∧
        e.syn s.dev.clk.driver = s.dev.syn s.dev.clk.driver)) ∧
    (s.stands 0x0A05 m → l.length = 16 → u8 l 0 ≤ 15 → u8 l 3 = 0 →
      let has := hasBit (u8 l 0)
      (has 0 = true → u8 l 1 ≤ 2) → (has 1 = true → F32.within (f32At l 4) ⟨1, 100⟩ ⟨1, 2⟩ = true) →
      (has 2 = true → 3 ≤ u32 l 8 ∧ u32 l 8 ≤ 3000000) → (has 3 = true → u8 l 2 ≤ 1) →
      let set (e : Device) : Prop := e.clk.policy = (if has 0 then u8 l 1 else s.dev.clk.policy) ∧
        e.clk.slewRate = (if has 1 then f32At l 4 else s.dev.clk.slewRate) ∧ e.clk.jumpThresh = (if has 2 then u32 l 8 else s.dev.clk.jumpThresh) ∧
        e.clk.time = s.dev.clk.time ∧ e.fw = d.fw ∧ e.regs = s.dev.regs ∧ e.pw = s.dev.pw
      let delta := roundStep (-s.dev.clk.offset)
      (∀ e0, has 3 = true → u8 l 2 = 1 → s.dev.clk.under = .awaitStep → epochNamed s.dev.epoch (u32 l 12) = some e0 → s.dev.epoch + 2 ≤ e0 →
        delta.natAbs ≤ 1499952 → ∃ e, AnswersOk (.holdoverPolicy q) m s (leBytes 8 (boundary e0 + 1500000) ++ leInt 8 delta) e ∧ set e ∧
          (⟨boundary e0 + 1500000, 0, 0, 0, none⟩ : StepDue) ∈ e.clk.due ∧ (e.clk.due.filter fun x => x.kind == 0).length = 1) ∧
      (has 3 = false ∨ u8 l 2 = 0 → ∃ e, AnswersOk (.holdoverPolicy q) m s [] e ∧ set e ∧
        (s.dev.clk.under ≠ .held → { e.clk with policy := 0, slewRate := 0#32, rate := 0#32, jumpThresh := 0 } =
          { s.dev.clk with policy := 0, slewRate := 0#32, rate := 0#32, jumpThresh := 0 } ∧ e.evts = s.dev.evts))) ∧
    (s.stands 0x0B02 m → l.length = 4 → u8 l 0 ≤ 7 → (hasBit (u8 l 0) 0 = true → u8 l 1 ≤ 1) → (hasBit (u8 l 0) 2 = true → u8 l 3 ≤ 15) →
      let old := s.dev.fab.newPolicy.getD (none, none, none)
      let new := (if hasBit (u8 l 0) 0 then some (u8 l 1 == 1) else old.1, if hasBit (u8 l 0) 1 then some (u8 l 2) else old.2.1,
        if hasBit (u8 l 0) 2 then some (BitVec.ofNat 4 (u8 l 3)) else old.2.2)
      AnswersOk (.fabricPolicy q) m s [] { d with fab := { s.dev.fab with newPolicy := some new } }) ∧
    (∀ g : Fin 64, l.length = 20 → l.take 4 = [BitVec.ofNat 8 g, 0#8, 0#8, 0#8] → 1 ≤ u32 l 8 → (s.dev.fw.eff.region g).type = 2 →
      let slots := namedSlots (s.dev.fw.eff.region g).slots (u32 l 4) (u32 l 8)
      (∀ k ∈ slots, s.dev.slotRead g k = false) → twf RegionRun.init s.dev.gran.regions = true → twf Slot.init (s.dev.region g).slots = true →
      let was := s.dev.region g
      let same (e : Device) : Prop := e.fw = d.fw ∧ e.clk = s.dev.clk ∧ e.regs = s.dev.regs ∧ e.pw = s.dev.pw ∧ e.chans = s.dev.chans ∧
        e.points = s.dev.points ∧ e.nv = s.dev.nv
      (s.stands 0x0604 m → 1 ≤ u32 l 16 → (∀ k ∈ slots, s.dev.takenSlot g k = false) → u32 l 8 ≤ (s.dev.fw.eff.region g).slots →
        s.dev.fw.eff.armFits g (u32 l 12) (u32 l 16) = true →
        ∃ e, AnswersOk (.captureArm q) m s (leBytes 4 (u32 l 8) ++ leBytes 4 (s.dev.fw.eff.guardOf g) ++ leBytes 4 (s.dev.fw.eff.fitOf g)) e ∧
          same e ∧ (e.region g).queue = was.queue ++ slots ∧
          (∀ k ∈ slots, ((e.region g).slot k).p = u32 l 12 ∧ ((e.region g).slot k).q = u32 l 16 ∧
            (((e.region g).slot k).state = .armed ∨ (((e.region g).slot k).state = .recording ∧ s.dev.pw.mode = .run))) ∧
          (s.dev.pw.mode = .run → was.queue = [] → ∀ k, slots.head? = some k → ((e.region g).slot k).state = .recording) ∧
          (∀ k, k ∉ slots → { (e.region g).slot k with state := .free } = { was.slot k with state := .free } ∧
            (s.dev.pw.mode ≠ .run → (e.region g).slot k = was.slot k)) ∧
          ∀ j, j ≠ g.val → e.region j = s.dev.region j) ∧
      (s.stands 0x0605 m → ∃ e, AnswersOk (.captureDisarm q) m s [] e ∧ same e ∧
        (∀ k ∈ slots, ((was.slot k).state = .filling → (e.region g).slot k = was.slot k) ∧
          ((was.slot k).state ≠ .filling → (e.region g).slot k = Slot.init ∧ k ∉ (e.region g).queue)) ∧
        (e.region g).queue = was.queue.filter (fun k => !(slots.contains k) || decide ((was.slot k).state = .filling)) ∧
        (∀ k, k ∉ slots → { (e.region g).slot k with state := .free } = { was.slot k with state := .free }) ∧
        ∀ j, j ≠ g.val → e.region j = s.dev.region j)) ∧
    (s.stands 0x0901 m → l.length = 60 → u8 l 0 ≤ 1 → allZero l 1 3 = true → F32.within (f32At l 4) ⟨1, 10⟩ ⟨100, 1⟩ = true →
      10 ≤ u32 l 8 → u32 l 8 ≤ 10000 → s.dev.work.cal = none →
      (∀ n ∈ chanSet l 12, s.dev.fw.eff.chanOn n = true ∧ s.dev.fw.eff.pointsOf n ≠ [] ∧ s.dev.batchTouches n = false) →
      let points := (chanSet l 12).flatMap s.dev.fw.eff.pointsOf
      (∀ p ∈ points, 16 ≤ s.dev.fw.eff.measured p (u32 l 8)) →
      ∃ c, AnswersOk (.calBegin q) m s (ep32 (s.dev.epoch + 1) ++ leBytes 4 points.length) { d with work := { s.dev.work with cal := some c } } ∧
        c.chans = chanSet l 12 ∧ c.points = points ∧ c.dwell = u32 l 8 ∧ c.level = none ∧ c.closing = false ∧ c.acc0 = [] ∧ c.acc1 = []) ∧
    (∀ c, s.stands 0x0904 m → l = [] → s.dev.work.cal = some c → c.closing = false → c.written = false →
      ∃ e k, AnswersOk (.calAbort q) m s [] e ∧ e.work.cal = some k ∧ k.closing = true ∧ e.work.ownerLedger = s.dev.work.ownerLedger ∧
        e.work.owner = s.dev.work.owner ∧ e.fw.eff = s.dev.fw.eff ∧ e.fw.live = s.dev.fw.live ∧ e.evt evCal = s.dev.evt evCal) ∧
    (∀ b : Fin 2, s.stands 0x0E02 m → l = [BitVec.ofNat 8 b, 0#8, 0#8, 0#8] → (s.dev.nv.fwBank (decide (b = 1))).valid = true →
      s.dev.activateBusy = false →
      let e := s.dev.work.activate.getD (s.dev.epoch + 2)
      Answers (.fwActivate q) m s stOk [] e
        { d with nv := { s.dev.nv with fwForceB := decide (b = 1) }, work := { s.dev.work with activate := some e } }) ∧
    ∀ g : Fin 64, s.stands 0x0E01 m → 16 ≤ l.length → l.length ≤ 1008 → l.take 4 = [BitVec.ofNat 8 g, 0#8, 0#8, 0#8] → u32 l 4 % 4 = 0 →
      u32 l 8 = 0 → allZero l 12 4 = true → (s.dev.fw.eff.region g).type = 5 → s.dev.inWarning = false →
      u32 l 4 + (l.length - 16) ≤ (s.dev.fw.eff.region g).capacity →
      AnswersOk (.fwStage q) m s [] (d.setRegion g (RegionRun.writeChunk (u32 l 4) (l.drop 16)))

/-- Long commands from any mailbox are accepted: the session counts one more that runs, and the work stands. With 16 completions queued or running, DENIED. In part the model's choice: log 51, 95, 96, 97, 120, 146 and 149. -/
def Obligations.LongCommandsAreAccepted : Prop :=
  ∀ (s : State) (m : Fin 4),
    let q := ReqSource.mailbox m
    let l := s.body m
    let w := s.waiter m
    let full := (s.touched m).longFull (s.sessionNo m)
    -- accepted, with what the command adds; or refused when the session's queue is full
    let takes (c : ReqSource → Instr) (f : Device → Device) : Prop :=
      (full = false → Accepts (c q) m s f) ∧ (full = true → Refuses (c q) m s stDenied)
    (s.stands 0x0503 m → l = [] → s.dev.inWarning = false → (∀ x ∈ s.dev.work.writes, x.store ≠ 1) →
      takes .linPersist fun d => d.addWrite ⟨1, 2, Ledger.init, [], d.fw.live.lins, some w, false, false⟩) ∧
    (∀ c n, s.stands 0x0902 m → l.length = 16 + 24 * n → n ≤ 41 → s.dev.openCal = some c → c.level = none →
      let level := u8 l 0
      let high : Prop := c.inSitu = false ∧ level = 1
      let decls := readDecls l 16 n
      let declared (p : Nat) : Prop := c.inSitu = false ∨ (tfind (c.decl level) p).isSome = true ∨ ∃ x ∈ decls, x.1 = p
      level ≤ 1 → allZero l 2 6 = true → (high ∨ f64At l 8 = 0#64) → (c.inSitu = true ∨ n = 0) →
      (∀ x ∈ decls, x.2.1 = true ∧ x.1 ∈ c.points) →
      (high → ∀ p ∈ c.points, F64.le (F64.abs (busSpan (s.dev.fw.eff.chan (p / 8)).gl (f64At l 8))) (dec 9 10) = true) →
      (u8 l 1 = 0 → ∃ k, AnswersOk (.calPoint q) m s [] { s.touched m with work := { s.dev.work with cal := some k } } ∧
        k.level = none ∧ k.chans = c.chans ∧ k.points = c.points ∧ (c.inSitu = false → k = c) ∧
        (c.inSitu = true → ∀ x ∈ decls, (tfind (k.decl level) x.1).isSome = true)) ∧
      (u8 l 1 = 1 → (∀ p ∈ c.points, declared p) →
        (full = true → Refuses (.calPoint q) m s stDenied) ∧
        (full = false → ∃ k, Accepts (.calPoint q) m s (fun d => { d with work := { d.work with cal := some k } }) ∧
          k.level = some level ∧ k.waiter = some w ∧ k.restarts = 0 ∧ k.b0 = Max.max (s.dev.epoch + 1) c.bopen ∧ k.chans = c.chans ∧
          k.points = c.points ∧ k.supply.isSome = s.dev.inWarning))) ∧
    (∀ c, s.stands 0x0903 m → l = [] → s.dev.openCal = some c → c.level = none → c.complete = true → s.dev.inWarning = false →
      firstFail (c.points.flatMap fun p => coefFail p (c.coef p).1) = none →
      (full = true → Refuses (.calCommit q) m s stDenied) ∧
      (full = false → ∃ d recs, Answers (.calCommit q) m s stAccepted [] s.dev.epoch d ∧ d.work.cal = some { c with committing := true } ∧
        d.work.rejectPending = false ∧ d.work.owner = s.dev.work.owner ∧ d.fw.eff = s.dev.fw.eff ∧
        d.work.writes = s.dev.work.writes ++ [⟨0, 0, { s.dev.work.ownerLedger with label := c.label, lastInSitu := c.inSitu }, recs, [], some w, false,
          s.dev.work.rejectPending⟩])) ∧
    (s.stands 0x0A01 m → l.length = 32 → s.dev.timeBusy = false → s.dev.followsCommons = false →
      (l.take 8 = zeros 8 → allZero l 20 4 = true → u64 l 8 * Config.secondTicks < 2 ^ 64 →
        takes .timeSet fun d => { d with clk := d.clk.addDue ⟨s.dev.clk.time, 2, 0, u64 l 8, some w⟩ }) ∧
      (∀ e, l.take 8 = [1#8] ++ zeros 7 → allZero l 20 4 = true → epochNamed s.dev.epoch (u32 l 16) = some e → s.dev.epoch + 2 ≤ e →
        u64 l 24 % 48 = 0 → s.dev.clk.source ≠ 2 →
        takes .timeSet fun d => { d with clk := d.clk.addDue ⟨boundary e, 1, 64 * ((u64 l 24 : Int) - boundary e), 0, some w⟩ })) ∧
    (∀ a, s.stands 0x0B04 m → 20 ≤ l.length → u16 l 0 = a → 1 ≤ a → a ≤ 0xFFE → u16 l 2 = 0 → l.length = 20 + u16 l 4 → u16 l 4 ≤ 988 →
      s.dev.reaches a = true → (s.dev.fab.route a).isSome = true →
      takes .fabricForward fun d =>
        { d with fab := { d.fab with forwards := d.fab.forwards ++ [(⟨a, BitVec.ofNat 32 (u32 l 8), w, s.dev.clk.time + 60000000⟩ : Forward)] } }.send (.message a (padWord (l.drop 4)))) ∧
    (∀ a, s.stands 0x0B05 m → l.length = 16 → u16 l 8 = a → 1 ≤ a → a ≤ 0xFFF → allZero l 10 6 = true → boundary (s.dev.epoch + 4) ≤ u64 l 0 →
      u64 l 0 % 16 = 0 → (∀ t ∈ s.dev.bell.planned, bellsClose (u64 l 0) t = false) →
      (∀ x ∈ s.dev.bell.due, x.sources &&& srcFabric ≠ 0#5 → bellsClose (u64 l 0) x.tick = false) →
      let x : BellSched := ⟨u64 l 0, if a = 0xFFF then s.dev.fab.members.map (·.addr) else [a], [], some w⟩
      let put (d : Device) : Device := { d with bell := { d.bell with sched := d.bell.sched ++ [x] } }
      (x.dests ≠ [] → (a = 0xFFF ∨ s.dev.reaches a = true) → takes .bellSchedule fun d =>
        { put d with bell := { (put d).bell with planned := s.dev.bell.planned ++ [u64 l 0] } }.send (.bell a (u64 l 0))) ∧
      (x.dests = [] ∨ (a ≠ 0xFFF ∧ s.dev.reaches a = false) → takes .bellSchedule fun d => (put d).endSched x)) ∧
    (s.stands 0x0C03 m → l = [] → s.dev.pw.changing = false →
      takes .hearthEnter fun d => { d with pw := { d.pw with hearth := some (d.hearthEpoch, some w) } }) ∧
    (s.stands 0x0D01 m → l.length = 4 → u32 l 0 < 64 → s.dev.work.selftest = none →
      takes .diagSelftest fun d => { d with work := { d.work with selftest := some (u32 l 0, w) } }) ∧
    (s.stands 0x0D02 m → l.length = 8 → u8 l 0 ≤ 2 → (u8 l 0 = 1 ∨ u8 l 1 < 4) → allZero l 2 2 = true → 1 ≤ u32 l 4 → u32 l 4 ≤ 60000 →
      s.dev.work.loopback = none →
      let run (d : Device) : Device := { d with work := { d.work with loopback := some ⟨u8 l 0, u8 l 1, s.dev.epoch + u32 l 4, w⟩ } }
      (u8 l 0 ≠ 0 → takes .diagLoopback run) ∧
      (u8 l 0 = 0 → takes .diagLoopback fun d => (run d).setTile (u8 l 1) fun x => { x with test := true })) ∧
    ∀ g : Fin 64, s.stands 0x0E01 m → 16 ≤ l.length → l.length ≤ 1008 → l.take 4 = [BitVec.ofNat 8 g, 1#8, 0#8, 0#8] → u32 l 4 % 4 = 0 →
      u32 l 8 ≤ imageLimit → allZero l 12 4 = true → (s.dev.fw.eff.region g).type = 5 → s.dev.inWarning = false →
      u32 l 4 + (l.length - 16) ≤ (s.dev.fw.eff.region g).capacity → u32 l 8 ≤ (s.dev.fw.eff.region g).capacity → s.dev.work.verify = none →
      takes .fwStage fun d => { d.setRegion g (RegionRun.writeChunk (u32 l 4) (l.drop 16)) with
        work := { d.work with verify := some (g.val, u32 l 8, w) } }

/-- The checks of a request's header come in the order of R333, before anything else, and the first that fails is the answer; the boot ROM's responder answers what it does not serve with INTERNAL, `mode.set` with DENIED; a request from a mailbox that is refused changes nothing but the timer of the session it names. In part the model's choice: log 52, 54 and 225. -/
def Obligations.HeaderChecksComeInOrder : Prop :=
  (∀ (d : Device) (r : Raw),
    (r.sized = false → d.headerFails r = some stBadLength) ∧
    (r.sized = true →
      (cmdModes r.code = none → d.headerFails r = some stBadCommand) ∧
      ∀ modes, cmdModes r.code = some modes →
        (d.halted = true → responderCodes.contains r.code = false →
          d.headerFails r = some (if r.code = 0x0C01 then stDenied else stInternal)) ∧
        (d.halted = false ∨ responderCodes.contains r.code = true → r.flags ≠ 0 → d.headerFails r = some stBadField) ∧
        (d.halted = false ∨ responderCodes.contains r.code = true → r.flags = 0 →
          let open_ : Prop := (r.session = 0 ∧ sessionFree.contains r.code = true) ∨ (r.session ≠ 0 ∧ ∃ x, d.sessionOf r = some x)
          (¬open_ → d.headerFails r = some stNoSession) ∧
          (open_ →
            (r.txn ≠ 0 → d.openTxn r.code r.session r.txn = none → d.headerFails r = some stTxnStale) ∧
            (r.txn = 0 ∨ d.openTxn r.code r.session r.txn ≠ none →
              (modes.testBit d.pw.mode.code = false → d.headerFails r = some stWrongMode) ∧
              (modes.testBit d.pw.mode.code = true →
                (d.lockCovers r.code = true → d.headerFails r = some stLocked) ∧
                (d.lockCovers r.code = false → d.headerFails r = none))))))) ∧
  ∀ (errs : List ScrubErr) (code : Nat) (c : ReqSource → Instr), (code, c) ∈ firmwareRows errs → ∀ (s : State) (m : Fin 4) (st : BitVec 16),
    twf Mailbox.init s.mbx = true → s.dev.serves = true → (s.mailbox m).reqBusy = true →
    (s.mailbox m).taken = false → s.oldest m = true → (s.rawMailbox m).code = code → (s.touched m).headerFails (s.rawMailbox m) = some st →
    ∃ p, Answers (c (.mailbox m)) m s st p s.dev.epoch (s.touched m) ∧ (stagingCodes.contains code = false → p = []) ∧
      (stagingCodes.contains code = true →
        p = leBytes 4 0 ++ leBytes 2 ((s.touched m).itemCount code (s.sessionNo m) (s.txnNo m)) ++ leBytes 2 0xFFFF)

/-- R340: a frame over the return lane or the fabric whose SESSION and TAG match one of the session's last 16 is not executed again: its stored answer is sent again, or, while the original still runs, it is dropped. Neither changes anything else. While a mailbox's request stands, a frame waits behind it, and nothing else changes (R336). A frame of a session that is not a repeat is executed as a mailbox's request is, and its tag is remembered, with the last 15 before it; an answer that comes at once is sent over the frame's own transport and kept beside the tag. In part the model's choice: log 52, 54 and 225. -/
def Obligations.FramesAreExecutedOnce : Prop :=
  (∀ (errs : List ScrubErr) (code : Nat) (c : ReqSource → Instr), (code, c) ∈ firmwareRows errs →
     ∀ (s : State) (via : Via) (src : ReqSource) (frame body : List Byte) (x : Session) (e : Word × Option (List Byte)),
       (via = .returnLane ∧ src = .returnLane frame ∧ body = laneRequest frame ∧ body ≠ [] ∨
         ∃ p, via = .fabric p ∧ src = .fabric p frame ∧ body = frame) →
       let r := rawFrame via body s.dev.epoch
       s.dev.takesFrames via = true → s.dev.serves = true → s.standing = [] → r.code = code → s.dev.sessionOf r = some x →
       (x.remembered.find? fun y => y.1 == r.tag) = some e →
       let d := s.dev.touchSession r
       exec (c src) s = .next { s with dev := match e.2 with
         | some bytes => d.sendMessage via bytes
         | none => d }) ∧
  (∀ (errs : List ScrubErr) (code : Nat) (c : ReqSource → Instr), (code, c) ∈ firmwareRows errs →
     ∀ (s : State) (via : Via) (src : ReqSource) (frame body : List Byte),
       (via = .returnLane ∧ src = .returnLane frame ∧ body = laneRequest frame ∧ body ≠ [] ∨
         ∃ p, via = .fabric p ∧ src = .fabric p frame ∧ body = frame) →
       s.dev.takesFrames via = true → (rawFrame via body s.dev.epoch).code = code → (∀ f ∈ s.dev.fw.frames, f.via = via → f.bytes ≠ body) →
       (∃ k, (s.mailbox k).reqBusy = true ∧ (s.mailbox k).taken = false ∧ k < 4) →
       Completes (c src) s fun t => DeviceOnly s t ∧ ∃ f, f.via = via ∧ f.bytes = body ∧ f.epoch = s.dev.epoch ∧
         t.dev = { s.dev with fw := { s.dev.fw with frames := s.dev.fw.frames ++ [f], arrival := t.dev.fw.arrival } }) ∧
  (∀ (s : State) (frame body : List Byte) (via : Via) (src : ReqSource) (x : Session),
     (via = .returnLane ∧ src = .returnLane frame ∧ body = laneRequest frame ∧ body ≠ [] ∨
       ∃ p, via = .fabric p ∧ src = .fabric p frame ∧ body = frame) →
     let r := rawFrame via body s.dev.epoch
     s.dev.takesFrames via = true → s.dev.serves = true → s.standing = [] → r.code = 0x0C02 → r.length = 0 → s.dev.sessionOf r = some x → x.remembered.length ≤ 16 →
     (∀ e ∈ x.remembered, e.1 ≠ r.tag) →
     let d := (s.dev.rememberTag r).touchSession r
     d.headerFails r = none →
     Completes (.modeQuery src) s fun t =>
       let bytes := d.answerBytes stOk r.tag d.epoch (leWord s.dev.modeWord ++ leBytes 8 s.dev.pw.modeSince ++ leWord s.dev.pw.pendingWord)
       t.pending = s.pending ∧ ∃ e : Device, t.dev = e.sendMessage via bytes ∧ e.fab = s.dev.fab ∧ e.port = s.dev.port ∧ e.pw = s.dev.pw ∧
         e.clk = s.dev.clk ∧ e.regs = s.dev.regs ∧ e.fw.eff = s.dev.fw.eff ∧ e.fw.txns = s.dev.fw.txns ∧
         ∃ y, e.session? x.id = some y ∧ y.remembered = (x.remembered ++ [(r.tag, some bytes)]).drop (x.remembered.length + 1 - 16) ∧
           y.deadline = s.dev.clk.time + x.keepalive * Config.epochTicks)

end
end

