-- ==== Sys2Proof/Tests/Slice0.lean ====
section
/-! SUPPORT. Tests: an ill-formed command for every check of `Instr.wf`, worked examples of the manual, and for every statement states and operands that meet its hypotheses. -/

namespace Sys2Proof.Tests

set_option Elab.async false

open Sys2Proof Sys2Proof.Machine

/-! ### Ill-formed commands -/

def acc : Access := ⟨.control, 2#8, 0#24, 0#32⟩
def boundaryIn : EpochInput := ⟨0#64, 0#64, 0#64, [0, 0, 0, 0, 0, 0], 0#64, List.replicate 16 0, [], [], [], none, [], [], [0, 0, 0, 0], [0, 0, 0, 0]⟩
def raw0 : RawIn := ⟨0, 0, List.replicate 48 0⟩
def wide : WideIn := ⟨0, 62500000, List.replicate 25 raw0, false⟩
def pointIn : PointIn := ⟨0, 3000000000⟩
def lane0 : List Byte := zeros 24
def millIn : MillIn := ⟨0, [Cplx.zero], false, [], false, false, []⟩
def cart : Cart := ⟨0, 1, 0, 0#32, 0, 0#16, 0#14, 1, []⟩
def trigMsg : TrigMsg := ⟨1, 0, 0, 0, 0, 0#14⟩
def beaconIn : BeaconIn := ⟨7#64, 0, true, 7#64, 4, 0, 0, 1, 0, [], [], 0, false, 0, 0, 0, false⟩
def helloIn : HelloIn := ⟨7#64, 3, 4, true, 0⟩
def noEnv : EnvIn := ⟨0#32, 0⟩
def flits0 : List Byte := zeros 64

theorem test_wf_accepts_its_sample_operands :
    (Instr.epochBoundary boundaryIn).wf = true ∧ (Instr.widebandSample wide).wf = true ∧ (Instr.pointSampleReady pointIn).wf = true ∧
    (Instr.millResultReady millIn).wf = true ∧ (Instr.fabricCart cart 1 0 [] 0).wf = true ∧ (Instr.fabricTriggerMessage trigMsg 0).wf = true ∧
    (Instr.beacon 0 beaconIn).wf = true ∧ (Instr.hello 0 helloIn).wf = true ∧ (Instr.controlFrameForward 0 flits0).wf = true ∧
    (Instr.registerWrite (.one acc)).wf = true ∧ (Instr.registerWrite (.together [acc, { acc with port := .fabric, opcode := 0#8 }])).wf = true ∧
    (Instr.registerWrite (.frame (List.replicate 64 1#4))).wf = true ∧ (Instr.timeLoRead (.frame (List.replicate 64 1#4))).wf = true ∧ (Instr.healthReport lane0 0).wf = true ∧ (Instr.modeQuery (.fabric 2 (List.replicate 16 0#8))).wf = true := by decide

theorem test_wf_refuses_times_beyond_64_bits :
    (Instr.granarySelfRefresh (2 ^ 64)).wf = false ∧ (Instr.pointSampleReady { pointIn with t := 2 ^ 64 }).wf = false ∧
    (Instr.referenceEdge true (64 * 2 ^ 64) 0).wf = false ∧ (Instr.fastDetection 0 .overload ⟨0, { noEnv with ticks := 2 ^ 64 }⟩).wf = false ∧
    (Instr.fabricCart { cart with time := 2 ^ 64 } 1 0 [] 0).wf = false ∧ (Instr.fabricTriggerMessage { trigMsg with time := 2 ^ 64 } 0).wf = false ∧
    (Instr.fabricTriggerMessage { trigMsg with close := 2 ^ 64 } 0).wf = false := by decide

theorem test_wf_refuses_addresses_and_ids_out_of_range :
    (Instr.fabricBell 0 0).wf = false ∧ (Instr.fabricBell 0xFFF 0).wf = false ∧ (Instr.streamAck 1 0x1000 0#32).wf = false ∧
    (Instr.fabricPrepare 1 (2 ^ 32) 0).wf = false ∧ (Instr.addressRequest 0 0#64 0xFFF).wf = false ∧ (Instr.routeFailure 1 4).wf = false ∧
    (Instr.fabricCart cart 0x1000 0 [] 0).wf = false ∧ (Instr.fabricTxnOpen 1 1 0 [0]).wf = false := by decide

theorem test_wf_refuses_frames_of_a_wrong_size :
    (Instr.modeQuery (.fabric 1 (zeros 12))).wf = false ∧ (Instr.modeQuery (.fabric 1 (zeros 17))).wf = false ∧
    (Instr.modeQuery (.fabric 1 (zeros 1028))).wf = false ∧ (Instr.modeQuery (.fabric 0 (zeros 16))).wf = false ∧
    (Instr.modeQuery (.returnLane (zeros 16))).wf = false ∧ (Instr.modeQuery (.returnLane (zeros 28))).wf = false ∧
    (Instr.healthReport (zeros 16) 0).wf = false ∧ (Instr.badFrame [0#4] [0#4]).wf = false ∧ (Instr.countWindow .A 1 0 0#64).wf = false ∧
    (Instr.controlFrameForward 0 []).wf = false ∧ (Instr.controlFrameForward 0 (zeros 65)).wf = false ∧
    (Instr.fabricFrameBadCrc ⟨0, zeros 60, 0⟩).wf = false ∧
    (Instr.registerWrite (.one { acc with port := .fabric })).wf = false ∧ (Instr.registerWrite (.one { acc with opcode := 0x99#8 })).wf = false ∧
    (Instr.registerWrite (.one { acc with opcode := 0x03#8 })).wf = false ∧ (Instr.registerWrite (.frame [])).wf = false ∧
    (Instr.registerWrite (.together [acc, acc])).wf = false ∧ (Instr.cartFifoPop (.frame [])).wf = false ∧
    (Instr.epochBoundary { boundaryIn with linkCrc := [] }).wf = false := by decide +kernel

theorem test_wf_refuses_measurements_of_a_wrong_shape :
    (Instr.epochBoundary { boundaryIn with rails := [] }).wf = false ∧ (Instr.epochBoundary { boundaryIn with temps := [] }).wf = false ∧
    (Instr.epochBoundary { boundaryIn with pins := [(128, 0, 0)] }).wf = false ∧
    (Instr.epochBoundary { boundaryIn with estim := [⟨128, 0#64, 0#64, true⟩] }).wf = false ∧
    (Instr.epochBoundary { boundaryIn with pilots := [⟨128, 0#64, 0#64⟩] }).wf = false ∧
    (Instr.millResultReady { millIn with bins := List.replicate 65537 Cplx.zero }).wf = false ∧
    (Instr.checkPhase 0 0 [⟨128, (0, 0), (0, 0)⟩]).wf = false ∧ (Instr.bandSearchEnd .A ⟨[0, 0, 0, 0], 0⟩).wf = false ∧
    (Instr.granaryScrubPass [⟨none, 2 ^ 34, false, .nothing⟩]).wf = false ∧
    (Instr.cartDelivery 0 ⟨0, [⟨none, 2 ^ 34, false, .nothing⟩]⟩).wf = false ∧ (Instr.bootStageEnd ⟨true, 256⟩).wf = false := by decide +kernel

theorem test_wf_refuses_path_values_beyond_the_modulators :
    (Instr.widebandSample { wide with raws := [{ raw0 with h := 2 ^ 28 + 1 }] }).wf = false ∧
    (Instr.widebandSample { wide with raws := [{ raw0 with h := -2 ^ 28 - 1 }] }).wf = false ∧
    (Instr.widebandSample { wide with raws := [{ raw0 with l := 2 ^ 28 + 1 }] }).wf = false ∧
    (Instr.widebandSample { wide with raws := [{ raw0 with l := -2 ^ 28 - 1 }] }).wf = false ∧
    (Instr.widebandSample { wide with raws := [{ raw0 with outs := List.replicate 49 0 }] }).wf = false := by decide

theorem test_wf_refuses_carts_and_messages_out_of_range :
    (Instr.fabricCart { cart with type := 16 } 1 0 [] 0).wf = false ∧ (Instr.fabricCart { cart with source := 0x1000 } 1 0 [] 0).wf = false ∧
    (Instr.fabricCart { cart with stream := 0x1000 } 1 0 [] 0).wf = false ∧
    (Instr.fabricCart { cart with words := List.replicate 4097 0#32 } 1 0 [] 0).wf = false ∧
    (Instr.fabricTriggerMessage { trigMsg with origin := 0 } 0).wf = false ∧ (Instr.fabricTriggerMessage { trigMsg with frac := 256 } 0).wf = false ∧
    (Instr.beacon 0 { beaconIn with keyQual := 256 }).wf = false ∧ (Instr.beacon 0 { beaconIn with keyAddr := 0xFFF }).wf = false ∧
    (Instr.beacon 0 { beaconIn with nbAddr := 0xFFF }).wf = false ∧ (Instr.beacon 0 { beaconIn with devs := [⟨0, 0#64, 1⟩] }).wf = false ∧
    (Instr.hello 0 { helloIn with quality := 256 }).wf = false ∧ (Instr.hello 0 { helloIn with port := 4 }).wf = false ∧
    (Instr.reserveRequest 1 (.ask 0 0 [⟨0x1000, 1, 1, 1⟩]) []).wf = false ∧ (Instr.reserveRequest 1 (.ask 0 0 [⟨0, 0, 1, 1⟩]) []).wf = false ∧
    (Instr.reserveRequest 1 (.ask 0 0 [⟨0, 1, 1, 0⟩]) []).wf = false ∧
    (Instr.reserveRequest 1 (.report 0 [⟨1, 0, 1, 1, 0, ⟨0, 1, [], []⟩, 0, none, []⟩]) []).wf = false ∧
    (Instr.epochBoundary { boundaryIn with blocks := [0, 0, 0] }).wf = false ∧ (Instr.streamAck 0 1 0#32).wf = false := by decide +kernel

/-! ### The words of no command -/

theorem test_no_word_spells_a_command : decodeTableWord 16 0 = none ∧ State.reset.withFetchWord 16 0 = State.reset := ⟨rfl, rfl⟩

theorem test_idle_step_changes_nothing : step State.reset = .next State.reset := rfl
/-! ### Values that the spec states -/

/-- R433: the presets 0x4 and 0xF, in tenths of a decibel; every port of the fabric has 0x4. -/
theorem test_tx_presets : txLevels 0x4#4 = (0, 20) ∧ txLevels 0xF#4 = (45, 60) ∧ FPort.init.preset = 0x4#4 := by decide

/-- FIPS 180-4's example: the digest of "abc". -/
theorem test_sha384_abc : beNat (sha384 [0x61#8, 0x62#8, 0x63#8]) =
    0xcb00753f45a35e8bb5a03d699ac65007272c32ab0eded1631a8b605a43ff5bed8086072ba1e7cc2358baeca134c825a7 := by decide +kernel

/-! ### States for tests -/

/-- A running device: RUN, booted, counting, at the start of an epoch. -/
def runs (epoch : Nat) (d : Device) : Device :=
  { d with pw := { d.pw with mode := .run, booted := true, idReady := true, stage := 10 }
           clk := { d.clk with counting := true, time := boundary epoch, xoOk := true } }

def dev0 : Device := runs 1000 (Device.resetWith NonVol.init)

def inMode (m : Mode) (d : Device) : Device := { d with pw := { d.pw with mode := m } }

def host : Session := ⟨1, 0, 0, 0, 10000, 0, List.replicate 16 0#8, [], 1, [], 0⟩
def partner : Session := ⟨2, 2, 0xFF, 5, 10000, 0, List.replicate 16 0#8, [], 0, [], 1⟩
def txn0 : Txn := ⟨1, 1, none, 1, false, [], .open_, 0, 0#16, [], 0, none, false, none, 0, none, false⟩
def waiter0 : Waiter := ⟨.mailbox 0, 1, 9#32, 0x0202, 1, 0⟩

/-- A host's session, a partner's, and an open transaction. -/
def hosted (d : Device) : Device := { d with fw := { d.fw with sessions := [host, partner], txns := [txn0], nextTxn := 2, tickets := 1 } }

def only (d : Device) : State := { State.reset with dev := d }

/-- A request in mailbox 0 of session 1. -/
def asking (code txn : Nat) (body : List Byte) (d : Device) : State :=
  let bytes := leBytes 2 body.length ++ leBytes 2 code ++ leBytes 4 0x55 ++ leBytes 2 1 ++ leBytes 2 0 ++ leBytes 4 txn ++ body
  { State.reset with
    dev := d
    mbx := [(0, { Mailbox.init with request := tputList 0#8 [] 0 bytes, reqLen := BitVec.ofNat 11 bytes.length, reqBusy := true })] }

/-- The same of no session. -/
def asking0 (code : Nat) (body : List Byte) (d : Device) : State :=
  let bytes := leBytes 2 body.length ++ leBytes 2 code ++ leBytes 4 0x55 ++ zeros 8 ++ body
  { State.reset with
    dev := d
    mbx := [(0, { Mailbox.init with request := tputList 0#8 [] 0 bytes, reqLen := BitVec.ofNat 11 bytes.length, reqBusy := true })] }

theorem stands_mode_query : (asking 0x0C02 0 [] (hosted dev0)).stands 0x0C02 0 := by unfold State.stands; decide +kernel

def clockOf (f : Clock → Clock) (d : Device) : Device := { d with clk := f d.clk }
def powerOf (f : Power → Power) (d : Device) : Device := { d with pw := f d.pw }
def workOf (f : Work → Work) (d : Device) : Device := { d with work := f d.work }
def fabOf (f : Fabric → Fabric) (d : Device) : Device := { d with fab := f d.fab }
def portOf (f : PortSt → PortSt) (d : Device) : Device := { d with port := f d.port }
def regsOf (f : Regs → Regs) (d : Device) : Device := { d with regs := f d.regs }
def bellOf (f : Bell → Bell) (d : Device) : Device := { d with bell := f d.bell }
def cfgOf (f : Cfg → Cfg) (d : Device) : Device := { d with fw := { d.fw with eff := f d.fw.eff, live := f d.fw.live } }

/-! ### Witnesses: states and operands that meet the hypotheses of each statement -/

def queued : State := { asking 0x0C02 0 [] dev0 with pending := [.slewDone] }

theorem meets_StepRunsTheFrontCommand : queued.pending = .slewDone :: [] := rfl

theorem queued_in_order : queued.mailboxesInOrder := by
  refine ⟨by decide +kernel, fun m => ?_⟩
  match m with
  | 0 => decide +kernel
  | n + 1 => rfl

theorem meets_EveryStepKeepsMailboxesInOrder : queued.mailboxesInOrder ∧ step queued = .next { queued with pending := [] } :=
  ⟨queued_in_order, rfl⟩

theorem meets_BusyRequestBufferDoesNotChange :
    queued.mailboxesInOrder ∧ step queued = .next { queued with pending := [] } ∧ (queued.mailbox 0).reqBusy = true :=
  ⟨queued_in_order, rfl, by decide +kernel⟩

theorem meets_ResetsKeepOnlyTheirSurvivors : (only dev0).dev.pw.mode ≠ .reset ∧ (0x20#6 ≠ 0#6 ∧ 0x20#6 ≠ 0x3F#6) := by decide +kernel

theorem meets_ReleaseOfResetSelectsTheBank : State.reset.dev.pw.mode = .reset := rfl

theorem meets_ReleaseOfResetSelectsTheBank_activated : dev0.activateReset.pw.mode = .reset ∧ dev0.activateReset.pw.activated = true := ⟨rfl, rfl⟩

def booting (stage : Nat) : Device :=
  let d := Device.resetWith NonVol.init
  { d with pw := { d.pw with mode := .boot, stage := stage, idReady := true } }

theorem meets_ControlPortUntilBootEnds :
    ((only (powerOf (fun p => { p with idReady := false }) (booting 1))).dev.pw.mode ≠ .reset ∧
      (powerOf (fun p => { p with idReady := false }) (booting 1)).pw.idReady = false ∧
      ((booting 1).nv.fwBank (booting 1).pw.fwBankB).valid = true) ∧
    (booting 1).pw.booted = false ∧ (booting 1).pw.idReady = true ∧ baseOf 0#24 = 0x00 ∧ baseOf 4#24 = 0x04 ∧ baseOf 0x10#24 = 0x10 ∧
    baseOf 0x14#24 = 0x14 ∧ baseOf 0x18#24 = 0x18 ∧ 0x18 < baseOf 0x1C#24 := by decide +kernel

def twoBanks (d : Device) : Device := { d with nv := { d.nv with fwB := d.nv.fwA } }
def good : BootResult := ⟨true, 1⟩
def bad : BootResult := ⟨false, 1⟩

/-- A device whose factory region is a known one, sound or struck. -/
def factoryIs (sound : Bool) (d : Device) : Device := { d with nv := { d.nv with factory := ⟨[], if sound then 0#32 else 1#32⟩ } }
def noBank (d : Device) : Device := { d with nv := { d.nv with fwA := d.nv.fwB } }

theorem meets_BootPassesOrEndsInSafe :
    (∀ k ∈ [1, 2, 3, 4, 5, 6, 7, 8, 9, 10], (booting k).pw.mode = .boot ∧ (booting k).pw.stage = k ∧ (booting k).pw.declared = none) ∧
    (clockOf (fun c => { c with counting := true }) (booting 4)).clk.counting = true ∧ (booting 4).clk.counting = false ∧
    (factoryIs true (booting 6)).nv.factory.sound = true ∧ (factoryIs false (booting 6)).nv.factory.sound = false ∧
    good.pass = true ∧ bad.pass = false ∧
    (noBank (booting 3)).nv.accepts ((noBank (booting 3)).nv.fwBank (booting 3).pw.fwBankB) = false ∧
    (noBank (booting 3)).nv.accepts ((noBank (booting 3)).nv.fwBank !(booting 3).pw.fwBankB) = false := by decide +kernel

theorem meets_SupplyWarningsShow :
    dev0.pw.mode ≠ .reset ∧ dev0.pw.warn.getLsbD (5 : Fin 6).val = false ∧
    (powerOf (fun p => { p with warn := 0x20#6 }) dev0).pw.warn.getLsbD (5 : Fin 6).val = true := by decide +kernel

theorem meets_LockstepRestartAndSleepKeepTheRest :
    dev0.pw.booted = true ∧ (workOf (fun w => { w with lockstep := true }) dev0).work.lockstep = true ∧
    (∀ m, m < 4 → ((only dev0).mailbox m).reqBusy = false) ∧ (inMode .hearth dev0).pw.mode = .hearth ∧
    (inMode .hearth dev0).gran.selfRefresh = false ∧ (inMode .hearth dev0).writesDone = true ∧ (inMode .hearth dev0).pw.powerLow = false ∧
    (inMode .hearth dev0).pw.wake = none ∧ (inMode .hearth dev0).pw.hearthWaiter = none := by decide +kernel

theorem meets_EpochBoundaryBeginsTheNextEpoch :
    dev0.clk.counting = true ∧ dev0.work.activate = none ∧
    (workOf (fun w => { w with activate := some dev0.clk.boundaryEpoch }) dev0).work.activate = some dev0.clk.boundaryEpoch ∧
    dev0.clk.boundaryEpoch ≤ (workOf (fun w => { w with activate := some dev0.clk.boundaryEpoch }) dev0).clk.boundaryEpoch ∧
    (5 < 6 ∧ 5 < boundaryIn.rails.length) := by decide +kernel

def batch0 : Batch := ⟨1000, 7#16, Cfg.boot, [1], [], false⟩

theorem meets_BoundaryTakesBatchesAndModes :
    ([batch0].getLast? = some batch0 ∧ batch0.cal = false ∧ ∀ x ∈ [batch0], x.cal = false) ∧
    (let d := powerOf (fun p => { p with pending := some (.idle, 1000, none) }) dev0
     d.pw.pending = some (.idle, 1000, none) ∧ d.pw.mode ≠ .safe ∧ 999 < 1000 ∧ 1000 ≤ 1000) := by decide +kernel

/-- A local transaction that waits since epoch 1000. -/
def waiting0 (id ticket : Nat) : Txn := { txn0 with id := id, ticket := ticket, state := .waiting, items := [.shepDevice 100], arrived := 1000 }
def deciding (l : List Txn) : State :=
  only { dev0 with fw := { dev0.fw with txns := l, sessions := [{ host with deadline := boundary 1001 }], batches := [{ batch0 with effect := 1001 }], committed := 7#16 } }
/-- The start of the decision at the boundary of epoch 1001. -/
def started0 : Deciding := ⟨1001, [], Cfg.boot, [], [], [], 0#64, none, [], [], false⟩

theorem meets_BoundaryTakesBatchesAndModes_at_the_boundary :
    (let s := deciding [waiting0 1 1, waiting0 2 2]
     s.dev.clk.counting = true ∧ s.dev.work.activate = none ∧ s.dev.pw.mode = .run ∧ s.dev.pw.pending = none ∧
     boundary (s.dev.epoch + 1) < 2 ^ 64 ∧ s.dev.clk.boundaryEpoch = 1001 ∧ s.dev.pw.declared = none ∧ s.dev.pw.wake = none ∧ s.dev.pw.hearth = none ∧
     s.dev.fw.batches.filter (fun y => decide (y.effect ≤ 1001)) = s.dev.fw.batches ∧ s.dev.fw.batches.getLast? = some { batch0 with effect := 1001 } ∧
     (s.dev.fw.batches.map (·.tag)).Nodup ∧ s.dev.fw.lag = [] ∧ boundaryIn.lag = [] ∧
     s.standing = [] ∧ s.dev.fw.frames = [] ∧ s.dev.fw.deciding = none ∧ s.dev.work.calJoin = false ∧
     (∀ y ∈ s.dev.fw.sessions, boundary 1001 ≤ y.deadline) ∧
     (∀ t ∈ s.dev.fw.txns, t.coord = none ∧ t.fabric = false ∧ t.prepared = false ∧ t.state = .waiting ∧ t.arrived < 1001) ∧
     (s.dev.fw.txns.map (·.id)).Nodup ∧ itemsTouch (waiting0 1 1).items (waiting0 2 2).items = true ∧
     s.dev.fw.live.fabricTerms = [] ∧ ∀ t ∈ s.dev.fw.txns, ∀ i ∈ t.items, i.entity.1 ≠ 4) ∧
    (∀ k ∈ [1001, 1002], let d := powerOf (fun p => { p with pending := some (.idle, k, none) }) dev0
      d.pw.pending = some (.idle, k, none)) ∧
    (powerOf (fun p => { p with declared := some 3 }) dev0).pw.declared = some 3 := by decide +kernel

def passesFree : Verdict → Bool
  | .passes _ [] => true
  | _ => false

theorem passes_of_free {v : Verdict} (h : passesFree v = true) : ∃ cfg, v = .passes cfg [] := by
  unfold passesFree at h
  split at h
  · exact ⟨_, rfl⟩
  · cases h

theorem meets_BoundaryTakesBatchesAndModes_oldest :
    ∃ cfg, ((deciding [waiting0 1 1, waiting0 2 2]).boundaryFront boundaryIn).dev.judge started0 (waiting0 1 1) = .passes cfg [] :=
  passes_of_free (by decide +kernel)

theorem meets_ParityIsRepairedOrDeclared :
    (only dev0).dev.clk.counting = true ∧ (only dev0).dev.pw.mode ≠ .boot ∧ (only dev0).dev.pw.mode ≠ .safe ∧
    (only dev0).dev.pw.declared = none ∧
    (let x : BadWord := ⟨0x1100#24, 0x1001#32, some 5, none⟩
     let d := regsOf (fun r => { r with struck := [x] }) dev0
     d.regs.struck = [x] ∧ x.chan = (some (5 : Fin 128)).map (·.val) ∧ x.point = (none : Option (Fin 1024)).map (·.val) ∧
     (d.regs.struck.any fun x => x.addr == 0x2000#24) = false) ∧
    (baseOf 0x1100#24 = 0x1100 ∧ baseOf 0x2000#24 = 0x2000 ∧ baseOf 0x407000#24 = 0x7000) ∧
    (let y : ParityIn := ⟨0x1100#24, 0x1001#32, true, none, none⟩
     parityOf y.live ≠ y.bit ∧ y ∈ [y]) := by decide +kernel

def syn (x : SynId) (st : SynState) (good : Nat) (d : Device) : Device := d.setSyn x fun y => { y with state := st, good := good }

theorem meets_WindowsLockAndJudgeSynthesizers :
    let at_ (x : SynId) (st : SynState) (good : Nat) : Device := dev0.setSyn x fun y => { y with state := st, good := good, due := boundary 1000 + 5 }
    (∀ k ∈ [2, 3], ((at_ .A .acquire k).syn .A).state = .acquire ∧ ((at_ .A .acquire k).syn .A).good = k) ∧
    (∀ st ∈ [SynState.acquire, .align, .ready, .active, .coast],
      let d := at_ .B st 0
      (d.syn .B).state = st ∧ (d.syn .B).mult = 0 ∧ d.clk.xoOk = true ∧ d.clk.steer = 0 ∧ d.clk.reaches (d.syn .B).due = true) ∧
    (∀ n ∈ [491518, 491522], ((n : Int) * 2 ^ 40 - 491520 * 2 ^ 0 * (2 ^ 40 + 0)).natAbs ≤ 2 * 2 ^ 40) ∧
    (∀ n ∈ [491517, 491523, 491512, 491528], 2 * 2 ^ 40 < ((n : Int) * 2 ^ 40 - 491520 * 2 ^ 0 * (2 ^ 40 + 0)).natAbs ∧
      ((n : Int) * 2 ^ 40 - 491520 * 2 ^ 0 * (2 ^ 40 + 0)).natAbs ≤ 8 * 2 ^ 40) ∧
    (∀ n ∈ [491511, 491529], 8 * 2 ^ 40 < ((n : Int) * 2 ^ 40 - 491520 * 2 ^ 0 * (2 ^ 40 + 0)).natAbs) ∧
    (clockOf (fun c => { c with xoOk := false }) dev0).clk.xoOk = false ∧ dev0.pw.mode ≠ .boot ∧ dev0.pw.mode ≠ .safe ∧
    dev0.pw.declared = none ∧
    (∀ st ∈ [SynState.ready, .search], let d := (at_ .A .active 0).setSyn .B fun y => { y with state := st, held := some 7#64 }
      (d.syn .A).state = .active ∧ (d.syn (SynId.other .A)).state = st ∧ d.clk.synB.held.isSome = true ∧
      d.clk.reaches (d.syn .A).due = true) := by decide +kernel

theorem meets_LossOfLockSwitchesOrCoasts :
    (let d := syn .B .ready 0 (syn .A .active 0 dev0)
     (d.syn .A).state = .active ∧ (d.syn (SynId.other .A)).state = .ready ∧ (d.syn .B).state = .ready) ∧
    (let d := syn .B .search 0 (syn .A .active 0 dev0)
     d.clk.driver = .A ∧ (d.syn .A).state = .active ∧ (d.syn (SynId.other .A)).state ≠ .ready ∧ (d.syn (SynId.other .A)).state ≠ .active ∧
     (d.syn d.clk.driver).state = .active ∧ d.clk.coasting = false ∧ d.clk.xoOk = true ∧ d.pw.mode ≠ .reset ∧ d.pw.declared = none ∧
     (d.setSyn .B fun y => { y with held := none }).clk.synB.held = none ∧
     (d.setSyn .B fun y => { y with held := some 7#64 }).clk.synB.held.isSome = true) ∧
    (let d := clockOf (fun c => { c with activeB := true }) (syn .A .align 0 (syn .B .active 0 dev0))
     d.clk.driver = .B ∧ (d.syn .B).state = .active ∧ d.clk.change ≠ 1 ∧ d.clk.synA.state ≠ .off ∧ d.clk.synA.state ≠ .ready ∧
     d.clk.synA.state ≠ .active) ∧
    (let d := clockOf (fun c => { c with coasting := true }) (syn .A .search 0 dev0)
     d.clk.xoOk = true ∧ d.pw.mode ≠ .boot ∧ d.pw.mode ≠ .safe ∧ d.clk.coasting = true ∧ d.clk.synA.state ≠ .active ∧
     d.pw.declared = none) := by decide +kernel

theorem meets_SynthesizersSearchAndBecomeReady :
    ((syn .A .search 0 dev0).syn .A).state = .search ∧ dev0.clk.reaches ((syn .A .search 0 dev0).syn .A).due = true ∧
    ((syn .B .unlocked 0 dev0).syn .B).state = .unlocked ∧ dev0.clk.reaches ((syn .B .unlocked 0 dev0).syn .B).due = true ∧
    (¬(24000 * (2 ^ 40 + dev0.clk.steer) < 200 * ((((24120 : Nat) : Int) * 2 ^ 40 - 24000 * (2 ^ 40 + dev0.clk.steer)).natAbs : Int))) ∧
    (24000 * (2 ^ 40 + dev0.clk.steer) < 200 * ((((24121 : Nat) : Int) * 2 ^ 40 - 24000 * (2 ^ 40 + dev0.clk.steer)).natAbs : Int)) ∧
    ((syn .A .align 0 dev0).syn .A).state = .align ∧ (clockOf (fun c => { c with counting := false }) (syn .A .align 0 dev0)).clk.counting = false ∧
    (let d := syn .B .align 0 dev0
     d.clk.counting = true ∧ d.clk.coasting = false ∧ d.clk.change ≠ 1 ∧ d.clk.change ≠ 2 ∧ (d.syn .B).lost = false ∧
     (booting 4).pw.mode = .boot ∧ (booting 4).clk.synB.state = .off ∧
     ((d.setSyn .B fun y => { y with lost := true }).syn .B).lost = true) ∧
    (∀ x ∈ [Disc.holdover, .held], ∀ n ∈ [(192 : Int), -193, 19201],
      let d := clockOf (fun c => { c with coasting := true, refPresent := true, disc := x, offset := n, policy := 2 }) (syn .A .align 0 dev0)
      d.clk.counting = true ∧ d.clk.coasting = true ∧ d.clk.under = x ∧ d.clk.policy = 2 ∧ 64 * d.clk.jumpThresh < 19201) ∧
    (∀ k ∈ [1, 2], let d := clockOf (fun c => { c with change := k, changeTo := 2 }) (syn .B .align 0 dev0)
      (d.syn .B).state = .align ∧ d.clk.counting = true ∧ d.clk.coasting = false ∧ d.clk.change = k) := by decide +kernel

def refDev (k : Nat) (x : Disc) (present : Bool) : Device :=
  clockOf (fun c => { c with source := k, disc := x, refPresent := present, refBad := true, lastEdge := 64 * boundary 999 }) dev0

theorem meets_ReferencesSteerAndAreLost :
    (∀ k ∈ [1, 2], ∀ x ∈ [Disc.locked, .slewing, .awaitStep, .held, .holdover], let d := refDev k x true
      d.clk.counting = true ∧ d.clk.source = k ∧ d.clk.under = x ∧ d.clk.refPresent = true ∧
      d.clk.expects (64 * (boundary 1999 + 3000)) = true) ∧
    (let d := clockOf (fun c => { c with goodEpochs := 100 }) (refDev 1 .acquiring false)
     d.clk.under = .acquiring ∧ d.clk.returned = true ∧ d.clk.coasting = false ∧ (refDev 1 .acquiring false).clk.returned = false) ∧
    (∀ x ∈ [Disc.acquiring, .holdover, .held], ∀ k ∈ [0, 1, 2], ∀ n ∈ [0, 3000],
      let d := clockOf (fun c => { c with taiSet := true, policy := k, ppsEdges := [64 * (boundary 1000 + n), 64 * (boundary 2000 + n)] })
        (refDev 2 x false)
      let t64 := 64 * (boundary 3000 + n)
      d.clk.source = 2 ∧ d.clk.taiSet = true ∧ d.clk.refPresent = false ∧ d.clk.coasting = false ∧ d.clk.policy = k ∧ d.clk.under = x ∧
      ({ d.clk with ppsEdges := (d.clk.ppsEdges ++ [t64]).drop (d.clk.ppsEdges.length - 2) }).returned = true ∧
      d.clk.expects t64 = true ∧ d.clk.edgeOffset t64 = 64 * n ∧ (n = 0 ∨ 64 * d.clk.jumpThresh < 64 * n)) ∧
    (refDev 2 .locked true).clk.expects (64 * (boundary 1999 + 3001)) = false ∧
    (let d := refDev 2 .locked true
     (d.tickTo d.clk.lossAt).refGone = false ∧ d.clk.lossAt = boundary 999 + 6000003001) ∧
    (let d := clockOf (fun c => { c with time := boundary 2000 + 5, lastEdge := 0 }) (refDev 2 .locked true)
     (d.tickTo d.clk.lossAt).refGone = true) ∧
    (-109951162 ≤ (-109951162 : Int) ∧ (109951162 : Int) ≤ 109951162) ∧
    (∀ k ∈ [0, 3], (clockOf (fun c => { c with source := k }) dev0).clk.source = k) ∧
    (∀ x ∈ [Disc.locked, .slewing, .awaitStep, .free, .acquiring, .holdover, .held], ∀ p ∈ [true, false],
      let d := refDev 1 x p
      (d.tickTo d.clk.lossAt).refGone = true ∧ d.clk.refPresent = p ∧ d.clk.under = x) := by decide +kernel

def due0 (kind : Nat) : StepDue := ⟨boundary 1000 + 100, kind, 64 * 4800, 0, some waiter0⟩
def dueDev (kind : Nat) : Device := clockOf (fun c => { c with due := [due0 kind] }) (hosted dev0)

theorem meets_DeviceTimeStepsAndSlews :
    ((dueDev 1).clk.counting = true ∧ (dueDev 1).nextStep = some (due0 1) ∧ (due0 1).kind = 1) ∧
    (let c := (clockOf (fun c => { c with disc := .slewing, remain := 64 * 4, slewAt := boundary 1000 }) dev0).clk
     c.disc = .slewing ∧ boundary 1000 < c.slewEnd ∧ c.reaches c.slewEnd = true) ∧
    (let c := (clockOf (fun c => { c with disc := .slewing, resume := some .slewing, later := 640, remain := 64 }) dev0).clk
     c.resume = some .slewing ∧ c.reaches c.slewEnd = true) ∧
    ((64 * 4800 - 1 : Int) ≠ 64 * 4800 ∧ (dueDev 1).clk.disc ≠ .slewing) ∧
    ((dueDev 2).clk.reaches ((due0 2).at_ + 2 * Config.secondTicks) = false ∧
      (clockOf (fun c => { c with time := boundary 3000 }) (dueDev 2)).clk.reaches ((due0 2).at_ + 2 * Config.secondTicks) = true) ∧
    ((dueDev 2).clk.due.find? (fun y => y.kind == 2) = some (due0 2) ∧ (due0 2).waiter = some waiter0 ∧
      (dueDev 2).session? waiter0.session = some host ∧ host.transport = 0) := by decide +kernel

theorem meets_CrossfadesFollowTheGrid : 15 ≤ 15 ∧ (29 % 2 = 1 ∧ 29 < 31) ∧ (3 % 2 = 1 ∧ 1 < 3 ∧ 31 < 32) := by decide

def comb (x : Comb) (w : Nat) : ChanRun := { ChanRun.init with comb := x, w := w }

theorem meets_AutoFollowsItsStates :
    (∀ c ∈ [comb .high 0, comb .toLow 29, comb .toLow 31, comb .low 32, comb .toHigh 32, comb .toHigh 3, comb .toHigh 1], c.leaving 4800 = none) ∧
    (let c := { comb .low 32 with clean := 63, risks := [4032, 5952], busys := [5568] }
     c.atRisk 4800 = true ∧ c.busyAt 4800 = true ∧ c.clean < 64 ∧ 64 ≤ ({ c with clean := 64 } : ChanRun).clean) ∧
    (29 % 2 = 1 ∧ 29 < 31) ∧ (3 % 2 = 1 ∧ 1 < 3 ∧ 3 < 32) := by
  decide +kernel

theorem meets_UnusableHighPathForcesLow : (comb .high 0).leaving 4800 = none ∧ (comb .low 32).leaving 4800 = none := by decide +kernel

theorem meets_TagFollowsTheUsablePaths :
    0 ≤ 32 ∧ 32 ≤ 32 ∧ (16 ≠ 32 ∧ 16 ≠ 0) ∧ ((16 ≠ 32 → true = true) ∧ (16 ≠ 0 → true = true)) ∧ ((true && false) = false) := by decide

def chanDev (f : ChanRun → ChanRun) : Device := dev0.setChan 0 f

theorem meets_WidebandSampleMovesTheCombiner :
    let d := chanDev fun c => { c with wstop := none, wstart := 3000000000 }
    twf ChanRun.init d.chans = true ∧ (d.chan 0).wideDue wide = true := by decide +kernel

theorem meets_OverloadsAndGuardLimitsShow :
    (let d := chanDev fun c => { c with released := true }
     (d.chan 0).released = true ∧ (d.chan 0).ovlLow = false ∧ (d.chan 0).ovlHigh = false) ∧
    (let d := chanDev fun c => { c with released := true, ovlLow := true, ovlHigh := true, spanLow := [⟨7, none⟩], spanHigh := [⟨7, none⟩] }
     (d.chan 0).released = true ∧ (d.chan 0).ovlLow = true ∧ (d.chan 0).spanLow = [⟨7, none⟩] ∧ (d.chan 0).ovlHigh = true ∧
     (d.chan 0).spanHigh = [⟨7, none⟩]) ∧
    dev0.pw.mode = .run ∧ (inMode .calibrate dev0).pw.mode = .calibrate := by decide +kernel

def chanQ : ChanCfg := { ChanCfg.init with mode := 1, enable := true }
def point0 : PointCfg := { PointCfg.init with enable := true }
def onCfg (c : ChanCfg) (f : Cfg → Cfg := id) (d : Device) : Device := cfgOf (fun x => f { x with chans := [(0, c)], points := [(0, point0)] }) d
def filter0 : Filter := ⟨0, 3000000000, none, 0, 960, none, none⟩
def pointDev : Device := (dev0.setPt 0 fun p => { p with filters := [filter0] }).setChan 0 fun c => { c with released := true, wlast := boundary 1100, wstop := none }

theorem meets_StartsAndRampsKeepTheirTicks :
    (let d := chanDev fun c => { c with phase := .starting }
     (d.chan 0).phase = .starting ∧ (d.chan 0).isoClosed = false ∧ (d.chan 0).calClosed = false) ∧
    (let d := chanDev fun c => { c with phase := .starting, isoClosed := true }
     (d.chan 0).phase = .starting ∧ (d.chan 0).joined = true ∧ twf ChanRun.init d.chans = true) ∧
    (let d := onCfg chanQ id (chanDev fun c => { c with phase := .running })
     (d.chan 0).phase = .running ∧ (d.fw.eff.chan 0).mode = 1 ∧ (d.chan 0).servoSlow = false) ∧
    ((pointDev.pt 0).full = false ∧ (pointDev.pt 0).phase2 = false ∧ (pointDev.pt 0).on = true ∧ (pointDev.chan 0).released = true ∧
      (pointDev.chan 0).calBus = false) ∧
    (let d := onCfg chanQ id (dev0.setPt 0 fun p => { p with phase2 := true, rampFrom := 7 })
     ((d.fw.eff.pointsOf 0).filter fun q => (d.pt q).phase2 && (d.pt q).rampFrom == 7) ≠ []) ∧
    ((chanDev fun c => { c with phase := .rampRestart }).chan 0).phase = .rampRestart ∧
    (let d := chanDev fun c => { c with phase := .rampOff }
     (d.chan 0).phase = .rampOff ∧ (d.chan 0).released = false) := by decide +kernel

def swapDev : Device :=
  let d := (dev0.setPt 0 fun p => { p with ncos := [⟨0, 2 ^ 40, 0, 0⟩] }).setChan 0 fun c => { c with released := true, nswaps := [(0, 16)] }
  onCfg { ChanCfg.init with mode := 2, subform := 1, enable := true } id d

theorem meets_GainChangesAndCurrentSwaps :
    (let d := chanDev fun c => { c with outHigh := some 1000 }
     (d.chan 0).outPath = some (.high, 1000) ∧ (d.chan 0).switched = false ∧ twf ChanRun.init d.chans = true) ∧
    (let d := chanDev fun c => { c with outLow := some 1000, switched := true }
     (d.chan 0).outPath = some (.low, 1000) ∧ (d.chan 0).switched = true ∧ 1000 + 18840 ≤ 19840 ∧ 3019840 ≤ 1000 + 3018840 ∧
     twf ChanRun.init d.chans = true ∧ (d.evt evRange).epoch.getLsbD 2 = false) ∧
    ((swapDev.fw.eff.chan 0).swaps = true ∧ (swapDev.chan 0).released = true ∧ twf ChanRun.init swapDev.chans = true ∧
     swapDev.swapDue 0 2929696 = some 3000008704 ∧ swapDev.swapDue 0 2929697 = none) := by decide +kernel

theorem meets_PointSamplesGiveTheirWords :
    pointDev.pointDue 0 3000000000 = true ∧ twf PointRun.init pointDev.points = true ∧
    (pointDev.setPt 0 fun p => { p with filters := [{ filter0 with last := some 3000000000 }] }).pointDue 0 3000000960 = true := by
  decide +kernel

def open0 : OpenCart := ⟨boundary 1000, boundary 1000, boundary 1000 + 10, 7#16, 0#14, 1, zeros 12⟩
def ready0 : ReadyCart := ⟨boundary 1001, cart⟩
def cartDev : Device := portOf (fun p => { p with enable := true, gridAt := some 0, open_ := [(0, open0)], ready := [ready0] }) dev0

theorem meets_CartsCloseAndLeave :
    (tfind cartDev.port.open_ 0 = some open0 ∧ open0.ready + ((cartDev.cfgAt open0.at_).stream 0).fillTo ≤ boundary 1000 + 3000010) ∧
    (let d := cfgOf (fun c => { c with streams := [(0, { StreamCfg.init with dest := 1 })] }) cartDev
     ((d.cfgAt open0.at_).stream 0).dest = 1 ∧ streamType 0 ≠ 8 ∧ d.portSends (streamType 0) = true) ∧
    (cartDev.lanesRun = true ∧ cartDev.prbs = false ∧ (inMode .safe cartDev).pw.mode = .safe ∧ streamType 0 ≠ 7 ∧ cartDev.gran.selfRefresh = false ∧ (cartDev.port.gridAt.any fun g => decide (g ≤ 0)) = true) ∧
    (cartDev.pumpTo 0).port.ready = [ready0] ∧ (dev0.pumpTo 0).port.ready = [] ∧ cartDev.working = true := by decide +kernel

theorem meets_GranaryWritesAndScrubs :
    ({ dev0 with gran := { dev0.gran with selfRefresh := true } } : Device).gran.selfRefresh = true ∧ dev0.gran.selfRefresh = false ∧
    (let errs : List ScrubErr := [⟨none, 0, false, .nothing⟩, ⟨none, 64, true, .nothing⟩]
     (errs.any fun e => !e.double) = true ∧ (errs.any fun e => e.double) = true) := by decide +kernel

def runDev : Device := { dev0 with marks := { dev0.marks with runs := [(boundary 1000, none)] } }
def job0 : JobCfg := ⟨true, false, 0, 0, 0, 10, 0, 0, 0, 0#32, 0, 0, 1, 1, 0, 0, 1, 0, 4, 0, 0, 0, 0⟩
def jobDev (j : JobCfg) : Device := cfgOf (fun c => { c with jobs := [(0, j)] }) runDev
/-- A whole window of samples from an instant on, the first with given flags. -/
def winFrom (at_ : Nat) (flags : BitVec 14) : List MillSample :=
  (List.range 256).map fun (i : Nat) => ⟨(i : Int), at_ + 48 * i, at_ + 48 * i, at_ + 48 * i + 2016, 0, 0, if i = 0 then flags else 0#14, false⟩
def fedRun : JobRun := { JobRun.init with start := boundary 999, ts := 48, buf := winFrom (boundary 1000) 1#14, fed := some (256, boundary 1000 + 48 * 255) }
def fedDev (j : JobCfg) (ended : Bool) : Device :=
  if ended then { (jobDev j) with ended := [(0, [{ fedRun with stop := some (boundary 1001) }])] } else (jobDev j).setJob 0 fun _ => fedRun
def mill0 : MillIn := ⟨0, [], false, [], false, false, []⟩
def due1 (clear : Bool) : MapDue := ⟨999, false, clear, false⟩
def mapDev : Device := dev0.setMap 0 fun m => { m with due := [due1 false], snap := some (999, []), waiter := some (waiter0, 999) }
def readout0 : Readout := ⟨waiter0, 0, 0, 0, false, 0, 0, 0, 0, 0, 0, 0⟩

theorem meets_MillResultsSnapshotsAndReadoutsComplete :
    (∀ k ∈ [0, 2], let j := { job0 with srcKind := k, log2n := 8 }
      let d := fedDev j false
      d.millNext 0 = some ⟨none, fedRun, winFrom (boundary 1000) 1#14⟩ ∧ (d.windowCfg (winFrom (boundary 1000) 1#14)).job 0 = some j ∧
      d.millFits mill0 ⟨none, fedRun, winFrom (boundary 1000) 1#14⟩ j = true ∧ twf JobRun.init d.jobs = true ∧ twf 0#32 d.cnt.job = true ∧
      j.replay = decide (k = 2)) ∧
    runDev.millNext 0 = none ∧
    (∀ clear ∈ [true, false], let d := mapDev.setMap 0 fun m => { m with due := [due1 clear] }
      (d.map 0).due = due1 clear :: [] ∧ twf MapRun.init d.maps = true ∧ d.mapReady 0 999 = true ∧ (due1 clear).halve = false ∧
      (due1 clear).clear = clear) ∧
    (let d := hosted (dev0.setRegion 0 fun r => { r with readout := some readout0 })
     (d.region 0).readout = some readout0 ∧ twf RegionRun.init d.gran.regions = true ∧ d.session? waiter0.session = some host ∧ host.transport = 0) ∧
    ((hosted mapDev).map 0).waiter = some (waiter0, 999) ∧ twf MapRun.init (hosted mapDev).maps = true := by decide +kernel

/-! #### The Shepherd -/

def pointF : PointCfg := { point0 with f := 2 ^ 40 }
def fastDev : Device := cfgOf (fun c => { c with points := [(0, pointF)] }) <|
  (dev0.setPt 0 fun p => { p with filters := [filter0], armed := true, e0 := [(.SP, 0x3F800000#32)] }).setChan 0 fun c =>
    { c with phase := .running, armed := true, ovlCond := true, released := true }
def check0 (phase : Nat) : Check := ⟨boundary 998, false, phase, [0], [(0, 1)]⟩
def checkDev (phase : Nat) : Device := onCfg { ChanCfg.init with enable := true } id (dev0.setGroup 0 fun g => { g with check := some (check0 phase) })
def endedDev (runs : Bool) : Device := onCfg { ChanCfg.init with enable := runs } id <|
  (dev0.setGroup 0 fun g => { g with ended := some (check0 4) }).setChan 0 fun c => { c with phase := .running, capture := some 7 }

theorem meets_FastDetectionsOpenEpisodes :
    (twf ChanRun.init fastDev.chans = true ∧ twf GroupRun.init fastDev.groups = true ∧
      fastDev.canFire 0 (.envelope 0 .SP) 4500 ⟨0x3DCCCCCC#32, 3072⟩ = true ∧ fastDev.canFire 0 (.envelope 0 .SP) 4500 ⟨0x3DCCCCCD#32, 3072⟩ = false ∧
      fastDev.canFire 0 .overload 2400 noEnv = true ∧ fastDev.canFire 0 .overload 2399 noEnv = false ∧ (fastDev.group 0).check = none) ∧
    (let d := fastDev.setGroup 0 fun g => { g with check := some (check0 0) }
     d.canFire 0 .overload 2400 noEnv = true ∧ (d.group 0).check = some (check0 0) ∧ (check0 0).urgent = false ∧ twf GroupRun.init d.groups = true) ∧
    (∀ k ∈ [0, 2], let d := chanDev fun c => { c with asserted := [.overload], cls := k, episodes := [⟨7, none, none, 1, some .overload, 7, 7⟩] }
     d.canRelease 0 .overload 2400 noEnv = true ∧ (d.chan 0).asserted = [.overload] ∧ badClass (d.chan 0).cls = decide (k = 2) ∧
     ((d.chan 0).episodes.any fun e => e.to_.isNone) = true ∧ twf ChanRun.init d.chans = true ∧ twf GroupRun.init d.groups = true ∧
     ((d.group 0).check.all fun k => !k.urgent) = true) := by decide +kernel

theorem meets_ChecksMeasureAndClassify :
    (∀ k ∈ [0, 3], ((checkDev k).group 0).inPhase k = some (check0 k) ∧ (check0 k).chans.Nodup ∧ twf ChanRun.init (checkDev k).chans = true ∧
      twf GroupRun.init (checkDev k).groups = true ∧
      ((check0 k).chans.all fun n => [(⟨0, (0, 0), (0, 0)⟩ : PhaseMeas)].any fun m => m.ch == n) = true ∧
      [(⟨0, (0, 0), (0, 0)⟩ : PhaseMeas)].find? (fun m => m.ch == 0) = some ⟨0, (0, 0), (0, 0)⟩) ∧
    (let x := (checkDev 4).group 0
     x.check = some (check0 4) ∧ (check0 4).start + 6000000 ≤ boundary 1000 ∧ boundary 1000 - 1 < (check0 4).start + 6000000) ∧
    (GroupRun.init.check = none) ∧
    (∀ r ∈ [true, false], let d := endedDev r
     (d.group 0).ended = some (check0 4) ∧ (check0 4).phase = 4 ∧ d.stillRuns (check0 4).start 0 = r ∧ twf ChanRun.init d.chans = true ∧
     twf GroupRun.init d.groups = true) := by decide +kernel

/-! #### Triggers, Bells, lanes -/

def unit0 (type : Nat) : UnitCfg := ⟨true, false, false, type, 0, 0, 0, 0#32, 0#32, 0, 0xFFF, 0, 0, 0, 0, 0, 0, 0, 3, 0, 0, 0, 0, 0, 0⟩
def unitDev (type : Nat) : Device := fabOf (fun f => { f with address := 7 }) <|
  let d := cfgOf (fun c => { c with units := [(0, unit0 type)] }) runDev
  { d with trig := { d.trig with pinLast := [(0, boundary 1000)], pinLevel := 1#4 } }
def spent (u : UnitRun) : UnitRun := { u with lastFire := some (256 * boundary 1000 + 1) }
def msg0 : TrigMsg := ⟨1, 0, boundary 1000, 0, boundary 1000, 0#14⟩

theorem meets_TriggersFireAndLeave :
    (inSpans runDev.marks.runs (boundary 1000) = true ∧ tfind (unitDev 7).trig.pinLast 0 = some (boundary 1000) ∧
      boundary 1000 + 95 < boundary 1000 + 96 ∧ inSpans (unitDev 7).marks.runs (boundary 1000 + 96) = true) ∧
    (∀ l, tfind (unitDev 7).trig.pinLast 1 = some l → l + 96 ≤ boundary 1000) ∧
    (let t := boundary 1000
     ((unitDev 7).cfgAt t).unit 0 = some (unit0 7) ∧ (unit0 7).enable = true ∧ (unit0 7).type = 7 ∧ ((unit0 7).sel = 0 ↔ true = true) ∧
     tfind (unitDev 7).trig.pinLast (unit0 7).src = some t ∧ (unitDev 7).trig.pinLevel.getLsbD (unit0 7).src = true ∧
     inSpans (unitDev 7).marks.runs t = true ∧ ((unitDev 7).unitAt 0 t).holds (unit0 7) (256 * t) = false ∧ (unit0 7).seqmode = 0 ∧
     (((unitDev 7).setUnit 0 spent).unitAt 0 t).holds { unit0 7 with holdoff := 1 } (256 * t) = true) ∧
    (let d := unitDev 8
     d.fab.address ≠ 0 ∧ msg0.close + 48096 ≤ msg0.close + 48096 ∧ inSpans d.marks.runs msg0.close = true ∧ (unit0 8).type = 8 ∧
     ((d.cfgAt msg0.close).units.filter fun (_, y) => y.enable && y.type == 8 && y.m == msg0.id && (y.p1 == 0xFFF || y.p1 == msg0.origin))
       = [(0, unit0 8)] ∧
     (d.unitAt 0 msg0.close).holds (unit0 8) (256 * msg0.time + msg0.frac) = false ∧ (unit0 8).seqmode = 0 ∧
     ((d.setUnit 0 spent).unitAt 0 msg0.close).holds { unit0 8 with holdoff := 1 } (256 * msg0.time + msg0.frac) = true) ∧
    (let d : Device := { dev0 with trig := { dev0.trig with pulses := [(3, 7, 99)], msgs := [(7, 2, msg0)] } }
     (d.trig.pulses.any fun (q, a, b) => q == 3 && (a == 7 || b == 7)) = true ∧
     (d.trig.pulses.any fun (q, a, b) => q == 3 && (a == 99 || b == 99)) = true ∧ ((7, 2, msg0) ∈ d.trig.msgs ∧ 7 ≤ 7 ∧ 2 ≠ d.fab.address)) := by
  refine ⟨by decide +kernel, fun l h => ?_, by decide +kernel⟩
  exact absurd h (by show (none : Option Nat) ≠ some l; intro h; cases h)

def fire0 : Firing := ⟨0, 7, 256 * boundary 1000, boundary 1000, 1#32, 0#14⟩
def rec0 : OpenRec := ⟨0, 62500000, boundary 1000, boundary 1000 + 200, [fire0], false, false⟩

theorem meets_RecordsCloseOnce :
    let d : Device := { unitDev 7 with trig := { (unitDev 7).trig with recs := [rec0] } }
    d.trig.recs.find? (fun r => r.grp == (0 : Fin 8).val && r.key == 62500000) = some rec0 ∧ d.inEpoch rec0.close = true ∧
    rec0.entries = [fire0] ∧ primaryOf rec0.entries = some fire0 ∧ twf 0#32 d.cnt.unit = true ∧ d.pw.mode ≠ .safe ∧
    (d.cfgAt rec0.inst).unit fire0.unit = some (unit0 7) ∧ hasBit (unit0 7).act 0 = true ∧ hasBit (unit0 7).act 1 = true ∧
    (∀ k ∈ [2, 3, 4, 5], hasBit (unit0 7).act k = false) ∧ fire0.unit < 16 ∧ 16 ≤ ({ fire0 with unit := 16 } : Firing).unit := by decide +kernel

theorem meets_RecordsCloseOnce_actions :
    (let x : UnitCfg := { unit0 7 with act := 60, outpins := 15 }
     (∀ k ∈ [2, 3, 4, 5], hasBit x.act k = true) ∧ ∀ p ∈ [0, 3], hasBit x.outpins p = true) ∧
    (∀ q ∈ [[], [0], [0, 1]], let d := runDev.setRegion 63 fun y => { y with queue := q, slots := [(0, { Slot.init with state := .recording })] }
      (d.region 63).queue = q ∧ twf RegionRun.init d.gran.regions = true ∧ twf Slot.init (d.region 63).slots = true) := by decide +kernel

def bellDue (t : Nat) : BellDue := ⟨boundary 1000 + t, 1#5⟩
def bellDev : Device := bellOf (fun b => { b with due := [bellDue 16], inEn := true, lastLatched := some (boundary 1000) }) dev0
def sched0 : BellSched := ⟨boundary 1004, [2], [], some waiter0⟩

theorem meets_BellsAreCountedLatchedOrDropped :
    (dev0.clk.counting = true ∧ dev0.pw.idReady = true ∧ bellDev.bell.inEn = true ∧ true = !bellDev.bell.inEdge) ∧
    (bellDev.bell.due.find? (fun y => y.tick == boundary 1000 + 16) = some (bellDue 16) ∧ bellDev.inEpoch (boundary 1000 + 16) = true ∧
      ((bellDue 16).sources ≠ srcSnap ∧ ((bellDue 16).sources.setWidth 4) &&& 0xF#4 ≠ 0#4)) ∧
    (bellOf (fun b => { b with idleHalf := some Snapshot.zero }) dev0).bell.idleHalf = some Snapshot.zero ∧
    (let d := fabOf (fun f => { f with address := 7 }) dev0
     d.fab.address ≠ 0 ∧ d.clk.time < boundary 1000 + 1 ∧ boundary 1000 ≤ d.clk.time) ∧
    (let near := bellOf (fun b => { b with lastLatched := some (boundary 1000 - 3000 + 17) }) bellDev
     (near.bell.lastLatched.any fun l => decide (boundary 1000 + 16 < l + 3000)) = true) ∧
    (∀ dests ∈ [[2], [2, 5]], let x : BellSched := { sched0 with dests := dests }
     let d := hosted (bellOf (fun b => { b with sched := [x] }) dev0)
     d.bell.sched.find? (fun x => x.tick == boundary 1004 && x.dests.contains 2) = some x ∧
     (({ x with acked := x.acked ++ [2] } : BellSched).missing = [] ↔ dests = [2]) ∧ x.waiter = some waiter0 ∧
     d.session? waiter0.session = some host ∧ host.transport = 0) := by decide +kernel

/-- A frame of the return lane with its trailer and pad word. -/
def laneOf (kind : Nat) (payload : List Byte) : List Byte :=
  let b := leBytes 4 (0x10000000 + kind * 0x1000000 + payload.length / 4) ++ zeros 12 ++ payload
  b ++ leWord (crc32 b) ++ zeros (if payload.length / 4 % 2 = 0 then 4 else 0)
def healthBytes : List Byte := laneOf 1 ([0xFF#8, 1#8, 1#8, 0#8] ++ zeros 4 ++ [1#8] ++ zeros 7)

theorem meets_LanesFailOverAndReportHealth :
    (dev0.lanesRun = true ∧ dev0.port.failed.getLsbD (8 : Fin 9).val = false ∧ dev0.port.idle 0 = false ∧ dev0.port.force = false ∧
      twf 0#58 dev0.port.scramble = true ∧
      (let d := portOf (fun p => { p with failed := 0x100#9 }) dev0
       d.port.failed.getLsbD (8 : Fin 9).val = true ∧ d.port.idle 8 = true)) ∧
    (∀ l ∈ [7, 8], let d := portOf (fun p => { p with gridAt := some 0, failing := [l], failed := 1#9 <<< l, lanes := 8 }) dev0
      d.onGrid 135168 = true ∧ d.forcedLane.port.failing = [l] ∧ d.port.parity = true ∧ (l < d.port.lanes ∨ l = 8) ∧
      (d.forcedLane.port.failed.getLsbD 8 = decide (l = 8)) ∧ d.port.stopping = false) ∧
    (∀ x ∈ [true, false], let d := portOf (fun p => { p with gridAt := some 0, parity := x, stopping := !x }) dev0
      d.onGrid 135168 = true ∧ d.forcedLane.port.failing = [] ∧ d.port.parity = x ∧ d.port.stopping = !x) ∧
    (∀ x ∈ [true, false], let p := (portOf (fun p => { p with rxEnable := true, rxLock := true, hostFailEn := x, hostGood := some 7 }) dev0).port
      p.rxEnable = true ∧ p.rxLock = true ∧ p.hostFailEn = x ∧ p.hostGood = some 7 ∧ dev0.clk.reaches (7 + 6000000) = true ∧
      dev0.clk.reaches (boundary 1001 + 7 + 6000000) = false) ∧
    laneCrcOk (zeros 24) = false ∧ healthFrame healthBytes = some ⟨0x1FF#16, 1#16, 0#16, 0#16, 1#8⟩ := by decide +kernel

/-! #### Registers and mailboxes -/

def wr (addr : BitVec 24) (v : Word) : Access := ⟨.control, 2#8, addr, v⟩
def locked (d : Device) : Device := regsOf (fun r => { r with lockDbg := true, lockCal := true, lockFw := true }) d

theorem meets_LocksAreSetOnceAndHold :
    dev0.pw.booted = true ∧ (wr 0x5000#24 1#32).wf = true ∧ (∀ k : Fin 3, baseOf (BitVec.ofNat 24 (0x5000 + 4 * k.val)) = 0x5000 + 4 * k.val) ∧
    (∀ k : Fin 3, [dev0.regs.lockDbg, dev0.regs.lockCal, dev0.regs.lockFw][k.val]? = some false) ∧
    (∀ k : Fin 3, [(locked dev0).regs.lockDbg, (locked dev0).regs.lockCal, (locked dev0).regs.lockFw][k.val]? = some true) ∧
    aliasOf 0x5000#24 = 0 ∧ (aliasOf 0x405000#24 ≠ 0 ∧ baseOf 0x405000#24 = 0x5000) ∧ (wr 0x5000#24 0#32).value.getLsbD 0 = false ∧
    (wr 0x5000#24 1#32).value.getLsbD 0 = true := by decide +kernel

theorem meets_LocksAreSetOnceAndHold_by_command :
    exec (.slewDone) (only (locked dev0)) = .next (only (locked dev0)) ∧ Instr.slewDone ≠ .brownout 0x3F#6 := ⟨rfl, by decide⟩

theorem meets_EventRegistersClearBySequence :
    (1#24 &&& evtMask evSys ≠ 0#24) ∧ dev0.pw.booted = true ∧ twf Evt.init dev0.evts = true ∧
    (evtAt (baseOf 0x1010#24) = some 0 ∧ evtAt (baseOf 0x1018#24) = some 2 ∧ evtAt (baseOf 0x1020#24) = some 3 ∧
      evtAt (baseOf 0x1064#24) = some 20) ∧
    aliasOf 0x1064#24 = 0 ∧ aliasOf 0x401064#24 ≠ 0 ∧ evtAt (baseOf 0x401064#24) = some 20 ∧ (wr 0x1064#24 0#32).wf = true ∧
    (dev0.evt evSys).cycle = none ∧ dev0.clk.counting = true ∧
    (let d := dev0.raise evSys 1#24
     twf Evt.init d.evts = true ∧ (d.evt evSys).cycle = some (d.clk.time / 16) ∧
     (d.evt evSys).cycle ≠ (clockOf (fun c => { c with time := c.time + 16 }) d).clk.cycle) := by decide +kernel

/-- The clocks of a one-line frame of some bytes. -/
def clocksOf (l : List Byte) : List (BitVec 4) := l.flatMap fun b => (List.range 8).map fun i => BitVec.ofNat 4 (bit01 (b.getLsbD (7 - i)))

theorem meets_ViolationsLatchTheFirst :
    dev0.pw.booted = true ∧ (dev0.evt evViol).bits &&& 0x3F#24 = 0#24 ∧
    (let l := clocksOf [0x55#8]
     8 ≤ l.length ∧ cpOpcode (cpOp l) = none ∧ cpBad l = true) ∧
    (let l := clocksOf [2#8, 0#8, 0x50#8, 0#8, 0#8]
     cpOpcode (cpOp l) = some ⟨true, 0, false⟩ ∧ cpBad l = true ∧ cpBad (clocksOf [2#8, 0#8, 0x50#8, 0#8, 0#8, 0#8, 0#8, 1#8]) = false) ∧
    (let l := clocksOf ([2#8, 0#8, 0#8, 0x10#8] ++ List.replicate 8 1#8)
     cpOpcode (cpOp l) = some ⟨true, 0, false⟩ ∧ cpBad l = false ∧ (cpWrites l)[0]? = some ⟨.control, 2#8, 0x10#24, 0x01010101#32⟩ ∧
     (cpWrites l)[1]? = some ⟨.control, 2#8, 0x14#24, 0x01010101#32⟩ ∧ (cpWrites l)[2]? = none) ∧
    (baseOf 0x430000#24 = 0x030000 ∧ baseOf 0x3FFFFC#24 ≠ 0x030000 ∧ (baseOf 0x3FFFFC#24 + 4) % 2 ^ 22 = 0) ∧
    (let d := dev0.raise evViol 1#24
     (d.evt evViol).bits &&& 0x3F#24 ≠ 0#24 ∧ d.regs.viol.count ≠ 0xFFFF#16) := by decide +kernel

def idleBox : State := { asking 0x0C02 0 [] (hosted dev0) with mbx := [(0, { Mailbox.init with request := tputList 0#8 [] 2 (leBytes 2 0x0C02) })] }
def busyBox : State := asking 0x0C02 0 [] (hosted dev0)
def completion0 : Completion := ⟨stOk, 9#32, 1000, 0x0202, 1, 1, []⟩

theorem one_mailbox_in_order (s : State) (b : Mailbox) (hm : s.mbx = [(0, b)]) (h : twf Mailbox.init s.mbx = true)
    (hb : (s.mailbox 0).inOrder = true) : s.mailboxesInOrder := by
  refine ⟨h, fun m => ?_⟩
  match m with
  | 0 => exact hb
  | n + 1 =>
    have : s.mailbox (n + 1) = Mailbox.init := by simp [State.mailbox, hm]; rfl
    rw [this]
    rfl

theorem meets_MailboxesExchangeInOrder :
    (idleBox.mailboxesInOrder ∧ (wr 0x103FC#24 7#32).wf = true ∧ idleBox.dev.pw.booted = true ∧ 0 < 4 ∧ aliasOf 0x10000#24 = 0) ∧ busyBox.mailboxesInOrder ∧
    (1020 < 1024 ∧ 1020 % 4 = 0 ∧ baseOf 0x103FC#24 = 0x10000 + 0x800 * 0 + 1020 ∧ aliasOf 0x103FC#24 = 0) ∧
    ((busyBox.mailbox 0).reqBusy = true ∧ (idleBox.mailbox 0).reqBusy = false ∧ (idleBox.mailbox 0).rspValid = false) ∧
    (baseOf 0x108#24 = 0x108 + 0x40 * 0 ∧ (cmdModes (idleBox.rawMailbox 0).code).isSome = true) ∧
    (baseOf 0x100#24 = 0x100 + 0x40 * 0 ∧ (wr 0x100#24 1#32).value.getLsbD 0 = true) ∧
    (let d := { dev0 with fw := { dev0.fw with sessions := [{ host with queue := [completion0] }] } }
     d.session? 1 = some { host with queue := [completion0] } ∧ host.transport = 0 ∧ host.mbx = 0 ∧ d.work.lockstep = false ∧
     ((idleBox.mailbox 0).reqBusy || (idleBox.mailbox 0).rspValid) = false) ∧
    (∀ k ∈ [1, 2], let x : Session := { partner with transport := k, queue := [completion0] }
      let d := { dev0 with fw := { dev0.fw with sessions := [x] } }
      d.session? 2 = some x ∧ d.canMessage x.via = true ∧ d.work.lockstep = false) := by
  refine ⟨⟨one_mailbox_in_order idleBox _ rfl (by decide +kernel) (by decide +kernel), by decide +kernel⟩,
    one_mailbox_in_order busyBox _ rfl (by decide +kernel) (by decide +kernel), by decide +kernel, by decide +kernel, by decide +kernel,
    by decide +kernel, by decide +kernel, by decide +kernel⟩

theorem meets_ControlRegistersAct :
    dev0.pw.booted = true ∧ (wr 0x1100#24 1#32).wf = true ∧ baseOf 0x1100#24 = 0x1100 ∧ (roRegs.contains (baseOf 0x000018#24) = true ∧ aliasOf 0x000018#24 = 0 ∧
      roRegs.contains (baseOf 0x400018#24) = true ∧ aliasOf 0x400018#24 ≠ 0) ∧
    baseOf 0x2000#24 = 0x2000 ∧ aliasOf 0x2000#24 = 0 ∧ (∀ k : Fin 4, baseOf (BitVec.ofNat 24 (0x2000 + 0x400000 * k.val)) = 0x2000 ∧
      aliasOf (BitVec.ofNat 24 (0x2000 + 0x400000 * k.val)) = k.val) ∧
    (2#32).getLsbD 1 = true ∧ 3#32 &&& 3#32 ≠ 0#32 ∧ 0x300#32 &&& 3#32 = 0#32 ∧
    aliasOf 0x7000#24 = 0 ∧ baseOf 0x7000#24 = 0x7000 ∧ ((1#32).getLsbD 12 = false ∧ (1#32).getLsbD 0 = true) ∧
    (dev0.port.enable = false ∧ dev0.port.stopping = false ∧ (portOf (fun p => { p with stopping := true }) dev0).port.stopping = true) ∧
    (((dev0.port.ctl &&& ~~~0x1FF3#32) ||| (0#32 &&& 0x1FF3#32)).getLsbD 0 = false) ∧
    cartDev.port.enable = true ∧ (0x1000#32).getLsbD 12 = true ∧ dev0.regs.lockDbg = false ∧ (locked dev0).regs.lockDbg = true := by
  decide +kernel

def posted (p : Posted) (d : Device) : Device := d.setPost .control 3 fun _ => p
def busyAccess (addr : BitVec 24) (write : Bool) : Posted := ⟨true, false, false, addr, 1#32, write, 0#24, 0#32, boundary 1000⟩

theorem meets_TileAccessesArePosted :
    dev0.pw.booted = true ∧ (wr 0x230400#24 1#32).wf = true ∧ (0x400 < 0x10000 ∧ 0x400 % 4 = 0) ∧ baseOf 0x230400#24 = 0x200000 + 0x10000 * (3 : Fin 4).val + 0x400 ∧
    (0xFFFC < 0x10000 ∧ 0xFFFC % 4 = 0 ∧ baseOf 0x23FFFC#24 = 0x200000 + 0x10000 * (3 : Fin 4).val + 0xFFFC) ∧
    twf Posted.init dev0.regs.posted = true ∧ tileWritable 0x400 = true ∧ (locked dev0).regs.lockDbg = true ∧ dev0.regs.lockDbg = false ∧
    dev0.pw.mode ≠ .maintain ∧ (inMode .maintain dev0).pw.mode = .maintain ∧ (dev0.regs.post .control 3).busy = false ∧
    (dev0.regs.post .control 3).valid = false ∧
    (let d := posted (busyAccess 0x23FFFC#24 false) dev0
     (d.regs.post .control 3).busy = true ∧ twf Posted.init d.regs.posted = true ∧
     d.clk.time < (d.regs.post .control 3).since + 12288 ∧ d.clk.reaches ((d.regs.post .control 3).since + 12288) = true ∧
     (d.tickTo (boundary 1000 + 12288)).regs.posted = d.regs.posted ∧
     (d.regs.post .control 3).since + 12288 ≤ (d.tickTo (boundary 1000 + 12288)).clk.time ∧
     tileKnown (tileOff (baseOf (d.regs.post .control 3).addr)) = false) ∧
    (let d := posted (busyAccess 0x230400#24 false) dev0
     tileKnown (tileOff (baseOf (d.regs.post .control 3).addr)) = true ∧ (d.regs.post .control 3).write = false) ∧
    (let d := posted (busyAccess 0x230400#24 true) dev0
     tileOff (baseOf (d.regs.post .control 3).addr) = 0x400 ∧ aliasOf (d.regs.post .control 3).addr = 0 ∧ (d.regs.post .control 3).write = true ∧
     twf Tile.init d.tiles = true) ∧
    (let d := posted ⟨false, true, false, 0#24, 0#32, false, 0x230400#24, 5#32, 0⟩ dev0
     (d.regs.post .control 3).busy = false ∧ (d.regs.post .control 3).valid = true ∧
     baseOf (d.regs.post .control 3).readAddr = baseOf 0x230400#24) := by decide +kernel

/-! #### The Commons -/

def upPort (p : FPort) : FPort := { p with up := true, trained := true, nbUid := some 7#64, nbVersion := 3 }
def linked (f : Fabric) : Fabric := { f with address := 3, hasKey := true, keyUid := 7#64, bellringer := 2, level := 1, portEn := 0xF#4 }
def fabDev : Device := (fabOf linked (hosted dev0)).setFport 0 upPort
def ringer : Device := fabOf (fun f => { f with keyUid := ownUid, bellringer := 3 }) fabDev

def otherHdr : FrameHdr := ⟨0, 1, 0xFFE, 5, 0, 1, 0⟩

theorem meets_FabricPortsComeAndGo :
    frameSound (frameOf otherHdr []) = true ∧ frameSound flits0 = false ∧
    (twf FPort.init fabDev.fab.ports = true ∧ fabDev.portLives 0 = true ∧ (fabDev.fport 0).up = true) ∧
    (let d := fabDev.setFport 3 fun p => { p with trained := true, nbVersion := 3, crcCount := 16 }
     d.portLives 3 = true ∧ (d.fport 3).trained = true ∧ (d.fport 3).nbVersion = 3 ∧ (d.fport 3).up = false ∧ (d.fport 3).crcCount = 16) ∧
    (let d := fabDev.setFport 3 fun p => { p with holdUntil := 1000 }
     d.portLives 3 = true ∧ (d.fport 3).up = false ∧ (d.fport 3).holdUntil ≠ 0) := by decide +kernel

theorem no_beacons (n : Nat) : (fabDev.fport n).beacon = none := by
  match n with
  | 0 => rfl
  | n + 1 => rfl

theorem not_own : ownUid + 1#64 ≠ ownUid := by simp

def allLeases (n : Nat) : List Lease := (List.range n).map fun i => ⟨9#64, i + 1, true, 0, 0⟩
/-- A Bellringer all of whose addresses are in use. -/
def crowdedRinger (n : Nat) : Device := fabOf (fun f => { f with leases := allLeases n }) ringer

theorem no_address_is_free : (crowdedRinger 4094).fab.choose (crowdedRinger 4094).epoch 7#64 4094 = none := by
  have leases : ∀ n, (crowdedRinger n).fab.leases = allLeases n := fun _ => rfl
  have taken : ∀ n now a, a ≤ n → 1 ≤ a → ((allLeases n).any fun l => l.addr == a && (l.inUse || decide (now < l.until_))) = true :=
    fun n _ a h _ => List.any_eq_true.2 ⟨⟨9#64, a - 1 + 1, true, 0, 0⟩,
      List.mem_map.2 ⟨a - 1, List.mem_range.2 (by omega), rfl⟩, by simp; omega⟩
  have fresh : ∀ n now, (allLeases n).find? (fun l => l.uid == 7#64 && (l.inUse || decide (now ≤ l.until_))) = none := by
    intro n now
    refine List.find?_eq_none.2 fun l hl => ?_
    obtain ⟨i, -, rfl⟩ := List.mem_map.1 hl
    simp
  have free : ∀ a, (crowdedRinger 4094).fab.freeAddress (crowdedRinger 4094).epoch a = false := by
    intro a
    unfold Fabric.freeAddress
    rw [leases]
    by_cases h : 1 ≤ a
    · by_cases h2 : a ≤ 4094
      · rw [taken 4094 _ a h2 h]; simp
      · simp [maxAddress, h2]
    · simp [h]
  unfold Fabric.choose
  rw [leases, fresh]
  simp only [free]
  simp

theorem meets_TheCommonsForms :
    ((fabDev.fport 0).up = true ∧ fabDev.clk.counting = true ∧ twf FPort.init fabDev.fab.ports = true) ∧
    ((∀ n, (fabDev.fport n).beacon = none) ∧ beaconIn.hasKey = true ∧ ({ beaconIn with keyUid := ownUid + 1#64 } : BeaconIn).keyUid ≠ ownUid ∧
      (fabOf (fun f => { f with candidate := false }) fabDev).eligible = false ∧
      fabDev.epoch < (fabOf (fun f => { f with electAfter := 1001 }) fabDev).fab.electAfter) ∧
    (ringer.fab.isBellringer = true ∧ ownUid + 1#64 ≠ ownUid ∧ ringer.fab.leases = [] ∧ 1 ≤ 4094 ∧ 4094 ≠ ringer.fab.address) ∧
    (ringer.fab.leases.find? (fun l => l.addr == 4094 && l.inUse && decide (ringer.epoch < l.merged) && decide (7#64 < l.uid)) = none ∧
      ringer.fab.choose ringer.epoch 7#64 4094 = some 4094 ∧
      (let leases : List Lease := [⟨9#64, 4094, true, 0, 1001⟩]
       (leases.find? fun l => l.addr == 4094 && l.inUse && decide (ringer.epoch < l.merged) && decide (7#64 < l.uid)).isSome = true ∧
       (leases.any fun l => l.uid == 7#64 && l.inUse) = false) ∧
      (crowdedRinger 4094).fab.leases.find? (fun l => l.addr == 4094 && l.inUse && decide ((crowdedRinger 4094).epoch < l.merged) && decide (7#64 < l.uid)) = none ∧
      (crowdedRinger 4094).fab.choose (crowdedRinger 4094).epoch 7#64 4094 = none) ∧
    ((fabOf (fun f => { f with keyUid := ownUid + 1#64 }) fabDev).fab.isBellringer = false ∧ fabDev.fab.admitted = true ∧ 4094 ≠ fabDev.fab.address) := by
  refine ⟨by decide +kernel, ⟨no_beacons, rfl, not_own, by decide +kernel, by decide +kernel⟩, ⟨?_, not_own, rfl, by decide, by decide +kernel⟩,
    ⟨by decide +kernel, by decide +kernel, by decide +kernel, by decide +kernel, no_address_is_free⟩, ?_, by decide +kernel, by decide +kernel⟩
  · show (true && ownUid == ownUid) = true; simp
  · show (true && ownUid + 1#64 == ownUid) = false; simp

/-- A key that has not advanced for four epochs, and one whose sequence is new. -/
theorem meets_TheCommonsForms_stale_keys :
    let b := { beaconIn with keyUid := ownUid + 1#64, keySeq := 7 }
    (∀ y ∈ ([⟨ownUid + 1#64, b.keyQual, 6, 0, 0⟩] : List KeySeen), y.seq < b.keySeq) ∧
    (let y : KeySeen := ⟨ownUid + 1#64, b.keyQual, 7, 996, 930⟩
     y.uid = b.keyUid ∧ y.qual = b.keyQual ∧ b.keySeq ≤ y.seq ∧ y.advanced + 4 ≤ fabDev.epoch ∧ fabDev.epoch ≤ y.heard + 70) := by
  refine ⟨?_, rfl, rfl, by decide, by decide +kernel, by decide +kernel⟩
  simp

def linkedTxn (f : Txn → Txn) : Txn := f { txn0 with coord := some 5, fabric := true }
def partDev (f : Txn → Txn) : Device := { fabDev with fw := { fabDev.fw with txns := [linkedTxn f] } }
def coordTxn (q : Bool) (f : Txn → Txn) : Txn := f { txn0 with fabric := true, parts := [⟨5, q, none, false⟩] }
def coordDev (q : Bool) (f : Txn → Txn) : Device := { fabDev with fw := { fabDev.fw with txns := [coordTxn q f] } }
def decided0 : Decided := ⟨none, 1, true, false, 1000, [5]⟩
def hasWaiter (t : Txn) : Txn := { t with waiter := some waiter0 }
def hasVoted (t : Txn) : Txn := { t with state := .waiting, prepared := true }

theorem meets_FabricTransactionsAreDecidedOnce :
    (fabDev.fab.address ≠ 0 ∧ 5 ≠ fabDev.fab.address ∧ fabDev.txn? (some 5) 1 = none ∧
      (fabDev.fw.sessions.any fun x => x.transport == 2 && x.peer == 6) = false ∧
      (fabDev.fw.sessions.any fun x => x.transport == 2 && x.peer == 5) = true ∧
      (fabDev.fw.txns.filter fun t => t.coord.isSome).length < 16) ∧
    (let d := { fabDev with fw := { fabDev.fw with txns := (List.range 16).map fun i => { linkedTxn id with id := i + 100 } } }
     d.txn? (some 5) 1 = none ∧ 16 ≤ (d.fw.txns.filter fun t => t.coord.isSome).length) ∧
    ((partDev id).txn? (some 5) 1 = some (linkedTxn id) ∧ (linkedTxn id).prepared = false ∧ (linkedTxn id).state = .open_) ∧
    ((partDev hasVoted).txn? (some 5) 1 = some (linkedTxn hasVoted) ∧ (linkedTxn hasVoted).prepared = true ∧
      (linkedTxn hasVoted).state = .waiting ∧
      (let y (t : Txn) : Txn := { t with state := .inDoubt, prepared := true }
       (partDev y).txn? (some 5) 1 = some (linkedTxn y) ∧ (linkedTxn y).state = .inDoubt ∧ (linkedTxn y).doubtEnd = none)) ∧
    (let d := { fabDev with fw := { fabDev.fw with decided := [decided0] } }
     d.fw.decided.find? (fun x => decide (x.coord = none) && x.txn == 1) = some decided0) ∧
    ((coordDev false hasWaiter).txn? none 1 = some (coordTxn false hasWaiter) ∧ ((coordTxn false hasWaiter).parts.any fun p => p.addr == 5 && !p.opened) = true ∧
      (((coordTxn false hasWaiter).atPart 5 fun p => { p with opened := true }).parts.all (·.opened)) = true ∧
      (let two (t : Txn) : Txn := { hasWaiter t with parts := [⟨5, false, none, false⟩, ⟨6, false, none, false⟩] }
       (((coordTxn false two).atPart 5 fun p => { p with opened := true }).parts.all (·.opened)) = false) ∧
      (coordTxn false hasWaiter).fabric = true ∧ (coordTxn false hasWaiter).state = .open_ ∧
      (coordTxn false hasWaiter).waiter = some waiter0 ∧ waiter0.via = .mailbox 0 ∧
      ((asking 0x0201 0 [] (coordDev false hasWaiter)).mailbox 0).reqBusy = true ∧
      twf Mailbox.init (asking 0x0201 0 [] (coordDev false hasWaiter)).mbx = true) ∧
    ((coordDev true hasVoted).txn? none 1 = some (coordTxn true hasVoted) ∧ (coordTxn true hasVoted).prepared = true ∧
      (coordTxn true hasVoted).decision = none ∧ (coordTxn true hasVoted).state = .waiting ∧
      (∀ p ∈ ((coordTxn true hasVoted).atPart 5 fun p => { p with vote := some stOk }).parts, p.vote = some stOk) ∧
      (∃ p ∈ (coordTxn true hasVoted).parts, p.addr = 5) ∧
      (let two (t : Txn) : Txn := { hasVoted t with parts := [⟨5, true, none, false⟩, ⟨6, true, none, false⟩] }
       (∀ p ∈ ((coordTxn true two).atPart 5 fun p => { p with vote := some stOk }).parts, p.vote = none ∨ p.vote = some stOk) ∧
       ∃ p ∈ ((coordTxn true two).atPart 5 fun p => { p with vote := some stOk }).parts, p.vote = none)) := by decide +kernel

def route0 : Route := ⟨0, 5, 1, 1, ⟨0, 1, [⟨3, 0⟩], [⟨3, 1⟩]⟩, 0, 7#64, [], none, none, [], none⟩
theorem meets_FramesAndCartsTravel :
    (fabDev.fab.address ≠ 0 ∧ (fabDev.fport 0).up = true ∧ (let f := frameHdr (frameOf otherHdr [])
        frameSound (frameOf otherHdr []) = true ∧ f.vc ≤ 1 ∧ f.dest ≠ 0 ∧ f.dest ≠ fabDev.fab.address ∧ f.dest ≠ 0xFFF) ∧ fabDev.fab.admitted = true ∧ (fabOf (fun f => { f with level := 33 }) fabDev).fab.admitted = false) ∧
    ((fabDev.fw.sessions.any fun x => x.transport == 2 && x.peer == 6) = false ∧
      (fabDev.fw.sessions.any fun x => x.transport == 2 && x.peer == 5) = true) ∧
    (let d := portOf (fun p => { p with enable := true }) fabDev
     d.fab.received.find? (fun x => x.1 == 4096 * cart.source + cart.stream) = none ∧ d.portSends cart.type = true) ∧
    (let d := fabOf (fun f => { f with received := [(4096 * cart.source + cart.stream, cart.seq + 1#32, [])] }) fabDev
     d.fab.received.find? (fun x => x.1 == 4096 * cart.source + cart.stream) = some (4096 * cart.source + cart.stream, cart.seq + 1#32, [])) ∧
    (9 ≠ fabDev.fab.address ∧ (∀ k ∈ [0, 1], [(⟨3, k⟩ : Hop)].find? (fun x => x.addr == fabDev.fab.address) = some ⟨3, k⟩ ∧
      (fabDev.fport k).up = decide (k = 0))) ∧
    (let d := fabOf (fun f => { f with routes := [route0], links := [⟨3, 0, 5, 0, 1⟩, ⟨3, 1, 5, 1, 1⟩] }) fabDev
     d.fab.routes = [route0] ∧ (d.fab.routes.any fun x => x.stream == 0 && x.dest == 5) = true ∧ (d.fab.routes.map (·.stream)).Nodup ∧ (route0.ans.primary.any (bothWays d.fab.links [⟨3, 0⟩]).contains) = true ∧
     route0.ans.backup ≠ [] ∧ (route0.ans.backup.any (bothWays d.fab.links [⟨3, 0⟩]).contains) = false) := by decide +kernel

def forward0 : Forward := ⟨5, 9#32, waiter0, boundary 1020⟩
def deciding0 (keys : List (Option Nat × Nat)) : Deciding := ⟨1000, (none, 1) :: keys, Cfg.boot, [], [], [], 0#64, some (7, []), [], [], false⟩

theorem meets_FabricRequestsAreAnswered :
    (let d := fabOf (fun f => { f with forwards := [forward0] }) fabDev
     d.fab.forwards.find? (fun f => f.peer == 5 && f.tag == BitVec.ofNat 32 (u32 (zeros 4 ++ leBytes 4 9 ++ zeros 8) 4)) = some forward0 ∧
     d.session? forward0.waiter.session = some host ∧ host.transport = 0 ∧ d.clk.time ≤ forward0.ends ∧ d.clk.reaches forward0.ends = false ∧
     (let f := { forward0 with ends := boundary 1000 + 1 }
      d.clk.reaches f.ends = true ∧ f.ends < (clockOf (fun c => { c with time := boundary 1000 + 2 }) d).clk.time)) ∧
    (ringer.fab.unreported = [] ∧ ∃ x ∈ (fabOf (fun f => { f with unreported := [5, 6] }) ringer).fab.unreported, x ≠ 5) ∧
    (∀ k l rs, ReserveReply.noMember ≠ .noted k ∧ ReserveReply.noMember ≠ .ending l ∧ ReserveReply.noMember ≠ .changed rs) ∧
    (ringer.fab.isBellringer = true ∧ 5 ≠ ringer.fab.address) ∧ (fabDev.fab.address ≠ 0 ∧ fabDev.fw.deciding = none) ∧
    (∀ keys ∈ [[], [(some 5, 2)]], let x := deciding0 keys
     let d := { fabDev with fw := { fabDev.fw with deciding := some x, txns := [{ txn0 with state := .waiting }] } }
     d.fw.deciding = some x ∧ x.waits = some (7, []) ∧ x.todo = (none, 1) :: keys ∧ d.txn? none 1 = some { txn0 with state := .waiting } ∧ (none, 1) ∉ keys ∧
     1 ∉ x.txns ∧ x.txns = [] ∧ x.join = false ∧ host.serial = forward0.waiter.serial ∧ d.fab.address ≠ 0) := by
  refine ⟨by decide +kernel, by decide +kernel, ?_, ⟨?_, by decide +kernel⟩, by decide +kernel, by decide +kernel⟩
  · simp
  · show (true && ownUid == ownUid) = true; simp

/-! #### Long work -/

def write0 (store kind : Nat) : StoreWrite := ⟨store, kind, Ledger.init, [], [], some waiter0, false, false⟩
def sum0 : CalSum := ⟨2, Cplx.zero, 1, Cplx.zero, 1, Cplx.zero, false, false⟩
/-- A `cal.point` of level 0 whose two spans have ended. -/
def cal0 : Cal :=
  { inSitu := false, chans := [0], points := [0], tol := 0x3F800000#32, dwell := 10, label := [], bopen := 0, decl0 := [], decl1 := [],
    acc0 := [(0, Cplx.zero)], acc1 := [(0, Cplx.zero)], level := some 0, b0 := 0, spans := [(0, 0, 0, 48), (0, 1, 48, 96)],
    sums := [(0, sum0), (1, sum0)], restarts := 0, restartPt := 0, isoFail := none, supply := none, warned := none, waiter := some waiter0,
    committing := false, written := false, closing := false }

theorem meets_LongWorkCompletes :
    (∀ k ∈ [0, 1], let d := workOf (fun w => { w with writes := [write0 k k] }) (hosted dev0)
      d.work.writes = [write0 k k] ∧ (write0 k k).store = k ∧ (write0 k k).kind = k ∧ (write0 k k).waiter = some waiter0 ∧
      d.session? waiter0.session = some host ∧ host.transport = 0) ∧
    (let d := workOf (fun w => { w with cal := some cal0 }) (hosted dev0)
     d.work.cal = some cal0 ∧ cal0.level = some 0 ∧ cal0.waiter = some waiter0 ∧ d.measuredAll cal0 = true) ∧
    (∀ k ∈ [0, 1], let d := workOf (fun w => { w with writes := [write0 k k, write0 (1 - k) 2] }) (hosted dev0)
      d.work.writes = write0 k k :: [write0 (1 - k) 2] ∧ ∀ y ∈ [write0 (1 - k) 2], y.store ≠ k) ∧
    (let d := workOf (fun w => { w with selftest := some (0x3F, waiter0) }) (hosted dev0)
     d.work.selftest = some (0x3F, waiter0) ∧ (0x3E#32).toNat + (1#32).toNat = 0x3F ∧ 0x3E#32 &&& 1#32 = 0#32 ∧
     (zeros 4).length = 4 * testCount (1#32).toNat ∧ 1#32 ≠ 0#32) ∧
    (let d := workOf (fun w => { w with loopback := some ⟨1, 0, 1000, waiter0⟩ }) (hosted dev0)
     d.work.loopback = some ⟨1, 0, 1000, waiter0⟩ ∧ (⟨1, 0, 1000, waiter0⟩ : LoopRun).ends ≤ d.epoch) ∧
    (workOf (fun w => { w with verify := some (0, 512, waiter0) }) (hosted dev0)).work.verify = some (0, 512, waiter0) := by decide +kernel

theorem meets_LongWorkCompletes_checks :
    (let d := workOf (fun w => { w with cal := some cal0 }) (hosted dev0)
     d.measureFails cal0 0 = []) ∧
    (let c := { cal0 with isoFail := some (0, F64.one) }
     let d := workOf (fun w => { w with cal := some c }) (hosted dev0)
     firstFail (d.measureFails c 0) = some ⟨0, 0xFFFF, 1, dec 5 10, F64.one⟩ ∧ d.measuredAll c = true) := by decide +kernel

/-! #### The firmware's commands -/

/-- A request of session 1 with TXN 0 that stands in mailbox 0 of a device in a mode. -/
def ask (mode : Mode) (code : Nat) (body : List Byte) (d : Device := dev0) : State := asking code 0 body (hosted (inMode mode d))

def fabRoutes : Device := fabOf (fun f => { linked f with devs := [⟨2, 7#64, 0⟩, ⟨3, 8#64, 1⟩], links := [⟨3, 0, 2, 0, 1⟩] }) dev0
def captureCfg : RegionCfg := ⟨2, 0, 1, 4, 1048576⟩
def captureDev : Device := cfgOf (fun c => { c with regions := [(0, captureCfg)] }) dev0
def logDev : Device := { dev0 with nv := { dev0.nv with log := [⟨1, 5, 2, 0, 0#32⟩] } }

theorem meets_QueriesAnswerAndChangeNothing_session_to_plan :
    (ask .run 0x0104 []).stands 0x0104 (0 : Fin 4) ∧ (ask .run 0x0204 (zeros 4)).stands 0x0204 (0 : Fin 4) ∧
    (let s := ask .run 0x0204 (leBytes 4 1)
     s.stands 0x0204 (0 : Fin 4) ∧ (s.body 0).length = 4 ∧ s.txnNo 0 = 0 ∧ u32 (s.body 0) 0 ≠ 0 ∧
     s.dev.reported (s.sessionNo 0) (u32 (s.body 0) 0) = some txn0) ∧
    (let s := ask .run 0x0302 (leBytes 2 127 ++ zeros 2)
     s.stands 0x0302 (0 : Fin 4) ∧ u16 (s.body 0) 0 < 128 ∧ u16 (s.body 0) 2 = 0) ∧
    (let s := ask .run 0x0402 (leBytes 2 1023 ++ zeros 2)
     s.stands 0x0402 (0 : Fin 4) ∧ u16 (s.body 0) 0 < 1024 ∧ u16 (s.body 0) 2 = 0) ∧
    (let s := ask .run 0x0403 (leBytes 2 127 ++ leBytes 2 1)
     s.stands 0x0403 (0 : Fin 4) ∧ u16 (s.body 0) 0 + u16 (s.body 0) 2 ≤ 128 ∧ 0 < u16 (s.body 0) 2 ∧
     planClashes s.dev.fw.live 127 1 s.dev.pw.vref = []) ∧
    planClashes (onCfg { ChanCfg.init with enable := true } id dev0).fw.live 0 1 dev0.pw.vref ≠ [] := by
  unfold State.stands
  and_intros <;> decide +kernel

theorem meets_QueriesAnswerAndChangeNothing_sets_to_time :
    (let s := ask .run 0x0502 (leBytes 2 1016 ++ leBytes 2 8)
     s.stands 0x0502 (0 : Fin 4) ∧ 1 ≤ u16 (s.body 0) 2 ∧ u16 (s.body 0) 2 ≤ 8 ∧ u16 (s.body 0) 0 + u16 (s.body 0) 2 ≤ 1024) ∧
    (let s := ask .run 0x0602 (leBytes 2 0xC3F ++ zeros 2)
     s.stands 0x0602 (0 : Fin 4) ∧ streamExists (u16 (s.body 0) 0) = true ∧ u16 (s.body 0) 0 ≠ 0xFFF ∧ u16 (s.body 0) 2 = 0) ∧
    (let s := ask .run 0x0702 (zeros 2 ++ leBytes 2 127)
     s.stands 0x0702 (0 : Fin 4) ∧ (s.body 0).take 2 = [0#8, 0#8] ∧ u16 (s.body 0) 2 < 128) ∧
    (let s := ask .run 0x0802 (zeros 2 ++ leBytes 2 31)
     s.stands 0x0802 (0 : Fin 4) ∧ (s.body 0).take 2 = [0#8, 0#8] ∧ u16 (s.body 0) 2 < 32) ∧
    (let s := ask .run 0x0905 (leBytes 2 996 ++ leBytes 2 28)
     s.stands 0x0905 (0 : Fin 4) ∧ u16 (s.body 0) 2 ≤ 28 ∧ u16 (s.body 0) 0 + u16 (s.body 0) 2 ≤ 1024) ∧
    (ask .run 0x0A02 []).stands 0x0A02 (0 : Fin 4) ∧ (ask .run 0x0A04 []).stands 0x0A04 (0 : Fin 4) := by
  unfold State.stands
  and_intros <;> decide +kernel

theorem meets_QueriesAnswerAndChangeNothing_fabric_to_log :
    (ask .run 0x0B01 []).stands 0x0B01 (0 : Fin 4) ∧
    (let s := ask .run 0x0B03 (leBytes 2 2 ++ leBytes 2 0xFFFF) fabRoutes
     s.stands 0x0B03 (0 : Fin 4) ∧ u16 (s.body 0) 2 = 0xFFFF ∧ u16 (s.body 0) 0 ≠ 0xFFF ∧ u16 (s.body 0) 0 ≠ 0 ∧ s.dev.fab.address ≠ 0 ∧
     s.dev.fab.route (u16 (s.body 0) 0) = some [⟨3, 0⟩]) ∧
    (let s := ask .run 0x0B03 (leBytes 2 0xFFF ++ leBytes 2 0) (fabOf (fun f => { f with routes := [{ route0 with dest := 2 }] }) fabRoutes)
     s.stands 0x0B03 (0 : Fin 4) ∧ u16 (s.body 0) 0 = 0xFFF ∧ s.dev.fab.bellringer = 2 ∧ u16 (s.body 0) 2 ≠ 0xFFFF ∧
     s.dev.fab.routes.find? (fun x => x.stream == u16 (s.body 0) 2 && x.dest == 2) = some { route0 with dest := 2 }) ∧
    (ask .run 0x0C02 []).stands 0x0C02 (0 : Fin 4) ∧ (ask .run 0x0C04 []).stands 0x0C04 (0 : Fin 4) ∧
    (ask .run 0x0E03 []).stands 0x0E03 (0 : Fin 4) ∧
    (let s := ask .run 0x0704 (zeros 2 ++ [63#8, 0#8] ++ leBytes 2 800 ++ leBytes 2 224) mapDev
     s.stands 0x0704 (0 : Fin 4) ∧ u8 (s.body 0) 0 < 16 ∧ u8 (s.body 0) 1 = 0 ∧ u8 (s.body 0) 3 = 0 ∧ 1 ≤ u16 (s.body 0) 6 ∧ u16 (s.body 0) 6 ≤ 224 ∧
     u16 (s.body 0) 4 + u16 (s.body 0) 6 ≤ 1024 ∧ (s.dev.map (u8 (s.body 0) 0)).snap = some (999, [])) ∧
    (let s := ask .run 0x0606 (zeros 4 ++ leBytes 4 3 ++ zeros 20) captureDev
     s.stands 0x0606 (0 : Fin 4) ∧ (s.body 0).length = 28 ∧ u8 (s.body 0) 0 < 64 ∧ u8 (s.body 0) 1 = 0 ∧ allZero (s.body 0) 24 4 = true ∧
     (s.dev.fw.eff.region (u8 (s.body 0) 0)).type = 2 ∧ (s.dev.fw.eff.region (u8 (s.body 0) 0)).holds (u16 (s.body 0) 2) = true ∧
     u32 (s.body 0) 4 < (s.dev.fw.eff.region (u8 (s.body 0) 0)).slots ∧ s.dev.takenSlot (u8 (s.body 0) 0) (u32 (s.body 0) 4) = false) ∧
    (let s := ask .run 0x0D03 (leBytes 4 0 ++ leBytes 4 62) logDev
     s.stands 0x0D03 (0 : Fin 4) ∧ 1 ≤ u32 (s.body 0) 4 ∧ u32 (s.body 0) 4 ≤ 62 ∧ s.dev.nv.log.head? = some ⟨1, 5, 2, 0, 0#32⟩ ∧
     s.dev.nv.log.getLast? = some ⟨1, 5, 2, 0, 0#32⟩) := by
  unfold State.stands
  and_intros <;> decide +kernel

/-- A request of session 1 that names transaction 1. -/
def stage (code : Nat) (body : List Byte) : State := asking code 1 body (hosted dev0)

theorem opens_txn0 (n : Nat) :
    ((stage 0x0301 []).touched 0).openTxn n ((stage 0x0301 []).sessionNo 0) ((stage 0x0301 []).txnNo 0) = some txn0 := by
  have h1 : ((stage 0x0301 []).touched 0).session? ((stage 0x0301 []).sessionNo 0) =
      some { host with deadline := boundary 1000 + 10000 * Config.epochTicks } := by decide +kernel
  have h2 : ((stage 0x0301 []).touched 0).linkedTxn { host with deadline := boundary 1000 + 10000 * Config.epochTicks }
      ((stage 0x0301 []).txnNo 0) = none := by decide +kernel
  simp only [Device.openTxn, h1, h2]
  decide +kernel

def lin0 : LinSet := ⟨0, 0, 0, 0, 0, 0#32, 0x3F800000#32, List.replicate 24 0#32, 0#32⟩
def unitE : UnitCfg := ⟨true, false, false, 7, 0, 0, 0, 0#32, 0#32, 0, 0, 0, 0, 0, 0, 0, 0, 0, 3, 0, 0, 0, 30, 0, 0⟩
def shepBytes : List Byte := [2#8, 0#8, 0#8, 0#8, 0#8, 0#8, 0#8, 0#8] ++ leBytes 4 10 ++ zeros 52
def tally0 : TallyCfg := ⟨true, false, true, 0, 0#32, 1⟩
def tallyBytes0 : List Byte := zeros 2 ++ [5#8, 0#8] ++ zeros 4 ++ leBytes 2 1 ++ zeros 2
def aoutBytes : List Byte := [15#8, 1#8, 0#8, 0#8] ++ zeros 12
def map0 : MapCfg := ⟨true, false, 0, 0, 1, 0, 1, 0, 1, 1⟩
def jobBytes : List Byte := [48#8, 0#8, 1#8, 0#8] ++ writeJob 0 (some job0)
def longTxn : Txn := { txn0 with items := List.replicate itemLimit (.enable 127 true) }

theorem meets_StagingCommandsTakeTheirRecord :
    (∀ n, ((stage 0x0301 []).touched 0).openTxn n ((stage 0x0301 []).sessionNo 0) ((stage 0x0301 []).txnNo 0) = some txn0) ∧
    (txn0.items.length + 2 ≤ itemLimit ∧ itemsHold longTxn.items (.enable 127 false) = true ∧ ¬(longTxn.items.length + 1 ≤ itemLimit)) ∧
    (let l := writeChan 127 ChanCfg.init ++ writeChan 0 ChanCfg.init
     (stage 0x0301 l).stands 0x0301 (0 : Fin 4) ∧ (stage 0x0301 l).body 0 = l ∧ l.length = 12 * 2 ∧
     (chunks 12 2 l).map (fun l => (readChan l).map fun x => Item.chan x.1 x.2) = [Item.chan 127 ChanCfg.init, .chan 0 ChanCfg.init].map some) ∧
    ((stage 0x0607 tallyBytes0).stands 0x0607 (0 : Fin 4) ∧ tallyBytes0.length = 12 * 1 ∧
      (chunks 12 1 tallyBytes0).map (fun l => (readTally l).map fun x => Item.tally x.1 x.2) = [Item.tally 0 tally0].map some) ∧
    (let l := [127#8, 0#8, 1#8, 0#8]
     (stage 0x0303 l).stands 0x0303 (0 : Fin 4) ∧
     (chunks 4 1 l).map (fun l => (readEnable l).map fun x => Item.enable x.1 x.2) = [Item.enable 127 true].map some) ∧
    (let l := writePoint 1023 point0
     (stage 0x0401 l).stands 0x0401 (0 : Fin 4) ∧ l.length = 24 * 1 ∧
     (chunks 24 1 l).map (fun l => (readPoint l).map fun x => Item.point x.1 x.2) = [Item.point 1023 point0].map some) ∧
    (let l := writeRegion 63 captureCfg
     (stage 0x0603 l).stands 0x0603 (0 : Fin 4) ∧ l.length = 24 * 1 ∧
     (chunks 24 1 l).map (fun l => (readRegion l).map fun x => Item.region x.1 x.2) = [Item.region 63 captureCfg].map some) ∧
    (let l := writeStream 0 StreamCfg.init
     (stage 0x0601 l).stands 0x0601 (0 : Fin 4) ∧ l.length = 16 * 1 ∧ (chunks 16 1 l).map readStream = [Item.stream 0 StreamCfg.init].map some) ∧
    ((stage 0x0608 aoutBytes).stands 0x0608 (0 : Fin 4) ∧ aoutBytes.length = 16 * 1 ∧ (readAout aoutBytes).isSome = true) := by
  unfold State.stands
  refine ⟨opens_txn0, ?_⟩
  and_intros <;> decide +kernel

theorem meets_StagingCommandsTakeTheirRecord_long :
    (let l := writeMap 15 (some map0)
     (stage 0x0703 l).stands 0x0703 (0 : Fin 4) ∧ l.length = 20 * 1 ∧
     (chunks 20 1 l).map (fun l => (readMap l).map fun x => Item.map x.1 x.2.1 x.2.2) = [Item.map 15 map0 false].map some) ∧
    (let l := writeUnit 31 (some unitE)
     (stage 0x0801 l).stands 0x0801 (0 : Fin 4) ∧ l.length = 64 * 1 ∧
     (chunks 64 1 l).map (fun l => (readUnit l).map fun x => Item.unit x.1 x.2) = [Item.unit 31 (some unitE)].map some) ∧
    ((stage 0x0906 shepBytes).stands 0x0906 (0 : Fin 4) ∧ shepBytes.length = 64 * 1 ∧
      (chunks 64 1 shepBytes).map readShepherd = [Item.shepDevice 10].map some) ∧
    (let l := writeLin 1023 (some lin0)
     (stage 0x0501 l).stands 0x0501 (0 : Fin 4) ∧ l.length = 120 * 1 ∧
     (chunks 120 1 l).map (fun l => (readLin l).map fun x => Item.lin x.1 x.2) = [Item.lin 1023 (some lin0)].map some ∧
     ∀ k, k < 1 → linCheck ((stage 0x0501 l).touched 0) (([Item.lin 1023 (some lin0)].take (k + 1)).foldl stageItem txn0.items) = none) ∧
    ((stage 0x0701 jobBytes).stands 0x0701 (0 : Fin 4) ∧ (stage 0x0701 jobBytes).body 0 = jobBytes ∧
      millItems (jobBytes.length + 1) jobBytes = some ([Item.job 0 (some job0)].map Staged.item)) := by
  unfold State.stands
  and_intros <;> decide +kernel

theorem meets_OutputWordsDiffer :
    readPoint (writePoint 1023 point0) = some (1023, point0) ∧
    (let l := writePoint 0 { point0 with word0 := 3, word1 := 3 }
     let s := stage 0x0401 l
     (u8 l 22 = u8 l 21 ∨ u8 l 21 = 0) ∧ s.stands 0x0401 (0 : Fin 4) ∧ (s.body 0).length = 24 ∧ s.body 0 = l ∧
     (s.touched 0).openTxn 0x0401 (s.sessionNo 0) (s.txnNo 0) = some txn0) ∧
    u8 (writePoint 0 { point0 with word0 := 0, word1 := 5 }) 21 = 0 := by
  unfold State.stands
  and_intros <;> decide +kernel

def openBody (own keep : Nat) : List Byte := byteOf own ++ [0#8] ++ leBytes 2 keep ++ zeros 16
def full : Device := { dev0 with fw := { dev0.fw with sessions := (List.range 16).map fun i => { host with id := i + 1 } } }

theorem meets_SessionsOpenAndClose :
    (∀ x ∈ [(0xFF, 0), (3, 100), (0, 60000)], let s := asking0 0x0101 (openBody x.1 x.2) (hosted dev0)
     s.stands 0x0101 (0 : Fin 4) ∧ (s.body 0).length = 20 ∧ (u8 (s.body 0) 0 = 0xFF ∨ u8 (s.body 0) 0 ≤ 3) ∧ u8 (s.body 0) 1 = 0 ∧
     (u16 (s.body 0) 2 = 0 ∨ (100 ≤ u16 (s.body 0) 2 ∧ u16 (s.body 0) 2 ≤ 60000)) ∧ (s.touched 0).freeIds ≠ []) ∧
    (let s := asking0 0x0101 (openBody 0xFF 0) full
     s.stands 0x0101 (0 : Fin 4) ∧ (s.touched 0).freeIds = []) ∧
    (ask .run 0x0103 []).stands 0x0103 (0 : Fin 4) ∧ (ask .run 0x0102 []).stands 0x0102 (0 : Fin 4) := by
  unfold State.stands
  and_intros <;> decide +kernel

def fourTxns (d : Device) : Device := { d with fw := { d.fw with txns := (List.range 4).map fun i => { txn0 with id := i + 1 } } }
def withItem : Txn := { txn0 with items := [.enable 0 true] }
def itemDev : Device := { hosted dev0 with fw := { (hosted dev0).fw with txns := [withItem] } }

def waitingTxn : Txn := { withItem with state := .waiting }
def waitingDev : Device := { hosted dev0 with fw := { (hosted dev0).fw with txns := [waitingTxn] } }
def linkedOwn : Txn := { withItem with fabric := true }
def linkedDev : Device := { hosted dev0 with fw := { (hosted dev0).fw with txns := [linkedOwn] } }

theorem meets_TransactionsBeginCommitAndAbort :
    (let s := ask .run 0x0201 (zeros 4)
     s.stands 0x0201 (0 : Fin 4) ∧ s.body 0 = [0#8, 0#8, 0#8, 0#8] ∧ (s.touched 0).openCount (s.sessionNo 0) < 4) ∧
    (let s := asking 0x0201 0 (zeros 4) (fourTxns (hosted dev0))
     s.stands 0x0201 (0 : Fin 4) ∧ 4 ≤ (s.touched 0).openCount (s.sessionNo 0)) ∧
    (let s := ask .run 0x0201 ([1#8, 0#8, 1#8, 0#8] ++ leBytes 2 0xFFE) (fabOf (fun f => { f with members := [⟨0xFFE, 1000⟩] }) dev0)
     s.stands 0x0201 (0 : Fin 4) ∧ u8 (s.body 0) 0 = 1 ∧ u8 (s.body 0) 1 = 0 ∧ u16 (s.body 0) 2 = 1 ∧ (s.body 0).length = 4 + 2 * 1 ∧
     (s.touched 0).openCount (s.sessionNo 0) < 4 ∧ (addrsOf (s.body 0) 4 1).Nodup ∧
     ∀ a ∈ addrsOf (s.body 0) 4 1, 1 ≤ a ∧ a ≤ 0xFFE ∧ (s.touched 0).reaches a = true) ∧
    (let s := asking 0x0203 1 [] waitingDev
     s.stands 0x0203 (0 : Fin 4) ∧ (s.body 0).length = 0 ∧ (s.touched 0).openTxn 0x0203 (s.sessionNo 0) (s.txnNo 0) = some waitingTxn ∧
     waitingTxn.state = .waiting) ∧
    (let s := asking 0x0202 1 (leBytes 4 1008) linkedDev
     s.stands 0x0202 (0 : Fin 4) ∧ (s.body 0).length = 4 ∧ (s.touched 0).openTxn 0x0202 (s.sessionNo 0) (s.txnNo 0) = some linkedOwn ∧
     linkedOwn.coord = none ∧ linkedOwn.state = .open_ ∧ linkedOwn.fabric = true ∧
     commitTarget s.dev.epoch (u32 (s.body 0) 0) = some 1008 ∧ (s.touched 0).longFull (s.sessionNo 0) = false) ∧
    (let s := stage 0x0203 []
     s.stands 0x0203 (0 : Fin 4) ∧ (s.body 0).length = 0 ∧ (s.touched 0).openTxn 0x0203 (s.sessionNo 0) (s.txnNo 0) = some txn0 ∧
     txn0.state = .open_ ∧ txn0.fabric = false ∧ txn0.coord = none ∧ txn0.items = []) ∧
    (stage 0x0202 (zeros 4)).stands 0x0202 (0 : Fin 4) ∧ (stage 0x0202 (zeros 4)).body 0 = [0#8, 0#8, 0#8, 0#8] ∧
    (let s := asking 0x0202 1 (zeros 4) itemDev
     s.stands 0x0202 (0 : Fin 4) ∧ (s.touched 0).openTxn 0x0202 (s.sessionNo 0) (s.txnNo 0) = some withItem ∧ withItem.items ≠ []) := by
  unfold State.stands
  and_intros <;> decide +kernel

def modeBody (k : Nat) : List Byte := leBytes 1 k ++ zeros 3

theorem meets_ModeRequestsFollowTheTransitions :
    (modeBody 3 = [BitVec.ofNat 8 (3 : Fin 8), 0#8, 0#8, 0#8] ∧ Mode.ofCode (3 : Fin 8) = some .run ∧ (ask .run 0x0C01 (modeBody 3)).dev.pw.mode = .run) ∧
    ((ask .run 0x0C01 (modeBody 3)).stands 0x0C01 (0 : Fin 4)) ∧
    (∀ x ∈ [(Mode.idle, 6), (.run, 2), (.calibrate, 2), (.maintain, 2), (.hearth, 3), (.safe, 2)],
      let s := ask x.1 0x0C01 (modeBody x.2) (powerOf (fun p => { p with prior := .run, logRead := true }) dev0)
      s.stands 0x0C01 (0 : Fin 4) ∧ s.body 0 = modeBody x.2 ∧ s.dev.pw.mode = x.1 ∧ s.dev.pw.prior = .run ∧ s.dev.pw.changing = false ∧
      s.dev.pw.logRead = true ∧ (s.touched 0).longFull (s.sessionNo 0) = false) := by
  unfold State.stands
  and_intros <;> decide +kernel

def forcing (n : Nat) : Device := cfgOf (fun c => { c with units := [(31, unitE)] }) (dev0.setUnit 31 fun u => { u with forceEpoch := 1000, forceUsed := n })
def policyBody (flags release : Nat) : List Byte :=
  byteOf flags ++ [2#8] ++ byteOf release ++ [0#8] ++ leF32 (F32.ofFrac ⟨1, 2⟩) ++ leBytes 4 3 ++ leBytes 4 1002
def armBody (q : Nat) : List Byte := [0#8, 0#8, 0#8, 0#8] ++ leBytes 4 3 ++ leBytes 4 4 ++ leBytes 4 0 ++ leBytes 4 q

theorem meets_CommandsActAtOnce_triggers_clocks_fabric :
    (∀ k ∈ [0, 1, 2], let s := ask .run 0x0803 [31#8, 0#8, 0#8, 0#8] (forcing k)
      s.stands 0x0803 (0 : Fin 4) ∧ s.body 0 = [BitVec.ofNat 8 31, 0#8, 0#8, 0#8] ∧ s.dev.fw.eff.unit 31 = some unitE ∧ unitE.enable = true ∧
      (s.dev.unit 31).forcedIn s.dev.epoch = k) ∧
    (∀ x ∈ [(1, 3, 3, 9), (3, 0, 0, 2), (2, 9, 9, 0), (0, 9, 9, 9)], let s := ask .idle 0x0A03 (byteOf x.1 ++ byteOf x.2.1 ++ byteOf x.2.2.1 ++ byteOf x.2.2.2)
     s.stands 0x0A03 (0 : Fin 4) ∧ (s.body 0).length = 4 ∧ u8 (s.body 0) 0 ≤ 3 ∧
     (hasBit (u8 (s.body 0)  0) 0 = true → u8 (s.body 0) 1 ≤ 3 ∧ u8 (s.body 0) 2 ≤ 3) ∧
     (hasBit (u8 (s.body 0) 0) 1 = true → u8 (s.body 0) 3 ≤ 2 ∧ s.dev.clk.change ≠ 1 ∧ s.dev.clk.change ≠ 2) ∧
     (hasBit (u8 (s.body 0) 0) 1 = true ↔ x.1 = 3 ∨ x.1 = 2) ∧ (u8 (s.body 0) 3 = s.dev.clk.refMult ↔ x.2.2.2 = 0)) ∧
    (∀ flags ∈ [0, 7, 15], let s := ask .idle 0x0A05 (policyBody flags 0)
     s.stands 0x0A05 (0 : Fin 4) ∧ (s.body 0).length = 16 ∧ u8 (s.body 0) 0 = flags ∧ u8 (s.body 0) 3 = 0 ∧ u8 (s.body 0) 1 ≤ 2 ∧
     F32.within (f32At (s.body 0) 4) ⟨1, 100⟩ ⟨1, 2⟩ = true ∧ 3 ≤ u32 (s.body 0) 8 ∧ u32 (s.body 0) 8 ≤ 3000000 ∧ u8 (s.body 0) 2 = 0 ∧
     s.dev.clk.under ≠ .held) ∧
    (let s := ask .idle 0x0A05 (policyBody 8 1) (clockOf (fun c => { c with disc := .awaitStep, offset := 64 * 1499975 }) dev0)
     s.stands 0x0A05 (0 : Fin 4) ∧ hasBit (u8 (s.body 0) 0) 3 = true ∧ u8 (s.body 0) 2 = 1 ∧ s.dev.clk.under = .awaitStep ∧
     epochNamed s.dev.epoch (u32 (s.body 0) 12) = some 1002 ∧ s.dev.epoch + 2 ≤ 1002 ∧ (roundStep (-s.dev.clk.offset)).natAbs ≤ 1499952) ∧
    (∀ flags ∈ [0, 7], let s := ask .idle 0x0B02 (byteOf flags ++ [1#8, 255#8, 15#8])
     s.stands 0x0B02 (0 : Fin 4) ∧ (s.body 0).length = 4 ∧ u8 (s.body 0) 0 ≤ 7 ∧ u8 (s.body 0) 1 ≤ 1 ∧ u8 (s.body 0) 3 ≤ 15) := by
  unfold State.stands
  and_intros <;> decide +kernel

def calBody : List Byte := zeros 4 ++ leF32 (F32.ofFrac ⟨1, 1⟩) ++ leBytes 4 100 ++ [1#8] ++ zeros 47
def calDev : Device := onCfg { ChanCfg.init with enable := true } (fun c => { c with points := [(0, { point0 with d := 20 })] }) dev0
def openCal0 : Cal := { cal0 with level := none, waiter := none, decl0 := [(0, Cplx.zero)], decl1 := [(0, ⟨F64.one, F64.zero⟩)],
                                  acc1 := [(0, ⟨F64.one, F64.zero⟩)] }

theorem meets_CommandsActAtOnce_slots_calibration_firmware :
    (∀ code ∈ [0x0604, 0x0605], let s := ask .run code (armBody 1) captureDev
      s.stands code (0 : Fin 4) ∧ (s.body 0).length = 20 ∧ (s.body 0).take 4 = [BitVec.ofNat 8 (0 : Fin 64), 0#8, 0#8, 0#8] ∧ 1 ≤ u32 (s.body 0) 8 ∧
      (s.dev.fw.eff.region 0).type = 2 ∧ 1 ≤ u32 (s.body 0) 16 ∧
      (∀ k ∈ namedSlots (s.dev.fw.eff.region 0).slots (u32 (s.body 0) 4) (u32 (s.body 0) 8), s.dev.slotRead 0 k = false ∧ s.dev.takenSlot 0 k = false) ∧
      u32 (s.body 0) 8 ≤ (s.dev.fw.eff.region 0).slots ∧ s.dev.fw.eff.armFits 0 (u32 (s.body 0) 12) (u32 (s.body 0) 16) = true ∧
      twf RegionRun.init s.dev.gran.regions = true ∧ twf Slot.init (s.dev.region 0).slots = true ∧ (s.dev.region 0).queue = [] ∧
      namedSlots (s.dev.fw.eff.region 0).slots (u32 (s.body 0) 4) (u32 (s.body 0) 8) ≠ []) ∧
    (let d := captureDev.setRegion 0 fun y => { y with slots := [(3, { Slot.init with state := .filling })] }
     ((d.region 0).slot 3).state = .filling ∧ ((d.region 0).slot 4).state ≠ .filling ∧ twf Slot.init (d.region 0).slots = true) ∧
    (let s := ask .calibrate 0x0901 calBody calDev
     s.stands 0x0901 (0 : Fin 4) ∧ (s.body 0).length = 60 ∧ u8 (s.body 0) 0 ≤ 1 ∧ allZero (s.body 0) 1 3 = true ∧
     F32.within (f32At (s.body 0) 4) ⟨1, 10⟩ ⟨100, 1⟩ = true ∧ 10 ≤ u32 (s.body 0) 8 ∧ u32 (s.body 0) 8 ≤ 10000 ∧ s.dev.work.cal = none ∧
     (∀ n ∈ chanSet (s.body 0) 12, s.dev.fw.eff.chanOn n = true ∧ s.dev.fw.eff.pointsOf n ≠ [] ∧ s.dev.batchTouches n = false) ∧
     chanSet (s.body 0) 12 = [0] ∧ (chanSet (s.body 0) 12).flatMap s.dev.fw.eff.pointsOf = [0] ∧ 16 ≤ s.dev.fw.eff.measured 0 (u32 (s.body 0) 8)) ∧
    (let s := ask .calibrate 0x0904 [] (workOf (fun w => { w with cal := some openCal0 }) dev0)
     s.stands 0x0904 (0 : Fin 4) ∧ s.body 0 = [] ∧ s.dev.work.cal = some openCal0 ∧ openCal0.closing = false ∧ openCal0.written = false) ∧
    (let s := ask .idle 0x0E02 [1#8, 0#8, 0#8, 0#8] (twoBanks dev0)
     s.stands 0x0E02 (0 : Fin 4) ∧ s.body 0 = [BitVec.ofNat 8 (1 : Fin 2), 0#8, 0#8, 0#8] ∧
     (s.dev.nv.fwBank (decide ((1 : Fin 2) = 1))).valid = true ∧ s.dev.activateBusy = false ∧ s.dev.work.activate.getD (s.dev.epoch + 2) = 1002) ∧
    (let s := ask .idle 0x0E01 ([63#8, 0#8, 0#8, 0#8] ++ leBytes 4 65528 ++ zeros 8 ++ zeros 8)
        (cfgOf (fun c => { c with regions := [(63, ⟨5, 0, 0, 1, 65536⟩)] }) dev0)
     s.stands 0x0E01 (0 : Fin 4) ∧ 16 ≤ (s.body 0).length ∧ (s.body 0).length ≤ 1008 ∧
     (s.body 0).take 4 = [BitVec.ofNat 8 (63 : Fin 64), 0#8, 0#8, 0#8] ∧ u32 (s.body 0) 4 % 4 = 0 ∧ u32 (s.body 0) 8 = 0 ∧
     allZero (s.body 0) 12 4 = true ∧ (s.dev.fw.eff.region 63).type = 5 ∧ s.dev.inWarning = false ∧
     u32 (s.body 0) 4 + ((s.body 0).length - 16) ≤ (s.dev.fw.eff.region 63).capacity) := by
  unfold State.stands
  and_intros <;> decide +kernel

def ppsBody (n : Nat) : List Byte := zeros 8 ++ leBytes 8 n ++ zeros 16
def stepBody (e v : Nat) : List Byte := [1#8] ++ zeros 15 ++ leBytes 4 e ++ zeros 4 ++ leBytes 8 v
def forwardBody : List Byte := leBytes 2 2 ++ zeros 2 ++ zeros 16
def bellBody (a : Nat) : List Byte := leBytes 8 (boundary 1004) ++ leBytes 2 a ++ zeros 6
def peerDev : Device := fabOf (fun f => { f with members := [⟨2, 1000⟩] }) fabRoutes
def crowded : Device := { dev0 with fw := { dev0.fw with sessions := [{ host with running := 16 }] } }

theorem meets_LongCommandsAreAccepted_stores_calibration_modes :
    (let s := ask .idle 0x0503 []
     s.stands 0x0503 (0 : Fin 4) ∧ s.body 0 = [] ∧ s.dev.inWarning = false ∧ (∀ x ∈ s.dev.work.writes, x.store ≠ 1) ∧
     (s.touched 0).longFull (s.sessionNo 0) = false) ∧
    (let s := asking 0x0503 0 [] crowded
     s.stands 0x0503 (0 : Fin 4) ∧ (s.touched 0).longFull (s.sessionNo 0) = true) ∧
    (let s := ask .calibrate 0x0902 ([0#8, 1#8] ++ zeros 14) (workOf (fun w => { w with cal := some openCal0 }) dev0)
     s.stands 0x0902 (0 : Fin 4) ∧ (s.body 0).length = 16 + 24 * 0 ∧ s.dev.openCal = some openCal0 ∧ openCal0.inSitu = false ∧
     openCal0.level = none ∧ u8 (s.body 0) 0 = 0 ∧ u8 (s.body 0) 1 = 1 ∧ allZero (s.body 0) 2 6 = true ∧ f64At (s.body 0) 8 = 0#64) ∧
    (let l := [1#8, 0#8] ++ zeros 6 ++ leBytes 8 0x3F80000000000000
     let s := ask .calibrate 0x0902 l (workOf (fun w => { w with cal := some openCal0 }) dev0)
     s.stands 0x0902 (0 : Fin 4) ∧ s.dev.openCal = some openCal0 ∧ u8 (s.body 0) 0 = 1 ∧ u8 (s.body 0) 1 = 0 ∧ allZero (s.body 0) 2 6 = true ∧
     ∀ p ∈ openCal0.points, F64.le (F64.abs (busSpan (s.dev.fw.eff.chan (p / 8)).gl (f64At (s.body 0) 8))) (dec 9 10) = true) ∧
    (let c := { openCal0 with inSitu := true, decl0 := [], decl1 := [] }
     let l := [1#8, 1#8] ++ zeros 14 ++ leBytes 2 0 ++ zeros 6 ++ leBytes 8 0x3FE0000000000000 ++ zeros 8
     let s := ask .calibrate 0x0902 l (workOf (fun w => { w with cal := some c }) dev0)
     s.stands 0x0902 (0 : Fin 4) ∧ (s.body 0).length = 16 + 24 * 1 ∧ s.dev.openCal = some c ∧ c.inSitu = true ∧ u8 (s.body 0) 1 = 1 ∧
     (∀ x ∈ readDecls (s.body 0) 16 1, x.2.1 = true ∧ x.1 ∈ c.points) ∧ ∀ p ∈ c.points, ∃ x ∈ readDecls (s.body 0) 16 1, x.1 = p) ∧
    (let s := ask .calibrate 0x0903 [] (workOf (fun w => { w with cal := some openCal0 }) dev0)
     s.stands 0x0903 (0 : Fin 4) ∧ s.dev.openCal = some openCal0 ∧ openCal0.level = none ∧ openCal0.complete = true ∧ s.dev.inWarning = false ∧
     firstFail (openCal0.points.flatMap fun p => coefFail p (openCal0.coef p).1) = none) ∧
    (let s := ask .idle 0x0C03 []
     s.stands 0x0C03 (0 : Fin 4) ∧ s.dev.pw.changing = false) ∧
    (let s := ask .maintain 0x0D01 (leBytes 4 63)
     s.stands 0x0D01 (0 : Fin 4) ∧ (s.body 0).length = 4 ∧ u32 (s.body 0) 0 < 64 ∧ s.dev.work.selftest = none) ∧
    (∀ x ∈ [(0, 3), (1, 255), (2, 0)], let s := ask .maintain 0x0D02 (byteOf x.1 ++ byteOf x.2 ++ zeros 2 ++ leBytes 4 60000)
     s.stands 0x0D02 (0 : Fin 4) ∧ (s.body 0).length = 8 ∧ u8 (s.body 0) 0 = x.1 ∧ (u8 (s.body 0) 0 = 1 ∨ u8 (s.body 0) 1 < 4) ∧
     allZero (s.body 0) 2 2 = true ∧ 1 ≤ u32 (s.body 0) 4 ∧ u32 (s.body 0) 4 ≤ 60000 ∧ s.dev.work.loopback = none) ∧
    (let s := ask .idle 0x0E01 ([63#8, 1#8, 0#8, 0#8] ++ leBytes 4 65528 ++ leBytes 4 65536 ++ zeros 4 ++ zeros 8)
        (cfgOf (fun c => { c with regions := [(63, ⟨5, 0, 0, 1, 65536⟩)] }) dev0)
     s.stands 0x0E01 (0 : Fin 4) ∧ (s.body 0).length = 24 ∧ (s.body 0).take 4 = [BitVec.ofNat 8 (63 : Fin 64), 1#8, 0#8, 0#8] ∧
     u32 (s.body 0) 4 % 4 = 0 ∧ u32 (s.body 0) 8 ≤ imageLimit ∧ allZero (s.body 0) 12 4 = true ∧ (s.dev.fw.eff.region 63).type = 5 ∧
     s.dev.inWarning = false ∧ u32 (s.body 0) 4 + ((s.body 0).length - 16) ≤ (s.dev.fw.eff.region 63).capacity ∧
     u32 (s.body 0) 8 ≤ (s.dev.fw.eff.region 63).capacity ∧ s.dev.work.verify = none) := by
  unfold State.stands
  and_intros <;> decide +kernel

def bare (d : Device) : Device := { d with fw := { d.fw with sessions := [host] } }

theorem meets_LongCommandsAreAccepted_time_fabric :
    (let s := asking 0x0A01 0 (ppsBody 6148914691) (bare (inMode .idle dev0))
     s.stands 0x0A01 (0 : Fin 4) ∧ (s.body 0).length = 32 ∧ s.dev.timeBusy = false ∧ s.dev.followsCommons = false ∧ (s.body 0).take 8 = zeros 8 ∧
     allZero (s.body 0) 20 4 = true ∧ u64 (s.body 0) 8 * Config.secondTicks < 2 ^ 64) ∧
    (let s := asking 0x0A01 0 (stepBody 1002 48) (bare (inMode .idle dev0))
     s.stands 0x0A01 (0 : Fin 4) ∧ (s.body 0).take 8 = [1#8] ++ zeros 7 ∧ allZero (s.body 0) 20 4 = true ∧ epochNamed s.dev.epoch (u32 (s.body 0) 16) = some 1002 ∧
     s.dev.epoch + 2 ≤ 1002 ∧ u64 (s.body 0) 24 % 48 = 0 ∧ s.dev.clk.source ≠ 2) ∧
    (let s := ask .idle 0x0B04 forwardBody peerDev
     s.stands 0x0B04 (0 : Fin 4) ∧ 20 ≤ (s.body 0).length ∧ u16 (s.body 0) 0 = 2 ∧ u16 (s.body 0) 2 = 0 ∧
     (s.body 0).length = 20 + u16 (s.body 0) 4 ∧ u16 (s.body 0) 4 ≤ 988 ∧ s.dev.reaches 2 = true ∧ (s.dev.fab.route 2).isSome = true) ∧
    (∀ a ∈ [2, 0xFFF, 9], let s := ask .idle 0x0B05 (bellBody a) peerDev
     s.stands 0x0B05 (0 : Fin 4) ∧ (s.body 0).length = 16 ∧ u16 (s.body 0) 8 = a ∧ allZero (s.body 0) 10 6 = true ∧
     boundary (s.dev.epoch + 4) ≤ u64 (s.body 0) 0 ∧ u64 (s.body 0) 0 % 16 = 0 ∧ s.dev.bell.planned = [] ∧ s.dev.bell.due = [] ∧
     s.dev.reaches a = decide (a = 2) ∧ s.dev.fab.members.map (·.addr) ≠ []) ∧
    (let s := ask .idle 0x0B05 (bellBody 0xFFF)
     s.stands 0x0B05 (0 : Fin 4) ∧ s.dev.fab.members.map (·.addr) = []) := by
  unfold State.stands
  and_intros <;> decide +kernel

/-- A request whose header fails: the device with its timer restarted, and the raw request. -/
def fails (s : State) (st : BitVec 16) : Prop :=
  twf Mailbox.init s.mbx = true ∧ s.dev.serves = true ∧ (s.mailbox 0).reqBusy = true ∧
    (s.mailbox 0).taken = false ∧ s.oldest 0 = true ∧ (s.touched 0).headerFails (s.rawMailbox 0) = some st

/-- A device that boot has left in SAFE with the responder of the boot ROM. -/
def haltedDev : Device := { dev0 with pw := { dev0.pw with mode := .safe, stage := 0xE0 } }

theorem meets_HeaderChecksComeInOrder :
    (0x0902, Instr.calPoint) ∈ firmwareRows [] ∧
    fails { asking 0x0C02 0 [] dev0 with mbx := [(0, { (asking 0x0C02 0 [] dev0).mailbox 0 with reqLen := 14#11 })] } stBadLength ∧
    fails (asking 0xFFFF 0 [] (hosted dev0)) stBadCommand ∧ fails (asking 0x0902 0 [] dev0) stNoSession ∧
    fails (asking 0x0301 9 [] (hosted dev0)) stTxnStale ∧ fails (ask .run 0x0902 (zeros 16)) stWrongMode ∧
    fails (ask .calibrate 0x0901 calBody (locked dev0)) stLocked ∧
    (let r := (ask .run 0x0C02 []).rawMailbox 0
     r.sized = true ∧ cmdModes r.code = some allModes ∧ r.flags = 0 ∧ r.txn = 0 ∧ allModes.testBit dev0.pw.mode.code = true ∧
     (r.session ≠ 0 ∧ ((hosted dev0).sessionOf r).isSome = true) ∧ dev0.lockCovers r.code = false ∧ dev0.halted = false) ∧
    (let s := asking 0x0901 0 [] haltedDev
     haltedDev.halted = true ∧ responderCodes.contains (s.rawMailbox 0).code = false ∧ fails s stInternal) := by
  unfold fails
  refine ⟨by simp [firmwareRows], ?_⟩
  and_intros <;> decide +kernel

def frame0 : List Byte := zeros 2 ++ leBytes 2 0x0C02 ++ leBytes 4 0x77 ++ leBytes 2 2 ++ zeros 6
def repeated (a : Option (List Byte)) : Device := { fabDev with fw := { fabDev.fw with sessions := [host, { partner with remembered := [(0x77#32, a)] }] } }
def laneHost (l : List (Word × Option (List Byte))) : Session := { partner with transport := 1, remembered := l }
def laneDev (l : List (Word × Option (List Byte))) : Device := portOf (fun p => { p with rxEnable := true, rxLock := true })
  { dev0 with fw := { dev0.fw with sessions := [laneHost l] } }

theorem meets_FramesAreExecutedOnce :
    (0x0C02, Instr.modeQuery) ∈ firmwareRows [] ∧
    (let r := rawFrame (.fabric 5) frame0 fabDev.epoch
     r.code = 0x0C02 ∧ r.length = 0 ∧
     (∀ a ∈ [none, some (zeros 4)], (repeated a).takesFrames (.fabric 5) = true ∧
       (repeated a).sessionOf r = some { partner with remembered := [(0x77#32, a)] } ∧
       (({ partner with remembered := [(0x77#32, a)] } : Session).remembered.find? fun y => y.1 == r.tag) = some (0x77#32, a)) ∧
     fabDev.takesFrames (.fabric 5) = true ∧ fabDev.sessionOf r = some partner ∧ partner.remembered.length ≤ 16 ∧
     (only fabDev).standing = [] ∧ fabDev.serves = true ∧ fabDev.fw.frames = [] ∧
     (let s := { only fabDev with mbx := [(0, { Mailbox.init with reqBusy := true })] }
      (s.mailbox 0).reqBusy = true ∧ (s.mailbox 0).taken = false) ∧
     (∀ e ∈ partner.remembered, e.1 ≠ r.tag) ∧ ((fabDev.rememberTag r).touchSession r).headerFails r = none) ∧
    (let r := rawFrame .returnLane (laneRequest (laneOf 2 frame0)) dev0.epoch
     laneRequest (laneOf 2 frame0) = frame0 ∧ frame0 ≠ [] ∧ r.code = 0x0C02 ∧ r.length = 0 ∧
     (laneDev [(0x77#32, none)]).takesFrames .returnLane = true ∧ ((laneDev [(0x77#32, none)]).sessionOf r) = some (laneHost [(0x77#32, none)]) ∧
     ((laneHost [(0x77#32, none)]).remembered.find? fun y => y.1 == r.tag) = some (0x77#32, none) ∧
     (laneDev []).takesFrames .returnLane = true ∧ (laneDev []).sessionOf r = some (laneHost []) ∧
     (((laneDev []).rememberTag r).touchSession r).headerFails r = none) := by
  refine ⟨by simp [firmwareRows], ?_⟩
  and_intros <;> decide +kernel

/-! ### Worked examples of the manual -/

/-- R4: a transaction that names 0x0000_0003 in epoch 0xFFFF_FFFE means five epochs ahead. -/
theorem test_epoch_named_across_the_wrap : epochNamed 0xFFFFFFFE 3 = some (0xFFFFFFFE + 5) := by decide +kernel

/-- R236: the CRC of the ASCII bytes "123456789". -/
theorem test_cart_crc : crc32 [0x31#8, 0x32#8, 0x33#8, 0x34#8, 0x35#8, 0x36#8, 0x37#8, 0x38#8, 0x39#8] = 0xCBF43926#32 := by decide +kernel

/-- R238's cart of point 98 at the boundary of epoch 1,000 under tag 0x0007. -/
theorem test_cart_header :
    let w := cartHeader ⟨1, 0, 98, 5#32, 3000000000, 7#16, 0#14, 100, List.replicate 300 0#32⟩
    w[0]? = some 0x11000062#32 ∧ w[2]? = some 0#32 ∧ w[3]? = some 0xB2D05E00#32 ∧ w[4]? = some 0x3E8#32 ∧ w[5]? = some 0x0007012C#32 ∧
    w[7]? = some 0x00640000#32 := by decide +kernel

/-- R298, R286: a burst read of `TIME_LO` and `TIME_HI`. -/
theorem test_read_burst_of_time_is_coherent :
    ((State.readFrame (clocksOf ([3#8, 0#8, 0x30#8, 0x04#8] ++ zeros 8)) (only dev0)).dev.regs.shifted =
      [BitVec.ofNat 32 (dev0.clk.time / 16 * 16), BitVec.ofNat 32 (dev0.clk.time / 2 ^ 32)]) := by decide +kernel

/-- R305: of two ports' writes of one register in one BUS cycle the control port's is served first, the other's a cycle later. -/
theorem test_accesses_of_one_cycle :
    (let s := State.serve 3 [⟨.fabric, 0#8, 0x1100#24, 2#32⟩, ⟨.control, 2#8, 0x1100#24, 1#32⟩] (only dev0)
     s.dev.regs.intMask = 2#13 ∧ s.dev.clk.time = dev0.clk.time / 16 * 16 + 16) := by decide +kernel

/-- The three events of R314's example, on one register. -/
theorem test_event_register_of_the_manual :
    let a := (⟨5#8, 1#24, 0#24, none⟩ : Evt).record (some 7) 4#24
    let b := ((a.clear 0x05000001#32).clear 0x06000005#32).record (some 9) 1#24
    a.word = 0x06000005#32 ∧ (a.clear 0x05000001#32).word = 0x06000005#32 ∧ b.word = 0x07000001#32 := by decide +kernel

/-- R246, the example after R248: `AOUT2` at E = 12.5 µm with SCALE 10,000 and OFFSET 0.5 has code 655,360 (0x3751B717 is 12.5 µm, 0x461C4000 is 10,000). -/
theorem test_analogue_output_code : aoutCode ⟨true, false, false, 0, 0x461C4000#32, 0x3F000000#32, 0⟩ 0x3751B717#32 = 655360 := by decide +kernel

/-- The rows of map 0 in the example after R170. -/
theorem test_density_rows :
    let c : MapCfg := { map0 with floor := -16000, step := 50 }
    mapRow c (-8737) = 145 ∧ mapRow c (-3200) = 255 ∧ mapRow c (-16001) = 0 := by decide +kernel

/-- R115, the example after R125, a sample of point 98: E = 0x47C3_C001. -/
theorem test_linearisation_of_the_manual :
    let c := (List.range 24).map fun i => if i = 0 then 0x42F00000#32 else if i = 4 then 0x4BBEBC20#32 else if i = 8 then 0xC9B71B00#32
      else if i = 1 then 0xC3C80000#32 else if i = 5 then 0x482FC800#32 else 0#32
    F64.toF32 (LinSet.eval ⟨0, 2, 560, 9, 0, 0x41C80000#32, 0x42480000#32, c, 0#32⟩ ChanCfg.init 0x0083126F 0 (F64.ofNat 45)) = 0x47C3C001#32 := by
  decide +kernel

def plan (f a : Nat) (asg d resp : Nat) : PointCfg := ⟨true, asg, (f * 2 ^ 48 + 375000000) / 750000000, a, 0, d, resp, 1, 2⟩
def plan40 (fch f321 a321 : Nat) : Cfg :=
  { Cfg.boot with
    chans := [(40, { ChanCfg.init with mode := 1, fch := fch, enable := true })]
    points := [(320, plan 500000 9830 2 625 0), (321, plan f321 a321 0 1250 0), (322, plan 3200000 6554 1 250 1)] }

/-- The plan of channel 40 in the example after R74 passes. -/
theorem test_carrier_plan_passes : planClashes (plan40 3 1200000 6554) 40 1 (F64.ofNat 5) = [] := by decide +kernel

/-- R74: the same plan, changed in three ways, has the three records of the manual. -/
theorem test_carrier_plan_clashes :
    (planClashes (plan40 2 1050000 22938) 40 1 (F64.ofNat 5)).map (fun r => (r.point, r.rule, r.order, r.other, r.chan)) =
      [(320, 6, 0, 0xFFFF, 40), (321, 3, 2, 320, 40), (322, 4, 9, 0xFFFF, 40)] ∧
    (planClashes (plan40 2 1050000 22938) 40 1 (F64.ofNat 5)).map (fun r => F64.toF32 r.required) =
      [0x40100000#32, F64.toF32 (F64.ofNat 110000), F64.toF32 (F64.ofNat 250500)] := by decide +kernel

/-- R91, the example after R92: point 98's sample at B has a window of 630,000 ticks to each side and is ready at B + 632,208. -/
theorem test_point_ready_instant :
    let c := { Cfg.boot with points := [(98, { point0 with d := 625 })] }
    c.windowBefore 98 0 = 630000 ∧ c.windowAfter 98 0 = 630000 ∧ c.readyDelay 98 0 = 632208 := by decide +kernel

def unitsOfExample : Cfg :=
  { Cfg.boot with
    points := [(136, { point0 with d := 20, response := 1 })]
    regions := [(5, ⟨2, 0x410, 4, 64, 1250000⟩)]
    units := [(3, { unitE with type := 1, src := 136, word := 0, act := 1 + 4 + 32, region := 5 }), (7, { unitE with src := 1 })] }

/-- The examples after R195 and R214: the bounds of units 3 and 7, the close of their record, the guard and the usable capacity of region 5. -/
theorem test_trigger_bounds_and_guard :
    unitsOfExample.groupBounds 0 = (960, 4704) ∧ unitsOfExample.closeAt 0 2020 = 101808 ∧ unitsOfExample.closeDelay 5 = 5808 ∧
    unitsOfExample.guardOf 5 = 122 ∧ unitsOfExample.fitOf 5 = 1248750 ∧ unitsOfExample.armFits 5 250000 1000000 = false ∧
    unitsOfExample.armFits 5 250000 998750 = true ∧ unitsOfExample.armFits 5 250000 998751 = false := by decide +kernel

/-- R204, the examples after R207 and R214: the bytes of the two regions, in whole pages. -/
theorem test_region_bytes :
    regionBytes ⟨2, 0x410, 4, 64, 1250000⟩ = 964100096 ∧ regionBytes ⟨1, 0x400, 32, 1, 125000000⟩ = 12051218432 := by decide +kernel

/-- The example after R320, two addresses of the counter window: channel 96's guard cuts, unit 3's firings. -/
theorem test_counter_window_addresses :
    let n := { dev0.cnt with chan := [(8 * 96 + cntCut, 77#32)], unit := [(4 * 3 + 1, 88#32)] }
    let d := bellOf (fun b => { b with window := some { Snapshot.zero with counters := n } }) dev0
    ((only d).readReg .control 0x008D08#24).1 = 77#32 ∧ ((only d).readReg .control 0x0099B4#24).1 = 88#32 := by decide +kernel

def exampleTxn : Txn := { txn0 with id := 0x31, session := 5, ticket := 38, items := [.point 98 point0] }
def exampleDev : Device :=
  { inMode .idle dev0 with fw := { dev0.fw with sessions := [{ host with id := 5, mbx := 1 }], txns := [exampleTxn], committed := 7#16, effective := 7#16 } }
def wordsAt (base : Nat) (l : List Word) (s : State) : State :=
  (l.zipIdx.foldl (fun s x => match exec (.mbxRequestWrite (wr (BitVec.ofNat 24 (base + 4 * x.2)) x.1)) s with
    | .next t => t
    | _ => s) s)
def run (l : List Instr) (s : State) : State := l.foldl (fun s c => match exec c s with
  | .next t => t
  | _ => s) s

/-- *A request on the wire*: session 5 stages channel 12 into transaction 0x31 over mailbox 1. -/
theorem test_request_on_the_wire :
    let s := wordsAt 0x10800 [0x0301000C#32, 0xA7#32, 5#32, 0x31#32, 0x0000000C#32, 0x00800108#32, 0x00100300#32] (only exampleDev)
    let t := run [.registerWrite (.one (wr 0x14C#24 28#32)), .mbxDoorbell (wr 0x148#24 1#32), .chanConfig (.mailbox 1)] s
    (List.range 6).map (fun i => (t.readReg .control (BitVec.ofNat 24 (0x10C00 + 4 * i))).1) =
      [0x00000008#32, 0xA7#32, 0x3E8#32, 0x00070007#32, 1#32, 0xFFFF0002#32] ∧
    (t.readReg .control 0x150#24).1 = 24#32 ∧ (t.mailbox 1).rspValid = true ∧ (t.mailbox 1).reqBusy = false := by decide +kernel

/-! ### A few other tests -/

/-- R1: the identity registers read as stated. -/
theorem test_identity : ((only dev0).readReg .control 0#24).1 = 0x554D8128#32 ∧ ((only dev0).readReg .fabric 4#24).1 = 0xB01#32 := by decide +kernel

/-- R452, R348: after reset `DL_CTL` reads 0x14C and `DL_STAT` 0xF_0000. -/
theorem test_port_registers_at_reset : State.reset.dev.port.ctl = 0x14C#32 ∧ State.reset.dev.port.stat = 0xF0000#32 := by decide +kernel
end Sys2Proof.Tests
end

section
/-! The output words of a point (R84): what the point record admits, and what a staging command does with one bad record. -/

namespace Sys2Proof.Machine

/-! ### What a point record admits -/

/-- A guarded record is read exactly when its check holds. -/
theorem guardRec_eq_some_iff {α : Type} {ok : Bool} {x y : α} : guardRec ok x = some y ↔ ok = true ∧ x = y := by
  cases ok <;> simp [guardRec]

theorem readPoint_words {l : List Byte} {p : Nat} {c : PointCfg} (h : readPoint l = some (p, c)) :
    c.word0 = u8 l 21 ∧ c.word1 = u8 l 22 ∧ 1 ≤ c.word0 ∧ c.word0 ≤ 5 ∧ c.word1 ≤ 5 ∧ c.word1 ≠ c.word0 := by
  obtain ⟨hok, hpc⟩ := guardRec_eq_some_iff.mp h
  obtain ⟨-, rfl⟩ := Prod.mk.inj hpc
  simp only [Bool.and_eq_true, decide_eq_true_eq, bne_iff_ne] at hok
  obtain ⟨⟨⟨⟨⟨-, hmin⟩, hmax0⟩, hmax1⟩, hne⟩, -⟩ := hok
  exact ⟨rfl, rfl, hmin, hmax0, hmax1, hne.symm⟩

theorem readPoint_eq_none_of_words {l : List Byte} (hbad : u8 l 22 = u8 l 21 ∨ u8 l 21 = 0) : readPoint l = none := by
  refine Option.eq_none_iff_forall_ne_some.mpr fun ⟨p, c⟩ h => ?_
  obtain ⟨h0, h1, hmin, -, -, hne⟩ := readPoint_words h
  rcases hbad with hsame | hnone
  · exact hne (by rw [h0, h1, hsame])
  · omega

/-! ### The items of an open transaction -/

/-- What replacing a transaction's items does to each transaction of the table. -/
def Txn.itemsAt (coord : Option Nat) (id : Nat) (items : List Item) (t : Txn) : Txn :=
  if t.coord = coord ∧ t.id = id then { t with items := items } else t

theorem Txn.itemsAt_self (items : List Item) (t : Txn) : t.itemsAt t.coord t.id items = { t with items := items } :=
  if_pos ⟨rfl, rfl⟩

section items
variable (coord : Option Nat) (id : Nat) (items : List Item) (d : Device)

theorem txns_setTxn_items :
    (d.setTxn coord id fun t => { t with items := items }).fw.txns = d.fw.txns.map (Txn.itemsAt coord id items) := rfl

/-- A test that looks at no items finds the same transaction after they are replaced. -/
theorem find?_txns_setTxn_items {q : Txn → Bool} (hq : ∀ t : Txn, q { t with items := items } = q t) :
    (d.setTxn coord id fun t => { t with items := items }).fw.txns.find? q = (d.fw.txns.find? q).map (Txn.itemsAt coord id items) := by
  have hsame : q ∘ Txn.itemsAt coord id items = q := by
    funext t
    simp only [Function.comp_apply, Txn.itemsAt]
    split
    · exact hq t
    · rfl
  rw [txns_setTxn_items, List.find?_map, hsame]

theorem linkedTxn_setTxn_items (x : Session) (n : Nat) :
    (d.setTxn coord id fun t => { t with items := items }).linkedTxn x n = (d.linkedTxn x n).map (Txn.itemsAt coord id items) := by
  unfold Device.linkedTxn
  split
  · exact find?_txns_setTxn_items coord id items d fun _ => rfl
  · rfl

end items

/-- Replacing the items of the open transaction that a header names leaves it the one named. -/
theorem openTxn_setTxn_items {code session n : Nat} {d : Device} {t : Txn} (h : d.openTxn code session n = some t) (items : List Item) :
    (d.setTxn t.coord t.id fun x => { x with items := items }).openTxn code session n = some { t with items := items } := by
  have hs : (d.setTxn t.coord t.id fun x => { x with items := items }).session? session = d.session? session := rfl
  unfold Device.openTxn at h ⊢
  rw [hs]
  cases hx : d.session? session with
  | none => simp [hx] at h
  | some x =>
    simp only [hx, linkedTxn_setTxn_items] at h ⊢
    cases hl : d.linkedTxn x n with
    | none =>
      simp only [hl] at h
      simp only [Option.map_none]
      rw [find?_txns_setTxn_items _ _ _ _ fun _ => rfl, h, Option.map_some, Txn.itemsAt_self]
    | some u =>
      simp only [hl, Option.ite_none_right_eq_some, Option.some.injEq] at h
      obtain ⟨hopen, rfl⟩ := h
      simp [Txn.itemsAt_self, hopen]

/-! ### Staging one bad record -/

section staging
variable {size most : Nat} {read : List Byte → Option Item} {check : Device → List Item → Option (BitVec 16 × Option (List Byte))}
  {r : Req} {d : Device}

theorem stageFixed_one_record (hsize : 0 < size) (hmost : 1 ≤ most) (hlen : r.body.length = size) :
    stageFixed size read check most r d = stageAll check [staged (read r.body)] r d := by
  have hone : r.body.length / size = 1 := by rw [hlen, Nat.div_self hsize]
  have hfits : ¬(r.body.length % size ≠ 0 ∨ r.body.length / size = 0 ∨ most < r.body.length / size) := by
    rw [hone, hlen, Nat.mod_self]
    omega
  have hchunk : chunks size 1 r.body = [r.body] := by simp only [chunks, List.take_of_length_le hlen.le]
  unfold stageFixed
  rw [if_neg hfits, hone, hchunk, List.map_singleton]

/-- A bad record ends its request with BAD_FIELD at its own place, and the transaction gets the items it has. -/
theorem stageAll_bad {t : Txn} (ht : d.openTxn r.code r.session r.txn = some t) :
    stageAll check [.bad] r d =
      (some (stagingAnswer stBadField 0 t.items.length 0), d.setTxn t.coord t.id fun x => { x with items := t.items }) := by
  unfold stageAll
  rw [ht]
  rfl

end staging

/-! ### The session's timer -/

theorem State.touched_eff (m : Nat) (s : State) : (s.touched m).fw.eff = s.dev.fw.eff := by
  unfold State.touched Device.touchSession
  split <;> rfl

theorem State.touched_live (m : Nat) (s : State) : (s.touched m).fw.live = s.dev.fw.live := by
  unfold State.touched Device.touchSession
  split <;> rfl

/-! ### The command -/

/-- A staging response is what the mailbox holds, under the present epoch (R357). -/
theorem answers_of_stagingAnswer {c : Instr} {m : Fin 4} {s : State} {code : Nat} {h : Handler} {st : BitVec 16} {staged items failed : Nat}
    {d : Device} (hc : exec c s = fwRow code h (.mailbox m) s) (hs : s.stands code m)
    (hh : h (s.request m) (s.touched m) = (some (stagingAnswer st staged items failed), d)) :
    Answers c m s st (leBytes 4 staged ++ leBytes 2 items ++ leBytes 2 failed) d.epoch d := by
  have g := answers_of_handler hc hs hh
  simp only [stagingAnswer, Option.getD_none] at g
  exact g

/-- `point.config` with one record of bad words: BAD_FIELD, with the record's place 0, and the transaction named keeps its items. -/
theorem pointConfig_bad_words {s : State} {m : Fin 4} {t : Txn} (hs : s.stands 0x0401 m) (hlen : (s.body m).length = 24)
    (ht : (s.touched m).openTxn 0x0401 (s.sessionNo m) (s.txnNo m) = some t)
    (hbad : u8 (s.body m) 22 = u8 (s.body m) 21 ∨ u8 (s.body m) 21 = 0) :
    let d := (s.touched m).setTxn t.coord t.id fun x => { x with items := t.items }
    Answers (.pointConfig (.mailbox m)) m s stBadField (leBytes 4 0 ++ leBytes 2 t.items.length ++ leBytes 2 0) d.epoch d := by
  have hcode : (s.request m).code = 0x0401 := by
    obtain ⟨-, -, -, -, -, hcode, -⟩ := hs
    exact hcode
  have ht' : (s.touched m).openTxn (s.request m).code (s.request m).session (s.request m).txn = some t := by
    rw [hcode]
    exact ht
  have hread : (readPoint (s.request m).body).map (fun x => Item.point x.1 x.2) = none :=
    congrArg (Option.map _) (readPoint_eq_none_of_words hbad)
  have hanswer : pointConfig (s.request m) (s.touched m) = (some (stagingAnswer stBadField 0 t.items.length 0),
      (s.touched m).setTxn t.coord t.id fun x => { x with items := t.items }) := by
    unfold pointConfig
    rw [stageFixed_one_record (by decide) (by decide) hlen, hread]
    exact stageAll_bad ht'
  have hexec : exec (.pointConfig (.mailbox m)) s = fwRow 0x0401 pointConfig (.mailbox m) s := rfl
  exact answers_of_stagingAnswer hexec hs hanswer

/-- Settles O53: the record's check gives the words' codes and their difference, and a record that fails it stages nothing. -/
theorem outputWordsDiffer : Obligations.OutputWordsDiffer := by
  refine ⟨rfl, rfl, fun l p c h => ?_, fun l => readPoint_eq_none_of_words, fun s m t hs hlen ht hbad => ?_⟩
  · obtain ⟨-, -, hwords⟩ := readPoint_words h
    exact hwords
  · exact ⟨_, pointConfig_bad_words hs hlen ht hbad, State.touched_eff m s, State.touched_live m s, openTxn_setTxn_items ht t.items⟩

end Sys2Proof.Machine
end

section
/-! The locks of R311. What neither writes a register nor resets one leaves all the registers alone, and so the locks: a lemma for each
operation of the model, in the order of its definitions. A power-on reset apart, the others set locks and clear none. -/

namespace Sys2Proof.Machine

/-- The three locks of R311, in the order of their registers. -/
def Regs.locks (r : Regs) : List Bool := [r.lockDbg, r.lockCal, r.lockFw]

@[simp] theorem Device.ite_regs (p : Prop) [Decidable p] (a b : Device) : (if p then a else b).regs = if p then a.regs else b.regs :=
  apply_ite Device.regs p a b

@[simp] theorem State.ite_dev (p : Prop) [Decidable p] (a b : State) : (if p then a else b).dev = if p then a.dev else b.dev :=
  apply_ite State.dev p a b

@[simp] theorem ite_snd {α β : Type} (p : Prop) [Decidable p] (a b : α × β) : (if p then a else b).2 = if p then a.2 else b.2 :=
  apply_ite Prod.snd p a b

/-- What the data path leaves alone, the registers among it. -/
theorem Device.regs_of_inner {d e : Device} (h : d.inner = e.inner) : d.regs = e.regs := by
  obtain ⟨-, -, hregs, -⟩ := Device.inner_of h
  exact hregs

/-- Each step of a loop keeps a part of what it runs on. -/
def Keeps {α β γ : Type} (g : α → γ) (f : β → α → α) : Prop := ∀ x a, g (f x a) = g a

@[simp] theorem keeps_iff {α β γ : Type} (g : α → γ) (f : β → α → α) : Keeps g f ↔ ∀ x a, g (f x a) = g a := ⟨id, id⟩

/-- A loop keeps what each of its steps keeps. -/
theorem forList_keeps {α β γ : Type} {g : α → γ} (l : List β) {f : β → α → α} (h : Keeps g f) (a : α) : g (forList l f a) = g a := by
  induction l generalizing a with
  | nil => rfl
  | cons x l ih => exact (ih (f x a)).trans (h x a)

theorem forNat_keeps {α γ : Type} {g : α → γ} (n : Nat) {f : Nat → α → α} (h : Keeps g f) (a : α) : g (forNat n f a) = g a :=
  forList_keeps (List.range n) h a

section loops
variable {β : Type} (l : List β) (n : Nat)

@[simp] theorem forList_regs {f : β → Device → Device} (h : Keeps Device.regs f) (d : Device) : (forList l f d).regs = d.regs :=
  forList_keeps l h d

@[simp] theorem forNat_regs {f : Nat → Device → Device} (h : Keeps Device.regs f) (d : Device) : (forNat n f d).regs = d.regs :=
  forNat_keeps n h d

@[simp] theorem forList_locks {f : β → Device → Device} (h : Keeps (fun d => d.regs.locks) f) (d : Device) :
    (forList l f d).regs.locks = d.regs.locks := forList_keeps l h d

@[simp] theorem forList_dev_regs {f : β → State → State} (h : Keeps (fun s => s.dev.regs) f) (s : State) :
    (forList l f s).dev.regs = s.dev.regs := forList_keeps l h s

@[simp] theorem forNat_dev_regs {f : Nat → State → State} (h : Keeps (fun s => s.dev.regs) f) (s : State) :
    (forNat n f s).dev.regs = s.dev.regs := forNat_keeps n h s

@[simp] theorem forList_dev_locks {f : β → State → State} (h : Keeps (fun s => s.dev.regs.locks) f) (s : State) :
    (forList l f s).dev.regs.locks = s.dev.regs.locks := forList_keeps l h s

end loops

/-- Whatever request it is given, a handler leaves the registers alone. -/
def LeavesRegs (h : Handler) : Prop := ∀ r d, (h r d).2.regs = d.regs

/-! ### Modes and the TAP -/

@[simp] theorem Device.actJtag_regs (d : Device) : d.actJtag.regs = d.regs := rfl
@[simp] theorem Device.leaveMaintain_regs (m : Mode) (d : Device) : (d.leaveMaintain m).regs = d.regs := by simp [Device.leaveMaintain]
@[simp] theorem Device.toSafe_regs (cause : Nat) (d : Device) : (d.toSafe cause).regs = d.regs := by simp [Device.toSafe]
@[simp] theorem Device.declareSafe_regs (cause : Nat) (d : Device) : (d.declareSafe cause).regs = d.regs := by simp [Device.declareSafe]
@[simp] theorem Device.takeFree_regs (d : Device) : d.takeFree.2.regs = d.regs := rfl

/-! ### Counters, frames and carts on their way -/

@[simp] theorem Device.countPort_regs (k i : Nat) (d : Device) (n : Nat) : (d.countPort k i n).regs = d.regs :=
  Device.regs_of_inner (by simp)

@[simp] theorem Device.countAt_regs (i : Nat) (port : Option Nat) (d : Device) : (d.countAt i port).regs = d.regs :=
  Device.regs_of_inner (by simp)

@[simp] theorem Device.ctlRx_regs (src : Nat) (d : Device) : (d.ctlRx src).regs = d.regs := Device.regs_of_inner (by simp)
@[simp] theorem Device.send_regs (x : OutFrame) (d : Device) : (d.send x).regs = d.regs := Device.regs_of_inner (by simp)

@[simp] theorem Device.formCart_regs (type stream time : Nat) (tag : BitVec 16) (flags : BitVec 14) (count : Nat)
    (words : List Word) (bound dests : Nat) (d : Device) :
    (d.formCart type stream time tag flags count words bound dests).regs = d.regs := Device.regs_of_inner (by simp)

/-! ### Answers and mailboxes -/

@[simp] theorem Device.messageCart_regs (bytes : List Byte) (d : Device) : (d.messageCart bytes).regs = d.regs := by
  simp [Device.messageCart]

@[simp] theorem Device.sendMessage_regs (v : Via) (bytes : List Byte) (d : Device) : (d.sendMessage v bytes).regs = d.regs := by
  unfold Device.sendMessage
  split <;> simp

@[simp] theorem Device.sendReplies_regs (n : Nat) (d : Device) : (d.sendReplies n).regs = d.regs := by
  induction n generalizing d with
  | zero => rfl
  | succ n ih =>
    unfold Device.sendReplies
    split
    · rfl
    · split
      · simp [ih]
      · rfl

@[simp] theorem Device.rememberAnswer_regs (session : Nat) (tag : Word) (bytes : List Byte) (d : Device) :
    (d.rememberAnswer session tag bytes).regs = d.regs := rfl

@[simp] theorem Device.complete_regs (w : Waiter) (status : BitVec 16) (payload : List Byte) (d : Device) (epoch : Option Nat) :
    (d.complete w status payload epoch).regs = d.regs := by
  unfold Device.complete
  repeat' split
  all_goals simp

@[simp] theorem Device.completeOpt_regs (w : Option Waiter) (status : BitVec 16) (payload : List Byte) (d : Device) :
    (d.completeOpt w status payload).regs = d.regs := by
  unfold Device.completeOpt
  split <;> simp

@[simp] theorem Device.startLong_regs (session : Nat) (d : Device) : (d.startLong session).regs = d.regs := rfl
@[simp] theorem State.setMailbox_regs (m : Nat) (f : Mailbox → Mailbox) (s : State) : (s.setMailbox m f).dev.regs = s.dev.regs := rfl

@[simp] theorem State.respond_regs (via : Via) (session : Nat) (tag : Word) (a : Ans) (s : State) :
    (s.respond via session tag a).dev.regs = s.dev.regs := by
  unfold State.respond
  split <;> simp

@[simp] theorem Device.arrive_regs (rank : Nat) (d : Device) : (d.arrive rank).2.regs = d.regs := by simp [Device.arrive]
@[simp] theorem State.overrun_regs (m : Nat) (s : State) : (s.overrun m).dev.regs = s.dev.regs := by simp [State.overrun]

/-! ### Requests and their handlers -/

@[simp] theorem Device.touchSession_regs (r : Raw) (d : Device) : (d.touchSession r).regs = d.regs := by
  unfold Device.touchSession
  split <;> rfl

@[simp] theorem refuse_regs (st : BitVec 16) (d : Device) : (refuse st d).2.regs = d.regs := rfl

@[simp] theorem require_regs (ok : Bool) (st : BitVec 16) (d : Device) {k : Option Ans × Device} (h : k.2.regs = d.regs) :
    (require ok st d k).2.regs = d.regs := by
  unfold require
  split
  · exact h
  · rfl

theorem LeavesRegs.sizedTo {h : Handler} {n : Nat} (hh : LeavesRegs h) : LeavesRegs (sizedTo n h) := fun r d => by
  unfold Machine.sizedTo
  split
  · exact hh r d
  · rfl

@[simp] theorem acceptLong_regs (r : Req) (d : Device) (k : Device → Device) :
    (acceptLong r d k).2.regs = if d.longFull r.session then d.regs else (k (d.startLong r.session)).regs := by
  simp [acceptLong]

theorem acceptLong_keeps (r : Req) (d : Device) {k : Device → Device} (hk : ∀ e, (k e).regs = e.regs) :
    (acceptLong r d k).2.regs = d.regs := by
  rw [acceptLong_regs, hk, Device.startLong_regs, ite_self]

@[simp] theorem State.deliver_regs (r : Req) (a : Option Ans × Device) (s : State) : (s.deliver r a).dev.regs = a.2.regs := by
  unfold State.deliver
  split
  · simp
  · split <;> rfl

@[simp] theorem State.settleMailboxes_regs (s : State) : s.settleMailboxes.dev.regs = s.dev.regs := by simp [State.settleMailboxes]

theorem State.execute_regs {h : Handler} (hh : LeavesRegs h) (r : Raw) (s : State) : (s.execute h r).dev.regs = s.dev.regs := by
  unfold State.execute
  dsimp only
  split
  · simp
  · rw [State.settleMailboxes_regs, State.deliver_regs, hh, Device.touchSession_regs]

@[simp] theorem Device.rememberTag_regs (r : Raw) (d : Device) : (d.rememberTag r).regs = d.regs := by
  unfold Device.rememberTag
  split <;> rfl

theorem State.executeFrame_regs {h : Handler} (hh : LeavesRegs h) (r : Raw) (s : State) :
    (s.executeFrame h r).dev.regs = s.dev.regs := by
  unfold State.executeFrame
  split
  · simp
  · simp
  · simp [State.execute_regs hh]

@[simp] theorem internalFault_regs : LeavesRegs internalFault := fun r d => by
  simp [internalFault]

@[simp] theorem State.dropFrame_regs (f : FrameWait) (s : State) : (s.dropFrame f).dev.regs = s.dev.regs := rfl

theorem State.frameRow_regs {h : Handler} (hh : LeavesRegs h) (code : Nat) (via : Via) (bytes : List Byte) (s : State) :
    (s.frameRow code h via bytes).dev.regs = s.dev.regs := by
  unfold State.frameRow
  dsimp only
  split
  · rfl
  · split
    · split
      · simp [State.executeFrame_regs hh]
      · rfl
    · split
      · exact State.executeFrame_regs hh _ s
      · simp

theorem fwRow_regs {code : Nat} {h : Handler} (hh : LeavesRegs h) {src : ReqSource} {s t : State} (e : fwRow code h src s = .next t) :
    t.dev.regs = s.dev.regs := by
  induction src generalizing h with
  | mailbox m =>
    simp only [fwRow] at e
    split at e <;> cases e
    · exact State.execute_regs hh _ s
    · rfl
  | returnLane f => exact Host.Outcome.next.inj e ▸ State.frameRow_regs hh _ _ _ s
  | fabric p f => exact Host.Outcome.next.inj e ▸ State.frameRow_regs hh _ _ _ s
  | faulted src ih => exact ih internalFault_regs e

/-! ### Sessions and transactions -/

@[simp] theorem Device.setTxn_regs (coord : Option Nat) (id : Nat) (f : Txn → Txn) (d : Device) : (d.setTxn coord id f).regs = d.regs := rfl
@[simp] theorem Device.retire_regs (t : Txn) (d : Device) : (d.retire t).regs = d.regs := rfl
@[simp] theorem Device.settleTxn_regs (st : TxnState) (t : Txn) (d : Device) : (d.settleTxn st t).regs = d.regs := rfl
@[simp] theorem Device.toParts_regs (t : Txn) (f : Nat → OutFrame) (d : Device) : (d.toParts t f).regs = d.regs := by simp [Device.toParts]

@[simp] theorem Device.announce_regs (t : Txn) (commit closed : Bool) (d : Device) : (d.announce t commit closed).regs = d.regs := by
  simp [Device.announce]

@[simp] theorem Device.abortTxn_regs (t : Txn) (d : Device) : (d.abortTxn t).regs = d.regs := by simp [Device.abortTxn]

@[simp] theorem sessionOpen_regs : LeavesRegs sessionOpen := .sizedTo fun r d => by
  dsimp only [require]
  repeat' split
  all_goals simp

@[simp] theorem Device.closeSession_regs (id : Nat) (d : Device) : (d.closeSession id).regs = d.regs := by simp [Device.closeSession]
@[simp] theorem sessionClose_regs : LeavesRegs sessionClose := .sizedTo fun _ _ => by simp
@[simp] theorem sessionKeepalive_regs : LeavesRegs sessionKeepalive := .sizedTo fun _ _ => rfl
@[simp] theorem sessionList_regs : LeavesRegs sessionList := .sizedTo fun _ _ => rfl
@[simp] theorem Device.addTxn_regs (t : Txn) (d : Device) : (d.addTxn t).regs = d.regs := rfl

@[simp] theorem txnBegin_regs : LeavesRegs txnBegin := fun r d => by
  dsimp only [txnBegin, require]
  split <;> simp

@[simp] theorem txnAbort_regs : LeavesRegs txnAbort := .sizedTo fun r d => by
  dsimp only [require]
  split <;> simp

@[simp] theorem txnStatus_regs : LeavesRegs txnStatus := .sizedTo fun r d => by
  dsimp only [require]
  repeat' split
  all_goals simp

@[simp] theorem txnCommit_regs : LeavesRegs txnCommit := .sizedTo fun r d => by
  dsimp only [require]
  repeat' split
  all_goals simp

/-! ### The Granary -/

@[simp] theorem Device.settleSlot_regs (r k : Nat) (d : Device) : (d.settleSlot r k).regs = d.regs := Device.regs_of_inner (by simp)
@[simp] theorem Device.settleRegion_regs (r : Nat) (d : Device) : (d.settleRegion r).regs = d.regs := by simp [Device.settleRegion]
@[simp] theorem Device.promote_regs (r from_ : Nat) (d : Device) : (d.promote r from_).regs = d.regs := Device.regs_of_inner (by simp)

@[simp] theorem Device.toGranary_regs (s ready at_ : Nat) (e : Elem) (d : Device) : (d.toGranary s ready at_ e).regs = d.regs :=
  Device.regs_of_inner (by simp)

@[simp] theorem Device.pumpRegion_regs (r now n : Nat) (d : Device) : (d.pumpRegion r now n).regs = d.regs :=
  Device.regs_of_inner (by simp)

@[simp] theorem Device.pump_regs (now : Nat) (d : Device) : (d.pump now).regs = d.regs := Device.regs_of_inner (by simp)

@[simp] theorem Device.endSending_regs (keep : Paced → Bool) (d : Device) : (d.endSending keep).regs = d.regs := by
  dsimp only [Device.endSending]
  refine (forList_regs _ (fun x d => ?_) _).trans (by simp)
  split <;> simp

@[simp] theorem Device.granWrite_regs (s : Nat) (d : Device) : (d.granWrite s).regs = d.regs := Device.regs_of_inner (by simp)

@[simp] theorem Device.strikeReplay_regs (r k m first count : Nat) (d : Device) : (d.strikeReplay r k m first count).regs = d.regs := by
  unfold Device.strikeReplay
  refine forList_regs _ (fun x d => ?_) d
  split <;> simp

@[simp] theorem Device.strikeRow_regs (m c : Nat) (d : Device) : (d.strikeRow m c).regs = d.regs := by
  unfold Device.strikeRow
  split <;> rfl

@[simp] theorem Device.strike_regs (r : Nat) (x : Struck) (d : Device) : (d.strike r x).regs = d.regs := by
  unfold Device.strike
  split <;> simp

@[simp] theorem Device.scrubError_regs (e : ScrubErr) (d : Device) : (d.scrubError e).regs = d.regs := by
  unfold Device.scrubError
  repeat' split
  all_goals simp

@[simp] theorem Device.foundErrors_regs (errs : List ScrubErr) (d : Device) : (d.foundErrors errs).regs = d.regs := by
  simp [Device.foundErrors]

@[simp] theorem Device.findErrors_regs (errs : List ScrubErr) (d : Device) : (d.findErrors errs).regs = d.regs := by
  simp [Device.findErrors]

/-! ### Triggers -/

@[simp] theorem Device.resetUnit_regs (changed : Bool) (b u : Nat) (d : Device) : (d.resetUnit changed b u).regs = d.regs := rfl

@[simp] theorem Device.fire_regs (u : Nat) (x : UnitCfg) (late : Option Nat) (lateMark forced : Bool) (det : Detection) (d : Device) :
    (d.fire u x late lateMark forced det).regs = d.regs := Device.regs_of_inner (by simp)

@[simp] theorem Device.detect_regs (u : Nat) (x : UnitCfg) (det : Detection) (d : Device) (late : Option Nat) (lateMark : Bool) :
    (d.detect u x det late lateMark).regs = d.regs := Device.regs_of_inner (by simp)

@[simp] theorem Device.offer_regs (wide : Bool) (src ts t : Nat) (flags : BitVec 14) (value : Nat → F64) (d : Device) :
    (d.offer wide src ts t flags value).regs = d.regs := Device.regs_of_inner (by simp)

@[simp] theorem Device.occur_regs (ch bit : Nat) (t td : Nat) (flags : BitVec 14) (d : Device) :
    (d.occur ch bit t td flags).regs = d.regs :=
  Device.regs_of_inner (by simp)

@[simp] theorem Device.closeRecord_regs (r : OpenRec) (d : Device) : (d.closeRecord r).regs = d.regs := Device.regs_of_inner (by simp)

@[simp] theorem Device.pinEdge_pass_regs (pin : Nat) (rising : Bool) (t : Nat) (d : Device) :
    (Device.pinEdge.pass pin rising t d).regs = d.regs := rfl

@[simp] theorem Device.pinEdge_regs (pin : Nat) (rising : Bool) (t : Nat) (d : Device) : (d.pinEdge pin rising t).regs = d.regs := by
  unfold Device.pinEdge
  split <;> simp

@[simp] theorem Device.trigMessage_regs (m : TrigMsg) (t : Nat) (d : Device) : (d.trigMessage m t).regs = d.regs :=
  Device.regs_of_inner (by simp)

@[simp] theorem Device.sendTriggers_regs (t : Nat) (d : Device) : (d.sendTriggers t).regs = d.regs := Device.regs_of_inner (by simp)

@[simp] theorem Device.forceAt_regs (u : Nat) (x : UnitCfg) (t : Nat) (d : Device) : (d.forceAt u x t).regs = d.regs := by
  simp [Device.forceAt]

@[simp] theorem trigForce_regs : LeavesRegs trigForce := .sizedTo fun r d => by
  dsimp only [require]
  repeat' split
  all_goals simp

@[simp] theorem trigQuery_regs : LeavesRegs trigQuery := .sizedTo fun r d => by
  dsimp only [require]
  repeat' split
  all_goals simp

/-! ### The Bell -/

@[simp] theorem Device.ringAt_regs (x : BellDue) (d : Device) : (d.ringAt x).regs = d.regs := Device.regs_of_inner (by simp)
@[simp] theorem Device.endSched_regs (x : BellSched) (d : Device) : (d.endSched x).regs = d.regs := by simp [Device.endSched]
@[simp] theorem Device.boundaryScheds_regs (b : Nat) (d : Device) : (d.boundaryScheds b).regs = d.regs := by simp [Device.boundaryScheds]

@[simp] theorem bellSchedule_regs : LeavesRegs bellSchedule := .sizedTo fun r d => by
  simp only [require]
  split
  · refine acceptLong_keeps r d fun e => ?_
    split
    · simp
    · split <;> simp
  · rfl

/-! ### Points and their streams -/

@[simp] theorem Device.holdNulls_regs (n b : Nat) (d : Device) : (d.holdNulls n b).regs = d.regs := by simp [Device.holdNulls]
@[simp] theorem Device.shut_regs (s : Nat) (d : Device) : (d.shut s).regs = d.regs := Device.regs_of_inner (by simp)
@[simp] theorem Device.cutAfter_regs (s next : Nat) (d : Device) : (d.cutAfter s next).regs = d.regs := Device.regs_of_inner (by simp)

@[simp] theorem Device.appendElem_regs (s t ready : Nat) (flags : BitVec 14) (bytes : List Byte) (d : Device) :
    (d.appendElem s t ready flags bytes).regs = d.regs := Device.regs_of_inner (by simp)

@[simp] theorem Device.tallySample_regs (p t ready ts : Nat) (fresh : Bool) (e : F32) (flags : BitVec 14) (d : Device) :
    (d.tallySample p t ready ts fresh e flags).regs = d.regs := Device.regs_of_inner (by simp)

@[simp] theorem Device.aoutReach_regs (t : Nat) (d : Device) : (d.aoutReach t).regs = d.regs := Device.regs_of_inner (by simp)

@[simp] theorem Device.aoutSample_regs (p t ready : Nat) (e : F32) (flags : BitVec 14) (d : Device) :
    (d.aoutSample p t ready e flags).regs = d.regs := Device.regs_of_inner (by simp)

@[simp] theorem Device.aoutSafe_regs (a code : Nat) (d : Device) : (d.aoutSafe a code).regs = d.regs := rfl
@[simp] theorem Device.settleAouts_regs (d : Device) : d.settleAouts.regs = d.regs := by simp [Device.settleAouts]

@[simp] theorem Device.calSample_regs (p t lpf : Nat) (z : Cplx) (flags : BitVec 14) (d : Device) :
    (d.calSample p t lpf z flags).regs = d.regs := by
  unfold Device.calSample
  repeat' split
  all_goals simp

/-! ### Mill jobs -/

@[simp] theorem Device.endRun_regs (i stop : Nat) (d : Device) : (d.endRun i stop).regs = d.regs := by simp [Device.endRun]

@[simp] theorem Device.feedJob_regs (i : Nat) (x : MillSample) (d : Device) : (d.feedJob i x).regs = d.regs := by
  unfold Device.feedJob
  dsimp only
  repeat' split
  all_goals simp

@[simp] theorem Device.toMill_regs (kind src : Nat) (x : MillSample) (d : Device) : (d.toMill kind src x).regs = d.regs := by
  simp [Device.toMill]

@[simp] theorem Device.pointToMill_regs (p : Nat) (x : MillSample) (d : Device) : (d.pointToMill p x).regs = d.regs := by
  simp [Device.pointToMill]

@[simp] theorem Device.beginRun_regs (i b : Nat) (j : JobCfg) (d : Device) : (d.beginRun i b j).regs = d.regs := by simp [Device.beginRun]

/-! ### Samples -/

@[simp] theorem Device.pointSample_regs (x : PointIn) (d : Device) : (d.pointSample x).regs = d.regs := by simp [Device.pointSample]

@[simp] theorem Device.rangeNews_regs (n t since : Nat) (o : CombOut) (clip : Bool) (flags : BitVec 14) (d : Device) :
    (d.rangeNews n t since o clip flags).regs = d.regs := by simp [Device.rangeNews]

@[simp] theorem Device.wideConsume_regs (n t : Nat) (y : WideOut) (flags : BitVec 14) (d : Device) :
    (d.wideConsume n t y flags).regs = d.regs := by simp [Device.wideConsume]

@[simp] theorem Device.wideSample_regs (x : WideIn) (t : Nat) (d : Device) : (d.wideSample x t).regs = d.regs := by simp [Device.wideSample]
@[simp] theorem Device.watch_regs (n t : Nat) (d : Device) : (d.watch n t).regs = d.regs := by simp [Device.watch]
@[simp] theorem Device.watchAll_regs (l : List Nat) (t : Nat) (d : Device) : (d.watchAll l t).regs = d.regs := by simp [Device.watchAll]

@[simp] theorem Device.overload_regs (n : Nat) (p : PathId) (t : Nat) (d : Device) : (d.overload n p t).regs = d.regs := by
  simp [Device.overload]

@[simp] theorem Device.recover_regs (n : Nat) (p : PathId) (t : Nat) (d : Device) : (d.recover n p t).regs = d.regs := by
  simp [Device.recover]

@[simp] theorem Device.gainChange_regs (n : Nat) (x : PathId) (b old : Nat) (d : Device) : (d.gainChange n x b old).regs = d.regs := rfl
@[simp] theorem Device.gainSwitch_regs (n : Nat) (d : Device) : (d.gainSwitch n).regs = d.regs := rfl

@[simp] theorem Device.gainReady_regs (n t : Nat) (found : Option (F64 × F64)) (d : Device) : (d.gainReady n t found).regs = d.regs := by
  simp [Device.gainReady]

@[simp] theorem Device.forceGain_regs (n now : Nat) (d : Device) : (d.forceGain n now).regs = d.regs := by
  unfold Device.forceGain
  split <;> simp

@[simp] theorem Device.forceGains_regs (now : Nat) (d : Device) : (d.forceGains now).regs = d.regs := by simp [Device.forceGains]

/-! ### Gain, starts and stops -/

@[simp] theorem Device.setPoints_regs (l : List Nat) (f : Nat → PointRun → PointRun) (d : Device) : (d.setPoints l f).regs = d.regs := by
  simp [Device.setPoints]

@[simp] theorem Device.startChan_regs (n b : Nat) (d : Device) : (d.startChan n b).regs = d.regs := by simp [Device.startChan]

@[simp] theorem Device.restartChan_regs (n b : Nat) (old : Cfg) (d : Device) : (d.restartChan n b old).regs = d.regs := by
  simp [Device.restartChan]

@[simp] theorem Device.stopChan_regs (n b : Nat) (old : Cfg) (d : Device) : (d.stopChan n b old).regs = d.regs := by simp [Device.stopChan]

@[simp] theorem Device.movePoints_regs (n b : Nat) (old : Cfg) (d : Device) : (d.movePoints n b old).regs = d.regs := by
  simp [Device.movePoints]

@[simp] theorem Device.changeNswap_regs (n b : Nat) (d : Device) : (d.changeNswap n b).regs = d.regs := by
  unfold Device.changeNswap
  dsimp only
  repeat' split
  all_goals simp

@[simp] theorem Device.setSwap_regs (n t : Nat) (d : Device) : (d.setSwap n t).regs = d.regs := by
  unfold Device.setSwap
  split <;> rfl

@[simp] theorem Device.releaseChan_regs (n : Nat) (d : Device) : (d.releaseChan n).regs = d.regs := by simp [Device.releaseChan]
@[simp] theorem Device.setLimit_regs (g t : Nat) (on : Bool) (d : Device) : (d.setLimit g t on).regs = d.regs := by simp [Device.setLimit]

/-! ### The Shepherd -/

@[simp] theorem Device.raiseShep_regs (n : Nat) (bits : BitVec 24) (d : Device) : (d.raiseShep n bits).regs = d.regs := by
  simp [Device.raiseShep]

@[simp] theorem Device.closeEpisodes_regs (n t : Nat) (d : Device) : (d.closeEpisodes n t).regs = d.regs := by simp [Device.closeEpisodes]

@[simp] theorem Device.abandonCheck_regs (g t : Nat) (d : Device) : (d.abandonCheck g t).regs = d.regs := by
  unfold Device.abandonCheck
  split <;> simp

@[simp] theorem Device.urgentCheck_regs (g td : Nat) (d : Device) : (d.urgentCheck g td).regs = d.regs := by
  unfold Device.urgentCheck
  split <;> simp

@[simp] theorem Device.fastDetect_regs (n : Nat) (x : Detector) (td : Nat) (d : Device) : (d.fastDetect n x td).regs = d.regs := by
  simp [Device.fastDetect]

@[simp] theorem Device.urgentAfter_regs (g t : Nat) (d : Device) : (d.urgentAfter g t).regs = d.regs := by
  unfold Device.urgentAfter
  split <;> simp

@[simp] theorem Device.releaseDetector_regs (n : Nat) (x : Detector) (t : Nat) (d : Device) : (d.releaseDetector n x t).regs = d.regs := by
  simp [Device.releaseDetector]

@[simp] theorem Device.beginCheck_regs (g b : Nat) (urgent : Bool) (d : Device) : (d.beginCheck g b urgent).regs = d.regs := by
  simp [Device.beginCheck]

@[simp] theorem Device.startChecks_regs (b : Nat) (d : Device) : (d.startChecks b).regs = d.regs := by simp [Device.startChecks]

@[simp] theorem Device.checkPhase_regs (g : Nat) (c : Check) (ms : List PhaseMeas) (d : Device) : (d.checkPhase g c ms).regs = d.regs := by
  dsimp only [Device.checkPhase]
  refine (forList_regs _ (fun x d => ?_) _).trans (by simp)
  split <;> simp

@[simp] theorem Device.classifyChan_regs (b n : Nat) (d : Device) : (d.classifyChan b n).regs = d.regs := by simp [Device.classifyChan]

@[simp] theorem Device.classifyGroup_regs (g : Nat) (c : Check) (d : Device) : (d.classifyGroup g c).regs = d.regs := by
  simp [Device.classifyGroup]

@[simp] theorem Device.stopChecks_regs (b : Nat) (d : Device) : (d.stopChecks b).regs = d.regs := by simp [Device.stopChecks]

@[simp] theorem Device.disturbGroup_regs (g b : Nat) (d : Device) : (d.disturbGroup g b).regs = d.regs := by
  unfold Device.disturbGroup
  split <;> simp

@[simp] theorem Device.baselineAction_regs (n action b : Nat) (base : List F32) (d : Device) :
    (d.baselineAction n action b base).regs = d.regs := rfl

/-! ### Queries -/

@[simp] theorem chanQuery_regs : LeavesRegs chanQuery := .sizedTo fun _ _ => by simp
@[simp] theorem pointQuery_regs : LeavesRegs pointQuery := .sizedTo fun _ _ => by simp

@[simp] theorem carrierPlanCheck_regs : LeavesRegs carrierPlanCheck := .sizedTo fun r d => by
  dsimp only [require]
  repeat' split
  all_goals simp

@[simp] theorem linQuery_regs : LeavesRegs linQuery := .sizedTo fun _ _ => by simp
@[simp] theorem streamQuery_regs : LeavesRegs streamQuery := .sizedTo fun _ _ => by simp
@[simp] theorem ledgerRead_regs : LeavesRegs ledgerRead := .sizedTo fun _ _ => by simp
@[simp] theorem modeQuery_regs : LeavesRegs modeQuery := .sizedTo fun _ _ => rfl
@[simp] theorem supplyQuery_regs : LeavesRegs supplyQuery := .sizedTo fun _ _ => rfl
@[simp] theorem fwQuery_regs : LeavesRegs fwQuery := .sizedTo fun _ _ => rfl

/-! ### The store and calibration -/

@[simp] theorem Device.startWrite_regs (d : Device) : d.startWrite.regs = d.regs := by
  unfold Device.startWrite
  split <;> simp

@[simp] theorem Device.addWrite_regs (w : StoreWrite) (d : Device) : (d.addWrite w).regs = d.regs := by simp [Device.addWrite]
@[simp] theorem Device.persistReject_regs (d : Device) : d.persistReject.regs = d.regs := by simp [Device.persistReject]
@[simp] theorem Device.reject_regs (f : CalFail) (d : Device) : (d.reject f).regs = d.regs := by simp [Device.reject]
@[simp] theorem Device.writeDone_regs (w : StoreWrite) (d : Device) : (d.writeDone w).regs = d.regs := by simp [Device.writeDone]

@[simp] theorem Device.abandonWrite_regs (w : StoreWrite) (d : Device) : (d.abandonWrite w).regs = d.regs := by
  unfold Device.abandonWrite
  split <;> simp

@[simp] theorem Device.findBegun_regs (d : Device) : d.findBegun.regs = d.regs := by
  unfold Device.findBegun
  split <;> simp

@[simp] theorem Device.warnWrites_regs (d : Device) : d.warnWrites.regs = d.regs := by simp [Device.warnWrites]
@[simp] theorem linPersist_regs : LeavesRegs linPersist := .sizedTo fun _ _ => by simp
@[simp] theorem calBegin_regs : LeavesRegs calBegin := .sizedTo fun _ _ => by simp

@[simp] theorem calPoint_regs : LeavesRegs calPoint := fun r d => by
  dsimp only [calPoint, require]
  repeat' split
  all_goals simp

@[simp] theorem Device.measureDone_regs (c : Cal) (level : Nat) (d : Device) : (d.measureDone c level).regs = d.regs := by
  unfold Device.measureDone
  dsimp only
  split <;> simp

@[simp] theorem rejectAnswer_regs (f : CalFail) (d : Device) : (rejectAnswer f d).2.regs = d.regs := by simp [rejectAnswer]

@[simp] theorem calCommit_regs : LeavesRegs calCommit := .sizedTo fun r d => by
  dsimp only [require]
  repeat' split
  all_goals simp

@[simp] theorem Device.abortCal_regs (d : Device) : d.abortCal.regs = d.regs := by
  unfold Device.abortCal
  split <;> simp

@[simp] theorem Device.dropCal_regs (d : Device) : d.dropCal.regs = d.regs := by simp [Device.dropCal]

@[simp] theorem calAbort_regs : LeavesRegs calAbort := .sizedTo fun r d => by
  split
  · split <;> simp
  · rfl

/-! ### The data port -/

@[simp] theorem Device.dlWrite_regs (w : Word) (d : Device) : (d.dlWrite w).regs = d.regs := by simp [Device.dlWrite]

@[simp] theorem Device.dropReady_regs (keep : ReadyCart → Bool) (d : Device) : (d.dropReady keep).regs = d.regs :=
  Device.regs_of_inner (by simp)

@[simp] theorem Device.failLane_regs (lane : Nat) (d : Device) : (d.failLane lane).regs = d.regs := Device.regs_of_inner (by simp)
@[simp] theorem Device.marker_regs (d : Device) : d.marker.regs = d.regs := Device.regs_of_inner (by simp)
@[simp] theorem Device.health_regs (h : Health) (t : Nat) (d : Device) : (d.health h t).regs = d.regs := Device.regs_of_inner (by simp)
@[simp] theorem Device.badFrame_regs (d : Device) : d.badFrame.regs = d.regs := rfl
@[simp] theorem Device.sendPort_regs (d : Device) : d.sendPort.regs = d.regs := Device.regs_of_inner (by simp)

@[simp] theorem Device.sendCart_regs (dest : Nat) (a : RouteAns) (c : Cart) (d : Device) : (d.sendCart dest a c).regs = d.regs :=
  Device.regs_of_inner (by simp)

@[simp] theorem Device.sendFabric_regs (d : Device) : d.sendFabric.regs = d.regs := Device.regs_of_inner (by simp)
@[simp] theorem Device.pumpTo_regs (t : Nat) (d : Device) : (d.pumpTo t).regs = d.regs := by simp [Device.pumpTo]

/-! ### Time, clock and synthesizers -/

@[simp] theorem Device.shift_locks (s : Nat) (delta : Int) (d : Device) : (d.shift s delta).regs.locks = d.regs.locks := rfl
@[simp] theorem Device.markDisc_regs (t : Nat) (d : Device) : (d.markDisc t).regs = d.regs := rfl
@[simp] theorem Device.setDisc_regs (st : Disc) (d : Device) : (d.setDisc st).regs = d.regs := rfl
@[simp] theorem Device.startSlew_regs (x : Int) (d : Device) : (d.startSlew x).regs = d.regs := by simp [Device.startSlew]

@[simp] theorem Device.applyPolicy_regs (x : Int) (d : Device) : (d.applyPolicy x).regs = d.regs := by
  unfold Device.applyPolicy
  repeat' split
  all_goals simp

@[simp] theorem Device.returnRef_regs (x : Int) (event : Bool) (d : Device) : (d.returnRef x event).regs = d.regs := by
  simp [Device.returnRef]

@[simp] theorem Device.holdover_regs (d : Device) : d.holdover.regs = d.regs := rfl
@[simp] theorem Device.switchTo_regs (x : SynId) (t : Nat) (d : Device) : (d.switchTo x t).regs = d.regs := by simp [Device.switchTo]
@[simp] theorem Device.abandonChange_regs (d : Device) : d.abandonChange.regs = d.regs := by simp [Device.abandonChange]
@[simp] theorem Device.coast_regs (t : Nat) (d : Device) : (d.coast t).regs = d.regs := by simp [Device.coast]
@[simp] theorem Device.endCoast_regs (t : Nat) (d : Device) : (d.endCoast t).regs = d.regs := by simp [Device.endCoast]
@[simp] theorem Device.bootNext_regs (x : SynId) (d : Device) : (d.bootNext x).regs = d.regs := by simp [Device.bootNext]
@[simp] theorem Device.loseLock_regs (x : SynId) (t : Nat) (d : Device) : (d.loseLock x t).regs = d.regs := by simp [Device.loseLock]
@[simp] theorem Device.synReady_regs (x : SynId) (t : Nat) (d : Device) : (d.synReady x t).regs = d.regs := by simp [Device.synReady]

@[simp] theorem Device.endSearch_regs (x : SynId) (steps : List Nat) (count : Nat) (d : Device) :
    (d.endSearch x steps count).regs = d.regs := by
  simp [Device.endSearch]

@[simp] theorem Device.window_locked_regs (x : SynId) (word : BitVec 64) (good bad : Bool) (d : Device) :
    (Device.window.locked x word good bad d).regs = d.regs := by
  simp [Device.window.locked]

@[simp] theorem Device.window_regs (x : SynId) (err : Int) (word : BitVec 64) (d : Device) : (d.window x err word).regs = d.regs := by
  unfold Device.window
  dsimp only
  split <;> simp

@[simp] theorem Device.baseAbsent_regs (d : Device) : d.baseAbsent.regs = d.regs := by simp [Device.baseAbsent]

@[simp] theorem Device.sourceEdge_regs (t64 : Nat) (steer : Int) (d : Device) : (d.sourceEdge t64 steer).regs = d.regs := by
  unfold Device.sourceEdge
  split <;> simp

@[simp] theorem Device.refEdge_regs (pps : Bool) (t64 : Nat) (steer : Int) (d : Device) : (d.refEdge pps t64 steer).regs = d.regs := by
  simp [Device.refEdge]

@[simp] theorem Device.refLost_regs (d : Device) : d.refLost.regs = d.regs := by simp [Device.refLost]
@[simp] theorem Device.endSlew_regs (d : Device) : d.endSlew.regs = d.regs := by simp [Device.endSlew]
@[simp] theorem Device.shutAll_regs (d : Device) : d.shutAll.regs = d.regs := by simp [Device.shutAll]

@[simp] theorem Device.afterStep_regs (kind : Nat) (rest : Int) (d : Device) : (d.afterStep kind rest).regs = d.regs := by
  simp [Device.afterStep]

@[simp] theorem Device.step_locks (x : StepDue) (d : Device) : (d.step_ x).regs.locks = d.regs.locks := by
  simp [Device.step_]

@[simp] theorem timeSet_regs : LeavesRegs timeSet := .sizedTo fun r d => by
  refine require_regs _ _ _ ?_
  split
  · refine require_regs _ _ _ (require_regs _ _ _ ?_)
    simp
  · split
    · rfl
    · refine require_regs _ _ _ (require_regs _ _ _ ?_)
      simp

@[simp] theorem timeQuery_regs : LeavesRegs timeQuery := .sizedTo fun _ _ => rfl
@[simp] theorem Device.changeMult_regs (m : Nat) (d : Device) : (d.changeMult m).regs = d.regs := by simp [Device.changeMult]
@[simp] theorem clockConfig_regs : LeavesRegs clockConfig := .sizedTo fun _ _ => by simp

@[simp] theorem Device.takeSource_regs (d : Device) : d.takeSource.regs = d.regs := by
  unfold Device.takeSource
  split <;> rfl

@[simp] theorem clockQuery_regs : LeavesRegs clockQuery := .sizedTo fun _ _ => rfl

@[simp] theorem Device.setPolicy_regs (f policy : Nat) (rate : F32) (jump : Nat) (d : Device) :
    (d.setPolicy f policy rate jump).regs = d.regs := by simp [Device.setPolicy]

@[simp] theorem holdoverPolicy_regs : LeavesRegs holdoverPolicy := .sizedTo fun r d => by
  refine require_regs _ _ _ ?_
  split
  · simp
  · refine require_regs _ _ _ ?_
    split
    · rfl
    · refine require_regs _ _ _ ?_
      simp

/-! ### The fabric -/

@[simp] theorem Device.refreshWith_regs (known : List FabLink) (d : Device) : (d.refreshWith known).regs = d.regs := by
  simp [Device.refreshWith]

@[simp] theorem Device.refreshOwn_regs (d : Device) : d.refreshOwn.regs = d.regs := rfl

@[simp] theorem Device.closeFabricSessions_regs (gone : Nat → Bool) (d : Device) : (d.closeFabricSessions gone).regs = d.regs := by
  simp [Device.closeFabricSessions]

@[simp] theorem Device.partnersLeft_regs (gone : List Nat) (d : Device) : (d.partnersLeft gone).regs = d.regs := by
  simp [Device.partnersLeft]

@[simp] theorem Device.dropSilent_regs (d : Device) : d.dropSilent.regs = d.regs := by simp [Device.dropSilent]
@[simp] theorem Device.dropUnlinked_regs (d : Device) : d.dropUnlinked.regs = d.regs := by simp [Device.dropUnlinked]
@[simp] theorem Device.takeAddress_regs (a : Nat) (d : Device) : (d.takeAddress a).regs = d.regs := by simp [Device.takeAddress]

@[simp] theorem Device.assign_regs (uid : BitVec 64) (pref : Nat) (d : Device) : (d.assign uid pref).regs = d.regs := by
  unfold Device.assign
  dsimp only
  repeat' split
  all_goals simp

@[simp] theorem Device.orphanTime_regs (d : Device) : d.orphanTime.regs = d.regs := by simp [Device.orphanTime]
@[simp] theorem Device.leaveBellringer_regs (d : Device) : d.leaveBellringer.regs = d.regs := rfl
@[simp] theorem Device.becomeBellringer_regs (d : Device) : d.becomeBellringer.regs = d.regs := by simp [Device.becomeBellringer]

@[simp] theorem Device.elect_regs (d : Device) : d.elect.regs = d.regs := by
  unfold Device.elect
  dsimp only
  split <;> simp

@[simp] theorem Device.membership_regs (b : BeaconIn) (d : Device) : (d.membership b).regs = d.regs := by simp [Device.membership]

@[simp] theorem Device.bellringerTime_regs (b : BeaconIn) (d : Device) : (d.bellringerTime b).regs = d.regs := by
  simp [Device.bellringerTime]

@[simp] theorem Device.beaconIn_regs (port : Nat) (b : BeaconIn) (d : Device) : (d.beaconIn port b).regs = d.regs := by
  simp [Device.beaconIn]

@[simp] theorem Device.sendHello_regs (k : Nat) (d : Device) : (d.sendHello k).regs = d.regs := rfl
@[simp] theorem Device.portDown_regs (k : Nat) (d : Device) : (d.portDown k).regs = d.regs := by simp [Device.portDown]
@[simp] theorem Device.acquireFabric_regs (x : Int) (d : Device) : (d.acquireFabric x).regs = d.regs := by simp [Device.acquireFabric]

@[simp] theorem Device.parentBack_regs (x : Int) (d : Device) : (d.parentBack x).regs = d.regs := by
  unfold Device.parentBack
  repeat' split
  all_goals simp

@[simp] theorem Device.fabricEdge_regs (x steer : Int) (d : Device) : (d.fabricEdge x steer).regs = d.regs := by
  unfold Device.fabricEdge
  split <;> simp

@[simp] theorem Device.exchange_regs (port : Nat) (t1 t2 t3 t4 steer : Int) (d : Device) :
    (d.exchange port t1 t2 t3 t4 steer).regs = d.regs := by
  simp [Device.exchange]

@[simp] theorem Device.replyDelay_regs (port : Nat) (t1 t2 t3 : Int) (d : Device) : (d.replyDelay port t1 t2 t3).regs = d.regs := rfl
@[simp] theorem Device.fabricTimeEnd_regs (e : Nat) (d : Device) : (d.fabricTimeEnd e).regs = d.regs := by simp [Device.fabricTimeEnd]
@[simp] theorem Device.sendBeacons_regs (d : Device) : d.sendBeacons.regs = d.regs := by simp [Device.sendBeacons]
@[simp] theorem Device.askAddress_regs (d : Device) : d.askAddress.regs = d.regs := by simp [Device.askAddress]
@[simp] theorem Device.tell_regs (x : OutFrame) (d : Device) : (d.tell x).regs = d.regs := Device.regs_of_inner (by simp)
@[simp] theorem Device.nextAsk_regs (d : Device) : d.nextAsk.2.regs = d.regs := Device.regs_of_inner (by simp)
@[simp] theorem Device.tellAgain_regs (d : Device) : d.tellAgain.regs = d.regs := Device.regs_of_inner (by simp)

/-! ### `BELL_CTL` and completions -/

@[simp] theorem Device.bellCtlWrite_regs (a : Access) (d : Device) : (d.bellCtlWrite a).regs = d.regs := by simp [Device.bellCtlWrite]

@[simp] theorem State.placeCompletion_regs (id : Nat) (s : State) : (s.placeCompletion id).dev.regs = s.dev.regs := by
  unfold State.placeCompletion
  repeat' split
  all_goals simp

/-! ### Traffic of the Commons -/

@[simp] theorem Device.passOn_regs (frame : List Byte) (k : Nat) (d : Device) : (d.passOn frame k).regs = d.regs := rfl

@[simp] theorem Device.forwardFrame_regs (port : Nat) (frame : List Byte) (d : Device) : (d.forwardFrame port frame).regs = d.regs := by
  unfold Device.forwardFrame
  dsimp only
  repeat' split
  all_goals simp

@[simp] theorem fabricStatus_regs : LeavesRegs fabricStatus := .sizedTo fun _ _ => rfl
@[simp] theorem fabricPolicy_regs : LeavesRegs fabricPolicy := .sizedTo fun _ _ => by simp

@[simp] theorem fabricRouteQuery_regs : LeavesRegs fabricRouteQuery := .sizedTo fun r d => by
  dsimp only [require]
  repeat' split
  all_goals simp

@[simp] theorem fabricForward_regs : LeavesRegs fabricForward := fun r d => by
  dsimp only [fabricForward, require]
  split <;> simp

theorem Device.takeForward_regs {peer : Nat} {tag : Word} {d e : Device} {f : Forward} (h : d.takeForward peer tag = some (f, e)) :
    e.regs = d.regs := by
  obtain ⟨g, -, hg⟩ := Option.map_eq_some_iff.1 h
  cases hg
  rfl

@[simp] theorem Device.setReservations_regs (rs : List Reservation) (d : Device) : (d.setReservations rs).regs = d.regs := by
  simp [Device.setReservations]

@[simp] theorem Device.toBackup_regs (x : Route) (d : Device) : (d.toBackup x).regs = d.regs := by simp [Device.toBackup]
@[simp] theorem Device.routeFailed_regs (h : Hop) (d : Device) : (d.routeFailed h).regs = d.regs := by simp [Device.routeFailed]
@[simp] theorem Device.portLost_regs (k : Nat) (d : Device) : (d.portLost k).regs = d.regs := by simp [Device.portLost]
@[simp] theorem Device.reroute_regs (d : Device) : d.reroute.regs = d.regs := by simp [Device.reroute]
@[simp] theorem Device.routesBoundary_regs (d : Device) : d.routesBoundary.regs = d.regs := by simp [Device.routesBoundary]
@[simp] theorem Device.crcEnd_regs (k : Nat) (d : Device) : (d.crcEnd k).regs = d.regs := by simp [Device.crcEnd]

@[simp] theorem Device.takePolicy_regs (d : Device) : d.takePolicy.regs = d.regs := by
  unfold Device.takePolicy
  split <;> simp

@[simp] theorem Device.fabricBoundary_regs (e : Nat) (d : Device) : (d.fabricBoundary e).regs = d.regs := by simp [Device.fabricBoundary]
@[simp] theorem Device.cartHere_regs (c : Cart) (t : Nat) (d : Device) : (d.cartHere c t).regs = d.regs := by simp [Device.cartHere]

@[simp] theorem Device.cartOn_regs (c : Cart) (dest route : Nat) (hops : List Hop) (d : Device) :
    (d.cartOn c dest route hops).regs = d.regs := by
  unfold Device.cartOn
  split <;> simp

/-! ### Staging commands -/

theorem stageAll_regs (check : Device → List Item → Option (BitVec 16 × Option (List Byte))) (xs : List Staged) :
    LeavesRegs (stageAll check xs) := fun r d => by
  unfold stageAll
  split <;> simp

theorem stageFixed_regs (size : Nat) (read : List Byte → Option Item)
    (check : Device → List Item → Option (BitVec 16 × Option (List Byte))) (most : Nat) :
    LeavesRegs (stageFixed size read check most) := fun r d => by
  unfold stageFixed
  dsimp only
  split
  · rfl
  · exact stageAll_regs _ _ r d

@[simp] theorem chanConfig_regs : LeavesRegs chanConfig := stageFixed_regs _ _ _ _
@[simp] theorem chanEnable_regs : LeavesRegs chanEnable := stageFixed_regs _ _ _ _
@[simp] theorem pointConfig_regs : LeavesRegs pointConfig := stageFixed_regs _ _ _ _
@[simp] theorem streamConfig_regs : LeavesRegs streamConfig := stageFixed_regs _ _ _ _
@[simp] theorem regionConfig_regs : LeavesRegs regionConfig := stageFixed_regs _ _ _ _
@[simp] theorem tallyConfig_regs : LeavesRegs tallyConfig := stageFixed_regs _ _ _ _
@[simp] theorem aoutConfig_regs : LeavesRegs aoutConfig := stageFixed_regs _ _ _ _
@[simp] theorem densityConfig_regs : LeavesRegs densityConfig := stageFixed_regs _ _ _ _
@[simp] theorem trigConfig_regs : LeavesRegs trigConfig := stageFixed_regs _ _ _ _
@[simp] theorem shepherdConfig_regs : LeavesRegs shepherdConfig := stageFixed_regs _ _ _ _
@[simp] theorem linLoad_regs : LeavesRegs linLoad := stageFixed_regs _ _ _ _

@[simp] theorem millConfig_regs : LeavesRegs millConfig := fun r d => by
  unfold millConfig
  split
  · exact stageAll_regs _ _ r d
  · rfl

/-! ### Commits -/

@[simp] theorem Device.setDeciding_regs (x : Option Deciding) (d : Device) : (d.setDeciding x).regs = d.regs := rfl

@[simp] theorem Device.refuseCommit_regs (t : Txn) (r : Refused) (x : Deciding) (d : Device) : (d.refuseCommit t r x).regs = d.regs := by
  unfold Device.refuseCommit
  split <;> simp

@[simp] theorem Device.cancelAsk_regs (key : Nat) (d : Device) : (d.cancelAsk key).regs = d.regs := by simp [Device.cancelAsk]

@[simp] theorem Device.moveAsk_regs (key : Nat) (effect : Option Nat) (d : Device) : (d.moveAsk key effect).regs = d.regs := by
  simp [Device.moveAsk]

@[simp] theorem Device.dropComing_regs (coord : Option Nat) (id : Nat) (d : Device) : (d.dropComing coord id).regs = d.regs := by
  simp [Device.dropComing]

@[simp] theorem Device.moveComing_regs (coord : Option Nat) (id : Nat) (effect : Option Nat) (d : Device) :
    (d.moveComing coord id effect).regs = d.regs := by simp [Device.moveComing]

@[simp] theorem Device.abortCommit_regs (t : Txn) (st : BitVec 16) (missing : Part → BitVec 16) (d : Device) :
    (d.abortCommit t st missing).regs = d.regs := by
  unfold Device.abortCommit
  split <;> simp

@[simp] theorem Device.acceptCommit_regs (t : Txn) (cfg : Cfg) (x : Deciding) (d : Device) : (d.acceptCommit t cfg x).regs = d.regs := by
  unfold Device.acceptCommit
  cases t.coord with
  | some c => simp
  | none => cases t.waiter <;> simp

@[simp] theorem Device.decideHead_regs (x : Deciding) (key : Option Nat × Nat) (rest : List (Option Nat × Nat)) (d : Device) :
    (d.decideHead x key rest).regs = d.regs := by
  unfold Device.decideHead
  dsimp only
  repeat' split
  all_goals simp

@[simp] theorem Device.decideOn_regs (n : Nat) (d : Device) : (d.decideOn n).regs = d.regs := by
  induction n generalizing d with
  | zero => rfl
  | succ n ih =>
    unfold Device.decideOn
    split
    · rfl
    · split
      · rw [ih, Device.decideHead_regs]
      · rfl

@[simp] theorem Device.recordClosed_regs (l : List Txn) (d : Device) : (d.recordClosed l).regs = d.regs := by simp [Device.recordClosed]

@[simp] theorem Device.addBatch_regs (e : Nat) (cfg : Cfg) (items : List Item) (txns : List (Option Nat × Nat)) (cal : Bool) (d : Device) :
    (d.addBatch e cfg items txns cal).regs = d.regs := by simp [Device.addBatch]

@[simp] theorem Device.endDeciding_regs (x : Deciding) (d : Device) : (d.endDeciding x).regs = d.regs := by simp [Device.endDeciding]

@[simp] theorem State.writeAnswers_regs (l : List (Waiter × BitVec 16 × List Byte × Nat)) (s : State) :
    (s.writeAnswers l).dev.regs = s.dev.regs := by simp [State.writeAnswers]

@[simp] theorem State.decideBatch_regs (s : State) : s.decideBatch.dev.regs = s.dev.regs := by
  unfold State.decideBatch
  dsimp only
  split <;> simp

@[simp] theorem State.reserveTimeout_regs (s : State) : s.reserveTimeout.dev.regs = s.dev.regs := by
  unfold State.reserveTimeout
  repeat' split
  all_goals simp

@[simp] theorem State.takeCommit_regs (s : State) : s.takeCommit.dev.regs = s.dev.regs := by
  unfold State.takeCommit
  dsimp only
  split
  · exact State.execute_regs txnCommit_regs _ s
  · split
    · simp [State.executeFrame_regs txnCommit_regs]
    · rfl

@[simp] theorem State.takeCommits_regs (s : State) : s.takeCommits.dev.regs = s.dev.regs := by
  simp [State.takeCommits]

@[simp] theorem State.boundaryBatch_regs (s : State) : s.boundaryBatch.dev.regs = s.dev.regs := by
  simp [State.boundaryBatch]

@[simp] theorem State.routeAnswer_regs (r : ReserveReply) (s : State) : (s.routeAnswer r).dev.regs = s.dev.regs := by
  unfold State.routeAnswer
  dsimp only
  repeat' split
  all_goals simp

@[simp] theorem Device.told_regs (p : OutFrame → Bool) (d : Device) : (d.told p).regs = d.regs := rfl

@[simp] theorem State.reserveAnswer_regs (r : ReserveReply) (s : State) : (s.reserveAnswer r).dev.regs = s.dev.regs := by
  unfold State.reserveAnswer
  split <;> simp

@[simp] theorem State.answerAsk_regs (src key effect : Nat) (items : List ReserveItem) (lanes : List LaneSum) (s : State) :
    (s.answerAsk src key effect items lanes).dev.regs = s.dev.regs := by simp [State.answerAsk]

@[simp] theorem State.answerAsked_regs (s : State) : s.answerAsked.dev.regs = s.dev.regs := by
  unfold State.answerAsked
  split
  · rfl
  · refine (forList_dev_regs _ (fun x s => ?_) _).trans rfl
    obtain ⟨src, a, lanes⟩ := x
    cases a <;> simp

@[simp] theorem Device.takeReport_regs (src : Nat) (rs : List Reservation) (d : Device) : (d.takeReport src rs).regs = d.regs := by
  simp [Device.takeReport]

@[simp] theorem State.takeAsk_regs (src : Nat) (a : ReserveAsk) (lanes : List LaneSum) (s : State) :
    (s.takeAsk src a lanes).dev.regs = s.dev.regs := by
  unfold State.takeAsk
  split <;> simp

@[simp] theorem State.answerTo_regs (t : Txn) (a : Ans) (s : State) : (s.answerTo t a).dev.regs = s.dev.regs := by
  unfold State.answerTo
  split <;> simp

@[simp] theorem State.beginFails_regs (t : Txn) (st : BitVec 16) (s : State) : (s.beginFails t st).dev.regs = s.dev.regs := by
  simp [State.beginFails]

@[simp] theorem State.openReply_regs (src txn : Nat) (status : BitVec 16) (s : State) :
    (s.openReply src txn status).dev.regs = s.dev.regs := by
  unfold State.openReply
  split <;> simp

@[simp] theorem Device.takeVote_regs (src txn : Nat) (status : BitVec 16) (d : Device) : (d.takeVote src txn status).regs = d.regs := by
  unfold Device.takeVote
  split <;> simp

@[simp] theorem Device.takeAck_regs (src txn : Nat) (d : Device) : (d.takeAck src txn).regs = d.regs := by simp [Device.takeAck]

@[simp] theorem Device.answerQuery_regs (src coord txn : Nat) (d : Device) : (d.answerQuery src coord txn).regs = d.regs := by
  unfold Device.answerQuery
  dsimp only
  split <;> simp

@[simp] theorem Device.openLinked_regs (coord txn ticket : Nat) (parts : List Nat) (d : Device) :
    (d.openLinked coord txn ticket parts).regs = d.regs := by simp [Device.openLinked]

@[simp] theorem Device.takePrepare_regs (coord txn target : Nat) (d : Device) : (d.takePrepare coord txn target).regs = d.regs := by
  unfold Device.takePrepare
  split <;> simp

@[simp] theorem Device.remember_regs (coord txn : Nat) (commit closed : Bool) (d : Device) :
    (d.remember coord txn commit closed).regs = d.regs := rfl

@[simp] theorem Device.takeDecision_regs (coord txn : Nat) (commit closed : Bool) (d : Device) :
    (d.takeDecision coord txn commit closed).regs = d.regs := by
  unfold Device.takeDecision
  dsimp only
  repeat' split
  all_goals simp

@[simp] theorem State.coordinate_regs (e : Nat) (t : Txn) (s : State) : (s.coordinate e t).dev.regs = s.dev.regs := by
  simp [State.coordinate]

@[simp] theorem Device.repeatDecisions_regs (e : Nat) (d : Device) : (d.repeatDecisions e).regs = d.regs := by simp [Device.repeatDecisions]
@[simp] theorem Device.takeTags_regs (e : Nat) (d : Device) : (d.takeTags e).regs = d.regs := by simp [Device.takeTags]

@[simp] theorem Device.finishCommit_regs (e : Nat) (t : Txn) (d : Device) : (d.finishCommit e t).regs = d.regs := by
  unfold Device.finishCommit
  split <;> simp

@[simp] theorem Device.enterDoubt_regs (e : Nat) (d : Device) : (d.enterDoubt e).regs = d.regs := by simp [Device.enterDoubt]
@[simp] theorem Device.endDoubts_regs (e : Nat) (d : Device) : (d.endDoubts e).regs = d.regs := by simp [Device.endDoubts]
@[simp] theorem Device.markDoubt_regs (e : Nat) (d : Device) : (d.markDoubt e).regs = d.regs := rfl

@[simp] theorem Device.askDecisions_regs (d : Device) : d.askDecisions.regs = d.regs := by
  unfold Device.askDecisions
  refine forList_regs _ (fun x d => ?_) d
  split <;> simp

@[simp] theorem Device.postFinished_regs (e : Nat) (d : Device) : (d.postFinished e).regs = d.regs := by simp [Device.postFinished]
@[simp] theorem State.fabricTxns_regs (e : Nat) (s : State) : (s.fabricTxns e).dev.regs = s.dev.regs := by simp [State.fabricTxns]

/-! ### Mill results and density maps -/

@[simp] theorem Device.sendSnapshot_regs (m s0 : Nat) (d : Device) : (d.sendSnapshot m s0).regs = d.regs := Device.regs_of_inner (by simp)

@[simp] theorem Device.mapBoundary_regs (m : Nat) (x : MapDue) (d : Device) : (d.mapBoundary m x).regs = d.regs :=
  Device.regs_of_inner (by simp)

@[simp] theorem Device.mapSettle_regs (k m : Nat) (d : Device) : (Device.mapSettle k m d).regs = d.regs := Device.regs_of_inner (by simp)

@[simp] theorem Device.emit_regs (i : Nat) (r : JobRun) (k : Taken) (c : Cfg) (j : JobCfg) (d : Device) :
    (d.emit i r k c j).regs = d.regs :=
  Device.regs_of_inner (by simp)

@[simp] theorem Device.setRun_regs (i : Nat) (place : Option Nat) (r : JobRun) (d : Device) : (d.setRun i place r).regs = d.regs :=
  Device.regs_of_inner (by simp)

@[simp] theorem Device.replayErrors_regs (x : MillIn) (d : Device) : (d.replayErrors x).regs = d.regs := by simp [Device.replayErrors]

@[simp] theorem Device.transform_regs (x : MillIn) (n : MillNext) (c : Cfg) (j : JobCfg) (d : Device) :
    (d.transform x n c j).regs = d.regs :=
  Device.regs_of_inner (by simp)

@[simp] theorem Device.flushRun_regs (i : Nat) (place : Option Nat) (r : JobRun) (d : Device) : (d.flushRun i place r).regs = d.regs := by
  unfold Device.flushRun
  dsimp only
  repeat' split
  all_goals simp

@[simp] theorem Device.flushJob_regs (b i : Nat) (d : Device) : (d.flushJob b i).regs = d.regs := by
  simp only [Device.flushJob, Device.flushRun_regs]
  refine forNat_regs _ (fun k d => ?_) d
  split <;> simp

@[simp] theorem Device.stopRun_regs (b i : Nat) (d : Device) : (d.stopRun b i).regs = d.regs := by simp [Device.stopRun]
@[simp] theorem Device.flushJobs_regs (b : Nat) (d : Device) : (d.flushJobs b).regs = d.regs := by simp [Device.flushJobs]

@[simp] theorem Device.snapshotSent_regs (m : Nat) (d : Device) : (d.snapshotSent m).regs = d.regs := by
  unfold Device.snapshotSent
  dsimp only
  split <;> simp

@[simp] theorem millQuery_regs : LeavesRegs millQuery := .sizedTo fun r d => by
  dsimp only [require]
  repeat' split
  all_goals simp

@[simp] theorem densityRead_regs (errs : List ScrubErr) : LeavesRegs (densityRead errs) := .sizedTo fun r d => by
  dsimp only [require]
  repeat' split
  all_goals simp

/-! ### Supplies, boot and resets -/

@[simp] theorem Device.cutImage_regs (d : Device) : d.cutImage.regs = d.regs := by
  unfold Device.cutImage
  split <;> simp

/-- Every reset but a power-on reset keeps the locks (R401). -/
@[simp] theorem Device.resetDevice_locks (byResetN : Bool) (d : Device) : (d.resetDevice byResetN).regs.locks = d.regs.locks := by
  simp [Device.resetDevice, Regs.locks]

@[simp] theorem Device.activateReset_locks (d : Device) : d.activateReset.regs.locks = d.regs.locks := by
  simp [Device.activateReset]

@[simp] theorem State.resetTo_dev (d : Device) (s : State) : (s.resetTo d).dev = d := rfl
@[simp] theorem Device.setResetN_regs (low : Bool) (d : Device) : (d.setResetN low).regs = d.regs := rfl
@[simp] theorem Device.atStage_regs (n : Nat) (d : Device) : (d.atStage n).regs = d.regs := rfl
@[simp] theorem Device.bootFails_regs (d : Device) : d.bootFails.regs = d.regs := by simp [Device.bootFails]
@[simp] theorem Device.halt_regs (d : Device) : d.halt.regs = d.regs := by simp [Device.halt]
@[simp] theorem Device.stageFails_regs (d : Device) : d.stageFails.regs = d.regs := by simp [Device.stageFails]
@[simp] theorem Device.bootsBank_regs (b : Bool) (d : Device) : (d.bootsBank b).regs = d.regs := rfl
@[simp] theorem Device.verifyImages_regs (d : Device) : d.verifyImages.regs = d.regs := by simp [Device.verifyImages]
@[simp] theorem Device.loadStores_regs (d : Device) : d.loadStores.regs = d.regs := by simp [Device.loadStores]
@[simp] theorem Device.tilesUp_regs (up : Bool) (d : Device) : (d.tilesUp up).regs = d.regs := rfl

@[simp] theorem Device.raiseRollback_regs (d : Device) : d.raiseRollback.regs = d.regs := by
  unfold Device.raiseRollback
  split <;> rfl

@[simp] theorem Device.otpWork_regs (d : Device) : d.otpWork.regs = d.regs := by simp [Device.otpWork]
@[simp] theorem Device.reportBrownout_regs (d : Device) : d.reportBrownout.regs = d.regs := by simp [Device.reportBrownout]
@[simp] theorem Device.bootDone_regs (r : BootResult) (d : Device) : (d.bootDone r).regs = d.regs := by simp [Device.bootDone]

@[simp] theorem Device.bootStage_regs (r : BootResult) (d : Device) : (d.bootStage r).regs = d.regs := by
  unfold Device.bootStage
  split <;> simp

@[simp] theorem Device.abandonImage_regs (d : Device) : d.abandonImage.regs = d.regs := by
  unfold Device.abandonImage
  split <;> simp

@[simp] theorem Device.warnCal_regs (rail : Nat) (d : Device) : (d.warnCal rail).regs = d.regs := rfl
@[simp] theorem Device.warnRailIn_regs (rail : Nat) (d : Device) : (d.warnRailIn rail).regs = d.regs := by simp [Device.warnRailIn]
@[simp] theorem Device.warnRailOut_regs (rail : Nat) (d : Device) : (d.warnRailOut rail).regs = d.regs := by simp [Device.warnRailOut]

@[simp] theorem Device.acceptMode_regs (m : Mode) (e : Nat) (w : Waiter) (d : Device) : (d.acceptMode m e w).regs = d.regs := by
  simp [Device.acceptMode]

@[simp] theorem modeSet_regs : LeavesRegs modeSet := .sizedTo fun r d => by
  dsimp only [require]
  split <;> simp

@[simp] theorem hearthEnter_regs : LeavesRegs hearthEnter := .sizedTo fun _ _ => by simp

/-! ### Diagnostics and firmware -/

@[simp] theorem diagSelftest_regs : LeavesRegs diagSelftest := .sizedTo fun _ _ => by simp
@[simp] theorem diagLoopback_regs : LeavesRegs diagLoopback := .sizedTo fun _ _ => by simp

@[simp] theorem Device.loopbackEnd_regs (x : LoopRun) (bits errors : Nat) (d : Device) : (d.loopbackEnd x bits errors).regs = d.regs := by
  simp [Device.loopbackEnd]

@[simp] theorem diagLogRead_regs : LeavesRegs diagLogRead := .sizedTo fun r d => by
  dsimp only [require]
  repeat' split
  all_goals simp

@[simp] theorem Device.verified_regs (r size : Nat) (w : Waiter) (d : Device) : (d.verified r size w).regs = d.regs := by
  simp [Device.verified]

@[simp] theorem fwStage_regs : LeavesRegs fwStage := fun r d => by
  dsimp only [fwStage, require]
  split <;> simp

@[simp] theorem fwActivate_regs : LeavesRegs fwActivate := .sizedTo fun _ _ => by simp

/-! ### What an epoch boundary changes -/

@[simp] theorem Device.shutEnded_regs (b : Nat) (l : List Nat) (d : Device) : (d.shutEnded b l).regs = d.regs := by
  unfold Device.shutEnded
  refine forList_regs _ (fun x d => ?_) d
  split <;> simp

@[simp] theorem Device.cutStreams_regs (x : Swap) (d : Device) : (d.cutStreams x).regs = d.regs := by simp [Device.cutStreams]

@[simp] theorem Device.runOn_regs (n : Nat) (x : Swap) (d : Device) : (d.runOn n x).regs = d.regs := by
  unfold Device.runOn
  dsimp only
  repeat' split
  all_goals simp

@[simp] theorem Device.swapChan_regs (n : Nat) (x : Swap) (d : Device) : (d.swapChan n x).regs = d.regs := by simp [Device.swapChan]
@[simp] theorem Device.swapChans_regs (x : Swap) (d : Device) : (d.swapChans x).regs = d.regs := by simp [Device.swapChans]

@[simp] theorem Device.swapBaselines_regs (x : Swap) (d : Device) : (d.swapBaselines x).regs = d.regs := by
  unfold Device.swapBaselines
  refine forList_regs _ (fun x d => ?_) d
  split <;> simp

@[simp] theorem Device.swapUnits_regs (x : Swap) (d : Device) : (d.swapUnits x).regs = d.regs := by simp [Device.swapUnits]
@[simp] theorem Device.swapRegions_regs (x : Swap) (d : Device) : (d.swapRegions x).regs = d.regs := by simp [Device.swapRegions]
@[simp] theorem Device.swapTallies_regs (x : Swap) (d : Device) : (d.swapTallies x).regs = d.regs := by simp [Device.swapTallies]

@[simp] theorem Device.swapJob_regs (i : Nat) (x : Swap) (d : Device) : (d.swapJob i x).regs = d.regs := by
  unfold Device.swapJob
  dsimp only
  split <;> simp

@[simp] theorem Device.swapJobs_regs (x : Swap) (d : Device) : (d.swapJobs x).regs = d.regs := by simp [Device.swapJobs]

@[simp] theorem Device.swapMaps_regs (e : Nat) (ran : Bool) (x : Swap) (d : Device) : (d.swapMaps e ran x).regs = d.regs := by
  simp [Device.swapMaps]

@[simp] theorem Device.keepPast_regs (x : Swap) (tag : BitVec 16) (d : Device) : (d.keepPast x tag).regs = d.regs := rfl

@[simp] theorem Device.swapBlocks_regs (x : Swap) (tag : BitVec 16) (d : Device) : (d.swapBlocks x tag).regs = d.regs := by
  simp [Device.swapBlocks]

@[simp] theorem Device.installRoutes_regs (e : Nat) (d : Device) : (d.installRoutes e).regs = d.regs := rfl

@[simp] theorem Device.effectTxns_regs (tags : List (BitVec 16)) (d : Device) : (d.effectTxns tags).regs = d.regs := by
  simp [Device.effectTxns]

@[simp] theorem Device.calDone_regs (bs : List Batch) (d : Device) : (d.calDone bs).regs = d.regs := by simp [Device.calDone]

@[simp] theorem Device.applyBatches_regs (b e : Nat) (bs : List Batch) (d : Device) : (d.applyBatches b e bs).regs = d.regs := by
  unfold Device.applyBatches
  split <;> simp

@[simp] theorem Device.mapsRunOn_regs (e : Nat) (d : Device) : (d.mapsRunOn e).regs = d.regs := by simp [Device.mapsRunOn]
@[simp] theorem Device.haltRegion_regs (b r : Nat) (d : Device) : (d.haltRegion b r).regs = d.regs := by simp [Device.haltRegion]
@[simp] theorem Device.leaveRun_regs (b : Nat) (d : Device) : (d.leaveRun b).regs = d.regs := by simp [Device.leaveRun]
@[simp] theorem Device.enterJob_regs (b : Nat) (x : Nat × JobCfg) (d : Device) : (d.enterJob b x).regs = d.regs := by simp [Device.enterJob]
@[simp] theorem Device.enterRun_regs (b : Nat) (d : Device) : (d.enterRun b).regs = d.regs := by simp [Device.enterRun]
@[simp] theorem Device.changeMode_regs (m : Mode) (b : Nat) (d : Device) : (d.changeMode m b).regs = d.regs := by simp [Device.changeMode]
@[simp] theorem Device.discardBatches_regs (d : Device) : d.discardBatches.regs = d.regs := by simp [Device.discardBatches]
@[simp] theorem Device.cancelChanges_regs (d : Device) : d.cancelChanges.regs = d.regs := by simp [Device.cancelChanges]
@[simp] theorem Device.enterSafe_regs (b cause : Nat) (d : Device) : (d.enterSafe b cause).regs = d.regs := by simp [Device.enterSafe]
@[simp] theorem Device.safeAtOnce_regs (was : Power) (d : Device) : (d.safeAtOnce was).regs = d.regs := by simp [Device.safeAtOnce]
@[simp] theorem Device.restoreBoot_regs (b e : Nat) (d : Device) : (d.restoreBoot b e).regs = d.regs := by simp [Device.restoreBoot]

@[simp] theorem Device.leaveSafe_regs (b e : Nat) (d : Device) : (d.leaveSafe b e).regs = d.regs := by
  unfold Device.leaveSafe
  dsimp only
  split <;> simp

@[simp] theorem Device.takeMode_regs (b e : Nat) (d : Device) : (d.takeMode b e).regs = d.regs := by
  unfold Device.takeMode
  split <;> simp

@[simp] theorem Device.sleepClocks_regs (b : Nat) (d : Device) : (d.sleepClocks b).regs = d.regs := by simp [Device.sleepClocks]

@[simp] theorem Device.enterHearth_regs (b : Nat) (w : Option Waiter) (d : Device) : (d.enterHearth b w).regs = d.regs := by
  simp [Device.enterHearth]

@[simp] theorem Device.takeHearth_regs (b e : Nat) (d : Device) : (d.takeHearth b e).regs = d.regs := by
  unfold Device.takeHearth
  split <;> simp

@[simp] theorem Device.beginWake_regs (d : Device) : d.beginWake.regs = d.regs := by simp [Device.beginWake]

@[simp] theorem Device.endWake_regs (b e : Nat) (m : Mode) (w : Option Waiter) (d : Device) : (d.endWake b e m w).regs = d.regs := by
  simp [Device.endWake]

@[simp] theorem Device.takeWake_regs (b e : Nat) (d : Device) : (d.takeWake b e).regs = d.regs := by
  unfold Device.takeWake
  split <;> simp

@[simp] theorem Device.eventReport_regs (e : Nat) (d : Device) : (d.eventReport e).regs = d.regs := by simp [Device.eventReport]
@[simp] theorem Device.blocksTake_regs (lag : List Nat) (tag : BitVec 16) (d : Device) : (d.blocksTake lag tag).regs = d.regs := rfl

@[simp] theorem Device.swapStage_regs (b e : Nat) (lag : List Nat) (d : Device) : (d.swapStage b e lag).regs = d.regs := by
  unfold Device.swapStage
  dsimp only
  repeat' split
  all_goals simp

@[simp] theorem Device.compareTags_regs (e : Nat) (d : Device) : (d.compareTags e).regs = d.regs := by
  unfold Device.compareTags
  dsimp only
  repeat' split
  all_goals simp

@[simp] theorem Device.ringDue_regs (b : Nat) (d : Device) : (d.ringDue b).regs = d.regs := by simp [Device.ringDue]
@[simp] theorem Device.fireHeld_regs (b e : Nat) (d : Device) : (d.fireHeld b e).regs = d.regs := by simp [Device.fireHeld]
@[simp] theorem Device.fireTimers_regs (b e : Nat) (d : Device) : (d.fireTimers b e).regs = d.regs := by simp [Device.fireTimers]
@[simp] theorem Device.openCals_regs (b : Nat) (c : Cal) (d : Device) : (d.openCals b c).regs = d.regs := by simp [Device.openCals]
@[simp] theorem Device.closeCals_regs (b : Nat) (c : Cal) (d : Device) : (d.closeCals b c).regs = d.regs := by simp [Device.closeCals]

@[simp] theorem Device.calStage_regs (b e : Nat) (d : Device) : (d.calStage b e).regs = d.regs := by
  unfold Device.calStage
  split <;> simp

@[simp] theorem Device.checkIsolation_regs (e : Nat) (d : Device) : (d.checkIsolation e).regs = d.regs := by
  unfold Device.checkIsolation
  split <;> simp

@[simp] theorem Device.measureRef_regs (e : Nat) (x : EpochInput) (d : Device) : (d.measureRef e x).regs = d.regs := by
  simp [Device.measureRef]

@[simp] theorem Device.measureDrive_regs (e : Nat) (was : Cfg) (d : Device) : (d.measureDrive e was).regs = d.regs := by
  simp [Device.measureDrive]

@[simp] theorem Device.measurePins_regs (l : List (Nat × Nat × Nat)) (d : Device) : (d.measurePins l).regs = d.regs := by
  simp [Device.measurePins]

@[simp] theorem Device.slewChan_regs (n : Nat) (first : Bool) (temp : Int) (d : Device) : (d.slewChan n first temp).regs = d.regs := rfl

@[simp] theorem Device.measureTemps_regs (b : Nat) (temps : List Int) (d : Device) : (d.measureTemps b temps).regs = d.regs := by
  unfold Device.measureTemps
  dsimp only
  split
  · rfl
  · refine forList_regs _ (fun t d => ?_) d
    -- a named step, for the kernel would run the loop over the channels to compare the two sides
    rw [Device.setTile_regs]
    exact forNat_regs _ (fun k d => Device.slewChan_regs _ _ _ d) d

@[simp] theorem Device.estimate_regs (n : Nat) (l : List EstimIn) (d : Device) : (d.estimate n l).regs = d.regs := by simp [Device.estimate]

@[simp] theorem Device.trackPilot_regs (n : Nat) (l : List PilotIn) (d : Device) : (d.trackPilot n l).regs = d.regs := by
  unfold Device.trackPilot
  split <;> simp

@[simp] theorem Device.estimateAll_regs (b : Nat) (x : EpochInput) (d : Device) : (d.estimateAll b x).regs = d.regs := by
  simp [Device.estimateAll]

@[simp] theorem Device.countBlocks_regs (l : List Nat) (d : Device) : (d.countBlocks l).regs = d.regs := by simp [Device.countBlocks]
@[simp] theorem Device.countLinkCrc_regs (l : List Nat) (d : Device) : (d.countLinkCrc l).regs = d.regs := by simp [Device.countLinkCrc]

@[simp] theorem Device.measure_regs (b e : Nat) (was : Cfg) (x : EpochInput) (d : Device) : (d.measure b e was x).regs = d.regs := by
  simp [Device.measure]

@[simp] theorem Device.closeExpired_regs (b : Nat) (d : Device) : (d.closeExpired b).regs = d.regs := by simp [Device.closeExpired]
@[simp] theorem Device.deferredWork_regs (d : Device) : d.deferredWork.regs = d.regs := by simp [Device.deferredWork]
@[simp] theorem Device.prune_regs (b : Nat) (d : Device) : (d.prune b).regs = d.regs := by simp [Device.prune]

@[simp] theorem Device.restoreWord_locks (x : BadWord) (d : Device) : (d.restoreWord x).regs.locks = d.regs.locks := by
  simp [Device.restoreWord, Regs.locks]

@[simp] theorem Device.scrubParity_locks (l : List ParityIn) (d : Device) : (d.scrubParity l).regs.locks = d.regs.locks := rfl

@[simp] theorem Device.reach_locks (e : Nat) (d : Device) : (d.reach e).regs.locks = d.regs.locks := by
  simp [Device.reach]

@[simp] theorem Device.boundaryConfig_locks (e : Nat) (x : EpochInput) (d : Device) :
    (d.boundaryConfig e x).regs.locks = d.regs.locks := by
  simp [Device.boundaryConfig]

@[simp] theorem Device.boundarySafe_regs (e : Nat) (declared : Option Nat) (d : Device) : (d.boundarySafe e declared).regs = d.regs := by
  unfold Device.boundarySafe
  split <;> simp

@[simp] theorem Device.boundaryModes_regs (e : Nat) (d : Device) : (d.boundaryModes e).regs = d.regs := by simp [Device.boundaryModes]

@[simp] theorem Device.boundaryRest_regs (e : Nat) (was : Cfg) (x : EpochInput) (d : Device) : (d.boundaryRest e was x).regs = d.regs := by
  simp [Device.boundaryRest]

@[simp] theorem State.boundaryFront_locks (x : EpochInput) (s : State) : (s.boundaryFront x).dev.regs.locks = s.dev.regs.locks := by
  simp [State.boundaryFront]

@[simp] theorem State.boundaryStep_locks (x : EpochInput) (s : State) : (s.boundaryStep x).dev.regs.locks = s.dev.regs.locks := by
  simp [State.boundaryStep]

@[simp] theorem Device.wrapTime_locks (d : Device) : d.wrapTime.regs.locks = d.regs.locks := by
  unfold Device.wrapTime
  split <;> simp

@[simp] theorem Device.repairParity_locks (x : BadWord) (stillBad shadowBad : Bool) (d : Device) :
    (d.repairParity x stillBad shadowBad).regs.locks = d.regs.locks := by
  unfold Device.repairParity
  dsimp only
  split
  · simp [Regs.locks]
  · split
    · simp
    · rfl

/-! ### Captures -/

@[simp] theorem Device.armSlots_regs (r : Nat) (l : List Nat) (p q : Nat) (d : Device) : (d.armSlots r l p q).regs = d.regs := by
  simp [Device.armSlots]

@[simp] theorem captureArm_regs : LeavesRegs captureArm := .sizedTo fun r d => by
  dsimp only [require]
  split <;> simp

@[simp] theorem Device.disarmSlots_regs (r : Nat) (l : List Nat) (d : Device) : (d.disarmSlots r l).regs = d.regs := by
  simp [Device.disarmSlots]

@[simp] theorem captureDisarm_regs : LeavesRegs captureDisarm := .sizedTo fun _ _ => by simp

@[simp] theorem Device.readHeader_regs (r member slot : Nat) (d : Device) : (d.readHeader r member slot).2.regs = d.regs := by
  simp [Device.readHeader]

@[simp] theorem Device.beginReadout_regs (r member slot from_ count : Nat) (w : Waiter) (d : Device) :
    (d.beginReadout r member slot from_ count w).regs = d.regs := by simp [Device.beginReadout]

@[simp] theorem captureRead_regs (errs : List ScrubErr) : LeavesRegs (captureRead errs) := .sizedTo fun r d => by
  dsimp only [require]
  repeat' split
  all_goals simp

end Sys2Proof.Machine
end

section
namespace Sys2Proof.Machine

/-! Accesses and the locks: of the writes only that of a lock register changes a lock, and it sets it. -/

/-! ### Locks that hold -/

/-- What was set stays set. -/
def LocksHold (l l' : List Bool) : Prop := ∀ k : Nat, l[k]? = some true → l'[k]? = some true

theorem LocksHold.refl (l : List Bool) : LocksHold l l := fun _ h => h

theorem LocksHold.trans {l l' l'' : List Bool} (h : LocksHold l l') (h' : LocksHold l' l'') : LocksHold l l'' :=
  fun k hk => h' k (h k hk)

theorem LocksHold.of_eq {l l' : List Bool} (h : l' = l) : LocksHold l l' := h ▸ .refl l

theorem locksHold_set (l : List Bool) (k : Nat) : LocksHold l (l.set k true) := fun j hj => by
  obtain ⟨hlt, -⟩ := List.getElem?_eq_some_iff.1 hj
  rcases eq_or_ne k j with rfl | hne
  · exact List.getElem?_set_self hlt
  · rw [List.getElem?_set_ne hne, hj]

/-- Lock k, by its register. -/
def Regs.lock (k : Fin 3) (r : Regs) : Bool :=
  match k with
  | 0 => r.lockDbg
  | 1 => r.lockCal
  | 2 => r.lockFw

theorem Regs.locks_getElem? (k : Fin 3) (r : Regs) : r.locks[k.val]? = some (r.lock k) := by
  match k with
  | 0 | 1 | 2 => rfl

/-- What setting lock k is (R311); `LOCK_DBG` acts on the TAP too (R422). -/
def Device.setLock (k : Fin 3) (d : Device) : Device :=
  match k with
  | 0 => { d with regs := { d.regs with lockDbg := true } }.actJtag
  | 1 => { d with regs := { d.regs with lockCal := true } }
  | 2 => { d with regs := { d.regs with lockFw := true } }

theorem Device.setLock_locks (k : Fin 3) (d : Device) : (d.setLock k).regs.locks = d.regs.locks.set k.val true := by
  match k with
  | 0 | 1 | 2 => rfl

theorem Device.setLock_frame (k : Fin 3) (d : Device) :
    (d.setLock k).evts = d.evts ∧ (d.setLock k).regs.viol = d.regs.viol ∧ (d.setLock k).cnt = d.cnt := by
  match k with
  | 0 | 1 | 2 => exact ⟨rfl, rfl, rfl⟩

/-! ### Violations -/

@[simp] theorem Device.violate_locks (kind : BitVec 3) (a : Access) (d : Device) : (d.violate kind a).regs.locks = d.regs.locks := by
  simp [Device.violate, Regs.locks]

@[simp] theorem Device.ignoredWrite_locks (a : Access) (d : Device) : (d.ignoredWrite a).regs.locks = d.regs.locks :=
  d.violate_locks _ a

/-! ### Writes -/

theorem Device.lockWrite_held (k : Fin 3) (a : Access) (d : Device) : d.lockWrite true (Device.setLock k) a = d.violate kindLocked a := rfl

theorem Device.lockWrite_alias (k : Fin 3) {a : Access} (h : aliasOf a.addr ≠ 0) (d : Device) :
    d.lockWrite false (Device.setLock k) a = d.violate kindAlias a := by
  simp [Device.lockWrite, h]

theorem Device.lockWrite_clear (k : Fin 3) {a : Access} (h : aliasOf a.addr = 0) (hv : a.value.getLsbD 0 = false) (d : Device) :
    d.lockWrite false (Device.setLock k) a = d := by
  rw [Device.lockWrite, if_neg Bool.false_ne_true, if_neg (not_not_intro h), hv, if_neg Bool.false_ne_true]

theorem Device.lockWrite_set (k : Fin 3) {a : Access} (h : aliasOf a.addr = 0) (hv : a.value.getLsbD 0 = true) (d : Device) :
    d.lockWrite false (Device.setLock k) a = d.setLock k := by
  rw [Device.lockWrite, if_neg Bool.false_ne_true, if_neg (not_not_intro h), if_pos hv]

theorem Device.lockWrite_holds (k : Fin 3) (held : Bool) (a : Access) (d : Device) :
    LocksHold d.regs.locks (d.lockWrite held (Device.setLock k) a).regs.locks := by
  unfold Device.lockWrite
  split
  · exact .of_eq (d.violate_locks _ a)
  · split
    · exact .of_eq (d.violate_locks _ a)
    · split
      · exact d.setLock_locks k ▸ locksHold_set _ _
      · exact .refl _

@[simp] theorem Device.rewritten_locks (base : Nat) (d : Device) : (d.rewritten base).regs.locks = d.regs.locks := rfl

@[simp] theorem Device.setPost_locks (p : Port) (t : Nat) (f : Posted → Posted) (d : Device) :
    (d.setPost p t f).regs.locks = d.regs.locks := rfl

@[simp] theorem Device.tileWrite_locks (a : Access) (d : Device) : (d.tileWrite a).regs.locks = d.regs.locks := by
  simp [Device.tileWrite, apply_ite Regs.locks]

@[simp] theorem Device.dlCtlWrite_locks (a : Access) (d : Device) : (d.dlCtlWrite a).regs.locks = d.regs.locks := by
  simp [Device.dlCtlWrite, apply_ite Regs.locks]

/-- The lock registers are at 0x5000, 0x5004 and 0x5008 (R311). -/
theorem Device.writeWord_lock {k : Fin 3} {a : Access} (h : baseOf a.addr = 0x5000 + 4 * k.val) (d : Device) :
    d.writeWord a = d.lockWrite (d.regs.lock k) (Device.setLock k) a := by
  unfold Device.writeWord
  match k with
  | 0 | 1 | 2 =>
    rw [h]
    rfl

/-- A write of one word sets locks and clears none, whatever its port and its address. -/
theorem Device.writeWord_holds (a : Access) (d : Device) : LocksHold d.regs.locks (d.writeWord a).regs.locks := by
  unfold Device.writeWord
  dsimp only
  split
  · split
    · exact .of_eq (d.violate_locks _ a)
    · exact .refl _
  · split
    · exact .of_eq (d.tileWrite_locks a)
    · split
      · exact .refl _
      · exact .of_eq (by simp)
      · exact d.lockWrite_holds 0 _ a
      · exact d.lockWrite_holds 1 _ a
      · exact d.lockWrite_holds 2 _ a
      · exact .of_eq (by simp)
      · split
        · exact .of_eq (d.ignoredWrite_locks a)
        · exact .of_eq (d.violate_locks _ a)

/-! ### Mailbox registers and frames -/

@[simp] theorem State.answerUnknown_regs (m : Nat) (s : State) : (s.answerUnknown m).dev.regs = s.dev.regs := by
  have hrefuse : LeavesRegs fun _ d => refuse stBadCommand d := fun _ _ => rfl
  simp [State.answerUnknown, State.execute_regs hrefuse]

@[simp] theorem State.doorbell_regs (m : Nat) (s : State) : (s.doorbell m).dev.regs = s.dev.regs := by
  simp [State.doorbell]

@[simp] theorem State.mbxRegWrite_locks (m off : Nat) (a : Access) (s : State) :
    (s.mbxRegWrite m off a).dev.regs.locks = s.dev.regs.locks := by
  unfold State.mbxRegWrite
  dsimp only
  split <;> simp [apply_ite Regs.locks]

@[simp] theorem State.mbxBufWrite_locks (m off : Nat) (a : Access) (s : State) :
    (s.mbxBufWrite m off a).dev.regs.locks = s.dev.regs.locks := by
  simp [State.mbxBufWrite, apply_ite Regs.locks]

theorem State.write_holds (a : Access) (s : State) : LocksHold s.dev.regs.locks (s.write a).dev.regs.locks := by
  unfold State.write
  dsimp only
  split
  · exact .refl _
  · split
    · exact .of_eq (State.mbxRegWrite_locks _ _ _ s)
    · split
      · exact .of_eq (State.mbxBufWrite_locks _ _ _ s)
      · exact Device.writeWord_holds _ s.dev

theorem State.writeReg_holds (a : Access) (s : State) : LocksHold s.dev.regs.locks (s.writeReg a).dev.regs.locks := by
  unfold State.writeReg
  split
  · rw [State.answerUnknown_regs]
    exact State.write_holds a s
  · exact State.write_holds a s

theorem forList_write_holds (l : List Access) (s : State) :
    LocksHold s.dev.regs.locks (forList l State.write s).dev.regs.locks := by
  induction l generalizing s with
  | nil => exact .refl _
  | cons a l ih => exact (State.write_holds a s).trans (ih (s.write a))

theorem State.writes_holds (l : List Access) (s : State) : LocksHold s.dev.regs.locks (s.writes l).dev.regs.locks := by
  unfold State.writes
  split
  · exact .refl _
  · simpa using forList_write_holds l s

theorem State.serve_holds (n : Nat) (l : List Access) (s : State) : LocksHold s.dev.regs.locks (State.serve n l s).dev.regs.locks := by
  induction n generalizing l s with
  | zero => exact .refl _
  | succ n ih =>
    unfold State.serve
    dsimp only
    refine (forList_write_holds (servedNow l) s).trans ?_
    generalize forList (servedNow l) State.write s = u
    split
    · exact .refl _
    · refine LocksHold.trans (.of_eq ?_) (ih _ _)
      rw [Device.tickTo_regs]

/-! ### Reads and posted accesses -/

@[simp] theorem Device.tileRead_locks (p : Port) (addr : BitVec 24) (d : Device) : (d.tileRead p addr).2.regs.locks = d.regs.locks := by
  simp [Device.tileRead, apply_ite Regs.locks]

@[simp] theorem Device.readEffect_regs (p : Port) (base : Nat) (d : Device) : (d.readEffect p base).regs = d.regs := by
  unfold Device.readEffect
  split
  · rfl
  · rfl
  · split <;> rfl

@[simp] theorem State.readReg_locks (p : Port) (addr : BitVec 24) (s : State) : (s.readReg p addr).2.dev.regs.locks = s.dev.regs.locks := by
  unfold State.readReg
  dsimp only
  split
  · rfl
  · split
    · simp
    · split <;> simp

@[simp] theorem State.readBy_locks (p : Port) (addr : BitVec 24) (s : State) : (s.readBy p addr).dev.regs.locks = s.dev.regs.locks :=
  State.readReg_locks p addr s

@[simp] theorem State.readFrame_locks (clocks : List (BitVec 4)) (s : State) : (s.readFrame clocks).dev.regs.locks = s.dev.regs.locks := by
  unfold State.readFrame
  refine (forList_dev_locks _ (fun a s => ?_) _).trans rfl
  exact State.readBy_locks .control a s

@[simp] theorem Device.tileApply_locks (t : Nat) (x : Posted) (d : Device) : (d.tileApply t x).regs.locks = d.regs.locks := by
  simp [Device.tileApply]

@[simp] theorem Device.postDone_locks (p : Port) (t : Nat) (d : Device) : (d.postDone p t).regs.locks = d.regs.locks := by
  simp [Device.postDone, apply_ite Regs.locks]

end Sys2Proof.Machine
end

section
namespace Sys2Proof.Machine

/-! Every command and the locks. -/

/-! ### The shapes of the commands -/

/-- Whatever state the command answers, what was locked is locked in it. -/
def Holds (s : State) (o : Host.Outcome State Fault Refusal) : Prop := ∀ t, o = .next t → LocksHold s.dev.regs.locks t.dev.regs.locks

variable {s : State}

theorem holds_next {t : State} (h : LocksHold s.dev.regs.locks t.dev.regs.locks) : Holds s (.next t) := fun _ e => by
  cases e
  exact h

theorem holds_stay (s : State) : Holds s (.next s) := holds_next (.refl _)

theorem holds_keep {t : State} (h : t.dev.regs.locks = s.dev.regs.locks) : Holds s (.next t) := holds_next (.of_eq h)

theorem holds_onDev {f : Device → Device} (h : (f s.dev).regs.locks = s.dev.regs.locks) : Holds s (onDev f s) := holds_keep h

theorem holds_ite {p : Prop} [Decidable p] {a b : Host.Outcome State Fault Refusal} (ha : Holds s a) (hb : Holds s b) :
    Holds s (if p then a else b) := by split <;> assumption

theorem holds_fwRow {code : Nat} {h : Handler} (hh : LeavesRegs h) (src : ReqSource) : Holds s (fwRow code h src s) := fun _ e =>
  .of_eq (congrArg Regs.locks (fwRow_regs hh e))

theorem holds_writeRow (ok : Nat → Bool) (a : Access) : Holds s (writeRow ok a s) :=
  holds_ite (holds_next (State.writeReg_holds a s)) (holds_stay s)

theorem holds_registerWrite (w : WriteIn) : Holds s (execRegisterWrite w s) := by
  cases w with
  | one a => exact holds_next (State.writeReg_holds a s)
  | frame clocks => exact holds_ite (holds_stay s) (holds_next (State.writes_holds _ s))
  | together l => exact holds_next (by simpa using State.serve_holds 3 l s)

theorem holds_badFrame (opcode rest : List (BitVec 4)) : Holds s (execBadFrame opcode rest s) :=
  holds_ite (holds_next ((State.writes_holds (cpWrites (opcode ++ rest)) s).trans (.of_eq (Device.violate_locks _ _ _)))) (holds_stay s)

theorem holds_remoteRegisterAccess (src : Nat) (write : Bool) (addr : BitVec 24) (value : Word) :
    Holds s (execRemoteRegisterAccess src write addr value s) := by
  refine holds_ite (holds_stay s) (holds_ite (holds_onDev (by simp)) (holds_ite (holds_next ?_) (holds_keep (by simp))))
  simpa using State.writeReg_holds ⟨.fabric, 0#8, addr, value⟩ s

theorem holds_readFrame {p : Prop} [Decidable p] (clocks : List (BitVec 4)) : Holds s (if p then .next (s.readFrame clocks) else .next s) :=
  holds_ite (holds_keep (State.readFrame_locks clocks s)) (holds_stay s)

theorem holds_cartFifoPop (r : RegRead) : Holds s (execCartFifoPop r s) := by
  cases r with
  | one port => exact holds_keep (State.readBy_locks port _ s)
  | frame clocks => exact holds_readFrame clocks

theorem holds_timeLoRead (r : RegRead) : Holds s (execTimeLoRead r s) := by
  cases r with
  | one port => exact holds_keep (State.readBy_locks port _ s)
  | frame clocks => exact holds_readFrame clocks

/-- R401: of the brownouts only that of all six rails, the power-on reset, clears a lock. -/
theorem holds_brownout {rails : BitVec 6} (h : rails ≠ 0x3F#6) : Holds s (execBrownout rails s) := by
  unfold execBrownout
  rw [if_neg h]
  exact holds_ite (holds_stay s) (holds_ite (holds_onDev rfl) (holds_keep (by simp)))

theorem holds_epochBoundary (inp : EpochInput) : Holds s (execEpochBoundary inp s) :=
  holds_ite (holds_stay s) (holds_ite (holds_keep (by simp)) (holds_keep (by simp)))

theorem holds_millResultReady (x : MillIn) : Holds s (execMillResultReady x s) := by
  have hstay : Holds s (.next { s with dev := s.dev.replayErrors x }) := holds_keep (by simp)
  unfold execMillResultReady
  dsimp only
  split
  · exact hstay
  · split
    · exact hstay
    · exact holds_ite (holds_keep (by simp)) hstay

theorem holds_fabricMessageResponse (peer : Nat) (bytes : List Byte) : Holds s (execFabricMessageResponse peer bytes s) := by
  unfold execFabricMessageResponse
  split
  next f d h =>
    refine holds_keep ?_
    simp [Device.takeForward_regs (Option.filter_eq_some_iff.1 h).1]
  · exact holds_ite (holds_stay s) (holds_onDev (by simp))

theorem holds_fabricForwardTimeout (peer : Nat) (tag : Word) : Holds s (execFabricForwardTimeout peer tag s) := by
  unfold execFabricForwardTimeout
  split
  next f d h => exact holds_ite (holds_keep (by simp [Device.takeForward_regs h])) (holds_stay s)
  · exact holds_stay s

theorem holds_captureReadoutDone (region : Fin 64) : Holds s (execCaptureReadoutDone region s) := by
  refine holds_onDev ?_
  split
  · rfl
  · dsimp only
    split <;> simp

theorem holds_cartDelivery (dest : Fin 3) (x : DeliveryIn) : Holds s (execCartDelivery dest x s) := by
  unfold execCartDelivery
  split
  · exact holds_ite (holds_onDev (by simp)) (holds_stay s)
  · exact holds_ite (holds_onDev (by simp)) (holds_stay s)
  · exact holds_onDev (by simp)

theorem holds_rampDownEnd (ch : Fin 128) (t : Nat) : Holds s (execRampDownEnd ch t s) := by
  refine holds_ite (holds_stay s) ?_
  split
  · exact holds_onDev (by simp)
  · exact holds_onDev (by simp)
  · exact holds_stay s

theorem holds_identityReady : Holds s (execIdentityReady s) := by
  refine holds_ite (holds_stay s) (holds_onDev ?_)
  split <;> rfl

theorem holds_delayExchange (port : Fin 4) (t1 t2 t3 : Int) (t4 : Option Int) (steer : Int) :
    Holds s (execDelayExchange port t1 t2 t3 t4 steer s) := by
  refine holds_ite (holds_onDev ?_) (holds_stay s)
  cases t4 <;> simp

theorem holds_healthReport (frame : List Byte) (t : Nat) : Holds s (execHealthReport frame t s) := by
  refine holds_ite ?_ (holds_stay s)
  split
  · exact holds_onDev (by simp)
  · exact holds_ite (holds_stay s) (holds_onDev rfl)

theorem holds_calMeasurementDone (t : Nat) : Holds s (execCalMeasurementDone t s) := by
  unfold execCalMeasurementDone
  split
  · split
    · exact holds_ite (holds_onDev (by simp)) (holds_stay s)
    · exact holds_stay s
  · exact holds_stay s

theorem holds_hello (port : Fin 4) (h : HelloIn) : Holds s (execHello port h s) :=
  holds_ite (holds_onDev (by simp)) (holds_stay s)

theorem holds_reserveRequest (src : Nat) (a : ReserveAsk) (l : List LaneSum) : Holds s (execReserveRequest src a l s) :=
  holds_ite (holds_ite (holds_keep (by simp)) (holds_keep (by simp))) (holds_stay s)

/-! ### Every command -/

/-- Whatever command runs, but for the power-on reset, the locks that are set stay set (R311). -/
theorem exec_holds {c : Instr} (hc : c ≠ .brownout 0x3F#6) : Holds s (exec c s) := by
  cases c
  case resetRelease | bootStageEnd | supplyWarningCleared | xoAbsent | granarySelfRefresh | synthesizerReady | referenceEdge | slewDone
      | modulatorOverload | modulatorRecovered | widebandSample | pointSampleReady | isolationSwitchesClosed | modulatorRelease
      | excitationRampEnd | qServoSettle | disablePinsReleased | fastDetection | detectorRelease | trigInEdge | trigOutPulse
      | bellInEdge | alignmentMarker | laneFault | returnLaneBadCrc | lockstepMismatch | fabricPortUp | fabricRetrain | beacon
      | addressRequest | addressAssignment | streamAck | returnLaneLocked | fabricFrameBadCrc | controlFrameForward
      | densityReadoutDone | hearthPowerDownDone | countWindow | bandSearchEnd | synthesizerRetry | referenceLost | postedAccessDone
      | postedAccessNack =>
    exact holds_ite (holds_onDev (by simp)) (holds_stay s)
  case supplyWarning | granaryWrite | granaryScrubPass | pointRampUp | fabricTriggerMessage | fabricTxnOpen | fabricPrepare
      | fabricDecision | fabricDecisionQuery | routeFailure | basePresent =>
    exact holds_ite (holds_stay s) (holds_onDev (by simp))
  case fabricPortDown | lockLost | fabricTriggerSend | fabricVote | fabricDecisionAck | guardCurrentLimitReleased | returnLaneLockLost
      | jtagInstruction =>
    dsimp only [exec, execFabricPortDown, execLockLost, execFabricTriggerSend, execFabricVote, execFabricDecisionAck,
      execGuardCurrentLimitReleased, execReturnLaneLockLost, execJtagInstruction]
    exact holds_onDev (by simp)
  -- what is due, if anything
  case parityRepair | currentSwap | timeStep | timeSetTimeout | cartFillTimeout | gainSwitch | gainReady | checkPhase
      | checkClassification | externalEdgeAccepted | recordClose | bellTick | bankWriteDone | densitySnapshotComplete | hostOkTimeout =>
    dsimp only [exec, execParityRepair, execCurrentSwap, execTimeStep, execTimeSetTimeout, execCartFillTimeout, execGainSwitch,
      execGainReady, execCheckPhase, execCheckClassification, execExternalEdgeAccepted, execRecordClose, execBellTick, execBankWriteDone,
      execDensitySnapshotComplete, execHostOkTimeout]
    split
    · exact holds_ite (holds_onDev (by simp)) (holds_stay s)
    · exact holds_stay s
  -- the requests, each by its handler
  case sessionOpen | sessionClose | sessionKeepalive | sessionList | txnBegin | txnCommit | txnAbort | txnStatus | chanConfig | chanQuery
      | chanEnable | pointConfig | pointQuery | carrierPlanCheck | linLoad | linQuery | linPersist | streamConfig | streamQuery
      | regionConfig | captureArm | captureDisarm | captureRead | tallyConfig | aoutConfig | millConfig | millQuery | densityConfig
      | densityRead | trigConfig | trigQuery | trigForce | calBegin | calPoint | calCommit | calAbort | ledgerRead | shepherdConfig
      | timeSet | timeQuery | clockConfig | clockQuery | holdoverPolicy | fabricStatus | fabricPolicy | fabricRouteQuery
      | fabricForward | bellSchedule | modeSet | modeQuery | hearthEnter | supplyQuery | diagSelftest | diagLoopback | diagLogRead
      | fwStage | fwActivate | fwQuery =>
    exact holds_fwRow (by simp) _
  -- the writes of a register
  case eventClear | mbxRequestWrite | mbxDoorbell | rspDone | bellRing | lockSet | dlEnable | postedWrite =>
    dsimp only [exec, execEventClear, execMbxRequestWrite, execMbxDoorbell, execRspDone, execBellRing, execLockSet, execDlEnable,
      execPostedWrite]
    exact holds_writeRow _ _
  case completionPlace | lockstepRepaired => exact holds_ite (holds_keep (by simp)) (holds_stay s)
  case reserveAnswer => exact holds_ite (holds_stay s) (holds_keep (by simp))
  case reserveTimeout | fabricTxnOpenReply => exact holds_keep (by simp)
  case bellSnap | dlForce => exact holds_ite (holds_writeRow _ _) (holds_stay s)
  case dlDisable => exact holds_ite (holds_stay s) (holds_writeRow _ _)
  case resetAssert => exact holds_ite (holds_onDev (by simp)) (holds_keep (by simp))
  case postedRead => exact holds_ite (holds_keep (State.readBy_locks ..)) (holds_stay s)
  case holdingWindowSwitch =>
    dsimp only [exec, execHoldingWindowSwitch]
    split
    · exact holds_onDev rfl
    · exact holds_stay s
  case loopbackDone | selftestDone =>
    dsimp only [exec, execLoopbackDone, execSelftestDone]
    split
    · exact holds_stay s
    · exact holds_ite (holds_onDev (by simp)) (holds_stay s)
  case guardCurrentLimit =>
    dsimp only [exec, execGuardCurrentLimit]
    split
    · exact holds_onDev (by simp)
    · exact holds_onDev (by simp)
    · exact holds_stay s
  case fwVerifyDone | fabricBellAck =>
    dsimp only [exec, execFwVerifyDone, execFabricBellAck]
    split
    · exact holds_stay s
    · exact holds_onDev (by simp)
  case fabricBell | fabricCart =>
    exact holds_ite (holds_stay s) (holds_ite (holds_onDev (by simp)) (holds_onDev (by simp)))
  case registerWrite => exact holds_registerWrite _
  case badFrame => exact holds_badFrame _ _
  case remoteRegisterAccess => exact holds_remoteRegisterAccess _ _ _ _
  case cartFifoPop => exact holds_cartFifoPop _
  case timeLoRead => exact holds_timeLoRead _
  case epochBoundary => exact holds_epochBoundary _
  case millResultReady => exact holds_millResultReady _
  case fabricMessageResponse => exact holds_fabricMessageResponse _ _
  case fabricForwardTimeout => exact holds_fabricForwardTimeout _ _
  case captureReadoutDone => exact holds_captureReadoutDone _
  case cartDelivery => exact holds_cartDelivery _ _
  case rampDownEnd => exact holds_rampDownEnd _ _
  case identityReady => exact holds_identityReady
  case delayExchange => exact holds_delayExchange _ _ _ _ _ _
  case healthReport => exact holds_healthReport _ _
  case calMeasurementDone => exact holds_calMeasurementDone _
  case hello => exact holds_hello _ _
  case reserveRequest => exact holds_reserveRequest _ _ _
  case brownout => exact holds_brownout fun h => hc (h ▸ rfl)

end Sys2Proof.Machine
end

section
namespace Sys2Proof.Machine

/-! O39: what a write of a lock register does. -/

/-! ### The address of an access -/

/-- An access to the whole word its address stands in (R298). -/
def wordAccess (a : Access) : Access := { a with addr := a.addr &&& 0xFFFFFC#24 }

theorem and_wordMask (a : BitVec 24) : a &&& 0xFFFFFC#24 = (a >>> 2) <<< 2 := by
  have hmask : ∀ i : Fin 24, (0xFFFFFC#24).getLsbD i.val = !decide (i.val < 2) := by decide
  refine BitVec.eq_of_getLsbD_eq fun i hi => ?_
  rw [BitVec.getLsbD_and, hmask ⟨i, hi⟩, BitVec.getLsbD_shiftLeft]
  by_cases h2 : i < 2
  · simp [h2]
  · simp [h2, hi, Nat.add_sub_cancel' (Nat.le_of_not_lt h2)]

theorem toNat_and_wordMask (a : BitVec 24) : (a &&& 0xFFFFFC#24).toNat = a.toNat / 4 * 4 := by
  rw [and_wordMask, BitVec.toNat_shiftLeft, BitVec.toNat_ushiftRight, Nat.shiftLeft_eq, Nat.shiftRight_eq_div_pow]
  omega

@[simp] theorem wordAccess_baseOf (a : Access) : baseOf (wordAccess a).addr = baseOf a.addr := by
  simp only [wordAccess, baseOf, toNat_and_wordMask]
  omega

@[simp] theorem wordAccess_aliasOf (a : Access) : aliasOf (wordAccess a).addr = aliasOf a.addr := by
  simp only [wordAccess, aliasOf, toNat_and_wordMask]
  omega

/-! ### What a violation records -/

/-- What is no default is read back, whatever the table holds. -/
theorem tget_tput_of_ne {α : Type} [DecidableEq α] {d x : α} (hx : x ≠ d) (t : Tbl α) (k : Nat) : tget d (tput d t k x) k = x := by
  rw [tput, if_neg hx, tget, tfind_tinsert, if_pos rfl, Option.getD_some]

/-- An event that is not reserved is recorded, whatever the table of events holds (R314). -/
theorem Device.raise_bit {i j : Nat} {b : BitVec 24} (h : (b &&& evtMask i).getLsbD j = true) (d : Device) :
    ((d.raise i b).evt i).bits.getLsbD j = true := by
  have hb : b &&& evtMask i ≠ 0#24 := fun h0 => by simp [h0] at h
  have hrec : ((d.evt i).record d.clk.cycle (b &&& evtMask i)).bits.getLsbD j = true := by simp [Evt.record, h]
  have hinit : (d.evt i).record d.clk.cycle (b &&& evtMask i) ≠ Evt.init := fun h0 => by simp [h0, Evt.init] at hrec
  rw [Device.raise, if_neg hb]
  exact (congrArg (fun e : Evt => e.bits.getLsbD j) (tget_tput_of_ne hinit d.evts i)).trans hrec

theorem Device.violate_cnt (kind : BitVec 3) (a : Access) (d : Device) :
    (d.violate kind a).cnt = { d.cnt with violations := d.cnt.violations + 1#32 } := by
  simp [Device.violate]

theorem Device.violate_bit {kind : BitVec 3} (h : (ebit kind.toNat &&& evtMask evViol).getLsbD kind.toNat = true) (a : Access)
    (d : Device) : ((d.violate kind a).evt evViol).bits.getLsbD kind.toNat = true := Device.raise_bit h _

theorem Device.violate_first (kind : BitVec 3) (a : Access) {d : Device} (h : (d.evt evViol).bits &&& 0x3F#24 = 0#24) :
    (d.violate kind a).regs.viol.kind = kind ∧ (d.violate kind a).regs.viol.count = 1#16 := by
  simp [Device.violate, h]

theorem Device.violate_frame (kind : BitVec 3) (a : Access) (d : Device) :
    { d.violate kind a with evts := d.evts, cnt := d.cnt, regs := { (d.violate kind a).regs with viol := d.regs.viol } } = d := by
  simp only [Device.violate, Device.raise]
  split <;> rfl

/-! ### A write of a lock register -/

theorem State.writeReg_lock {k : Fin 3} {a : Access} {s : State} (hwf : a.wf = true) (hboot : s.dev.pw.booted = true)
    (h : baseOf a.addr = 0x5000 + 4 * k.val) :
    s.writeReg a = { s with dev := s.dev.lockWrite (s.dev.regs.lock k) (Device.setLock k) (wordAccess a) } := by
  have hreg : mbxReg (0x5000 + 4 * k.val) = none := if_neg (by omega)
  have hbuf : mbxBuf (0x5000 + 4 * k.val) = none := if_neg (by omega)
  have hrings : s.rings a = none := by rw [State.rings, h, hreg]
  have hwrite : s.write a = { s with dev := s.dev.writeWord (wordAccess a) } := by
    unfold State.write
    extract_lets b
    have hb : b = wordAccess a := rfl
    have hbwf : (wordAccess a).wf = true := hwf
    simp [hb, hboot, hbwf, h, hreg, hbuf]
  rw [State.writeReg, hrings, hwrite, Device.writeWord_lock ((wordAccess_baseOf a).trans h)]

theorem exec_lockWrite {k : Fin 3} {a : Access} {c : Instr} {s : State} (hc : c = .lockSet a ∨ c = .registerWrite (.one a))
    (hwf : a.wf = true) (hboot : s.dev.pw.booted = true) (h : baseOf a.addr = 0x5000 + 4 * k.val) :
    exec c s = .next { s with dev := s.dev.lockWrite (s.dev.regs.lock k) (Device.setLock k) (wordAccess a) } := by
  rw [← State.writeReg_lock hwf hboot h]
  rcases hc with rfl | rfl
  · refine if_pos ?_
    rw [h]
    match k with
    | 0 | 1 | 2 => rfl
  · rfl

/-- A write that is ignored and logged: its kind is recorded and counted, and latched if it is the first; nothing else changes. -/
theorem completes_of_violate {c : Instr} {s : State} {kind : BitVec 3} {a : Access}
    (hkind : (ebit kind.toNat &&& evtMask evViol).getLsbD kind.toNat = true) (h : exec c s = .next { s with dev := s.dev.violate kind a }) :
    Completes c s fun u => DeviceOnly s u ∧ u.dev.regs.locks = s.dev.regs.locks ∧
      u.dev.cnt = { s.dev.cnt with violations := s.dev.cnt.violations + 1#32 } ∧ (u.dev.evt evViol).bits.getLsbD kind.toNat = true ∧
      ((s.dev.evt evViol).bits &&& 0x3F#24 = 0#24 → u.dev.regs.viol.kind = kind ∧ u.dev.regs.viol.count = 1#16) ∧
      { u.dev with evts := s.dev.evts, cnt := s.dev.cnt, regs := { u.dev.regs with viol := s.dev.regs.viol } } = s.dev :=
  ⟨_, h, ⟨rfl, rfl⟩, s.dev.violate_locks kind a, s.dev.violate_cnt kind a, Device.violate_bit hkind a s.dev,
    fun h0 => Device.violate_first kind a h0, s.dev.violate_frame kind a⟩

/-- Settles O39: R311, one write of a lock register case by case, and every command by `exec_holds`. -/
theorem locksAreSetOnceAndHold : Obligations.LocksAreSetOnceAndHold := by
  unfold Obligations.LocksAreSetOnceAndHold
  refine ⟨fun s a k c hc hwf hboot hbase => ?_, fun c s t k h hc hk => exec_holds hc t h k hk⟩
  have hexec := exec_lockWrite hc hwf hboot hbase
  have hlock {b : Bool} (hb : s.dev.regs.locks[k.val]? = some b) : s.dev.regs.lock k = b :=
    Option.some.inj ((s.dev.regs.locks_getElem? k).symm.trans hb)
  refine ⟨fun hheld => ?_, fun hfree halias => ?_, fun hfree halias hval => ?_, fun hfree halias hval => ?_⟩
  · rw [hlock hheld, Device.lockWrite_held] at hexec
    exact completes_of_violate (by decide) hexec
  · rw [hlock hfree, Device.lockWrite_alias k (by rwa [wordAccess_aliasOf])] at hexec
    exact completes_of_violate (by decide) hexec
  · rwa [hlock hfree, Device.lockWrite_clear (a := wordAccess a) k (by rwa [wordAccess_aliasOf]) hval] at hexec
  · rw [hlock hfree, Device.lockWrite_set (a := wordAccess a) k (by rwa [wordAccess_aliasOf]) hval] at hexec
    obtain ⟨hevts, hviol, hcnt⟩ := s.dev.setLock_frame k
    exact ⟨_, hexec, ⟨rfl, rfl⟩, s.dev.setLock_locks k, hevts, hviol, hcnt⟩

end Sys2Proof.Machine
end

section
namespace Sys2Proof.Machine

/-! O11: what the instruction in the TAP acts as (R422). -/

/-! ### The lock, the mode, RESET_N and the rails -/

section acts

variable (lock : Bool) {p : Power}

theorem Power.actJtag_priv (h : p.jtag = .priv) :
    (p.actJtag lock).jtagActs = if lock = false ∧ p.mode = .maintain then .priv else .bypass := by
  simp [Power.actJtag, h]

theorem Power.actJtag_extest (h : p.jtag = .extest) :
    (p.actJtag lock).jtagActs = if p.resetN = true ∧ p.railsUp = true then .extest else .sample := by
  simp [Power.actJtag, h]

/-- The instructions that drive no pin and reach nothing in the device act as themselves. -/
theorem Power.actJtag_passive (h : p.jtag = .bypass ∨ p.jtag = .sample) : (p.actJtag lock).jtagActs = p.jtag := by
  rcases h with h | h <;> simp [Power.actJtag, h]

end acts

/-- Of two distinct instructions chosen between, the first acts exactly under its condition, and else the second. -/
theorem JtagInstr.acts_of_eq_ite {c : Prop} [Decidable c] {acts i other : JtagInstr} (hne : other ≠ i)
    (h : acts = if c then i else other) : (acts = i ↔ c) ∧ (acts ≠ i → acts = other) := by
  subst h
  by_cases hc : c <;> simp [hc, hne]

/-! ### The command -/

/-- The TAP takes an instruction and the rails become known; what the instruction acts as is not yet decided. -/
def Power.loadJtag (i : JtagInstr) (rails : Bool) (p : Power) : Power := { p with jtag := i, railsUp := rails }

/-- The state a JTAG instruction leaves: with `TRST_N` low, BYPASS stands in the instruction's place. -/
def State.afterJtag (i : JtagInstr) (rails trst : Bool) (s : State) : State :=
  { s with dev := { s.dev with pw := (s.dev.pw.loadJtag (if trst then .bypass else i) rails).actJtag s.dev.regs.lockDbg } }

theorem exec_jtagInstruction (i : JtagInstr) (rails trst : Bool) (s : State) :
    exec (.jtagInstruction i rails trst) s = .next (s.afterJtag i rails trst) := rfl

/-- Settles O11: with `TRST_N` low the TAP holds BYPASS; else the instruction's class decides. -/
theorem jtagInstructionsActUnderTheLock : Obligations.JtagInstructionsActUnderTheLock := by
  unfold Obligations.JtagInstructionsActUnderTheLock
  refine fun s i rails =>
    ⟨⟨_, exec_jtagInstruction i rails true s, ?heldInReset⟩, ⟨_, exec_jtagInstruction i rails false s, ?frame, ?priv, ?extest, ?passive⟩⟩
  case heldInReset =>
    have hacts : (s.afterJtag i rails true).dev.pw.jtagActs = .bypass :=
      Power.actJtag_passive s.dev.regs.lockDbg (p := s.dev.pw.loadJtag .bypass rails) (.inl rfl)
    simp [hacts]
  case frame => rfl
  case priv =>
    intro hi
    have hacts := Power.actJtag_priv s.dev.regs.lockDbg (p := s.dev.pw.loadJtag i rails) hi
    obtain ⟨hpriv, hother⟩ := JtagInstr.acts_of_eq_ite (by decide) hacts
    exact ⟨hpriv, fun _ => hother⟩
  case extest =>
    intro hi
    have hacts := Power.actJtag_extest s.dev.regs.lockDbg (p := s.dev.pw.loadJtag i rails) hi
    exact JtagInstr.acts_of_eq_ite (by decide) hacts
  case passive => exact Power.actJtag_passive s.dev.regs.lockDbg (p := s.dev.pw.loadJtag i rails)

end Sys2Proof.Machine
end

section
namespace Sys2Proof.Machine

/-! O4: every move and every word that a port writes keeps the mailboxes in order, and so does a whole step. -/

/-! ### The memory of a buffer -/

theorem Memory.wf_tputList {b : Tbl Byte} (h : Memory.wf b = true) {k : Nat} {l : List Byte} (hk : k + l.length ≤ 1024) :
    Memory.wf (tputList 0#8 b k l) = true := by
  induction l generalizing b k with
  | nil => exact h
  | cons x l ih =>
    rw [List.length_cons] at hk
    obtain ⟨hwf, hlow⟩ := Bool.and_eq_true_iff.mp h
    have hput : Memory.wf (tput 0#8 b k x) = true :=
      Bool.and_eq_true_iff.mpr ⟨twf_tput hwf k x, all_tput hlow (decide_eq_true (by omega))⟩
    exact ih hput (by omega)

theorem Memory.wf_bufWrite {b : Tbl Byte} (h : Memory.wf b = true) (bytes : List Byte) : Memory.wf (bufWrite b bytes) = true :=
  Memory.wf_tputList h (by rw [List.length_take]; omega)

/-! ### One mailbox -/

theorem Mailbox.inOrder_iff {b : Mailbox} :
    b.inOrder = true ↔ ¬(b.reqBusy = true ∧ b.rspValid = true) ∧ Memory.wf b.request = true ∧ Memory.wf b.response = true := by
  cases hbusy : b.reqBusy <;> simp [Mailbox.inOrder, hbusy, and_assoc]

/-- A table of mailboxes in order: what `State.mailboxesInOrder` asks of a state's. -/
def mbxInOrder (l : Tbl Mailbox) : Prop := twf Mailbox.init l = true ∧ ∀ m, (tget Mailbox.init l m).inOrder = true

theorem mbxInOrder_nil : mbxInOrder [] := ⟨rfl, fun _ => rfl⟩

theorem mbxInOrder_tmod {l : Tbl Mailbox} (h : mbxInOrder l) (m : Nat) {f : Mailbox → Mailbox}
    (hf : (tget Mailbox.init l m).inOrder = true → (f (tget Mailbox.init l m)).inOrder = true) :
    mbxInOrder (tmod Mailbox.init l m f) := by
  obtain ⟨hwf, hall⟩ := h
  refine ⟨twf_tmod hwf m f, fun k => ?_⟩
  rw [tget_tmod hwf]
  split
  · exact hf (hall m)
  · exact hall k

/-! ### Moves, words and steps -/

theorem MbxMove.keeps_order {l l' : Tbl Mailbox} (e : MbxMove l l') (h : mbxInOrder l) : mbxInOrder l' := by
  cases e with
  | answer m bytes _ =>
    refine mbxInOrder_tmod h m fun hm => ?_
    obtain ⟨-, hreq, hrsp⟩ := Mailbox.inOrder_iff.mp hm
    exact Mailbox.inOrder_iff.mpr ⟨by simp [Mailbox.answer], hreq, Memory.wf_bufWrite hrsp bytes⟩
  | place m bytes hidle =>
    refine mbxInOrder_tmod h m fun hm => ?_
    obtain ⟨-, hreq, hrsp⟩ := Mailbox.inOrder_iff.mp hm
    exact Mailbox.inOrder_iff.mpr ⟨by simp [Mailbox.place, hidle.1], hreq, Memory.wf_bufWrite hrsp bytes⟩
  | settle m =>
    refine mbxInOrder_tmod h m fun hm => ?_
    obtain ⟨-, hbufs⟩ := Mailbox.inOrder_iff.mp hm
    exact Mailbox.inOrder_iff.mpr ⟨by simp, hbufs⟩
  | take m => exact mbxInOrder_tmod h m id

theorem leWord_length (w : Word) : (leWord w).length = 4 := rfl

theorem MbxWord.keeps_order {l l' : Tbl Mailbox} (e : MbxWord l l') (h : mbxInOrder l) : mbxInOrder l' := by
  cases e with
  | write m off w _ hoff halign =>
    refine mbxInOrder_tmod h m fun hm => ?_
    obtain ⟨hbusy, hreq, hrsp⟩ := Mailbox.inOrder_iff.mp hm
    exact Mailbox.inOrder_iff.mpr ⟨hbusy, Memory.wf_tputList hreq (by rw [leWord_length]; omega), hrsp⟩
  | release m =>
    refine mbxInOrder_tmod h m fun hm => ?_
    obtain ⟨-, hbufs⟩ := Mailbox.inOrder_iff.mp hm
    exact Mailbox.inOrder_iff.mpr ⟨by simp [Mailbox.release], hbufs⟩
  | ring m n epoch hidle =>
    refine mbxInOrder_tmod h m fun hm => ?_
    obtain ⟨-, hbufs⟩ := Mailbox.inOrder_iff.mp hm
    exact Mailbox.inOrder_iff.mpr ⟨by simp [hidle.2], hbufs⟩
  | overrun m => exact mbxInOrder_tmod h m id
  | length m f => exact mbxInOrder_tmod h m id

theorem MbxStep.keeps_order {l l' : Tbl Mailbox} (e : MbxStep l l') (h : mbxInOrder l) : mbxInOrder l' := by
  rcases e with ⟨k, hwords, hmoves⟩ | rfl
  · exact hmoves.keeps (fun _ _ => MbxMove.keeps_order) (hwords.keeps (fun _ _ => MbxWord.keeps_order) h)
  · exact mbxInOrder_nil

/-- Settles O4: whatever a step does to the mailboxes is words and moves, each of which keeps the order, or a reset that empties them. -/
theorem everyStepKeepsMailboxesInOrder : Obligations.EveryStepKeepsMailboxesInOrder := by
  unfold Obligations.EveryStepKeepsMailboxesInOrder
  exact fun s t h e => (step_moves e).keeps_order h

end Sys2Proof.Machine
end

section
namespace Sys2Proof.Machine

/-! O1 and O3: the step, and the state after reset. -/

/-- Settles O1, by the definition of a step. -/
theorem stepRunsTheFrontCommand : Obligations.StepRunsTheFrontCommand := by
  unfold Obligations.StepRunsTheFrontCommand
  intro c cs s h
  unfold step
  rw [h]

theorem State.reset_mailbox (m : Nat) : State.reset.mailbox m = Mailbox.init := rfl

theorem State.reset_mbxStat (m : Nat) : State.reset.mbxStat m = 0#32 := by
  have hpending : State.reset.asyncPending m = false := rfl
  unfold State.mbxStat
  rw [hpending, State.reset_mailbox]
  rfl

/-- Settles O3: the fields of the reset state one by one; its table of mailboxes is empty. -/
theorem resetHoldsTheStatedValues : Obligations.ResetHoldsTheStatedValues := by
  unfold Obligations.ResetHoldsTheStatedValues
  have hevt : Evt.init.word = 0#32 := by decide
  exact ⟨⟨rfl, rfl, rfl, fun _ => hevt, rfl, rfl, rfl, rfl, rfl, rfl, rfl, rfl, State.reset_mbxStat, rfl, rfl, rfl, rfl⟩, mbxInOrder_nil⟩

end Sys2Proof.Machine
end

section
namespace Sys2Proof.Machine

/-! The queue: none of the operations on a state touches the commands that wait. One lemma for each, in the order of the definitions. -/

@[simp] theorem State.ite_pending (p : Prop) [Decidable p] (a b : State) :
    (if p then a else b).pending = if p then a.pending else b.pending := apply_ite State.pending p a b

section loops
variable {β : Type} (l : List β) (n : Nat)

@[simp] theorem forList_pending {f : β → State → State} (h : Keeps State.pending f) (s : State) :
    (forList l f s).pending = s.pending := forList_keeps l h s

@[simp] theorem forNat_pending {f : Nat → State → State} (h : Keeps State.pending f) (s : State) :
    (forNat n f s).pending = s.pending := forNat_keeps n h s

end loops

/-! ### Answers and requests -/

@[simp] theorem State.respond_pending (via : Via) (session : Nat) (tag : Word) (a : Ans) (s : State) :
    (s.respond via session tag a).pending = s.pending := by
  unfold State.respond
  split
  · simp
  · rfl

@[simp] theorem State.overrun_pending (m : Nat) (s : State) : (s.overrun m).pending = s.pending := rfl

@[simp] theorem State.deliver_pending (r : Req) (a : Option Ans × Device) (s : State) : (s.deliver r a).pending = s.pending := by
  unfold State.deliver
  split
  · simp
  · split <;> rfl

@[simp] theorem State.settleMailboxes_pending (s : State) : s.settleMailboxes.pending = s.pending := by
  simp [State.settleMailboxes]

@[simp] theorem State.execute_pending (h : Handler) (r : Raw) (s : State) : (s.execute h r).pending = s.pending := by
  unfold State.execute
  dsimp only
  split <;> simp

@[simp] theorem State.executeFrame_pending (h : Handler) (r : Raw) (s : State) : (s.executeFrame h r).pending = s.pending := by
  unfold State.executeFrame
  split <;> simp

@[simp] theorem State.dropFrame_pending (f : FrameWait) (s : State) : (s.dropFrame f).pending = s.pending := rfl

@[simp] theorem State.frameRow_pending (code : Nat) (h : Handler) (via : Via) (bytes : List Byte) (s : State) :
    (s.frameRow code h via bytes).pending = s.pending := by
  unfold State.frameRow
  dsimp only
  split
  · rfl
  · split
    · simp
    · simp

/-! ### Accesses -/

@[simp] theorem State.answerUnknown_pending (m : Nat) (s : State) : (s.answerUnknown m).pending = s.pending := by
  simp [State.answerUnknown]

@[simp] theorem State.doorbell_pending (m : Nat) (s : State) : (s.doorbell m).pending = s.pending := by
  simp [State.doorbell]

@[simp] theorem State.mbxRegWrite_pending (m off : Nat) (a : Access) (s : State) : (s.mbxRegWrite m off a).pending = s.pending := by
  unfold State.mbxRegWrite
  dsimp only
  split <;> simp

@[simp] theorem State.mbxBufWrite_pending (m off : Nat) (a : Access) (s : State) : (s.mbxBufWrite m off a).pending = s.pending := by
  simp [State.mbxBufWrite]

@[simp] theorem State.write_pending (a : Access) (s : State) : (s.write a).pending = s.pending := by
  unfold State.write
  dsimp only
  split
  · rfl
  · split
    · simp
    · split <;> simp

@[simp] theorem State.writeReg_pending (a : Access) (s : State) : (s.writeReg a).pending = s.pending := by
  unfold State.writeReg
  split <;> simp

@[simp] theorem State.writes_pending (l : List Access) (s : State) : (s.writes l).pending = s.pending := by simp [State.writes]

@[simp] theorem State.serve_pending (n : Nat) (l : List Access) (s : State) : (State.serve n l s).pending = s.pending := by
  induction n generalizing l s with
  | zero => rfl
  | succ n ih => simp [State.serve, ih]

@[simp] theorem State.readReg_pending (p : Port) (addr : BitVec 24) (s : State) : (s.readReg p addr).2.pending = s.pending := by
  unfold State.readReg
  dsimp only
  split
  · rfl
  · split
    · rfl
    · split <;> rfl

@[simp] theorem State.readBy_pending (p : Port) (addr : BitVec 24) (s : State) : (s.readBy p addr).pending = s.pending :=
  State.readReg_pending p addr s

@[simp] theorem State.readFrame_pending (clocks : List (BitVec 4)) (s : State) : (s.readFrame clocks).pending = s.pending := by
  simp [State.readFrame]

@[simp] theorem State.placeCompletion_pending (id : Nat) (s : State) : (s.placeCompletion id).pending = s.pending := by
  unfold State.placeCompletion
  split
  · rfl
  · split
    · rfl
    · simp

/-! ### Commits and the boundary -/

@[simp] theorem State.writeAnswers_pending (l : List (Waiter × BitVec 16 × List Byte × Nat)) (s : State) :
    (s.writeAnswers l).pending = s.pending := by simp [State.writeAnswers]

@[simp] theorem State.decideBatch_pending (s : State) : s.decideBatch.pending = s.pending := by
  unfold State.decideBatch
  dsimp only
  split <;> simp

@[simp] theorem State.reserveTimeout_pending (s : State) : s.reserveTimeout.pending = s.pending := by
  unfold State.reserveTimeout
  split
  · split
    · split <;> simp
    · rfl
  · rfl

@[simp] theorem State.takeCommit_pending (s : State) : s.takeCommit.pending = s.pending := by
  unfold State.takeCommit
  dsimp only
  split
  · simp
  · split <;> simp

@[simp] theorem State.takeCommits_pending (s : State) : s.takeCommits.pending = s.pending := by simp [State.takeCommits]
@[simp] theorem State.boundaryBatch_pending (s : State) : s.boundaryBatch.pending = s.pending := by simp [State.boundaryBatch]

@[simp] theorem State.routeAnswer_pending (r : ReserveReply) (s : State) : (s.routeAnswer r).pending = s.pending := by
  unfold State.routeAnswer
  split
  · rfl
  · dsimp only
    split
    · split
      · simp
      · split <;> simp
    · rfl

@[simp] theorem State.reserveAnswer_pending (r : ReserveReply) (s : State) : (s.reserveAnswer r).pending = s.pending := by
  unfold State.reserveAnswer
  split <;> simp

@[simp] theorem State.answerAsk_pending (src key effect : Nat) (items : List ReserveItem) (lanes : List LaneSum) (s : State) :
    (s.answerAsk src key effect items lanes).pending = s.pending := by simp [State.answerAsk]

@[simp] theorem State.answerAsked_pending (s : State) : s.answerAsked.pending = s.pending := by
  unfold State.answerAsked
  split
  · rfl
  · exact forList_pending _ (fun x s => by obtain ⟨src, ask, lanes⟩ := x; cases ask <;> simp) _

@[simp] theorem State.takeAsk_pending (src : Nat) (a : ReserveAsk) (lanes : List LaneSum) (s : State) :
    (s.takeAsk src a lanes).pending = s.pending := by
  unfold State.takeAsk
  dsimp only
  split <;> simp

@[simp] theorem State.answerTo_pending (t : Txn) (a : Ans) (s : State) : (s.answerTo t a).pending = s.pending := by
  unfold State.answerTo
  split <;> simp

@[simp] theorem State.beginFails_pending (t : Txn) (st : BitVec 16) (s : State) : (s.beginFails t st).pending = s.pending := by
  simp [State.beginFails]

@[simp] theorem State.openReply_pending (src txn : Nat) (status : BitVec 16) (s : State) :
    (s.openReply src txn status).pending = s.pending := by
  unfold State.openReply
  split
  · rfl
  · simp

@[simp] theorem State.coordinate_pending (e : Nat) (t : Txn) (s : State) : (s.coordinate e t).pending = s.pending := by
  simp [State.coordinate]

@[simp] theorem State.fabricTxns_pending (e : Nat) (s : State) : (s.fabricTxns e).pending = s.pending := by simp [State.fabricTxns]
@[simp] theorem State.boundaryFront_pending (x : EpochInput) (s : State) : (s.boundaryFront x).pending = s.pending := by
  simp [State.boundaryFront]
@[simp] theorem State.boundaryStep_pending (x : EpochInput) (s : State) : (s.boundaryStep x).pending = s.pending := by
  simp [State.boundaryStep]

end Sys2Proof.Machine
end

section
namespace Sys2Proof.Machine

/-! O2 and O5: every command answers, leaves the queue alone, and either runs words and moves on the mailboxes or resets the device. -/

/-! ### What a command answers -/

/-- Words that ports write and then moves of the firmware: a step of the mailboxes that is no reset. -/
def MbxRun (l l' : Tbl Mailbox) : Prop := ∃ k, MbxWords l k ∧ MbxMoves k l'

theorem MbxRun.refl {l : Tbl Mailbox} : MbxRun l l := ⟨l, .refl, .refl⟩
theorem MbxRun.moves {l l' : Tbl Mailbox} (h : MbxMoves l l') : MbxRun l l' := ⟨l, .refl, h⟩
theorem MbxRun.words {l l' : Tbl Mailbox} (h : MbxWords l l') : MbxRun l l' := ⟨l', h, .refl⟩

/-- The command answers a state with the same queue; its mailboxes have run, or a reset has emptied them. -/
def Runs (s : State) (o : Host.Outcome State Fault Refusal) : Prop :=
  ∃ t, o = .next t ∧ t.pending = s.pending ∧ (MbxRun s.mbx t.mbx ∨ (t.mbx = [] ∧ t.dev.pw.mode = .reset))

variable {s : State}

theorem runs_next {t : State} (hp : t.pending = s.pending) (hm : MbxRun s.mbx t.mbx) : Runs s (.next t) := ⟨t, rfl, hp, .inl hm⟩

theorem runs_moves {t : State} (hp : t.pending = s.pending) (hm : MbxMoves s.mbx t.mbx) : Runs s (.next t) := runs_next hp (.moves hm)

theorem runs_dev (d : Device) : Runs s (.next { s with dev := d }) := runs_next rfl .refl

theorem runs_stay (s : State) : Runs s (.next s) := runs_next rfl .refl

theorem runs_onDev (f : Device → Device) : Runs s (onDev f s) := runs_dev (f s.dev)

theorem runs_ite {p : Prop} [Decidable p] {a b : Host.Outcome State Fault Refusal} (ha : Runs s a) (hb : Runs s b) :
    Runs s (if p then a else b) := by split <;> assumption

theorem runs_reset {d : Device} (h : d.pw.mode = .reset) : Runs s (.next (s.resetTo d)) := ⟨_, rfl, rfl, .inr ⟨rfl, h⟩⟩

/-! ### The shapes of the commands -/

theorem runs_fwRow (code : Nat) (h : Handler) (src : ReqSource) : Runs s (fwRow code h src s) := by
  induction src generalizing h with
  | mailbox m => exact runs_ite (runs_moves (State.execute_pending h _ s) (State.execute_moves rfl h _)) (runs_stay s)
  | returnLane f => exact runs_moves (State.frameRow_pending code h _ _ s) (State.frameRow_moves code h _ _ s)
  | fabric p f => exact runs_moves (State.frameRow_pending code h _ _ s) (State.frameRow_moves code h _ _ s)
  | faulted src ih => exact ih internalFault

/-- Words of the ports, and then what the firmware answers of itself to the four mailboxes. -/
theorem answered_run {t : State} (h : MbxWords s.mbx t.mbx) : MbxRun s.mbx (forNat 4 State.answerUnknown t).mbx :=
  ⟨_, h, forNat_moves rfl _ _ fun m _ => State.answerUnknown_moves rfl m⟩

theorem State.writes_run (l : List Access) (s : State) : MbxRun s.mbx (s.writes l).mbx := by
  unfold State.writes
  split
  · exact .refl
  · exact answered_run (forList_words l _ State.write_words s)

theorem State.writeReg_run (a : Access) (s : State) : MbxRun s.mbx (s.writeReg a).mbx := by
  unfold State.writeReg
  split
  · exact ⟨_, State.write_words a s, State.answerUnknown_moves rfl _⟩
  · exact .words (State.write_words a s)

theorem runs_writeReg (a : Access) : Runs s (.next (s.writeReg a)) := runs_next (s.writeReg_pending a) (s.writeReg_run a)

theorem runs_writeRow (ok : Nat → Bool) (a : Access) : Runs s (writeRow ok a s) := runs_ite (runs_writeReg a) (runs_stay s)

theorem runs_readBy (port : Port) (addr : BitVec 24) : Runs s (.next (s.readBy port addr)) :=
  runs_next (s.readBy_pending port addr) (State.readBy_mbx port addr s ▸ .refl)

theorem runs_readFrame {p : Prop} [Decidable p] (clocks : List (BitVec 4)) :
    Runs s (if p then .next (s.readFrame clocks) else .next s) :=
  runs_ite (runs_next (s.readFrame_pending clocks) (State.readFrame_mbx clocks s ▸ .refl)) (runs_stay s)

theorem runs_registerWrite (w : WriteIn) : Runs s (execRegisterWrite w s) := by
  cases w with
  | one a => exact runs_writeReg a
  | frame clocks => exact runs_ite (runs_stay s) (runs_next (s.writes_pending _) (s.writes_run _))
  | together l => exact runs_next (by simp) (answered_run (State.serve_words 3 l s))

theorem runs_badFrame (opcode rest : List (BitVec 4)) : Runs s (execBadFrame opcode rest s) :=
  runs_ite (runs_next (s.writes_pending (cpWrites (opcode ++ rest))) (s.writes_run (cpWrites (opcode ++ rest)))) (runs_stay s)

theorem runs_remoteRegisterAccess (src : Nat) (write : Bool) (addr : BitVec 24) (value : Word) :
    Runs s (execRemoteRegisterAccess src write addr value s) := by
  refine runs_ite (runs_stay s) (runs_ite (runs_onDev _) (runs_ite ?written ?read))
  case written => exact runs_next (s.writeReg_pending _) (s.writeReg_run ⟨.fabric, 0#8, addr, value⟩)
  case read => exact runs_next (s.readBy_pending .fabric addr) (State.readBy_mbx .fabric addr s ▸ .refl)

theorem runs_cartFifoPop (r : RegRead) : Runs s (execCartFifoPop r s) := by
  cases r with
  | one port => exact runs_readBy port _
  | frame clocks => exact runs_readFrame clocks

theorem runs_timeLoRead (r : RegRead) : Runs s (execTimeLoRead r s) := by
  cases r with
  | one port => exact runs_readBy port _
  | frame clocks => exact runs_readFrame clocks

theorem runs_completionPlace (i : Fin 17) : Runs s (execCompletionPlace i s) :=
  runs_ite (runs_moves (s.placeCompletion_pending i) (State.placeCompletion_moves i s)) (runs_stay s)

theorem runs_lockstepRepaired : Runs s (execLockstepRepaired s) := by
  refine runs_ite (runs_moves (by simp) ?_) (runs_stay s)
  apply forNat_moves
  · rfl
  · exact fun m _ => State.answerUnknown_moves rfl m

theorem runs_reserveRequest (src : Nat) (a : ReserveAsk) (l : List LaneSum) : Runs s (execReserveRequest src a l s) := by
  refine runs_ite (runs_ite (runs_moves (by simp) ?own) (runs_moves (by simp) ?other)) (runs_stay s)
  case own => exact State.takeAsk_moves rfl _ _ _
  case other =>
    apply State.takeAsk_moves
    rfl

theorem runs_reserveAnswer (r : ReserveReply) : Runs s (execReserveAnswer r s) := by
  refine runs_ite (runs_stay s) (runs_moves (by simp) ?_)
  apply State.reserveAnswer_moves
  rfl

theorem runs_fabricTxnOpenReply (src txn : Nat) (status : BitVec 16) : Runs s (execFabricTxnOpenReply src txn status s) := by
  refine runs_moves (by simp) ?_
  apply State.openReply_moves
  rfl

theorem runs_resetAssert : Runs s (execResetAssert s) := runs_ite (runs_onDev _) (runs_reset rfl)

theorem runs_brownout (rails : BitVec 6) : Runs s (execBrownout rails s) :=
  runs_ite (runs_stay s) (runs_ite (runs_reset rfl) (runs_ite (runs_onDev _) (runs_reset rfl)))

theorem runs_epochBoundary (inp : EpochInput) : Runs s (execEpochBoundary inp s) :=
  runs_ite (runs_stay s) (runs_ite (runs_reset rfl) (runs_moves (by simp) (State.boundaryStep_moves inp { s with dev := s.dev.wrapTime })))

theorem runs_millResultReady (x : MillIn) : Runs s (execMillResultReady x s) := by
  unfold execMillResultReady
  dsimp only
  split
  · exact runs_dev _
  · split
    · exact runs_dev _
    · exact runs_ite (runs_dev _) (runs_dev _)

theorem runs_fabricMessageResponse (peer : Nat) (bytes : List Byte) : Runs s (execFabricMessageResponse peer bytes s) := by
  unfold execFabricMessageResponse
  split
  · exact runs_dev _
  · exact runs_ite (runs_stay s) (runs_onDev _)

theorem runs_fabricForwardTimeout (peer : Nat) (tag : Word) : Runs s (execFabricForwardTimeout peer tag s) := by
  unfold execFabricForwardTimeout
  split
  · exact runs_ite (runs_dev _) (runs_stay s)
  · exact runs_stay s

theorem runs_cartDelivery (dest : Fin 3) (x : DeliveryIn) : Runs s (execCartDelivery dest x s) := by
  unfold execCartDelivery
  split
  · exact runs_ite (runs_onDev _) (runs_stay s)
  · exact runs_ite (runs_onDev _) (runs_stay s)
  · exact runs_onDev _

theorem runs_rampDownEnd (ch : Fin 128) (t : Nat) : Runs s (execRampDownEnd ch t s) := by
  refine runs_ite (runs_stay s) ?_
  split
  · exact runs_onDev _
  · exact runs_onDev _
  · exact runs_stay s

theorem runs_healthReport (frame : List Byte) (t : Nat) : Runs s (execHealthReport frame t s) := by
  refine runs_ite ?_ (runs_stay s)
  split
  · exact runs_onDev _
  · exact runs_ite (runs_stay s) (runs_onDev _)

theorem runs_calMeasurementDone (t : Nat) : Runs s (execCalMeasurementDone t s) := by
  unfold execCalMeasurementDone
  split
  · split
    · exact runs_ite (runs_onDev _) (runs_stay s)
    · exact runs_stay s
  · exact runs_stay s

theorem runs_guardCurrentLimit (g : Fin 32) (t : Nat) : Runs s (execGuardCurrentLimit g t s) := by
  unfold execGuardCurrentLimit
  split
  · exact runs_onDev _
  · exact runs_onDev _
  · exact runs_stay s

/-! ### Every command -/

theorem exec_runs (c : Instr) : Runs s (exec c s) := by
  cases c
  case resetRelease | bootStageEnd | supplyWarningCleared | xoAbsent | granarySelfRefresh | synthesizerReady | referenceEdge | slewDone
      | modulatorOverload | modulatorRecovered | widebandSample | pointSampleReady | isolationSwitchesClosed | modulatorRelease
      | excitationRampEnd | qServoSettle | disablePinsReleased | fastDetection | detectorRelease | trigInEdge | trigOutPulse
      | bellInEdge | alignmentMarker | laneFault | returnLaneBadCrc | lockstepMismatch | fabricPortUp | fabricRetrain | beacon
      | addressRequest | addressAssignment | streamAck | returnLaneLocked | fabricFrameBadCrc | controlFrameForward
      | densityReadoutDone | hearthPowerDownDone | countWindow | bandSearchEnd | synthesizerRetry | referenceLost | postedAccessDone
      | postedAccessNack | hello | delayExchange =>
    exact runs_ite (runs_onDev _) (runs_stay s)
  case supplyWarning | granaryWrite | granaryScrubPass | pointRampUp | fabricTriggerMessage | fabricTxnOpen | fabricPrepare
      | fabricDecision | fabricDecisionQuery | routeFailure | basePresent | identityReady =>
    exact runs_ite (runs_stay s) (runs_onDev _)
  case fabricPortDown | lockLost | fabricTriggerSend | fabricVote | fabricDecisionAck | guardCurrentLimitReleased | returnLaneLockLost
      | jtagInstruction | captureReadoutDone =>
    dsimp only [exec, execFabricPortDown, execLockLost, execFabricTriggerSend, execFabricVote, execFabricDecisionAck,
      execGuardCurrentLimitReleased, execReturnLaneLockLost, execJtagInstruction, execCaptureReadoutDone]
    exact runs_onDev _
  -- what is due, if anything
  case parityRepair | currentSwap | timeStep | timeSetTimeout | cartFillTimeout | gainSwitch | gainReady | checkPhase
      | checkClassification | externalEdgeAccepted | recordClose | bellTick | bankWriteDone | densitySnapshotComplete | hostOkTimeout =>
    dsimp only [exec, execParityRepair, execCurrentSwap, execTimeStep, execTimeSetTimeout, execCartFillTimeout, execGainSwitch,
      execGainReady, execCheckPhase, execCheckClassification, execExternalEdgeAccepted, execRecordClose, execBellTick, execBankWriteDone,
      execDensitySnapshotComplete, execHostOkTimeout]
    split
    · exact runs_ite (runs_onDev _) (runs_stay s)
    · exact runs_stay s
  case holdingWindowSwitch =>
    dsimp only [exec, execHoldingWindowSwitch]
    split
    · exact runs_onDev _
    · exact runs_stay s
  case loopbackDone | selftestDone =>
    dsimp only [exec, execLoopbackDone, execSelftestDone]
    split
    · exact runs_stay s
    · exact runs_ite (runs_onDev _) (runs_stay s)
  case fwVerifyDone | fabricBellAck =>
    dsimp only [exec, execFwVerifyDone, execFabricBellAck]
    split
    · exact runs_stay s
    · exact runs_onDev _
  case fabricBell | fabricCart => exact runs_ite (runs_stay s) (runs_ite (runs_onDev _) (runs_onDev _))
  -- the requests, each by its handler
  case sessionOpen | sessionClose | sessionKeepalive | sessionList | txnBegin | txnCommit | txnAbort | txnStatus | chanConfig | chanQuery
      | chanEnable | pointConfig | pointQuery | carrierPlanCheck | linLoad | linQuery | linPersist | streamConfig | streamQuery
      | regionConfig | captureArm | captureDisarm | captureRead | tallyConfig | aoutConfig | millConfig | millQuery | densityConfig
      | densityRead | trigConfig | trigQuery | trigForce | calBegin | calPoint | calCommit | calAbort | ledgerRead | shepherdConfig
      | timeSet | timeQuery | clockConfig | clockQuery | holdoverPolicy | fabricStatus | fabricPolicy | fabricRouteQuery
      | fabricForward | bellSchedule | modeSet | modeQuery | hearthEnter | supplyQuery | diagSelftest | diagLoopback | diagLogRead
      | fwStage | fwActivate | fwQuery =>
    exact runs_fwRow _ _ _
  -- the accesses
  case eventClear | mbxRequestWrite | mbxDoorbell | rspDone | bellRing | lockSet | dlEnable | postedWrite =>
    dsimp only [exec, execEventClear, execMbxRequestWrite, execMbxDoorbell, execRspDone, execBellRing, execLockSet, execDlEnable,
      execPostedWrite]
    exact runs_writeRow _ _
  case bellSnap | dlForce => exact runs_ite (runs_writeRow _ _) (runs_stay s)
  case dlDisable => exact runs_ite (runs_stay s) (runs_writeRow _ _)
  case registerWrite => exact runs_registerWrite _
  case badFrame => exact runs_badFrame _ _
  case remoteRegisterAccess => exact runs_remoteRegisterAccess _ _ _ _
  case cartFifoPop => exact runs_cartFifoPop _
  case timeLoRead => exact runs_timeLoRead _
  case postedRead => exact runs_ite (runs_readBy _ _) (runs_stay s)
  -- the firmware's own work
  case completionPlace => exact runs_completionPlace _
  case lockstepRepaired => exact runs_lockstepRepaired
  case reserveRequest => exact runs_reserveRequest _ _ _
  case reserveAnswer => exact runs_reserveAnswer _
  case reserveTimeout => exact runs_moves (by simp) (State.reserveTimeout_moves rfl)
  case fabricTxnOpenReply => exact runs_fabricTxnOpenReply _ _ _
  case fabricMessageResponse => exact runs_fabricMessageResponse _ _
  case fabricForwardTimeout => exact runs_fabricForwardTimeout _ _
  -- resets and the boundary
  case resetAssert => exact runs_resetAssert
  case brownout => exact runs_brownout _
  case epochBoundary => exact runs_epochBoundary _
  case millResultReady => exact runs_millResultReady _
  case cartDelivery => exact runs_cartDelivery _ _
  case rampDownEnd => exact runs_rampDownEnd _ _
  case healthReport => exact runs_healthReport _ _
  case calMeasurementDone => exact runs_calMeasurementDone _
  case guardCurrentLimit => exact runs_guardCurrentLimit _ _

/-- Settles O2: every command answers, by `exec_runs`, and leaves the queue alone. -/
theorem everyCommandCompletes : Obligations.EveryCommandCompletes := by
  unfold Obligations.EveryCommandCompletes
  intro c s
  obtain ⟨t, he, hpending, -⟩ := exec_runs (s := s) c
  exact ⟨t, he, hpending⟩

/-! ### A busy request buffer -/

/-- Mailbox m is not handed back by a word, and its request buffer stays while it is busy. -/
theorem MbxWord.keeps_busy {l l' : Tbl Mailbox} (e : MbxWord l l') (hwf : twf Mailbox.init l = true) {m : Nat}
    (hbusy : (tget Mailbox.init l m).reqBusy = true) :
    (tget Mailbox.init l' m).reqBusy = true ∧ (tget Mailbox.init l' m).request = (tget Mailbox.init l m).request := by
  cases e with
  | write k off w hidle _ _ =>
    rw [tget_tmod hwf, if_neg fun h => by rw [h, hidle] at hbusy; cases hbusy]
    exact ⟨hbusy, rfl⟩
  | ring k n epoch hidle =>
    rw [tget_tmod hwf, if_neg fun h => by rw [h, hidle.1] at hbusy; cases hbusy]
    exact ⟨hbusy, rfl⟩
  | release k | overrun k | length k f =>
    rw [tget_tmod hwf]
    split
    · subst_vars
      exact ⟨hbusy, rfl⟩
    · exact ⟨hbusy, rfl⟩

/-- No move of the firmware changes a request buffer. -/
theorem MbxMove.request_eq {l l' : Tbl Mailbox} (e : MbxMove l l') (hwf : twf Mailbox.init l = true) (m : Nat) :
    (tget Mailbox.init l' m).request = (tget Mailbox.init l m).request := by
  cases e with
  | answer k bytes _ | place k bytes _ | settle k | take k =>
    rw [tget_tmod hwf]
    split
    · subst_vars
      rfl
    · rfl

theorem MbxWord.keeps_wf {l l' : Tbl Mailbox} (e : MbxWord l l') (hwf : twf Mailbox.init l = true) : twf Mailbox.init l' = true := by
  cases e <;> exact twf_tmod hwf _ _

theorem MbxMove.keeps_wf {l l' : Tbl Mailbox} (e : MbxMove l l') (hwf : twf Mailbox.init l = true) : twf Mailbox.init l' = true := by
  cases e <;> exact twf_tmod hwf _ _

/-- What is kept through a run that mailbox m begins busy: a canonical table, and the request buffer as it stood. -/
theorem MbxRun.busy_request {l l' : Tbl Mailbox} (e : MbxRun l l') (hwf : twf Mailbox.init l = true) {m : Nat}
    (hbusy : (tget Mailbox.init l m).reqBusy = true) : (tget Mailbox.init l' m).request = (tget Mailbox.init l m).request := by
  obtain ⟨k, hwords, hmoves⟩ := e
  have hk : twf Mailbox.init k = true ∧ (tget Mailbox.init k m).reqBusy = true ∧
      (tget Mailbox.init k m).request = (tget Mailbox.init l m).request :=
    hwords.keeps (P := fun j => twf Mailbox.init j = true ∧ (tget Mailbox.init j m).reqBusy = true ∧
        (tget Mailbox.init j m).request = (tget Mailbox.init l m).request)
      (fun _ _ e ⟨hj, hb, hr⟩ => by
        obtain ⟨hb', hr'⟩ := e.keeps_busy hj hb
        exact ⟨e.keeps_wf hj, hb', hr'.trans hr⟩) ⟨hwf, hbusy, rfl⟩
  obtain ⟨hkwf, -, hkreq⟩ := hk
  exact (hmoves.keeps (P := fun j => twf Mailbox.init j = true ∧ (tget Mailbox.init j m).request = (tget Mailbox.init l m).request)
    (fun _ _ e ⟨hj, hr⟩ => ⟨e.keeps_wf hj, (e.request_eq hj m).trans hr⟩) ⟨hkwf, hkreq⟩).2

theorem step_runs (s : State) : ∃ t, step s = .next t ∧ (MbxRun s.mbx t.mbx ∨ (t.mbx = [] ∧ t.dev.pw.mode = .reset)) := by
  unfold step
  split
  · exact ⟨s, rfl, .inl .refl⟩
  · rename_i c cs _
    obtain ⟨t, he, -, h⟩ := exec_runs (s := { s with pending := cs }) c
    exact ⟨t, he, h⟩

/-- Settles O5: a step runs on the mailboxes, which keeps a busy buffer, or resets the device. -/
theorem busyRequestBufferDoesNotChange : Obligations.BusyRequestBufferDoesNotChange := by
  unfold Obligations.BusyRequestBufferDoesNotChange
  intro s t m hs e hbusy
  obtain ⟨u, hu, h⟩ := step_runs s
  obtain rfl : u = t := Host.Outcome.next.inj (hu.symm.trans e)
  rcases h with hrun | hreset
  · obtain ⟨hwf, -⟩ := hs
    exact .inr (hrun.busy_request hwf hbusy)
  · exact .inl hreset

end Sys2Proof.Machine
end

section
namespace Sys2Proof.Machine

/-! Event registers and reports. What a register shows after an occurrence is recorded, whatever the table of registers holds; and what an operation that only reports leaves as it is: everything but counters, carts, the fabric, the log and the sessions' queues, and no event bit that is set (R314). -/

theorem Device.evt_raise {i : Nat} {b : BitVec 24} (hb : b &&& evtMask i ≠ 0#24) (d : Device) (j : Nat) :
    (d.raise i b).evt j = if j = i then (d.evt i).record d.clk.cycle (b &&& evtMask i) else d.evt j := by
  have hne : (d.evt i).record d.clk.cycle (b &&& evtMask i) ≠ Evt.init := fun h0 =>
    hb (BitVec.or_eq_zero_iff.mp (congrArg Evt.bits h0)).2
  rw [Device.raise, if_neg hb]
  change tget Evt.init (tput Evt.init d.evts i ((d.evt i).record d.clk.cycle (b &&& evtMask i))) j = _
  rw [tput, if_neg hne, tget, tfind_tinsert]
  split <;> rfl

theorem Device.evt_raise_bits (i : Nat) (b : BitVec 24) (d : Device) (j : Nat) :
    ((d.raise i b).evt j).bits = if j = i then (d.evt i).bits ||| (b &&& evtMask i) else (d.evt j).bits := by
  by_cases hb : b &&& evtMask i = 0#24
  · rw [Device.raise, if_pos hb, hb, BitVec.or_zero]
    split
    · next h => rw [h]
    · rfl
  · rw [Device.evt_raise hb]
    split <;> rfl

/-- An operation leaves a part of the device as it is, and every event bit set that was. -/
structure Device.Grows {α : Type} (g : Device → α) (d e : Device) : Prop where
  same : g e = g d
  bits : ∀ i j, (d.evt i).bits.getLsbD j = true → (e.evt i).bits.getLsbD j = true

/-- What a report leaves as it is: all but event registers, counters, carts, the fabric, free values, the log and the sessions. -/
def Device.core (d : Device) : Device :=
  { d with evts := [], cnt := Counters.init, port := PortSt.reset, fab := Fabric.reset, free := 0, fw := { d.fw with sessions := [] },
           pw := { d.pw with logRead := false }, nv := { d.nv with log := [], logNext := 0 } }

/-- What the firmware's long work leaves as it is besides: all but that work and the nonvolatile die. -/
def Device.shell (d : Device) : Device := { d.core with work := Work.reset, nv := NonVol.init }

section grows
variable {α β : Type} {g : Device → α} {d e f : Device}

theorem Device.Grows.refl (d : Device) : Device.Grows g d d := ⟨rfl, fun _ _ h => h⟩

theorem Device.Grows.trans (h : Device.Grows g d e) (k : Device.Grows g e f) : Device.Grows g d f :=
  ⟨k.same.trans h.same, fun i j hb => k.bits i j (h.bits i j hb)⟩

theorem Device.Grows.map (k : α → β) (h : Device.Grows g d e) : Device.Grows (fun d => k (g d)) d e := ⟨congrArg k h.same, h.bits⟩

theorem Device.Grows.of_evts (h : g e = g d) (he : e.evts = d.evts) : Device.Grows g d e := ⟨h, fun i j hb => by rwa [Device.evt, he]⟩

theorem Device.Grows.toShell (h : Device.Grows Device.core d e) : Device.Grows Device.shell d e :=
  h.map fun c => { c with work := Work.reset, nv := NonVol.init }

theorem forList_grows (l : List β) {k : β → Device → Device} (h : ∀ x d, Device.Grows g d (k x d)) (d : Device) :
    Device.Grows g d (forList l k d) := by
  induction l generalizing d with
  | nil => exact .refl d
  | cons x l ih => exact (h x d).trans (ih (k x d))

theorem forNat_grows (n : Nat) {k : Nat → Device → Device} (h : ∀ x d, Device.Grows g d (k x d)) (d : Device) :
    Device.Grows g d (forNat n k d) := forList_grows (List.range n) h d

end grows

theorem Device.raise_grows (i : Nat) (b : BitVec 24) (d : Device) : Device.Grows Device.core d (d.raise i b) := by
  refine ⟨by unfold Device.raise; split <;> rfl, fun k j hb => ?_⟩
  rw [Device.evt_raise_bits]
  split
  · next h => subst h; simp [hb]
  · exact hb

theorem Device.logPut_grows (k : Nat) (l : List Nat) (d : Device) : Device.Grows Device.core d (d.logPut k l) := by
  unfold Device.logPut
  dsimp only
  split
  · refine .trans ?_ (Device.raise_grows _ _ _)
    exact .of_evts rfl rfl
  · exact .of_evts rfl rfl

theorem Device.send_grows (x : OutFrame) (d : Device) : Device.Grows Device.core d (d.send x) :=
  (forList_grows (k := fun k d => d.countPort k fcTx) _ (fun _ _ => .of_evts rfl rfl) d).trans (.of_evts rfl rfl)

theorem Device.toPort_grows (x : ReadyCart) (d : Device) : Device.Grows Device.core d (d.toPort x) := by
  unfold Device.toPort
  split <;> exact .of_evts rfl rfl

theorem Device.toFifo_grows (c : Cart) (d : Device) : Device.Grows Device.core d (d.toFifo c) := by
  unfold Device.toFifo
  dsimp only
  split <;> exact .of_evts rfl rfl

theorem Device.ite_grows {α : Type} {g : Device → α} {d e f : Device} (p : Prop) [Decidable p] (h : Device.Grows g d e) (k : Device.Grows g d f) :
    Device.Grows g d (if p then e else f) := by
  split
  · exact h
  · exact k

theorem Device.formCartAt_grows (at_ type stream time : Nat) (tag : BitVec 16) (flags : BitVec 14) (count : Nat)
    (words : List Word) (bound dests : Nat) (d : Device) :
    Device.Grows Device.core d (d.formCartAt at_ type stream time tag flags count words bound dests) := by
  unfold Device.formCartAt
  extract_lets flags c p d1 d2 d3
  refine Device.ite_grows _ (.refl d) ?_
  have h1 : Device.Grows Device.core d d1 := .of_evts rfl rfl
  have h2 : Device.Grows Device.core d d2 := h1.trans (Device.ite_grows _ (Device.toPort_grows _ _) (.refl _))
  have h3 : Device.Grows Device.core d d3 := h2.trans (Device.ite_grows _ (Device.toFifo_grows _ _) (.refl _))
  exact h3.trans (Device.ite_grows _ (.of_evts rfl rfl) (.refl _))

theorem Device.messageCart_grows (bytes : List Byte) (d : Device) : Device.Grows Device.core d (d.messageCart bytes) :=
  .trans (e := { d with port := { d.port with messages := d.port.messages + 1 } }) (.of_evts rfl rfl) (Device.formCartAt_grows ..)

theorem Device.sendMessage_grows (v : Via) (bytes : List Byte) (d : Device) : Device.Grows Device.core d (d.sendMessage v bytes) := by
  unfold Device.sendMessage
  split
  · exact .refl d
  · exact Device.ite_grows _ (Device.messageCart_grows bytes d) (.of_evts rfl rfl)
  · exact Device.send_grows _ d

theorem Device.setSession_grows (i : Nat) (f : Session → Session) (d : Device) : Device.Grows Device.core d (d.setSession i f) :=
  .of_evts rfl rfl

theorem Device.complete_grows (w : Waiter) (status : BitVec 16) (payload : List Byte) (d : Device) (epoch : Option Nat) :
    Device.Grows Device.core d (d.complete w status payload epoch) := by
  unfold Device.complete
  extract_lets c
  split
  · exact .refl d
  · rename_i d1 d2 _ s _
    have h1 : Device.Grows Device.core d d1 := Device.setSession_grows _ _ d
    have h2 : Device.Grows Device.core d1 d2 := Device.setSession_grows _ _ d1
    split
    · exact h1
    · exact Device.ite_grows _ ((h1.trans h2).trans (Device.sendMessage_grows _ _ d2)) h1

theorem Device.completeOpt_grows (w : Option Waiter) (status : BitVec 16) (payload : List Byte) (d : Device) :
    Device.Grows Device.core d (d.completeOpt w status payload) := by
  unfold Device.completeOpt
  split
  · exact .refl d
  · exact Device.complete_grows _ _ _ d none

end Sys2Proof.Machine
end

section
namespace Sys2Proof.Machine

/-! O10: a rail's warning. What follows it abandons writes and images, which stays within the firmware's long work. -/

section shell
variable {d e : Device}

theorem Device.Grows.raise (h : Device.Grows Device.core d e) (i : Nat) (b : BitVec 24) : Device.Grows Device.core d (e.raise i b) :=
  h.trans (Device.raise_grows i b e)

theorem Device.Grows.logPut (h : Device.Grows Device.core d e) (k : Nat) (l : List Nat) : Device.Grows Device.core d (e.logPut k l) :=
  h.trans (Device.logPut_grows k l e)

theorem Device.startWrite_grows (d : Device) : Device.Grows Device.shell d d.startWrite := by
  unfold Device.startWrite
  split
  · exact .refl d
  · exact Device.ite_grows _ (.of_evts rfl rfl) (.of_evts rfl rfl)

theorem Device.addWrite_grows (w : StoreWrite) (d : Device) : Device.Grows Device.shell d (d.addWrite w) := by
  unfold Device.addWrite
  extract_lets w1 d1
  have h : Device.Grows Device.shell d d1 := .of_evts rfl rfl
  exact Device.ite_grows _ (h.trans (Device.startWrite_grows d1)) h

theorem Device.persistReject_grows (d : Device) : Device.Grows Device.shell d d.persistReject := by
  refine Device.ite_grows _ (.trans ?_ (Device.addWrite_grows _ _)) (.refl d)
  exact .of_evts rfl rfl

theorem Device.reject_grows (f : CalFail) (d : Device) : Device.Grows Device.shell d (d.reject f) := by
  refine .trans ?_ (Device.persistReject_grows _)
  refine .trans ?_ (Device.raise_grows _ _ _).toShell
  exact .of_evts rfl rfl

theorem Device.abandonWrite_grows (w : StoreWrite) (d : Device) : Device.Grows Device.shell d (d.abandonWrite w) := by
  unfold Device.abandonWrite
  split
  · exact (Device.reject_grows _ d).trans (Device.completeOpt_grows _ _ _ _).toShell
  · exact .of_evts rfl rfl
  · exact (Device.completeOpt_grows _ _ _ d).toShell

theorem Device.findBegun_grows (d : Device) : Device.Grows Device.shell d d.findBegun := by
  unfold Device.findBegun
  split
  · exact .refl d
  · exact Device.ite_grows _ (.refl d) (.of_evts rfl rfl)

theorem Device.warnWrites_grows (d : Device) : Device.Grows Device.shell d d.warnWrites := by
  refine (Device.findBegun_grows d).trans (.trans ?_ (forList_grows _ Device.abandonWrite_grows _))
  exact .of_evts rfl rfl

theorem Device.cutImage_grows (d : Device) : Device.Grows Device.shell d d.cutImage := by
  unfold Device.cutImage
  split
  · exact .refl d
  · exact Device.ite_grows _ (.of_evts rfl rfl) (.of_evts rfl rfl)

theorem Device.abandonImage_grows (d : Device) : Device.Grows Device.shell d d.abandonImage := by
  unfold Device.abandonImage
  split
  · exact .refl d
  · refine Device.ite_grows _ (.refl d) (Device.ite_grows _ (.of_evts rfl rfl) (.trans ?_ (Device.complete_grows _ _ _ _ none).toShell))
    exact .trans (e := d.takeFree.2) (.of_evts rfl rfl) ((Device.cutImage_grows _).trans (.of_evts rfl rfl))

end shell

/-- A rail enters warning: its bit, its time and the mark; what follows stays within the firmware's work. -/
theorem Device.warnRailIn_shell (rail : Nat) (d : Device) :
    (d.warnRailIn rail).shell = { d with
      pw := { d.pw with warn := d.pw.warn ||| (1#6 <<< rail), warnTime := d.clk.time }
      marks := { d.marks with warn := spanOpen d.clk.time d.marks.warn } : Device }.shell := by
  refine (Device.abandonImage_grows _).same.trans ((Device.warnWrites_grows _).same.trans ?_)
  exact ((Device.raise_grows _ _ _).logPut 4 [rail]).toShell.same

theorem supplyBits : ∀ rail : Fin 6, (ebit rail.val &&& evtMask evSupply).getLsbD rail.val = true ∧
    (ebit (8 + rail.val) &&& evtMask evSupply).getLsbD (8 + rail.val) = true := by decide

theorem Device.warnRailIn_bit (rail : Fin 6) (d : Device) : ((d.warnRailIn rail.val).evt evSupply).bits.getLsbD rail.val = true :=
  (Device.abandonImage_grows _).bits _ _ <| (Device.warnWrites_grows _).bits _ _ <|
    (Device.logPut_grows _ _ _).bits _ _ <| Device.raise_bit (supplyBits rail).1 _

/-- Settles O10: both ends record their bit, and touch only the warning and its marks, the work that a warning abandons, and reports. -/
theorem supplyWarningsShow : Obligations.SupplyWarningsShow := by
  unfold Obligations.SupplyWarningsShow
  intro s rail
  refine ⟨fun hmode hwarn => ⟨_, if_neg (not_or.mpr ⟨hmode, hwarn ▸ Bool.false_ne_true⟩), ?_⟩, fun hwarn => ⟨_, if_pos hwarn, ?_⟩⟩
  · have h := Device.warnRailIn_shell rail.val s.dev
    exact ⟨⟨⟨rfl, rfl⟩, congrArg (·.pw.mode) h, congrArg (·.fw.eff) h, congrArg (·.fw.live) h, congrArg (·.regs) h,
      congrArg (·.gran) h, congrArg (·.clk) h, congrArg (·.chans) h⟩, congrArg (·.pw.warn) h, congrArg (·.pw.warnTime) h,
      Device.warnRailIn_bit rail s.dev⟩
  · simp only [Device.warnRailOut]
    exact ⟨by simp [DeviceOnly], by simp, Device.raise_bit (supplyBits rail).2 _⟩

end Sys2Proof.Machine
end

section
namespace Sys2Proof.Machine

/-! O6 and O7: what a reset keeps, and the bank that its release selects. -/

theorem Device.cutImage_frame (d : Device) : { d.cutImage with nv := d.nv, free := d.free } = d := by
  unfold Device.cutImage
  split
  · rfl
  · dsimp only [Device.takeFree]
    split <;> rfl

theorem Device.cutImage_nv_frame (d : Device) : { d.cutImage.nv with fwA := d.nv.fwA, fwB := d.nv.fwB } = d.nv := by
  unfold Device.cutImage
  split
  · rfl
  · dsimp only [Device.takeFree]
    split
    · simp only [NonVol.setFwBank]
      split <;> rfl
    · rfl

theorem NonVol.fwBank_setFwBank_not (b : Bool) (x : FwBank) (nv : NonVol) : (nv.setFwBank (!b) x).fwBank b = nv.fwBank b := by
  cases b <;> rfl

/-- Only the bank not in force is written, so only it is cut. -/
theorem Device.cutImage_nv_inForce (d : Device) : d.cutImage.nv.fwBank d.nv.fwForceB = d.nv.fwBank d.nv.fwForceB := by
  unfold Device.cutImage
  split
  · rfl
  · dsimp only [Device.takeFree]
    split
    · exact NonVol.fwBank_setFwBank_not _ _ _
    · rfl

theorem Device.cutImage_of_none {d : Device} (h : d.work.verify = none) : d.cutImage = d := by simp [Device.cutImage, h]

/-- What every reset clears: all but the locks, the anti-rollback work, the record of a brownout and the nonvolatile die. -/
structure ClearedBy (s t : State) : Prop where
  pending : t.pending = s.pending
  mbx : t.mbx = []
  mode : t.dev.pw.mode = .reset
  booted : t.dev.pw.booted = false
  rest : { t.dev with regs := Regs.reset, work := Work.reset, pw := Power.reset, free := 0 } = Device.resetWith t.dev.nv
  regs : { t.dev.regs with lockDbg := false, lockCal := false, lockFw := false } = Regs.reset
  work : { t.dev.work with otpPending := none } = Work.reset
  nv : t.dev.nv = s.dev.cutImage.nv

theorem ClearedBy.spelled {s t : State} (h : ClearedBy s t) :
    t.pending = s.pending ∧ t.mbx = [] ∧ t.dev.pw.mode = .reset ∧ t.dev.pw.booted = false ∧
      { t.dev with regs := Regs.reset, work := Work.reset, pw := Power.reset, free := 0 } = Device.resetWith t.dev.nv ∧
      { t.dev.regs with lockDbg := false, lockCal := false, lockFw := false } = Regs.reset ∧
      { t.dev.work with otpPending := none } = Work.reset ∧
      { t.dev.nv with fwA := s.dev.nv.fwA, fwB := s.dev.nv.fwB } = s.dev.nv ∧
      t.dev.nv.fwBank s.dev.nv.fwForceB = s.dev.nv.fwBank s.dev.nv.fwForceB ∧ (s.dev.work.verify = none → t.dev.nv = s.dev.nv) := by
  refine ⟨h.pending, h.mbx, h.mode, h.booted, h.rest, h.regs, h.work, ?_⟩
  rw [h.nv]
  exact ⟨s.dev.cutImage_nv_frame, s.dev.cutImage_nv_inForce, fun hv => by rw [Device.cutImage_of_none hv]⟩

/-- The locks and the anti-rollback work that a reset other than a power-on reset keeps. -/
theorem Device.resetDevice_kept (b : Bool) (d : Device) :
    (d.resetDevice b).regs.lockDbg = d.regs.lockDbg ∧ (d.resetDevice b).regs.lockCal = d.regs.lockCal ∧
      (d.resetDevice b).regs.lockFw = d.regs.lockFw ∧ (d.resetDevice b).work.otpPending = d.work.otpPending :=
  have h := d.cutImage_frame
  ⟨congrArg (·.regs.lockDbg) h, congrArg (·.regs.lockCal) h, congrArg (·.regs.lockFw) h, congrArg (·.work.otpPending) h⟩

/-- The rail recorded is the lowest of those below their threshold (R412). -/
theorem lowestRail_lowest : ∀ rails : BitVec 6, rails ≠ 0#6 → rails.getLsbD (BitVec.ofNat 3 (lowestRail rails)).toNat = true ∧
    ∀ k, k < (BitVec.ofNat 3 (lowestRail rails)).toNat → rails.getLsbD k = false := by decide

/-- Settles O6: each reset is the reset device, with the locks and the anti-rollback work kept by all but a power-on reset. -/
theorem resetsKeepOnlyTheirSurvivors : Obligations.ResetsKeepOnlyTheirSurvivors := by
  unfold Obligations.ResetsKeepOnlyTheirSurvivors
  intro s rails hmode cleared kept
  refine ⟨?_, fun h0 h1 => ?_, ?_⟩
  · have hlast : s.dev.cutImage.pw.lastBrownout = s.dev.pw.lastBrownout := congrArg (·.pw.lastBrownout) s.dev.cutImage_frame
    exact ⟨_, if_neg hmode, ClearedBy.spelled ⟨rfl, rfl, rfl, rfl, rfl, rfl, rfl, rfl⟩, s.dev.resetDevice_kept true, rfl, hlast⟩
  · have he : exec (.brownout rails) s = execBrownout rails s := rfl
    rw [execBrownout, if_neg h0, if_neg h1, if_neg hmode] at he
    obtain ⟨hlow, hlowest⟩ := lowestRail_lowest rails h0
    exact ⟨_, he, ClearedBy.spelled ⟨rfl, rfl, rfl, rfl, rfl, rfl, rfl, rfl⟩, s.dev.resetDevice_kept false, hlow, hlowest⟩
  · exact ⟨_, rfl, ClearedBy.spelled ⟨rfl, rfl, rfl, rfl, rfl, rfl, rfl, rfl⟩, rfl, rfl, rfl⟩

/-- `BOOT_SEL` names bank B only as 0b10; 0b00 and 0b11 leave the bank in force (R403). -/
theorem selectBank_iff (sel : BitVec 2) (locked activated inForce : Bool) :
    selectBank sel (locked || activated) inForce = true ↔ (locked = false ∧ activated = false ∧ sel = 0b10#2) ∨
      ((locked = true ∨ activated = true ∨ sel = 0b00#2 ∨ sel = 0b11#2) ∧ inForce = true) := by
  revert sel locked activated inForce
  decide

/-- Settles O7: the release selects the bank by the pins, the lock and what `fw.activate` left. -/
theorem releaseOfResetSelectsTheBank : Obligations.ReleaseOfResetSelectsTheBank := by
  unfold Obligations.ReleaseOfResetSelectsTheBank
  intro s sel hmode locked
  exact ⟨_, if_pos hmode, ⟨rfl, rfl⟩, rfl, rfl, rfl, selectBank_iff sel locked s.dev.pw.activated s.dev.nv.fwForceB, rfl⟩

end Sys2Proof.Machine
end

section
namespace Sys2Proof.Machine

/-! O8: the control port until boot ends (R448). -/

section unbooted
variable {s : State} (hb : s.dev.pw.booted = false)
include hb

theorem State.write_unbooted (a : Access) : s.write a = s := by simp [State.write, hb]

theorem State.rings_unbooted (a : Access) : s.rings a = none := by
  unfold State.rings
  split <;> simp [hb]

theorem State.writeReg_unbooted (a : Access) : s.writeReg a = s := by
  rw [State.writeReg, State.rings_unbooted hb]
  exact State.write_unbooted hb a

theorem writeRow_unbooted (ok : Nat → Bool) (a : Access) : writeRow ok a s = .next s := by
  rw [writeRow, State.writeReg_unbooted hb, ite_self]

theorem State.answerUnknown_unbooted (m : Nat) : s.answerUnknown m = s := by simp [State.answerUnknown, Device.serves, hb]

omit hb in
theorem forList_fixed {β : Type} (l : List β) {f : β → State → State} (h : ∀ x, f x s = s) : forList l f s = s := by
  induction l with
  | nil => rfl
  | cons x l ih => exact (congrArg (forList l f) (h x)).trans ih

theorem State.writes_unbooted (l : List Access) : s.writes l = s := by
  rw [State.writes, forList_fixed l (State.write_unbooted hb)]
  exact (congrArg _ (forList_fixed (List.range 4) (State.answerUnknown_unbooted hb))).trans (ite_self s)

theorem State.readReg_unbooted (p : Port) (addr : BitVec 24) :
    s.readReg p addr = ((if s.dev.pw.idReady then (s.dev.identityWord (baseOf addr)).getD 0#32 else 0#32), s) := by
  simp [State.readReg, hb]

/-- No row that writes acts before boot's end. -/
theorem exec_writeRows_unbooted (a : Access) : ∀ c ∈ [Instr.registerWrite (.one a), .mbxRequestWrite a, .mbxDoorbell a, .rspDone a,
    .eventClear a, .bellRing a, .bellSnap a, .lockSet a, .dlForce a, .dlEnable a, .dlDisable a, .postedWrite a], exec c s = .next s := by
  have hrow := fun ok => writeRow_unbooted hb ok a
  have hite : ∀ (p : Prop) [Decidable p] (ok : Nat → Bool), (if p then writeRow ok a s else .next s) = .next s := fun p _ ok => by
    rw [hrow, ite_self]
  have hdisable : execDlDisable a s = .next s := by rw [execDlDisable, hrow, ite_self]
  simp only [List.forall_mem_cons, List.not_mem_nil, false_imp_iff, implies_true, and_true]
  change execRegisterWrite (.one a) s = _ ∧ execMbxRequestWrite a s = _ ∧ execMbxDoorbell a s = _ ∧ execRspDone a s = _ ∧
    execEventClear a s = _ ∧ execBellRing a s = _ ∧ execBellSnap a s = _ ∧ execLockSet a s = _ ∧ execDlForce a s = _ ∧
    execDlEnable a s = _ ∧ execDlDisable a s = _ ∧ execPostedWrite a s = _
  exact ⟨congrArg _ (State.writeReg_unbooted hb a), hrow _, hrow _, hrow _, hrow _, hrow _, hite _ _, hrow _, hite _ _, hrow _, hdisable,
    hrow _⟩

end unbooted

theorem Device.identityWord_above {base : Nat} (h : 0x18 < base) (d : Device) : d.identityWord base = none := by
  unfold Device.identityWord
  split <;> simp at h ⊢

/-- The header that boot shows is the selected bank's, else the other's (R403, R418). -/
theorem NonVol.bootImage_cases (b : Bool) (nv : NonVol) :
    ((nv.fwBank b).valid = true → nv.bootImage b = some (nv.fwBank b)) ∧
      ((nv.fwBank b).valid = false → (nv.fwBank !b).valid = true → nv.bootImage b = some (nv.fwBank !b)) :=
  ⟨fun h => if_pos h, fun h h' => (if_neg (h ▸ Bool.false_ne_true)).trans (if_pos h')⟩

theorem execIdentityReady_completes {s : State} (hmode : s.dev.pw.mode ≠ .reset) (hid : s.dev.pw.idReady = false) :
    Completes .identityReady s fun t =>
      DeviceOnly s t ∧ t.dev.pw = { s.dev.pw with idReady := true, fwVer := t.dev.pw.fwVer } ∧
      (∀ b, s.dev.nv.bootImage s.dev.pw.fwBankB = some b → t.dev.pw.fwVer = b.fwVer) ∧
      { t.dev with pw := s.dev.pw, free := s.dev.free } = s.dev := by
  refine ⟨_, if_neg (not_or.mpr ⟨hmode, hid ▸ Bool.false_ne_true⟩), ⟨rfl, rfl⟩, ?_⟩
  dsimp only
  cases h : s.dev.nv.bootImage s.dev.pw.fwBankB with
  | none => exact ⟨rfl, nofun, rfl⟩
  | some x => exact ⟨rfl, fun b hx => by cases hx; rfl, rfl⟩

/-- Settles O8: an unbooted state is a fixed point of every write row and of every read. -/
theorem controlPortUntilBootEnds : Obligations.ControlPortUntilBootEnds := by
  unfold Obligations.ControlPortUntilBootEnds
  refine ⟨?_, fun s p addr a hb => ?_⟩
  · intro s hmode hid b
    obtain ⟨t, ht, hdev, hpw, hver, hrest⟩ := execIdentityReady_completes hmode hid
    obtain ⟨hown, hother⟩ := s.dev.nv.bootImage_cases b
    exact ⟨t, ht, hdev, hpw, fun h => hver _ (hown h), fun h h' => hver _ (hother h h'), hrest⟩
  · have hread := State.readReg_unbooted hb p addr
    have hpop : exec (.cartFifoPop (.one p)) s = .next (s.readBy p 0x030000#24) := rfl
    have hreadBy : (s.readReg p 0x030000#24).2 = s := by rw [State.readReg_unbooted hb]
    refine ⟨exec_writeRows_unbooted hb a, fun clocks => ?_, ⟨_, hpop, ?_⟩, by rw [hread], fun hid => by simp [hread, hid], fun hid => ?_⟩
    · have hframe : s.writeFrame clocks = s := State.writes_unbooted hb _
      change (if cpBad clocks then Host.Outcome.next s else .next (s.writeFrame clocks)) = .next s
      rw [hframe, ite_self]
    · rw [State.readBy, hreadBy]
      exact ⟨⟨rfl, rfl⟩, rfl, rfl⟩
    · rw [hread]
      simp only [hid, if_true]
      refine ⟨?_, ?_, ?_, ?_, ?_, ?_, ?_, fun h => by rw [Device.identityWord_above h]; rfl⟩ <;> intro h <;> rw [h] <;> rfl

end Sys2Proof.Machine
end

section
namespace Sys2Proof.Machine

/-! O9: the stages of boot. -/

/-! ### The log and the power state -/

@[simp] theorem Device.logPut_pw (k : Nat) (l : List Nat) (d : Device) : (d.logPut k l).pw = { d.pw with logRead := false } := by
  unfold Device.logPut
  dsimp only
  split <;> simp

theorem Device.logPut_nv (k : Nat) (l : List Nat) (d : Device) :
    (d.logPut k l).nv = { d.nv with log := (d.logPut k l).nv.log, logNext := d.nv.logNext + 1 } := by
  unfold Device.logPut
  dsimp only
  split <;> simp

@[simp] theorem Device.logPut_fwBank (k : Nat) (l : List Nat) (d : Device) (b : Bool) : (d.logPut k l).nv.fwBank b = d.nv.fwBank b := by
  rw [Device.logPut_nv]
  rfl

@[simp] theorem Device.logPut_accepts (k : Nat) (l : List Nat) (d : Device) (b : FwBank) : (d.logPut k l).nv.accepts b = d.nv.accepts b := by
  rw [Device.logPut_nv]
  rfl

theorem Device.toSafe_pw (cause : Nat) (d : Device) : (d.toSafe cause).pw =
    { d.enterMode .safe with pw := { (d.enterMode .safe).pw with safeCause := cause, booted := true, logRead := false } : Device }.pw := by
  simp [Device.toSafe]

theorem Device.toSafe_bit (cause : Nat) (d : Device) : ((d.toSafe cause).evt evSys).bits.getLsbD 2 = true :=
  Device.raise_bit (by decide) _

/-! ### A failure of boot -/

section fails
variable {d : Device} (hmode : d.pw.mode = .boot) (hdecl : d.pw.declared = none)
include hmode hdecl

/-- Boot has nothing running, so SAFE is entered at once. -/
theorem Device.declareSafe_boot (cause : Nat) : d.declareSafe cause = d.toSafe cause := by simp [Device.declareSafe, hmode, hdecl]

theorem Device.bootFails_frame : d.bootFails.pw.mode = .safe ∧ d.bootFails.pw.safeCause = 5 ∧ d.bootFails.pw.booted = true ∧
    (d.bootFails.evt evSys).bits.getLsbD 2 = true ∧ (d.bootFails.evt evSys).bits.getLsbD 6 = true := by
  have hpw : d.bootFails.pw = (d.toSafe 5).pw := by rw [Device.bootFails, Device.declareSafe_boot hmode hdecl, Device.raise_pw]
  rw [hpw, Device.toSafe_pw]
  refine ⟨rfl, rfl, rfl, ?_, Device.raise_bit (by decide) _⟩
  rw [Device.bootFails, Device.declareSafe_boot hmode hdecl]
  exact (Device.raise_grows _ _ _).bits _ _ (Device.toSafe_bit 5 d)

/-- A failure leaves what the stages before it have set. -/
theorem Device.bootFails_stage : d.bootFails.pw.stage = d.pw.stage ∧ d.bootFails.pw.selftestFail = d.pw.selftestFail ∧
    d.bootFails.pw.fwBankB = d.pw.fwBankB ∧ d.bootFails.pw.sigFail = d.pw.sigFail ∧ d.bootFails.pw.fallback = d.pw.fallback ∧
    d.bootFails.pw.fwVer = d.pw.fwVer ∧ d.bootFails.clk = d.clk := by
  rw [Device.bootFails, Device.declareSafe_boot hmode hdecl, Device.raise_pw, Device.toSafe_pw, Device.raise_clk]
  exact ⟨rfl, rfl, rfl, rfl, rfl, rfl, by simp [Device.toSafe]⟩

end fails

/-! ### The stages -/

@[simp] theorem Device.loadStores_pw (d : Device) :
    d.loadStores.pw = { d.pw with ownerOk := d.nv.newestOwner.isSome, linOk := d.nv.newestLin.isSome } := by
  unfold Device.loadStores
  dsimp only
  split <;> simp

@[simp] theorem Device.loadStores_nv (d : Device) : d.loadStores.nv = d.nv := by
  unfold Device.loadStores
  dsimp only
  split <;> simp

@[simp] theorem Device.tilesUp_pw (up : Bool) (d : Device) : (d.tilesUp up).pw = d.pw := forNat_keeps (g := Device.pw) 4 (fun _ _ => rfl) d

/-- The stages that a pass, or what boot has found, lets end. -/
def Device.stagePasses (r : BootResult) (d : Device) : Prop :=
  d.pw.stage = 1 ∨ d.pw.stage = 2 ∨ d.pw.stage = 5 ∨ (d.pw.stage = 4 ∧ d.clk.counting = true) ∨
    (d.pw.stage = 6 ∧ d.nv.factory.sound = true) ∨ (7 ≤ d.pw.stage ∧ d.pw.stage ≤ 9 ∧ r.pass = true)

theorem Device.bootStage_passes {r : BootResult} {d : Device} (h : d.stagePasses r) :
    (d.bootStage r).pw.stage = d.pw.stage + 1 ∧ (d.bootStage r).pw.mode = d.pw.mode ∧ (d.bootStage r).pw.booted = d.pw.booted := by
  rcases h with h | h | h | ⟨h, hok⟩ | ⟨h, hok⟩ | ⟨hlo, hhi, hok⟩
  · simp [Device.bootStage, h, Device.atStage]
  · simp [Device.bootStage, h, Device.atStage]
  · simp [Device.bootStage, h, Device.atStage]
  · simp [Device.bootStage, h, hok, Device.atStage]
  · simp [Device.bootStage, h, hok, Device.atStage]
  · obtain h | h | h : d.pw.stage = 7 ∨ d.pw.stage = 8 ∨ d.pw.stage = 9 := by omega
    all_goals simp [Device.bootStage, h, hok, Device.atStage]

/-- A stage that fails ends boot in SAFE: the clocks' halts it, a self-test's keeps its stage. -/
theorem Device.bootStage_fails {r : BootResult} {d : Device} (hmode : d.pw.mode = .boot) (hdecl : d.pw.declared = none)
    (h : (d.pw.stage = 4 ∧ d.clk.counting = false) ∨ (d.pw.stage = 6 ∧ d.nv.factory.sound = false) ∨
      (7 ≤ d.pw.stage ∧ d.pw.stage ≤ 9 ∧ r.pass = false)) :
    (d.pw.stage = 4 ∧ d.bootStage r = (d.atStage 0xE0).bootFails) ∨
      (6 ≤ d.pw.stage ∧ ∃ e : Device, e.pw.mode = .boot ∧ e.pw.declared = none ∧ e.pw.stage = d.pw.stage ∧ e.pw.selftestFail = true ∧
        d.bootStage r = e.bootFails) := by
  rcases h with ⟨h, hok⟩ | ⟨h, hok⟩ | ⟨hlo, hhi, hok⟩
  · exact .inl ⟨h, by simp [Device.bootStage, h, hok, Device.halt]⟩
  · exact .inr ⟨by omega, { d.loadStores with pw := { d.loadStores.pw with factoryOk := false, selftestFail := true } }, by simp [hmode],
      by simp [hdecl], by simp, rfl, by simp [Device.bootStage, h, hok, Device.stageFails]⟩
  · refine .inr ⟨by omega, ?_⟩
    obtain h | h | h : d.pw.stage = 7 ∨ d.pw.stage = 8 ∨ d.pw.stage = 9 := by omega
    · exact ⟨{ d with pw := { d.pw with selftestFail := true } }, hmode, hdecl, rfl, rfl, by simp [Device.bootStage, h, hok, Device.stageFails]⟩
    · exact ⟨{ d with pw := { d.pw with dramOk := false, selftestFail := true } }, hmode, hdecl, rfl, rfl,
        by simp [Device.bootStage, h, hok, Device.stageFails]⟩
    · exact ⟨{ d with pw := { d.pw with selftestFail := true } }, hmode, hdecl, rfl, rfl, by simp [Device.bootStage, h, hok, Device.stageFails]⟩

/-- Boot ends in SAFE under cause 5, with both of its event bits (R404). -/
theorem Device.bootStage_fails_spec {r : BootResult} {d : Device} (hmode : d.pw.mode = .boot) (hdecl : d.pw.declared = none)
    (h : (d.pw.stage = 4 ∧ d.clk.counting = false) ∨ (d.pw.stage = 6 ∧ d.nv.factory.sound = false) ∨
      (7 ≤ d.pw.stage ∧ d.pw.stage ≤ 9 ∧ r.pass = false)) :
    (d.bootStage r).pw.mode = .safe ∧ (d.bootStage r).pw.safeCause = 5 ∧ (d.bootStage r).pw.booted = true ∧
      ((d.bootStage r).evt evSys).bits.getLsbD 2 = true ∧ ((d.bootStage r).evt evSys).bits.getLsbD 6 = true ∧
      (d.pw.stage ≤ 4 → (d.bootStage r).pw.stage = 0xE0) ∧
      (6 ≤ d.pw.stage → (d.bootStage r).pw.stage = d.pw.stage ∧ (d.bootStage r).pw.selftestFail = true) := by
  have hspec := Device.bootStage_fails hmode hdecl h
  generalize d.bootStage r = t at hspec ⊢
  rcases hspec with ⟨h4, rfl⟩ | ⟨h6, e, hm, hd, hstage, hself, rfl⟩
  · obtain ⟨hsafe, hcause, hbooted, hbit2, hbit6⟩ := Device.bootFails_frame (d := d.atStage 0xE0) hmode hdecl
    obtain ⟨hs, -⟩ := Device.bootFails_stage (d := d.atStage 0xE0) hmode hdecl
    exact ⟨hsafe, hcause, hbooted, hbit2, hbit6, fun _ => hs, fun h6 => absurd h6 (by omega)⟩
  · obtain ⟨hsafe, hcause, hbooted, hbit2, hbit6⟩ := Device.bootFails_frame hm hd
    obtain ⟨hs, hf, -⟩ := Device.bootFails_stage hm hd
    exact ⟨hsafe, hcause, hbooted, hbit2, hbit6, fun h4 => absurd h6 (by omega), fun _ => ⟨hs.trans hstage, hf.trans hself⟩⟩

/-- VERIFY: the selected image boots, else the other one with the flags set, else nothing does (R418). -/
theorem Device.verifyImages_spec {d : Device} (hmode : d.pw.mode = .boot) (hdecl : d.pw.declared = none) :
    let nv := d.nv
    let b := d.pw.fwBankB
    let own := nv.accepts (nv.fwBank b)
    let boots := own || nv.accepts (nv.fwBank !b)
    let taken := if own then b else !b
    let t := d.verifyImages
    t.pw.stage = (if boots then 4 else 0xE0) ∧ t.pw.mode = (if boots then .boot else .safe) ∧
      t.pw.fwBankB = (if boots then taken else b) ∧ t.pw.sigFail = (d.pw.sigFail || !own) ∧
      t.pw.fallback = (d.pw.fallback || (boots && !own)) ∧
      t.pw.fwVer = (if boots && d.pw.idReady then (nv.fwBank taken).fwVer else d.pw.fwVer) ∧
      t.clk.synA.state = (if boots then .search else d.clk.synA.state) ∧ t.clk.synB = d.clk.synB := by
  intro nv b own boots taken
  by_cases hown : d.nv.accepts (d.nv.fwBank d.pw.fwBankB) = true
  · simp [boots, own, nv, b, taken, Device.verifyImages, hown, Device.synState, Device.setSyn, Clock.setSyn, Syn.enter, Device.atStage,
      Device.bootsBank, hmode]
  · by_cases hother : d.nv.accepts (d.nv.fwBank !d.pw.fwBankB) = true
    · simp [boots, own, nv, b, taken, Device.verifyImages, hown, hother, Device.synState, Device.setSyn, Clock.setSyn, Syn.enter,
        Device.atStage, Device.bootsBank, hmode]
    · let e : Device := ({ d with pw := { d.pw with sigFail := true } }.logPut 5
        [bit01 d.pw.fwBankB, (d.nv.failedCheck (d.nv.fwBank d.pw.fwBankB)).getD 0]).atStage 0xE0
      have he : d.verifyImages = e.bootFails := by simp [Device.verifyImages, hown, hother, Device.halt, e]
      have hm : e.pw.mode = .boot := by simp [e, Device.atStage, hmode]
      have hd : e.pw.declared = none := by simp [e, Device.atStage, hdecl]
      have hf := Device.bootFails_frame hm hd
      have hs := Device.bootFails_stage hm hd
      simp [he, hf, hs, boots, own, nv, b, hown, hother]
      simp [e, Device.atStage]

/-! ### DONE -/

theorem Device.raiseRollback_frame (d : Device) :
    ∃ nv work, d.raiseRollback = { d with nv := nv, work := work } ∧ nv.fwForceB = d.nv.fwForceB := by
  unfold Device.raiseRollback
  split
  · exact ⟨d.nv, d.work, rfl, rfl⟩
  · exact ⟨_, _, rfl, rfl⟩

theorem Device.otpWork_frame (d : Device) : ∃ nv work, d.otpWork = { d with nv := nv, work := work } ∧ nv.fwForceB = d.nv.fwForceB := by
  unfold Device.otpWork
  extract_lets b old w d1
  split
  · exact ⟨d.nv, d1.work, rfl, rfl⟩
  · obtain ⟨nv, work, hrest, hforce⟩ := d1.raiseRollback_frame
    exact ⟨nv, work, hrest, hforce⟩

theorem Device.reportBrownout_grows (d : Device) :
    Device.Grows (fun x => { x.core with pw := { x.core.pw with brownoutDue := false } }) d d.reportBrownout := by
  refine Device.ite_grows _ (.trans ?_ (((Device.logPut_grows _ _ _).raise _ _).map fun x =>
    { x with pw := { x.pw with brownoutDue := false } })) (.refl d)
  exact .of_evts rfl rfl

theorem Device.aoutReach_grows (t : Nat) (d : Device) : Device.Grows Device.core d (d.aoutReach t) := .of_evts rfl rfl
theorem Device.aoutSafe_grows (a code : Nat) (d : Device) : Device.Grows Device.core d (d.aoutSafe a code) := .of_evts rfl rfl

theorem Device.settleAouts_grows (d : Device) : Device.Grows Device.core d d.settleAouts := by
  refine (Device.aoutReach_grows _ d).trans (forNat_grows 16 (fun a d => ?_) _)
  exact Device.ite_grows _ (.refl d) (Device.aoutSafe_grows _ _ d)

/-- What DONE brings before it records itself (R405). -/
def Device.done (r : BootResult) (d : Device) : Device :=
  let c := { Cfg.boot with lins := d.persistedLins }
  let x := d.takeFree
  let d := x.2.enterMode .idle
  { d with
    pw := { d.pw with booted := true, bootMs := Min.min 255 r.ms }
    fw := { d.fw with live := c, eff := c, committed := 0#16, effective := 0#16 }
    nv := { d.nv with fwForceB := d.pw.fwBankB }
    fab := { d.fab with electAfter := d.epoch + Config.freeNat x.1 % 70 } }

theorem Device.bootDone_eq (r : BootResult) (d : Device) :
    d.bootDone r = ((d.done r).raise evSys (ebit sysBootDone)).otpWork.reportBrownout.settleAouts := rfl

/-- The reports of DONE leave what it brought, and its event bit. -/
theorem Device.bootDone_grows (r : BootResult) (d : Device) :
    Device.Grows (fun x => (x.pw.mode, x.pw.prior, x.pw.booted, { x.fw with sessions := [] }, x.nv.fwForceB))
      ((d.done r).raise evSys (ebit sysBootDone)) (d.bootDone r) := by
  obtain ⟨nv, work, hwork, hforce⟩ := Device.otpWork_frame ((d.done r).raise evSys (ebit sysBootDone))
  rw [Device.bootDone_eq]
  refine .trans (e := ((d.done r).raise evSys (ebit sysBootDone)).otpWork) (.of_evts (by rw [hwork, hforce]) (by rw [hwork])) ?_
  exact ((Device.reportBrownout_grows _).map fun x => (x.pw.mode, x.pw.prior, x.pw.booted, x.fw, x.nv.fwForceB)).trans
    ((Device.settleAouts_grows _).map fun x => (x.pw.mode, x.pw.prior, x.pw.booted, x.fw, x.nv.fwForceB))

theorem Device.bootDone_spec (r : BootResult) (d : Device) :
    let t := d.bootDone r
    t.pw.mode = .idle ∧ t.pw.prior = d.pw.mode ∧ t.pw.booted = true ∧ t.fw.committed = 0#16 ∧ t.fw.effective = 0#16 ∧
      t.fw.eff = { Cfg.boot with lins := d.persistedLins } ∧ t.fw.live = t.fw.eff ∧ (t.evt evSys).bits.getLsbD 3 = true ∧
      t.nv.fwForceB = d.pw.fwBankB := by
  have hg := d.bootDone_grows r
  have hs := hg.same
  simp only [Prod.mk.injEq, Device.raise_pw, Device.raise_fw, Device.raise_nv] at hs
  obtain ⟨hmode, hprior, hbooted, hfw, hforce⟩ := hs
  have hbit := hg.bits evSys 3 (Device.raise_bit (by decide) _)
  generalize d.bootDone r = t at hmode hprior hbooted hfw hforce hbit ⊢
  have heff : t.fw.eff = { Cfg.boot with lins := d.persistedLins } := congrArg (fun x : Fw => x.eff) hfw
  have hlive : t.fw.live = { Cfg.boot with lins := d.persistedLins } := congrArg (fun x : Fw => x.live) hfw
  exact ⟨hmode, hprior, hbooted, congrArg (fun x : Fw => x.committed) hfw, congrArg (fun x : Fw => x.effective) hfw, heff,
    hlive.trans heff.symm, hbit, hforce⟩

/-- Settles O9: stage by stage. -/
theorem bootPassesOrEndsInSafe : Obligations.BootPassesOrEndsInSafe := by
  unfold Obligations.BootPassesOrEndsInSafe
  refine ⟨fun s r hmode => ⟨fun h => ?_, ?_, fun h => ?_⟩, fun s r hmode hdecl h => ?_⟩
  · obtain ⟨hstage, hm, hb⟩ := Device.bootStage_passes h
    exact ⟨_, if_pos hmode, ⟨rfl, rfl⟩, hstage, hm.trans hmode, hb⟩
  · intro h hdecl nv b own boots taken
    have hv : s.dev.bootStage r = s.dev.verifyImages := by simp only [Device.bootStage, h]
    refine ⟨_, if_pos hmode, ⟨rfl, rfl⟩, ?_⟩
    rw [hv]
    exact Device.verifyImages_spec hmode hdecl
  · have hv : s.dev.bootStage r = s.dev.bootDone r := by simp only [Device.bootStage, h]
    have hspec := Device.bootDone_spec r s.dev
    rw [← hv] at hspec
    obtain ⟨hidle, hprior, hrest⟩ := hspec
    exact ⟨_, if_pos hmode, ⟨rfl, rfl⟩, hidle, hprior.trans hmode, hrest⟩
  · exact ⟨_, if_pos hmode, ⟨rfl, rfl⟩, Device.bootStage_fails_spec hmode hdecl h⟩

end Sys2Proof.Machine
end

section
namespace Sys2Proof.Machine

/-! O12: the tiles' table need not be canonical in the states that the statement speaks of. Where it lists one tile twice, the first entry is dropped when it becomes the default, and the second one comes into view with its link up. -/

/-- A tile that is all default but for its link. -/
def linkedTile : Tile := { Tile.init with linkUp := true }

/-- Asleep with nothing left to write, and tile 0 listed twice with its link up. -/
def twiceLinked : State :=
  { State.reset with dev := { State.reset.dev with pw := { Power.reset with mode := .hearth }, tiles := [(0, linkedTile), (0, linkedTile)] } }

theorem twiceLinked_writesDone : twiceLinked.dev.writesDone = true := by decide

/-- The same device after self-refresh began and the tiles went down. -/
def twiceDown : Device :=
  let d := twiceLinked.dev.tickTo 0
  { d with gran := { d.gran with selfRefresh := true } }.tilesUp false

theorem twiceDown_tile : (twiceDown.tile 0).linkUp = true := by decide

theorem exec_twiceLinked : exec (.granarySelfRefresh 0) twiceLinked = .next { twiceLinked with dev := twiceDown } := by
  change execGranarySelfRefresh 0 twiceLinked = _
  rw [execGranarySelfRefresh, if_pos ⟨rfl, rfl, twiceLinked_writesDone⟩]
  rfl

/-- Refutes O12: in a state whose table lists tile 0 twice, the entry that the power-down drops uncovers the other, whose link is up. -/
theorem not_lockstepRestartAndSleepKeepTheRest : ¬ Obligations.LockstepRestartAndSleepKeepTheRest := by
  unfold Obligations.LockstepRestartAndSleepKeepTheRest
  rintro ⟨-, hsleep⟩
  obtain ⟨hrefresh, -⟩ := hsleep twiceLinked 0 rfl
  obtain ⟨u, hu, -, hdown, -⟩ := hrefresh rfl twiceLinked_writesDone
  obtain rfl : { twiceLinked with dev := twiceDown } = u := Host.Outcome.next.inj (exec_twiceLinked.symm.trans hu)
  exact Bool.false_ne_true ((hdown 0 (by decide)).symm.trans twiceDown_tile)

end Sys2Proof.Machine
end

section
namespace Sys2Proof.Machine

/-! Synthesizers. What each operation on them does to the two and to the rest of the clocks; O16 and O18. -/

/-! ### Reading and writing a synthesizer -/

@[simp] theorem Clock.syn_setSyn_same (x : SynId) (f : Syn → Syn) (c : Clock) : (c.setSyn x f).syn x = f (c.syn x) := by cases x <;> rfl
@[simp] theorem Clock.syn_other_setSyn (x : SynId) (f : Syn → Syn) (c : Clock) :
    (c.setSyn x f).syn (SynId.other x) = c.syn (SynId.other x) := by cases x <;> rfl
@[simp] theorem Clock.syn_setSyn_other (x : SynId) (f : Syn → Syn) (c : Clock) : (c.setSyn (SynId.other x) f).syn x = c.syn x := by
  cases x <;> rfl
@[simp] theorem Clock.setSyn_setSyn (x : SynId) (f g : Syn → Syn) (c : Clock) : (c.setSyn x f).setSyn x g = c.setSyn x (g ∘ f) := by
  cases x <;> rfl
@[simp] theorem Clock.setSyn_time (x : SynId) (f : Syn → Syn) (c : Clock) : (c.setSyn x f).time = c.time := by cases x <;> rfl
@[simp] theorem Clock.setSyn_steer (x : SynId) (f : Syn → Syn) (c : Clock) : (c.setSyn x f).steer = c.steer := by cases x <;> rfl

/-- But for the two synthesizers a clock is as it was. -/
theorem Clock.setSyn_frame (x : SynId) (f : Syn → Syn) (c : Clock) (a b : Syn) :
    { c.setSyn x f with synA := a, synB := b } = { c with synA := a, synB := b } := by cases x <;> rfl

@[simp] theorem Device.syn_setSyn_same (x : SynId) (f : Syn → Syn) (d : Device) : (d.setSyn x f).syn x = f (d.syn x) := Clock.syn_setSyn_same ..
@[simp] theorem Device.syn_other_setSyn (x : SynId) (f : Syn → Syn) (d : Device) :
    (d.setSyn x f).syn (SynId.other x) = d.syn (SynId.other x) := Clock.syn_other_setSyn ..
@[simp] theorem Device.syn_setSyn_other (x : SynId) (f : Syn → Syn) (d : Device) : (d.setSyn (SynId.other x) f).syn x = d.syn x :=
  Clock.syn_setSyn_other ..
@[simp] theorem Device.setSyn_setSyn (x : SynId) (f g : Syn → Syn) (d : Device) : (d.setSyn x f).setSyn x g = d.setSyn x (g ∘ f) := by
  simp [Device.setSyn]
@[simp] theorem Device.setSyn_time (x : SynId) (f : Syn → Syn) (d : Device) : (d.setSyn x f).clk.time = d.clk.time := Clock.setSyn_time ..
@[simp] theorem Device.setSyn_steer (x : SynId) (f : Syn → Syn) (d : Device) : (d.setSyn x f).clk.steer = d.clk.steer := Clock.setSyn_steer ..

/-- What a synthesizer becomes is a matter of what it was. -/
theorem Device.setSyn_eq_const (x : SynId) (f : Syn → Syn) (d : Device) : d.setSyn x f = d.setSyn x fun _ => f (d.syn x) := by
  cases x <;> rfl

/-- Only the two synthesizers differ. -/
theorem Device.setSyn_frame (x : SynId) (f : Syn → Syn) (d : Device) (c : Clock) : { d.setSyn x f with clk := c } = { d with clk := c } := rfl

theorem SynId.eq_or_other (x y : SynId) : y = x ∨ y = SynId.other x := by cases x <;> cases y <;> simp [SynId.other]

/-! ### Device time -/

/-- Device time moves on; nothing else does. -/
theorem Device.tickTo_eq (t : Nat) (d : Device) : d.tickTo t = { d with clk := { d.clk with time := (d.tickTo t).clk.time } } := by
  unfold Device.tickTo
  split <;> rfl

@[simp] theorem Device.tickTo_syn (t : Nat) (x : SynId) (d : Device) : (d.tickTo t).syn x = d.syn x := by
  rw [Device.tickTo_eq]
  cases x <;> rfl

@[simp] theorem Device.tickTo_steer (t : Nat) (d : Device) : (d.tickTo t).clk.steer = d.clk.steer := by rw [Device.tickTo_eq]

/-! ### One window of each kind -/

/-- The synthesizer at the end of a window: the next one follows at once. -/
def Device.nextWindow (x : SynId) (d : Device) : Syn := { d.syn x with due := Max.max (d.syn x).due d.clk.time + (d.syn x).window }

section window
variable {d : Device} {x : SynId} (err : Int) (word : BitVec 64)

theorem Device.window_acquire (h : (d.syn x).state = .acquire) : d.window x err word =
    if 8 * 2 ^ 40 < err.natAbs then ((d.setSyn x fun _ => d.nextWindow x).synState x .unlocked).bootNext x
    else if ¬ err.natAbs ≤ 2 * 2 ^ 40 then d.setSyn x fun _ => { d.nextWindow x with good := 0 }
    else if 3 ≤ (d.syn x).good then d.setSyn x fun _ => { d.nextWindow x with state := .align, good := 0, held := some word }
    else d.setSyn x fun _ => { d.nextWindow x with good := (d.syn x).good + 1, held := some word } := by
  have hnext : (d.setSyn x fun z => { z with due := Max.max z.due d.clk.time + z.window }) = d.setSyn x fun _ => d.nextWindow x :=
    Device.setSyn_eq_const x _ d
  simp only [Device.window, h, hnext, Device.setSyn_setSyn, decide_eq_true_eq, Bool.not_eq_true', decide_eq_false_iff_not]
  rfl

theorem Device.window_coast (h : (d.syn x).state = .coast) : d.window x err word =
    let over_ := decide (((d.syn x).window : Int) * (2 ^ 40 + d.clk.steer) < 20000 * (err.natAbs : Int))
    let e := d.setSyn x fun _ => d.nextWindow x
    let f : Device := { e with clk := { e.clk with coastBad := over_ } }
    if f.clk.xoOk && over_ then f.declareSafe 2 else f := by
  have hnext : (d.setSyn x fun z => { z with due := Max.max z.due d.clk.time + z.window }) = d.setSyn x fun _ => d.nextWindow x :=
    Device.setSyn_eq_const x _ d
  simp only [Device.window, h, hnext, Device.setSyn_steer]

theorem Device.window_locked (h : (d.syn x).state = .align ∨ (d.syn x).state = .ready ∨ (d.syn x).state = .active) : d.window x err word =
    let e := d.setSyn x fun _ => d.nextWindow x
    if 8 * 2 ^ 40 < err.natAbs then e.loseLock x d.clk.time
    else if err.natAbs ≤ 2 * 2 ^ 40 then d.setSyn x fun _ => { d.nextWindow x with held := some word } else e := by
  have hnext : (d.setSyn x fun z => { z with due := Max.max z.due d.clk.time + z.window }) = d.setSyn x fun _ => d.nextWindow x :=
    Device.setSyn_eq_const x _ d
  rcases h with h | h | h <;>
  · simp only [Device.window, Device.window.locked, h, hnext, Device.setSyn_setSyn, decide_eq_true_eq, Device.setSyn_time]
    rfl

end window

end Sys2Proof.Machine
end

section
namespace Sys2Proof.Machine

/-! O16: what the windows of a synthesizer do. -/

/-! ### Operations that touch synthesizers alone -/

/-- Nothing differs but the two synthesizers. -/
structure Device.SynsOnly (d e : Device) : Prop where
  clk : { e.clk with synA := d.clk.synA, synB := d.clk.synB } = d.clk
  rest : { e with clk := d.clk } = d

theorem Device.SynsOnly.refl (d : Device) : Device.SynsOnly d d := ⟨rfl, rfl⟩

theorem Device.SynsOnly.trans {d e f : Device} (h : Device.SynsOnly d e) (k : Device.SynsOnly e f) : Device.SynsOnly d f :=
  ⟨(congrArg (fun c : Clock => { c with synA := d.clk.synA, synB := d.clk.synB }) k.clk).trans h.clk,
    (congrArg (fun x : Device => { x with clk := d.clk }) k.rest).trans h.rest⟩

theorem Device.setSyn_synsOnly (x : SynId) (f : Syn → Syn) (d : Device) : Device.SynsOnly d (d.setSyn x f) := by
  cases x <;> exact ⟨rfl, rfl⟩

theorem Device.synState_synsOnly (x : SynId) (st : SynState) (d : Device) : Device.SynsOnly d (d.synState x st) := Device.setSyn_synsOnly ..

theorem Device.bootNext_synsOnly (x : SynId) (d : Device) : Device.SynsOnly d (d.bootNext x) := by
  unfold Device.bootNext
  split
  · exact Device.synState_synsOnly _ _ d
  · exact .refl d

@[simp] theorem Device.syn_synState_same (x : SynId) (st : SynState) (d : Device) : (d.synState x st).syn x = (d.syn x).enter d.clk.time st :=
  Device.syn_setSyn_same ..
@[simp] theorem Device.syn_other_synState (x : SynId) (st : SynState) (d : Device) :
    (d.synState x st).syn (SynId.other x) = d.syn (SynId.other x) := Device.syn_other_setSyn ..
@[simp] theorem Device.syn_synState_other (x : SynId) (st : SynState) (d : Device) : (d.synState (SynId.other x) st).syn x = d.syn x :=
  Device.syn_setSyn_other ..
@[simp] theorem Device.synState_time (x : SynId) (st : SynState) (d : Device) : (d.synState x st).clk.time = d.clk.time := Device.setSyn_time ..

/-- A's first failure or success in BOOT lets B search; nothing else does. -/
theorem Device.bootNext_syn_same (x : SynId) (d : Device) : (d.bootNext x).syn x = d.syn x := by
  unfold Device.bootNext
  split
  · next h =>
    obtain ⟨-, rfl, -⟩ := h
    exact Device.syn_synState_other .A .search d
  · rfl

theorem Device.bootNext_syn_other (x : SynId) (d : Device) : (d.bootNext x).syn (SynId.other x) =
    if d.pw.mode = .boot ∧ x = .A ∧ d.clk.synB.state = .off then (d.syn (SynId.other x)).enter d.clk.time .search
    else d.syn (SynId.other x) := by
  unfold Device.bootNext
  split
  · next h =>
    obtain ⟨-, rfl, -⟩ := h
    exact Device.syn_synState_same .B .search d
  · rfl

theorem Device.safeAtOnce_eq {was : Power} {d : Device} (h : was.declared = none → d.pw.declared ≠ some 6) : d.safeAtOnce was = d :=
  if_neg fun ⟨h0, h6⟩ => h h0 h6

/-- An operation that leaves the power state declares no cause. -/
theorem Device.safeAtOnce_of_pw {was : Power} {d : Device} (h : d.pw = was) : d.safeAtOnce was = d :=
  Device.safeAtOnce_eq fun h0 h6 => by rw [h, h0] at h6; cases h6

theorem exec_countWindow {s : State} {x : SynId} (hcounts : (s.dev.syn x).counts = true) (hxo : s.dev.clk.xoOk = true)
    (hdue : s.dev.clk.reaches (s.dev.syn x).due = true) (first last : Nat) (word : BitVec 64) :
    exec (.countWindow x first last word) s = .next { s with dev :=
      ((s.dev.tickTo (s.dev.syn x).due).window x ((s.dev.syn x).error s.dev.clk.steer (last - first)) word).safeAtOnce s.dev.pw } :=
  if_pos (by rw [hcounts, hxo, hdue]; rfl)

/-! ### A synthesizer that acquires -/

section acquire
variable {d : Device} {x : SynId} (h : (d.syn x).state = .acquire) (err : Int) (word : BitVec 64)
include h

theorem Device.window_acquire_synsOnly : Device.SynsOnly d (d.window x err word) := by
  rw [Device.window_acquire err word h]
  split
  · exact ((Device.setSyn_synsOnly _ _ d).trans (Device.synState_synsOnly _ _ _)).trans (Device.bootNext_synsOnly _ _)
  · split
    · exact Device.setSyn_synsOnly _ _ d
    · split <;> exact Device.setSyn_synsOnly _ _ d

theorem Device.window_acquire_other : (d.window x err word).syn (SynId.other x) =
    if 8 * 2 ^ 40 < err.natAbs ∧ d.pw.mode = .boot ∧ x = .A ∧ d.clk.synB.state = .off then
      (d.syn (SynId.other x)).enter d.clk.time .search
    else d.syn (SynId.other x) := by
  rw [Device.window_acquire err word h]
  by_cases hbad : 8 * 2 ^ 40 < err.natAbs
  · have hB : x = .A → ((d.setSyn x fun _ => d.nextWindow x).synState x .unlocked).clk.synB.state = d.clk.synB.state := by
      rintro rfl
      rfl
    rw [if_pos hbad, Device.bootNext_syn_other]
    simp only [Device.synState_pw, Device.setSyn_pw, Device.syn_other_synState, Device.syn_other_setSyn, Device.synState_time,
      Device.setSyn_time, hbad, true_and]
    by_cases hx : x = .A
    · rw [hB hx]
    · simp only [hx, false_and, and_false, if_false]
  · have hfirst : ¬(8 * 2 ^ 40 < err.natAbs ∧ d.pw.mode = .boot ∧ x = .A ∧ d.clk.synB.state = .off) := fun hc => hbad hc.1
    rw [if_neg hbad, if_neg hfirst]
    split
    · exact Device.syn_other_setSyn ..
    · split <;> exact Device.syn_other_setSyn ..

theorem Device.window_acquire_bad (hbad : 8 * 2 ^ 40 < err.natAbs) : (d.window x err word).syn x =
    { d.syn x with state := .unlocked, good := 0, due := d.clk.time + (if (d.syn x).failed then 3000000 else 300000) } := by
  rw [Device.window_acquire err word h, if_pos hbad, Device.bootNext_syn_same, Device.syn_synState_same, Device.syn_setSyn_same,
    Device.setSyn_time]
  rfl

theorem Device.window_acquire_between (hbad : ¬ 8 * 2 ^ 40 < err.natAbs) (hgood : ¬ err.natAbs ≤ 2 * 2 ^ 40) :
    (d.window x err word).syn x = { d.nextWindow x with good := 0 } := by
  rw [Device.window_acquire err word h, if_neg hbad, if_pos hgood, Device.syn_setSyn_same]

theorem Device.window_acquire_good (hgood : err.natAbs ≤ 2 * 2 ^ 40) : (d.window x err word).syn x =
    if 3 ≤ (d.syn x).good then { d.nextWindow x with state := .align, good := 0, held := some word }
    else { d.nextWindow x with good := (d.syn x).good + 1, held := some word } := by
  rw [Device.window_acquire err word h, if_neg (by omega), if_neg (not_not.mpr hgood)]
  split <;> exact Device.syn_setSyn_same ..

end acquire

theorem windowsOfAcquiring (s : State) (x : SynId) (n0 n1 : Nat) (word : BitVec 64) :
    let y := s.dev.syn x
    let count := n1 - n0
    y.state = .acquire → s.dev.clk.xoOk = true → s.dev.clk.reaches y.due = true →
    Completes (.countWindow x n0 n1 word) s fun t =>
      let err := ((count : Int) * 2 ^ 40 - 491520 * 2 ^ y.mult * (2 ^ 40 + s.dev.clk.steer)).natAbs
      let now := t.dev.clk.time
      let z := { y with due := Max.max y.due now + 491520 * 2 ^ y.mult }
      let first := decide (8 * 2 ^ 40 < err ∧ s.dev.pw.mode = .boot ∧ x = .A ∧ s.dev.clk.synB.state = .off)
      DeviceOnly s t ∧ { t.dev with clk := s.dev.clk } = s.dev ∧
      t.dev.syn (SynId.other x) = (if first then (s.dev.syn (SynId.other x)).enter now .search else s.dev.syn (SynId.other x)) ∧
      { t.dev.clk with synA := s.dev.clk.synA, synB := s.dev.clk.synB } = (s.dev.tickTo y.due).clk ∧
      (8 * 2 ^ 40 < err →
        t.dev.syn x = { y with state := .unlocked, good := 0, due := now + (if y.failed then 3000000 else 300000) }) ∧
      (2 * 2 ^ 40 < err → err ≤ 8 * 2 ^ 40 → t.dev.syn x = { z with good := 0 }) ∧
      (err ≤ 2 * 2 ^ 40 → y.good < 3 → t.dev.syn x = { z with good := y.good + 1, held := some word }) ∧
      (err ≤ 2 * 2 ^ 40 → 3 ≤ y.good → t.dev.syn x = { z with state := .align, good := 0, held := some word }) := by
  intro y count hstate hxo hdue
  have herr : (y.error s.dev.clk.steer (n1 - n0)).natAbs =
      ((count : Int) * 2 ^ 40 - 491520 * 2 ^ y.mult * (2 ^ 40 + s.dev.clk.steer)).natAbs := by
    simp [Syn.error, Syn.window, count]
  let e := s.dev.tickTo y.due
  have hx : e.syn x = y := Device.tickTo_syn _ x _
  have hother : e.syn (SynId.other x) = s.dev.syn (SynId.other x) := Device.tickTo_syn ..
  have hacq : (e.syn x).state = .acquire := hx ▸ hstate
  have hsyns := Device.window_acquire_synsOnly hacq (y.error s.dev.clk.steer (n1 - n0)) word
  have htick := Device.tickTo_eq y.due s.dev
  have hB : e.clk.synB = s.dev.clk.synB := congrArg (·.clk.synB) htick
  have hA : e.clk.synA = s.dev.clk.synA := congrArg (·.clk.synA) htick
  have hpw : (e.window x (y.error s.dev.clk.steer (n1 - n0)) word).pw = s.dev.pw :=
    (congrArg (·.pw) hsyns.rest).trans (Device.tickTo_pw _ _)
  have hcounts : y.counts = true := by simp [Syn.counts, hstate]
  have hexec := exec_countWindow hcounts hxo hdue n0 n1 word
  rw [Device.safeAtOnce_of_pw hpw] at hexec
  have hnext : e.nextWindow x = { y with due := Max.max y.due e.clk.time + 491520 * 2 ^ y.mult } := by rw [Device.nextWindow, hx]; rfl
  have hclk := hsyns.clk
  have hnow : (e.window x (y.error s.dev.clk.steer (n1 - n0)) word).clk.time = e.clk.time := congrArg (·.time) hclk
  refine ⟨_, hexec, ?_⟩
  beta_reduce
  intro err now z first
  have hn : now = e.clk.time := hnow
  have he : (y.error s.dev.clk.steer (n1 - n0)).natAbs = err := herr
  have hz : e.nextWindow x = z := by rw [hnext, ← hn]
  refine ⟨⟨rfl, rfl⟩, (congrArg (fun u : Device => { u with clk := s.dev.clk }) hsyns.rest).trans
    (congrArg (fun u : Device => { u with clk := s.dev.clk }) htick), ?_, ?_, fun hbad => ?_, fun hgood hbad => ?_, fun hgood hlt => ?_,
    fun hgood hge => ?_⟩
  · refine (Device.window_acquire_other hacq _ _).trans ?_
    rw [hother, hB, Device.tickTo_pw, he, hn]
    simp only [first, decide_eq_true_eq]
  · rw [← hA, ← hB]
    exact hclk
  · exact (Device.window_acquire_bad hacq _ _ (he ▸ hbad)).trans (by rw [hx, hn])
  · exact (Device.window_acquire_between hacq _ _ (by omega) (by omega)).trans (by rw [hz])
  · exact (Device.window_acquire_good hacq _ _ (he ▸ hgood)).trans (by rw [hx, hz, if_neg (by omega)])
  · exact (Device.window_acquire_good hacq _ _ (he ▸ hgood)).trans (by rw [hx, hz, if_pos hge])

end Sys2Proof.Machine
end

section
namespace Sys2Proof.Machine

/-! Losing lock: who drives ROOT afterwards, and what a coast leaves as it is (R277 to R282). -/

/-! ### Declared causes and the discipline -/

theorem Device.toSafe_frame (cause : Nat) (d : Device) :
    Device.Grows (fun x => { x.core with pw := Power.reset }) d (d.toSafe cause) := by
  refine .trans ?_ (((Device.logPut_grows _ _ _).raise _ _).map fun x => { x with pw := Power.reset })
  exact .of_evts rfl rfl

/-- A declared cause shows in the power state, the log and EVT_SYS alone. -/
theorem Device.declareSafe_grows (cause : Nat) (d : Device) :
    Device.Grows (fun x => { x.core with pw := Power.reset }) d (d.declareSafe cause) := by
  unfold Device.declareSafe
  refine Device.ite_grows _ ((Device.logPut_grows _ _ d).map fun x => { x with pw := Power.reset })
    (Device.ite_grows _ (Device.toSafe_frame cause d) (.of_evts rfl rfl))

@[simp] theorem Device.toSafe_clk (c : Nat) (d : Device) : (d.toSafe c).clk = d.clk := congrArg (·.clk) (d.toSafe_frame c).same
@[simp] theorem Device.toSafe_fw (c : Nat) (d : Device) : (d.toSafe c).fw = d.fw := by simp [Device.toSafe]
@[simp] theorem Device.toSafe_cnt (c : Nat) (d : Device) : (d.toSafe c).cnt = d.cnt := by simp [Device.toSafe]
@[simp] theorem Device.declareSafe_clk (c : Nat) (d : Device) : (d.declareSafe c).clk = d.clk := congrArg (·.clk) (d.declareSafe_grows c).same
@[simp] theorem Device.declareSafe_fw (c : Nat) (d : Device) : (d.declareSafe c).fw = d.fw := by
  unfold Device.declareSafe
  simp only [apply_ite Device.fw, Device.logPut_fw, Device.toSafe_fw, ite_self]
@[simp] theorem Device.declareSafe_cnt (c : Nat) (d : Device) : (d.declareSafe c).cnt = d.cnt := by
  unfold Device.declareSafe
  simp only [apply_ite Device.cnt, Device.logPut_cnt, Device.toSafe_cnt, ite_self]

/-- Out of BOOT and SAFE the first cause waits for the boundary. -/
theorem Device.declareSafe_first {d : Device} (hboot : d.pw.mode ≠ .boot) (hsafe : d.pw.mode ≠ .safe) (h : d.pw.declared = none) (c : Nat) :
    d.declareSafe c = { d with pw := { d.pw with declared := some c } } := by
  simp [Device.declareSafe, hboot, hsafe, h]

theorem Device.declareSafe_declared (c : Nat) {d : Device} (h : d.pw.declared = none) :
    (d.declareSafe c).pw.declared = none ∨ (d.declareSafe c).pw.declared = some c := by
  unfold Device.declareSafe
  split
  · exact .inl (by simpa using h)
  · split
    · exact .inl (by rw [Device.toSafe_pw]; exact h)
    · exact .inr rfl

/-- A later cause changes neither the first one nor the mode. -/
theorem Device.declareSafe_later {d : Device} (h : d.pw.mode = .safe ∨ d.pw.declared.isSome) (c : Nat) : d.declareSafe c = d.logPut 1 [c] :=
  if_pos h

/-- The clocks without their discipline and scheduled steps. -/
def Clock.undisciplined (c : Clock) : Clock := { c with due := [], disc := .free, resume := none }

theorem Device.setDisc_grows (st : Disc) (d : Device) :
    Device.Grows (fun x => (x.clk.undisciplined, { x with clk := Clock.reset, marks := Marks.init })) d (d.setDisc st) := by
  unfold Device.setDisc
  extract_lets c c'
  refine .of_evts (Prod.ext ?_ rfl) rfl
  simp only [c', c, Device.markDisc]
  split <;> rfl

theorem Device.setDisc_due (st : Disc) (d : Device) : (d.setDisc st).clk.due = d.clk.due := by
  simp only [Device.setDisc, Device.markDisc, apply_ite Clock.due, ite_self]

theorem Device.setDisc_under (st : Disc) (d : Device) : (d.setDisc st).clk.under = st := by
  simp only [Device.setDisc, Device.markDisc, Clock.under]
  split
  · rfl
  · next h => simp only [Bool.not_eq_true, Option.isSome_eq_false_iff, Option.isNone_iff_eq_none] at h; rw [h]; rfl

theorem Device.holdover_grows (d : Device) :
    Device.Grows (fun x => (x.clk.undisciplined, { x.core with clk := Clock.reset, marks := Marks.init })) d d.holdover := by
  refine .trans (.trans (e := { d with clk := { d.clk with due := d.clk.due.filter fun x => x.kind != 0 } }) ?_
    ((Device.setDisc_grows .holdover _).map fun p => (p.1, p.2.core))) ((Device.raise_grows _ _ _).map fun x =>
      (x.clk.undisciplined, { x with clk := Clock.reset, marks := Marks.init }))
  exact .of_evts rfl rfl

@[simp] theorem Device.setDisc_fw (st : Disc) (d : Device) : (d.setDisc st).fw = d.fw := rfl
@[simp] theorem Device.setDisc_cnt (st : Disc) (d : Device) : (d.setDisc st).cnt = d.cnt := rfl
@[simp] theorem Device.setDisc_pw (st : Disc) (d : Device) : (d.setDisc st).pw = d.pw := rfl
@[simp] theorem Device.setDisc_evts (st : Disc) (d : Device) : (d.setDisc st).evts = d.evts := rfl
@[simp] theorem Device.holdover_fw (d : Device) : d.holdover.fw = d.fw := by simp [Device.holdover]
@[simp] theorem Device.holdover_cnt (d : Device) : d.holdover.cnt = d.cnt := by simp [Device.holdover]
@[simp] theorem Device.holdover_pw (d : Device) : d.holdover.pw = d.pw := by simp [Device.holdover]

/-! ### The coast -/

/-- The clocks of a device that begins to coast, and its mark, before the discipline follows. -/
def Device.coastOn (t : Nat) (d : Device) : Device :=
  let d := d.raise evClk (ebit clkBothLost)
  let d := if d.clk.synA.state = .off then d.synState .A .search
    else if d.clk.synA.state = .active then d.synState .A .unlocked else d
  let d := (d.synState .B .coast).abandonChange
  { d with clk := { d.clk with activeB := true, coasting := true, coastBad := false, due := d.clk.due.filter fun x => x.kind != 3 },
           marks := { d.marks with coast := spanOpen t d.marks.coast } }

/-- The discipline of a device that coasts. -/
def Device.coastDisc (d : Device) : Device := if d.clk.under.steers then d.holdover else d

/-- The causes that a coast declares: no held word, no base (R281, R282). -/
def Device.coastCauses (d : Device) : Device :=
  let d := if d.clk.synB.held.isNone then d.declareSafe 6 else d
  if d.clk.xoOk then d else d.declareSafe 3

theorem Device.coast_eq (t : Nat) (d : Device) : d.coast t = (d.coastOn t).coastDisc.coastCauses := rfl

/-- What of the clocks a coast leaves as it is. -/
def Clock.rooted (c : Clock) : Clock :=
  { c.undisciplined with synA := Syn.init, synB := Syn.init, change := 0, refMult := 0, activeB := false, coasting := false, coastBad := false }

/-- The device apart from its clocks, marks and power state, and from reports. -/
def Device.unclocked (d : Device) : Device := { d.core with clk := Clock.reset, marks := Marks.init, pw := Power.reset }

theorem Device.synState_grows (x : SynId) (st : SynState) (d : Device) :
    Device.Grows (fun e => (e.clk.rooted, e.unclocked)) d (d.synState x st) := by
  cases x <;> exact .of_evts rfl rfl

theorem Device.abandonChange_grows (d : Device) : Device.Grows (fun e => (e.clk.rooted, e.unclocked)) d d.abandonChange := by
  unfold Device.abandonChange
  split
  · extract_lets m d1
    have h1 : Device.Grows (fun e => (e.clk.rooted, e.unclocked)) d d1 := Device.ite_grows _ (.refl d) (Device.synState_grows _ _ d)
    exact h1.trans (.of_evts rfl rfl)
  · exact .refl d

theorem Device.coastOn_grows (t : Nat) (d : Device) : Device.Grows (fun e => (e.clk.rooted, e.unclocked)) d (d.coastOn t) := by
  unfold Device.coastOn
  extract_lets d1 d2 d3
  have h1 : Device.Grows (fun e => (e.clk.rooted, e.unclocked)) d d1 :=
    (Device.raise_grows _ _ d).map fun x => (x.clk.rooted, { x with clk := Clock.reset, marks := Marks.init, pw := Power.reset })
  have h2 : Device.Grows (fun e => (e.clk.rooted, e.unclocked)) d1 d2 :=
    Device.ite_grows _ (Device.synState_grows _ _ _) (Device.ite_grows _ (Device.synState_grows _ _ _) (.refl _))
  have h3 : Device.Grows (fun e => (e.clk.rooted, e.unclocked)) d2 d3 := (Device.synState_grows _ _ _).trans (Device.abandonChange_grows _)
  exact ((h1.trans h2).trans h3).trans (.of_evts rfl rfl)

theorem Device.coastDisc_grows (d : Device) :
    Device.Grows (fun e => (e.clk.undisciplined, e.unclocked)) d d.coastDisc :=
  Device.ite_grows _ (d.holdover_grows.map fun p => (p.1, { p.2 with pw := Power.reset })) (.refl d)

theorem Device.coastCauses_grows (d : Device) : Device.Grows (fun e => (e.clk, e.unclocked)) d d.coastCauses := by
  have hd := fun c e => (Device.declareSafe_grows c e).map fun x => (x.clk, { x with clk := Clock.reset, marks := Marks.init })
  unfold Device.coastCauses
  extract_lets d1
  have h1 : Device.Grows (fun e => (e.clk, e.unclocked)) d d1 := Device.ite_grows _ (hd 6 d) (.refl d)
  exact h1.trans (Device.ite_grows _ (.refl _) (hd 3 _))

/-- A coast: what it leaves. -/
theorem Device.coast_grows (t : Nat) (d : Device) : Device.Grows (fun e => (e.clk.rooted, e.unclocked)) d (d.coast t) :=
  ((d.coastOn_grows t).trans ((Device.coastDisc_grows _).map fun p => ({ p.1 with
    synA := Syn.init, synB := Syn.init, change := 0, refMult := 0, activeB := false, coasting := false, coastBad := false }, p.2))).trans
    ((Device.coastCauses_grows _).map fun p => (p.1.rooted, p.2))

@[simp] theorem Device.coast_clk (t : Nat) (d : Device) : (d.coast t).clk = (d.coastOn t).coastDisc.clk :=
  congrArg (·.1) (Device.coastCauses_grows _).same

/-- The discipline of a coast touches no synthesizer. -/
theorem Device.coastDisc_undisciplined (d : Device) : d.coastDisc.clk.undisciplined = d.clk.undisciplined :=
  congrArg (·.1) d.coastDisc_grows.same

@[simp] theorem Device.coastDisc_pw (d : Device) : d.coastDisc.pw = d.pw := by
  simp only [Device.coastDisc, apply_ite Device.pw, Device.holdover_pw, ite_self]

theorem Device.abandonChange_synB (d : Device) : d.abandonChange.clk.synB = d.clk.synB := by
  unfold Device.abandonChange
  dsimp only
  repeat' split
  all_goals rfl

/-- A change that is abandoned leaves A in place or lets it search. -/
theorem Device.abandonChange_synA (d : Device) : d.abandonChange.clk.synA = d.clk.synA ∨
    d.clk.change = 1 ∧ (d.abandonChange.clk.synA.state = d.clk.synA.state ∨ d.abandonChange.clk.synA.state = .search) := by
  unfold Device.abandonChange
  by_cases hc : d.clk.change = 1
  · rw [if_pos hc]
    refine .inr ⟨hc, ?_⟩
    dsimp only
    split
    · exact .inl rfl
    · exact .inr rfl
  · rw [if_neg hc]
    exact .inl rfl

@[simp] theorem Device.abandonChange_pw (d : Device) : d.abandonChange.pw = d.pw := by
  unfold Device.abandonChange
  dsimp only
  repeat' split
  all_goals rfl

@[simp] theorem Device.coastOn_pw (t : Nat) (d : Device) : (d.coastOn t).pw = d.pw := by
  simp only [Device.coastOn, Device.abandonChange_pw, Device.synState_pw, apply_ite Device.pw, Device.raise_pw, ite_self]

/-- A is powered up where it is off, and waits to retry where it is the one that failed. -/
def Device.coastA (d : Device) : Device :=
  if d.clk.synA.state = .off then d.synState .A .search else if d.clk.synA.state = .active then d.synState .A .unlocked else d

theorem Device.coastA_clk (d : Device) : d.coastA.clk.synB = d.clk.synB ∧ d.coastA.clk.time = d.clk.time ∧ d.coastA.clk.change = d.clk.change ∧
    d.coastA.clk.synA.state ≠ .active ∧ (d.clk.synA.state ≠ .off → d.clk.synA.state ≠ .active → d.coastA = d) := by
  unfold Device.coastA
  by_cases hoff : d.clk.synA.state = .off
  · rw [if_pos hoff]
    exact ⟨rfl, rfl, rfl, nofun, fun h => absurd hoff h⟩
  · by_cases hact : d.clk.synA.state = .active
    · rw [if_neg hoff, if_pos hact]
      exact ⟨rfl, rfl, rfl, nofun, fun _ h => absurd hact h⟩
    · rw [if_neg hoff, if_neg hact]
      exact ⟨rfl, rfl, rfl, hact, fun _ _ => rfl⟩

/-- Who drives ROOT in a coast, and where the two synthesizers stand. -/
theorem Device.coastOn_clk (t : Nat) (d : Device) :
    (d.coastOn t).clk.coasting = true ∧ (d.coastOn t).clk.activeB = true ∧ (d.coastOn t).clk.synB = d.clk.synB.enter d.clk.time .coast ∧
      (d.coastOn t).clk.synA.state ≠ .active ∧
      (d.clk.change ≠ 1 → d.clk.synA.state ≠ .off → d.clk.synA.state ≠ .active → (d.coastOn t).clk.synA = d.clk.synA) := by
  let e := (d.raise evClk (ebit clkBothLost)).coastA
  obtain ⟨hB, htime, hchange, hact, hsame⟩ := (d.raise evClk (ebit clkBothLost)).coastA_clk
  rw [Device.raise_clk] at hB htime hchange hsame
  have hclk : (d.coastOn t).clk = { (e.synState .B .coast).abandonChange.clk with
      activeB := true
      coasting := true
      coastBad := false
      due := (e.synState .B .coast).abandonChange.clk.due.filter fun x => x.kind != 3 } := rfl
  rw [hclk]
  refine ⟨rfl, rfl, ?_, ?_, fun hc h1 h2 => ?_⟩
  · refine (Device.abandonChange_synB _).trans ?_
    change Syn.enter e.clk.time .coast e.clk.synB = _
    rw [hB, htime]
  · rcases (e.synState .B .coast).abandonChange_synA with h | ⟨-, h | h⟩
    · exact fun h' => hact (h ▸ h')
    · exact fun h' => hact (h ▸ h')
    · exact fun h' => by cases h.symm.trans h'
  · rcases (e.synState .B .coast).abandonChange_synA with h | ⟨h, -⟩
    · refine h.trans ?_
      change e.clk.synA = _
      rw [show e = _ from hsame h1 h2, Device.raise_clk]
    · exact absurd (hchange.symm.trans h) hc

theorem Device.coast_syns (t : Nat) (d : Device) :
    (d.coast t).clk.coasting = true ∧ (d.coast t).clk.driver = .B ∧ (d.coast t).clk.synB = d.clk.synB.enter d.clk.time .coast ∧
      (d.coast t).clk.synA.state ≠ .active ∧
      (d.clk.change ≠ 1 → d.clk.synA.state ≠ .off → d.clk.synA.state ≠ .active → (d.coast t).clk.synA = d.clk.synA) := by
  obtain ⟨hc, ha, hB, hA, hsame⟩ := d.coastOn_clk t
  have hu := (d.coastOn t).coastDisc_undisciplined
  rw [Device.coast_clk]
  generalize (d.coastOn t).coastDisc.clk = c at hu ⊢
  have hcA : c.synA = (d.coastOn t).clk.synA := congrArg (·.synA) hu
  refine ⟨(congrArg (·.coasting) hu).trans hc, ?_, (congrArg (·.synB) hu).trans hB, by rw [hcA]; exact hA,
    fun h1 h2 h3 => hcA.trans (hsame h1 h2 h3)⟩
  rw [Clock.driver, show c.activeB = true from (congrArg (·.activeB) hu).trans ha]
  rfl

theorem Device.coast_bit (t : Nat) (d : Device) : ((d.coast t).evt evClk).bits.getLsbD clkBothLost = true := by
  refine (Device.coastCauses_grows _).bits _ _ ((Device.coastDisc_grows _).bits _ _ ?_)
  have h : ((d.raise evClk (ebit clkBothLost)).evt evClk).bits.getLsbD clkBothLost = true := Device.raise_bit (by decide) d
  have hA : Device.Grows (fun _ => ()) (d.raise evClk (ebit clkBothLost)) (d.raise evClk (ebit clkBothLost)).coastA :=
    Device.ite_grows _ ((Device.synState_grows _ _ _).map fun _ => ()) (Device.ite_grows _ ((Device.synState_grows _ _ _).map fun _ => ()) (.refl _))
  exact (Device.abandonChange_grows _).bits _ _ ((Device.synState_grows _ _ _).bits _ _ (hA.bits _ _ h))

@[simp] theorem Device.coast_cnt (t : Nat) (d : Device) : (d.coast t).cnt = d.cnt := by
  simp only [Device.coast_eq, Device.coastCauses, Device.coastDisc, Device.coastOn, Device.abandonChange, apply_ite Device.cnt,
    Device.declareSafe_cnt, Device.holdover_cnt, Device.synState_cnt, Device.raise_cnt, ite_self]

@[simp] theorem Device.coast_fw (t : Nat) (d : Device) : (d.coast t).fw = d.fw := by
  simp only [Device.coast_eq, Device.coastCauses, Device.coastDisc, Device.coastOn, Device.abandonChange, apply_ite Device.fw,
    Device.declareSafe_fw, Device.holdover_fw, Device.synState_fw, Device.raise_fw, ite_self]

/-- What decides the causes of a coast: B's held word, the base, and the power state as it was. -/
theorem Device.coast_causes (t : Nat) (d : Device) : ∃ e : Device, d.coast t = e.coastCauses ∧ e.pw = d.pw ∧
    e.clk.synB.held = d.clk.synB.held ∧ e.clk.xoOk = d.clk.xoOk := by
  obtain ⟨-, -, hB, -⟩ := d.coastOn_clk t
  have hu := (d.coastOn t).coastDisc_undisciplined
  refine ⟨(d.coastOn t).coastDisc, rfl, by simp, ?_, (congrArg (·.xoOk) hu).trans (congrArg (·.1.xoOk) (d.coastOn_grows t).same)⟩
  exact (congrArg (·.synB.held) hu).trans (congrArg Syn.held hB)

theorem Device.coast_pw_of_held {d : Device} (hheld : d.clk.synB.held.isSome = true) (t : Nat) :
    (d.clk.xoOk = true → (d.coast t).pw = d.pw) ∧
      (d.clk.xoOk = false → d.pw.mode ≠ .boot → d.pw.mode ≠ .safe → d.pw.declared = none →
        (d.coast t).pw = { d.pw with declared := some 3 }) ∧
      (d.pw.declared = none → (d.coast t).pw.declared ≠ some 6) := by
  obtain ⟨e, he, hpw, hB, hxo⟩ := d.coast_causes t
  have hcauses : e.coastCauses = if d.clk.xoOk then e else e.declareSafe 3 := by
    rw [← hB] at hheld
    simp [Device.coastCauses, Option.isSome_iff_ne_none.mp hheld, hxo]
  rw [he, hcauses]
  refine ⟨fun h => by rw [h]; exact hpw, fun h hboot hsafe hdecl => ?_, fun hdecl => ?_⟩
  · rw [h, ← hpw]
    rw [← hpw] at hboot hsafe hdecl
    exact congrArg (·.pw) (Device.declareSafe_first hboot hsafe hdecl 3)
  · split
    · rw [hpw, hdecl]; nofun
    · rcases Device.declareSafe_declared 3 (hpw ▸ hdecl : e.pw.declared = none) with h | h <;> rw [h] <;> nofun

/-- Without a held word SAFE is entered at once in BOOT, and declared under cause 6 in another mode. -/
theorem Device.coast_pw_of_unheld {d : Device} (hheld : d.clk.synB.held = none) (hsafe : d.pw.mode ≠ .safe) (hdecl : d.pw.declared = none)
    (t : Nat) : ((d.coast t).pw.mode = .safe ∧ (d.coast t).pw.safeCause = 6 ∧ (d.coast t).pw.declared = none ∧
        ((d.coast t).evt evSys).bits.getLsbD sysSafe = true) ∨
      (d.coast t).pw.declared = some 6 := by
  obtain ⟨e, he, hpw, hB, -⟩ := d.coast_causes t
  let f := e.declareSafe 6
  have hcauses : e.coastCauses = if f.clk.xoOk then f else f.declareSafe 3 := by
    simp [Device.coastCauses, hB.trans hheld, f]
  rw [he, hcauses]
  rw [← hpw] at hsafe hdecl
  by_cases hboot : e.pw.mode = .boot
  · have hf : f = e.toSafe 6 := Device.declareSafe_boot hboot hdecl 6
    have hpw : f.pw.mode = .safe ∧ f.pw.safeCause = 6 ∧ f.pw.declared = none := by
      rw [hf, Device.toSafe_pw]
      exact ⟨rfl, rfl, hdecl⟩
    have hbit : (f.evt evSys).bits.getLsbD sysSafe = true := hf ▸ Device.toSafe_bit 6 e
    left
    split
    · exact ⟨hpw.1, hpw.2.1, hpw.2.2, hbit⟩
    · rw [Device.declareSafe_later (.inl hpw.1), Device.logPut_pw]
      exact ⟨hpw.1, hpw.2.1, hpw.2.2, (Device.logPut_grows _ _ _).bits _ _ hbit⟩
  · have hf : f = { e with pw := { e.pw with declared := some 6 } } := Device.declareSafe_first hboot hsafe hdecl 6
    have hpw : f.pw.declared = some 6 := congrArg (·.pw.declared) hf
    right
    split
    · exact hpw
    · rw [Device.declareSafe_later (.inr (by rw [hpw]; rfl)), Device.logPut_pw]
      exact hpw

/-! ### Losing lock -/

section lock
variable {d : Device} {x : SynId} (t : Nat)

/-- The loss itself: marked on the synthesizer, and reported. -/
def Device.lockGone (x : SynId) (d : Device) : Device := (d.setSyn x fun y => { y with lost := true }).raise evClk (ebit (clkLost x))

@[simp] theorem Device.raise_syn (i : Nat) (b : BitVec 24) (y : SynId) (d : Device) : (d.raise i b).syn y = d.syn y := by
  rw [Device.syn, Device.raise_clk]
  rfl

@[simp] theorem Device.lockGone_same (d : Device) : (d.lockGone x).syn x = { d.syn x with lost := true } := by
  rw [Device.lockGone, Device.raise_syn, Device.syn_setSyn_same]
@[simp] theorem Device.lockGone_other (d : Device) : (d.lockGone x).syn (SynId.other x) = d.syn (SynId.other x) := by
  rw [Device.lockGone, Device.raise_syn, Device.syn_other_setSyn]
@[simp] theorem Device.lockGone_time (d : Device) : (d.lockGone x).clk.time = d.clk.time := by simp [Device.lockGone]
@[simp] theorem Device.lockGone_pw (d : Device) : (d.lockGone x).pw = d.pw := by simp [Device.lockGone]
@[simp] theorem Device.lockGone_fw (d : Device) : (d.lockGone x).fw = d.fw := by simp [Device.lockGone]
@[simp] theorem Device.lockGone_cnt (d : Device) : (d.lockGone x).cnt = d.cnt := by simp [Device.lockGone]

theorem Device.setSyn_grows (f : Syn → Syn) (d : Device) : Device.Grows (fun e => (e.clk.rooted, e.unclocked)) d (d.setSyn x f) := by
  cases x <;> exact .of_evts rfl rfl

theorem Device.lockGone_grows (d : Device) : Device.Grows (fun e => (e.clk.rooted, e.unclocked)) d (d.lockGone x) :=
  (d.setSyn_grows _).trans ((Device.raise_grows _ _ _).map fun e => (e.clk.rooted, { e with clk := Clock.reset, marks := Marks.init, pw := Power.reset }))

theorem clkLost_bit (x : SynId) : (ebit (clkLost x) &&& evtMask evClk).getLsbD (clkLost x) = true := by cases x <;> decide
theorem clkSwitch_bit (x : SynId) : (ebit (clkSwitch x) &&& evtMask evClk).getLsbD (clkSwitch x) = true := by cases x <;> decide

theorem Device.lockGone_bit (d : Device) : ((d.lockGone x).evt evClk).bits.getLsbD (clkLost x) = true := Device.raise_bit (clkLost_bit x) _

theorem Device.loseLock_standby (h : (d.syn x).state = .align ∨ (d.syn x).state = .ready) :
    d.loseLock x t = (d.lockGone x).synState x .unlocked := by
  rcases h with h | h <;> simp [Device.loseLock, h, Device.lockGone]

theorem Device.loseLock_switch (h : (d.syn x).state = .active) (hother : (d.syn (SynId.other x)).state = .ready) :
    d.loseLock x t = ((d.lockGone x).synState x .unlocked).switchTo (SynId.other x) t := by
  simp [Device.loseLock, h, hother, Device.lockGone]

theorem Device.loseLock_coast (h : (d.syn x).state = .active) (hother : (d.syn (SynId.other x)).state ≠ .ready) :
    d.loseLock x t = (d.lockGone x).coast t := by
  simp [Device.loseLock, h, hother, Device.lockGone]

theorem Device.loseLock_unlocked (h : ¬((d.syn x).state = .align ∨ (d.syn x).state = .ready ∨ (d.syn x).state = .active)) :
    d.loseLock x t = d := if_neg h

/-! ### Switching -/

theorem Device.switchTo_clk (d : Device) : (d.switchTo x t).clk = { (d.setSyn x fun y => { y with state := .active }).clk with
    activeB := decide (x = SynId.B) } := by simp [Device.switchTo]

@[simp] theorem Device.switchTo_same (d : Device) : (d.switchTo x t).syn x = { d.syn x with state := .active } := by
  rw [Device.syn, Device.switchTo_clk]
  cases x <;> rfl
@[simp] theorem Device.switchTo_other (d : Device) : (d.switchTo x t).syn (SynId.other x) = d.syn (SynId.other x) := by
  rw [Device.syn, Device.switchTo_clk]
  cases x <;> rfl
@[simp] theorem Device.syn_switchTo_other (d : Device) : (d.switchTo (SynId.other x) t).syn x = d.syn x := by
  cases x with
  | A => exact Device.switchTo_other (x := .B) t d
  | B => exact Device.switchTo_other (x := .A) t d
@[simp] theorem Device.switchTo_driver (d : Device) : (d.switchTo x t).clk.driver = x := by
  rw [Clock.driver, Device.switchTo_clk]
  cases x <;> rfl
@[simp] theorem Device.switchTo_time (d : Device) : (d.switchTo x t).clk.time = d.clk.time := by
  rw [Device.switchTo_clk]
  exact Device.setSyn_time ..
@[simp] theorem Device.switchTo_pw (d : Device) : (d.switchTo x t).pw = d.pw := by simp [Device.switchTo]
@[simp] theorem Device.switchTo_fw (d : Device) : (d.switchTo x t).fw = d.fw := by simp [Device.switchTo]
@[simp] theorem Device.switchTo_cnt (d : Device) : (d.switchTo x t).cnt = { d.cnt with synSwitches := d.cnt.synSwitches + 1#32 } := by
  simp [Device.switchTo]
@[simp] theorem Device.switchTo_marks (d : Device) :
    (d.switchTo x t).marks = { d.marks with clksw := t / Config.epochTicks :: d.marks.clksw } := by simp [Device.switchTo]

theorem Device.switchTo_bit (d : Device) : ((d.switchTo x t).evt evClk).bits.getLsbD (clkSwitch x) = true :=
  Device.raise_bit (clkSwitch_bit x) _

/-- A switch moves the multiplexer, counts and marks itself, and is reported. -/
theorem Device.switchTo_grows (d : Device) : Device.Grows (fun e => (e.clk.rooted, e.unclocked)) d (d.switchTo x t) := by
  refine .trans ?_ ((Device.raise_grows _ _ _).map fun e => (e.clk.rooted, { e with clk := Clock.reset, marks := Marks.init, pw := Power.reset }))
  cases x <;> exact .of_evts rfl rfl

end lock

end Sys2Proof.Machine
end

section
namespace Sys2Proof.Machine

/-! O16, second part: the windows of a synthesizer that is locked or coasts. -/

theorem Syn.counts_of_state {y : Syn} (h : y.state = .align ∨ y.state = .ready ∨ y.state = .active ∨ y.state = .coast ∨ y.state = .acquire) :
    y.counts = true := by
  rcases h with h | h | h | h | h <;> simp [Syn.counts, h]

theorem Device.setSyn_counter (x : SynId) (f : Syn → Syn) (d : Device) :
    (d.setSyn x f).clk.driver = d.clk.driver ∧ (d.setSyn x f).clk.coasting = d.clk.coasting ∧ (d.setSyn x f).clk.xoOk = d.clk.xoOk := by
  cases x <;> exact ⟨rfl, rfl, rfl⟩

theorem clkBothLost_lt : clkBothLost < 24 := by decide

theorem SynId.other_other (x : SynId) : SynId.other (SynId.other x) = x := by cases x <;> rfl

section locked
variable {s : State} {x : SynId} {n0 n1 : Nat} {word : BitVec 64}

/-- The state after a window of a synthesizer that is locked, by the window's error. -/
theorem exec_countWindow_locked (hxo : s.dev.clk.xoOk = true) (hdue : s.dev.clk.reaches (s.dev.syn x).due = true)
    (h : (s.dev.syn x).state = .align ∨ (s.dev.syn x).state = .ready ∨ (s.dev.syn x).state = .active) :
    let err := ((s.dev.syn x).error s.dev.clk.steer (n1 - n0)).natAbs
    let d := s.dev.tickTo (s.dev.syn x).due
    let e := d.setSyn x fun _ => d.nextWindow x
    exec (.countWindow x n0 n1 word) s = .next { s with dev :=
      (if 8 * 2 ^ 40 < err then e.loseLock x d.clk.time
        else if err ≤ 2 * 2 ^ 40 then d.setSyn x fun _ => { d.nextWindow x with held := some word } else e).safeAtOnce s.dev.pw } := by
  intro err d e
  have hcounts : (s.dev.syn x).counts = true := Syn.counts_of_state (by rcases h with h | h | h <;> simp [h])
  have hd : d.syn x = s.dev.syn x := Device.tickTo_syn ..
  rw [exec_countWindow hcounts hxo hdue, Device.window_locked _ _ (by rw [hd]; exact h)]

end locked

theorem windowsOfLocked (s : State) (x : SynId) (n0 n1 : Nat) (word : BitVec 64) (hxo : s.dev.clk.xoOk = true)
    (hdue : s.dev.clk.reaches (s.dev.syn x).due = true) :
    let y := s.dev.syn x
    let err := (y.error s.dev.clk.steer (n1 - n0)).natAbs
    let d := s.dev.tickTo y.due
    let next := Max.max y.due d.clk.time + y.window
    (y.state = .align ∨ y.state = .ready ∨ y.state = .active →
      (err ≤ 2 * 2 ^ 40 → Gives (.countWindow x n0 n1 word) s (d.setSyn x fun z => { z with due := next, held := some word })) ∧
      (2 * 2 ^ 40 < err → err ≤ 8 * 2 ^ 40 → Gives (.countWindow x n0 n1 word) s (d.setSyn x fun z => { z with due := next }))) := by
  intro y err d next h
  have hd : d.syn x = y := Device.tickTo_syn ..
  have hnext : d.nextWindow x = { y with due := next } := by rw [Device.nextWindow, hd]
  have hexec := exec_countWindow_locked (n0 := n0) (n1 := n1) (word := word) hxo hdue h
  refine ⟨fun hgood => hexec.trans ?_, fun hgood hbad => hexec.trans ?_⟩
  · have h1 : ¬ 8 * 2 ^ 40 < err := by omega
    rw [if_neg h1, if_pos hgood, Device.safeAtOnce_of_pw (by simp), hnext, Device.setSyn_eq_const x fun z => { z with due := next, held := some word },
      hd]
  · have h1 : ¬ 8 * 2 ^ 40 < err := by omega
    have h2 : ¬ err ≤ 2 * 2 ^ 40 := by omega
    rw [if_neg h1, if_neg h2, Device.safeAtOnce_of_pw (by simp), hnext, Device.setSyn_eq_const x fun z => { z with due := next }, hd]

/-- Losing lock by a window: what the synthesizers were before it is what they were, but for the next window's instant. -/
structure WindowEnds (s : State) (x : SynId) (e : Device) : Prop where
  same : ∃ w, e.syn x = { s.dev.syn x with due := w }
  other : e.syn (SynId.other x) = s.dev.syn (SynId.other x)
  counter : e.clk.driver = s.dev.clk.driver ∧ e.clk.coasting = s.dev.clk.coasting ∧ e.clk.xoOk = s.dev.clk.xoOk
  rest : e.fw = s.dev.fw ∧ e.pw = s.dev.pw ∧ e.cnt = s.dev.cnt
  time : e.clk.time = (s.dev.tickTo (s.dev.syn x).due).clk.time
  held : e.clk.synB.held = s.dev.clk.synB.held

theorem windowEnds (s : State) (x : SynId) :
    let d := s.dev.tickTo (s.dev.syn x).due
    WindowEnds s x (d.setSyn x fun _ => d.nextWindow x) := by
  intro d
  have hd : d.syn x = s.dev.syn x := Device.tickTo_syn ..
  obtain ⟨h1, h2, h3⟩ := Device.setSyn_counter x (fun _ => d.nextWindow x) d
  have ht := Device.tickTo_eq (s.dev.syn x).due s.dev
  refine ⟨⟨_, by rw [Device.syn_setSyn_same, Device.nextWindow, hd]⟩, by rw [Device.syn_other_setSyn]; exact Device.tickTo_syn .., ⟨h1.trans ?_, h2.trans ?_, h3.trans ?_⟩,
    ⟨by simp [d], by simp [d], by simp [d]⟩, Device.setSyn_time .., ?_⟩
  · exact congrArg (·.clk.driver) ht
  · exact congrArg (·.clk.coasting) ht
  · exact congrArg (·.clk.xoOk) ht
  · have hB : d.clk.synB = s.dev.clk.synB := congrArg (·.clk.synB) ht
    cases x with
    | A => exact congrArg Syn.held hB
    | B =>
      change d.clk.synB.held = _
      rw [hB]

@[simp] theorem Device.lockGone_counter (x : SynId) (d : Device) : (d.lockGone x).clk.driver = d.clk.driver ∧
    (d.lockGone x).clk.coasting = d.clk.coasting ∧ (d.lockGone x).clk.xoOk = d.clk.xoOk := by
  rw [Device.lockGone, Device.raise_clk]
  exact Device.setSyn_counter ..

theorem Device.lockGone_held (x : SynId) (d : Device) : (d.lockGone x).clk.synB.held = d.clk.synB.held := by
  rw [Device.lockGone, Device.raise_clk]
  cases x <;> rfl

section bad
variable {s : State} {x : SynId} {n0 n1 : Nat} {word : BitVec 64} (hxo : s.dev.clk.xoOk = true)
  (hdue : s.dev.clk.reaches (s.dev.syn x).due = true) (hbad : 8 * 2 ^ 40 < ((s.dev.syn x).error s.dev.clk.steer (n1 - n0)).natAbs)
include hxo hdue hbad

theorem exec_countWindow_bad (h : (s.dev.syn x).state = .align ∨ (s.dev.syn x).state = .ready ∨ (s.dev.syn x).state = .active) :
    ∃ e, WindowEnds s x e ∧ exec (.countWindow x n0 n1 word) s = .next { s with
      dev := (e.loseLock x (s.dev.tickTo (s.dev.syn x).due).clk.time).safeAtOnce s.dev.pw } :=
  ⟨_, windowEnds s x, (exec_countWindow_locked hxo hdue h).trans (by rw [if_pos hbad])⟩

/-- A standby goes to UNLOCKED and waits to retry. -/
theorem badWindowOfStandby (h : (s.dev.syn x).state = .align ∨ (s.dev.syn x).state = .ready) :
    let y := s.dev.syn x
    Completes (.countWindow x n0 n1 word) s fun t =>
      DeviceOnly s t ∧ (t.dev.evt evClk).bits.getLsbD (clkLost x) = true ∧ t.dev.syn (SynId.other x) = s.dev.syn (SynId.other x) ∧
      t.dev.syn x = { y with
        state := .unlocked
        good := 0
        lost := true
        due := (s.dev.tickTo y.due).clk.time + (if y.failed then 3000000 else 300000) } ∧
      t.dev.clk.driver = s.dev.clk.driver ∧ t.dev.clk.coasting = s.dev.clk.coasting ∧ t.dev.fw = s.dev.fw ∧ t.dev.pw = s.dev.pw := by
  obtain ⟨e, ⟨⟨w, hsame⟩, hother, ⟨hdriver, hcoasting, -⟩, ⟨hfw, hpw, -⟩, htime, -⟩, hexec⟩ :=
    exec_countWindow_bad (word := word) hxo hdue hbad (by tauto)
  rw [Device.loseLock_standby _ (by rw [hsame]; exact h), Device.safeAtOnce_of_pw (by simp [hpw])] at hexec
  obtain ⟨h1, h2, -⟩ := Device.setSyn_counter x (Syn.enter (e.lockGone x).clk.time .unlocked) (e.lockGone x)
  obtain ⟨h3, h4, -⟩ := Device.lockGone_counter x e
  refine ⟨_, hexec, ⟨rfl, rfl⟩, Device.lockGone_bit e, ?_, ?_, h1.trans (h3.trans hdriver), h2.trans (h4.trans hcoasting), ?_, ?_⟩
  · rw [Device.syn_other_synState, Device.lockGone_other, hother]
  · rw [Device.syn_synState_same, Device.lockGone_same, hsame, Device.lockGone_time, htime]
    rfl
  · rw [Device.synState_fw, Device.lockGone_fw, hfw]
  · rw [Device.synState_pw, Device.lockGone_pw, hpw]

/-- The active one hands over to a READY standby. -/
theorem badWindowSwitches (h : (s.dev.syn x).state = .active) (hready : (s.dev.syn (SynId.other x)).state = .ready) :
    Completes (.countWindow x n0 n1 word) s fun t =>
      DeviceOnly s t ∧ (t.dev.evt evClk).bits.getLsbD (clkLost x) = true ∧ (t.dev.evt evClk).bits.getLsbD (clkSwitch (SynId.other x)) = true ∧
      (t.dev.syn x).state = .unlocked ∧ (t.dev.syn (SynId.other x)).state = .active ∧ t.dev.clk.driver = SynId.other x ∧
      t.dev.cnt = { s.dev.cnt with synSwitches := s.dev.cnt.synSwitches + 1#32 } ∧ t.dev.fw = s.dev.fw ∧ t.dev.pw = s.dev.pw := by
  obtain ⟨e, ⟨⟨w, hsame⟩, hother, -, ⟨hfw, hpw, hcnt⟩, -, -⟩, hexec⟩ := exec_countWindow_bad (word := word) hxo hdue hbad (by tauto)
  rw [Device.loseLock_switch _ (by rw [hsame]; exact h) (by rw [hother]; exact hready), Device.safeAtOnce_of_pw (by simp [hpw])] at hexec
  refine ⟨_, hexec, ⟨rfl, rfl⟩, (Device.switchTo_grows _ _).bits _ _ (Device.lockGone_bit e), Device.switchTo_bit _ _, ?_, ?_,
    Device.switchTo_driver _ _, ?_, ?_, ?_⟩
  · rw [Device.syn_switchTo_other, Device.syn_synState_same]
    rfl
  · rw [Device.switchTo_same]
  · simp [hcnt]
  · simp [hfw]
  · simp [hpw]

/-- Without a READY standby the device coasts on B. -/
theorem badWindowCoasts (h : (s.dev.syn x).state = .active) (hready : (s.dev.syn (SynId.other x)).state ≠ .ready)
    (hheld : s.dev.clk.synB.held.isSome = true) :
    Completes (.countWindow x n0 n1 word) s fun t =>
      DeviceOnly s t ∧ (t.dev.evt evClk).bits.getLsbD clkBothLost = true ∧ t.dev.clk.coasting = true ∧ t.dev.clk.driver = .B ∧
      t.dev.clk.synB.state = .coast ∧ t.dev.clk.synA.state ≠ .active ∧ t.dev.cnt = s.dev.cnt ∧ t.dev.fw = s.dev.fw := by
  obtain ⟨e, ⟨⟨w, hsame⟩, hother, ⟨-, -, hxo'⟩, ⟨hfw, hpw, hcnt⟩, -, hB⟩, hexec⟩ :=
    exec_countWindow_bad (word := word) hxo hdue hbad (by tauto)
  have hheld' : (e.lockGone x).clk.synB.held.isSome = true := by rw [Device.lockGone_held, hB, hheld]
  obtain ⟨hkeep, -, -⟩ := Device.coast_pw_of_held hheld' (s.dev.tickTo (s.dev.syn x).due).clk.time
  obtain ⟨-, -, hx⟩ := Device.lockGone_counter x e
  rw [Device.loseLock_coast _ (by rw [hsame]; exact h) (by rw [hother]; exact hready),
    Device.safeAtOnce_of_pw (by rw [hkeep (by rw [hx, hxo', hxo]), Device.lockGone_pw, hpw])] at hexec
  obtain ⟨hc, hd, hsynB, hsynA, -⟩ := Device.coast_syns (s.dev.tickTo (s.dev.syn x).due).clk.time (e.lockGone x)
  exact ⟨_, hexec, ⟨rfl, rfl⟩, Device.coast_bit _ _, hc, hd, by rw [hsynB]; rfl, hsynA, by simp [hcnt], by simp [hfw]⟩

end bad

/-- A window of a synthesizer that coasts judges the coast. -/
theorem windowOfCoast (s : State) (x : SynId) (n0 n1 : Nat) (word : BitVec 64) (hxo : s.dev.clk.xoOk = true)
    (hdue : s.dev.clk.reaches (s.dev.syn x).due = true) :
    let y := s.dev.syn x
    let err := (y.error s.dev.clk.steer (n1 - n0)).natAbs
    let d := s.dev.tickTo y.due
    let next := Max.max y.due d.clk.time + y.window
    (y.state = .coast → s.dev.pw.mode ≠ .boot → s.dev.pw.mode ≠ .safe → s.dev.pw.declared = none →
      let over_ := decide ((y.window : Int) * (2 ^ 40 + s.dev.clk.steer) < 20000 * err)
      Completes (.countWindow x n0 n1 word) s fun t =>
        DeviceOnly s t ∧ t.dev.pw.declared = (if over_ then some 2 else none) ∧
        t.dev.clk = { (d.setSyn x fun z => { z with due := next }).clk with coastBad := over_ }) := by
  intro y err d next hstate hboot hsafe hdecl over_
  have hd : d.syn x = y := Device.tickTo_syn ..
  have hnext : d.nextWindow x = { y with due := next } := by rw [Device.nextWindow, hd]
  have hset : (d.setSyn x fun z => { z with due := next }) = d.setSyn x fun _ => d.nextWindow x := by
    rw [Device.setSyn_eq_const x fun z => { z with due := next }, hd, hnext]
  have hcounts : y.counts = true := Syn.counts_of_state (by simp [hstate])
  have hsteer : d.clk.steer = s.dev.clk.steer := Device.tickTo_steer ..
  have hexec := exec_countWindow hcounts hxo hdue n0 n1 word
  rw [Device.window_coast _ _ (by rw [hd]; exact hstate), hd, hsteer, ← hset] at hexec
  let f : Device := { d.setSyn x fun z => { z with due := next } with clk :=
    { (d.setSyn x fun z => { z with due := next }).clk with coastBad := over_ } }
  have hpw : f.pw = s.dev.pw := Device.tickTo_pw ..
  have hfxo : f.clk.xoOk = true := by
    obtain ⟨-, -, h⟩ := Device.setSyn_counter x (fun z => { z with due := next }) d
    exact h.trans ((congrArg (·.clk.xoOk) (Device.tickTo_eq y.due s.dev)).trans hxo)
  change exec _ s = .next { s with dev := Device.safeAtOnce s.dev.pw (if f.clk.xoOk && over_ then f.declareSafe 2 else f) } at hexec
  rw [hfxo, Bool.true_and] at hexec
  cases hover : over_ with
  | false =>
    rw [hover, if_neg Bool.false_ne_true, Device.safeAtOnce_of_pw hpw] at hexec
    exact ⟨_, hexec, ⟨rfl, rfl⟩, (congrArg Power.declared hpw).trans hdecl, by rw [← hover]⟩
  | true =>
    have hdeclared : f.declareSafe 2 = { f with pw := { f.pw with declared := some 2 } } :=
      Device.declareSafe_first (hpw ▸ hboot) (hpw ▸ hsafe) (hpw ▸ hdecl) 2
    rw [hover, if_pos rfl, hdeclared, Device.safeAtOnce_eq (fun _ => by simp)] at hexec
    exact ⟨_, hexec, ⟨rfl, rfl⟩, rfl, by rw [← hover]⟩

/-- Settles O16: by the state of the synthesizer and the window's error. -/
theorem windowsLockAndJudgeSynthesizers : Obligations.WindowsLockAndJudgeSynthesizers := by
  unfold Obligations.WindowsLockAndJudgeSynthesizers
  refine ⟨windowsOfAcquiring, ?_⟩
  intro s x n0 n1 word y err d next
  refine ⟨fun hxo => if_neg (by simp [hxo]), fun hxo hdue => ⟨windowsOfLocked s x n0 n1 word hxo hdue, fun hbad => ⟨?_, ?_, ?_⟩,
    windowOfCoast s x n0 n1 word hxo hdue⟩⟩
  · exact badWindowOfStandby hxo hdue hbad
  · exact badWindowSwitches hxo hdue hbad
  · exact fun h hready _ hheld => badWindowCoasts hxo hdue hbad h hready hheld

end Sys2Proof.Machine
end

section
namespace Sys2Proof.Machine

/-! The combiner and the front end: O21 to O24, O26 and O27. -/

/-! ### The crossfade -/

theorem forNat_succ {α : Type} (n : Nat) (f : Nat → α → α) (a : α) : forNat (n + 1) f a = f n (forNat n f a) := by
  simp [forNat, List.range_succ]

theorem fadeStep_high {w : Nat} (hodd : w % 2 = 1) (hw : w < 31) : fadeStep .high w = w + 2 := by
  have h0 : w ≠ 0 := by omega
  rw [fadeStep, if_neg h0, if_neg (by omega)]

theorem fadeStep_low {w : Nat} (hw : w < 32) : fadeStep .low w = w - 2 := by rw [fadeStep, if_neg (by omega)]

theorem forNat_fadeStep_high {k : Nat} (hk : k ≤ 15) : forNat (k + 1) (fun _ => fadeStep .high) 0 = 2 * k + 1 := by
  induction k with
  | zero => rfl
  | succ k ih => rw [forNat_succ, ih (by omega), fadeStep_high (by omega) (by omega)]; ring

theorem forNat_fadeStep_low {k : Nat} (hk : k ≤ 15) : forNat (k + 1) (fun _ => fadeStep .low) 32 = 31 - 2 * k := by
  induction k with
  | zero => rfl
  | succ k ih => rw [forNat_succ, ih (by omega), fadeStep_low (by omega)]; omega

/-- Settles O21: each step of the grid, and the grid from either end by induction on the steps. -/
theorem crossfadesFollowTheGrid : Obligations.CrossfadesFollowTheGrid := by
  unfold Obligations.CrossfadesFollowTheGrid
  refine ⟨fun k hk => ⟨forNat_fadeStep_high hk, forNat_fadeStep_low hk⟩, ?_, ?_, fun w => fadeStep_high, fun w _ _ => fadeStep_low, rfl, rfl, rfl⟩
  · rw [forNat_succ, forNat_fadeStep_high (k := 15) (by omega)]
    rfl
  · rw [forNat_succ, forNat_fadeStep_low (k := 15) (by omega)]
    rfl

/-! ### The states of AUTO -/

section auto
variable {c : ChanRun}

theorem ChanRun.rise_top (h : c.w = 31) : c.rise = { c with w := 32, comb := .low, clean := 0 } := by simp [ChanRun.rise, h, fadeStep]

theorem ChanRun.rise_odd (hodd : c.w % 2 = 1) (h : c.w < 31) : c.rise = { c with w := c.w + 2, comb := .toLow } := by
  rw [ChanRun.rise, fadeStep_high hodd h]
  exact if_neg (by omega)

/-- A rise ends in LOW with the whole weight, or below it. -/
theorem ChanRun.rise_w : c.rise.w < 32 ∨ (c.rise.w = 32 ∧ c.rise.comb = .low ∧ c.rise.clean = 0) := by
  have hle : fadeStep .high c.w ≤ 32 := by
    simp only [fadeStep]
    split
    · omega
    · split <;> omega
  simp only [ChanRun.rise]
  split
  · exact .inr ⟨rfl, rfl, rfl⟩
  · exact .inl (by simpa using by omega)

variable (risk clean : Bool)

theorem ChanRun.auto_high (h : c.comb = .high) : c.auto risk clean =
    if risk then { run := { c with w := 1, comb := .toLow }, toLow := true } else { run := { c with w := 0 } } := by simp [ChanRun.auto, h]

theorem ChanRun.auto_toLow (h : c.comb = .toLow) : c.auto risk clean = { run := c.rise } := by simp [ChanRun.auto, h]

theorem ChanRun.auto_low (h : c.comb = .low) : c.auto risk clean =
    if 64 ≤ c.clean ∧ risk = false then { run := { c with w := 31, comb := .toHigh } }
    else { run := { c with w := 32, clean := if clean then c.clean + 1 else 0 } } := by simp [ChanRun.auto, h]

theorem ChanRun.auto_toHigh (h : c.comb = .toHigh) : c.auto risk clean =
    if risk then { run := c.rise, toLow := true }
    else if fadeStep .low c.w = 0 then { run := { c with w := 0, comb := .high }, arrived := true }
    else { run := { c with w := fadeStep .low c.w } } := by simp [ChanRun.auto, h]

/-- The states of R100 never cut by themselves, and full weight is that of LOW. -/
theorem ChanRun.auto_w : (c.auto risk clean).cut = false ∧
    ((c.auto risk clean).run.w < 32 ∨ ((c.auto risk clean).run.w = 32 ∧ (c.auto risk clean).run.comb = .low)) := by
  have hrise : c.rise.w < 32 ∨ (c.rise.w = 32 ∧ c.rise.comb = .low) := c.rise_w.imp_right fun ⟨h1, h2, _⟩ => ⟨h1, h2⟩
  cases hc : c.comb with
  | high =>
    rw [ChanRun.auto_high _ _ hc]
    cases risk with
    | true => exact ⟨rfl, .inl (Nat.succ_lt_succ (Nat.zero_lt_succ 30))⟩
    | false => exact ⟨rfl, .inl (Nat.zero_lt_succ 31)⟩
  | toLow =>
    rw [ChanRun.auto_toLow _ _ hc]
    exact ⟨rfl, hrise⟩
  | low =>
    rw [ChanRun.auto_low _ _ hc]
    split
    · exact ⟨rfl, .inl (Nat.lt_succ_self 31)⟩
    · exact ⟨rfl, .inr ⟨rfl, hc⟩⟩
  | toHigh =>
    rw [ChanRun.auto_toHigh _ _ hc]
    split
    · exact ⟨rfl, hrise⟩
    · split
      · exact ⟨rfl, .inl (Nat.zero_lt_succ 31)⟩
      · refine ⟨rfl, .inl ?_⟩
        change fadeStep .low c.w < 32
        rw [fadeStep]
        split <;> omega

theorem ChanRun.weigh_auto {t : Nat} (h : c.leaving t = none) (high : Bool) : c.weigh 0 t high =
    let o := c.auto (c.atRisk t) (high && !(c.busyAt t))
    if !high && decide (o.run.w < 32) then { run := { o.run with w := 32, comb := .low, clean := 0 }, cut := true, toLow := o.toLow } else o := by
  simp only [ChanRun.weigh, h]

end auto

/-- Settles O22: the step of each state. -/
theorem autoFollowsItsStates : Obligations.AutoFollowsItsStates := by
  unfold Obligations.AutoFollowsItsStates
  refine ⟨fun c t => ⟨fun h => by simp [ChanRun.weigh_auto h], by
    simp only [ChanRun.atRisk, List.any_eq_true, Bool.and_eq_true, decide_eq_true_eq]
    rfl,
    by simp only [ChanRun.busyAt, List.any_eq_true, Bool.and_eq_true, decide_eq_true_eq]⟩, ?_⟩
  intro c risk clean o r
  have ho : o = c.auto risk clean := rfl
  have hr : r = o.run := rfl
  refine ⟨fun h hrisk => ?_, fun h hrisk => ?_, fun h hodd hw => ?_, fun h hw => ?_, fun h hstay => ?_, fun h hclean hrisk => ?_,
    fun h hrisk hodd => ⟨fun hlo hhi => ?_, fun hw => ?_⟩, fun h hrisk hodd => ⟨?_, fun hw => ?_, fun hw => ?_⟩⟩
  · simp [hr, ho, ChanRun.auto_high _ _ h, hrisk, h]
  · simp [hr, ho, ChanRun.auto_high _ _ h, hrisk]
  · simp [hr, ho, ChanRun.auto_toLow _ _ h, ChanRun.rise_odd hodd hw]
  · simp [hr, ho, ChanRun.auto_toLow _ _ h, ChanRun.rise_top hw]
  · have hno : ¬(64 ≤ c.clean ∧ risk = false) := by
      rintro ⟨h1, h2⟩
      rcases hstay with h3 | h3
      · omega
      · simp [h2] at h3
    simp [hr, ho, ChanRun.auto_low _ _ h, hno, h]
  · simp [hr, ho, ChanRun.auto_low _ _ h, hclean, hrisk]
  · have hpos : ¬ c.w ≤ 2 := by omega
    simp [hr, ho, ChanRun.auto_toHigh _ _ h, hrisk, fadeStep_low hhi, hpos, h, Nat.sub_eq_zero_iff_le]
  · simp [hr, ho, ChanRun.auto_toHigh _ _ h, hrisk, hw, fadeStep]
  · simp [ho, ChanRun.auto_toHigh _ _ h, hrisk]
  · simp [hr, ho, ChanRun.auto_toHigh _ _ h, hrisk, ChanRun.rise_odd hodd hw]
  · simp [hr, ho, ChanRun.auto_toHigh _ _ h, hrisk, ChanRun.rise_top hw]

/-- Settles O23: without a usable high path whatever the states give below full weight is cut. -/
theorem unusableHighPathForcesLow : Obligations.UnusableHighPathForcesLow := by
  unfold Obligations.UnusableHighPathForcesLow
  intro c t hleaving o
  obtain ⟨hcut, hw⟩ := c.auto_w (c.atRisk t) false
  have ho : o = if decide ((c.auto (c.atRisk t) false).run.w < 32) then
      { run := { (c.auto (c.atRisk t) false).run with w := 32, comb := .low, clean := 0 }, cut := true, toLow := (c.auto (c.atRisk t) false).toLow }
      else c.auto (c.atRisk t) false := ChanRun.weigh_auto hleaving false
  have hlow (h : c.comb = .low) (hclean : c.clean < 64) : c.auto (c.atRisk t) false = { run := { c with w := 32, clean := 0 } } := by
    rw [ChanRun.auto_low _ _ h, if_neg (by omega)]
    simp
  by_cases hlt : (c.auto (c.atRisk t) false).run.w < 32
  · rw [if_pos (decide_eq_true hlt)] at ho
    rw [ho]
    refine ⟨rfl, rfl, iff_of_true rfl hlt, fun _ => rfl, fun _ => rfl, fun h hclean => ?_⟩
    rw [hlow h hclean] at hlt
    exact absurd hlt (by simp)
  · obtain ⟨hfull, hcomb⟩ := hw.resolve_left hlt
    rw [if_neg (by simpa using hlt)] at ho
    rw [ho]
    refine ⟨hfull, hcomb, iff_of_false (by simp [hcut]) hlt, by simp [hcut], fun h => ?_, fun h hclean => ?_⟩
    · rw [ChanRun.auto_high _ _ h] at hfull
      cases hrisk : c.atRisk t <;> simp [hrisk] at hfull
    · rw [hlow h hclean]
      exact ⟨rfl, rfl⟩

/-- Settles O24: by which of the permitted paths are usable. -/
theorem tagFollowsTheUsablePaths : Obligations.TagFollowsTheUsablePaths := by
  unfold Obligations.TagFollowsTheUsablePaths
  intro w _
  refine ⟨fun high low hhigh hlow => ?_, fun h => by simp [decideTag, h], fun h => by simp [decideTag, h], fun ph pl high low hh hl => ?_, rfl, rfl⟩
  · have hany : (high || low) = true := by
      by_cases h : w = 32
      · simp [hlow (by omega)]
      · simp [hhigh h]
    have h1 : (high || w == 32) = true := by
      by_cases h : w = 32
      · simp [h]
      · simp [hhigh h]
    have h2 : (low || w == 0) = true := by
      by_cases h : w = 0
      · simp [h]
      · simp [hlow h]
    simp only [decideTag, Bool.true_and, Bool.not_true, Bool.or_false, hany, h1, h2, if_true]
  · simp only [decideTag, hh, hl, Bool.or_self, Bool.and_false, Bool.false_and, Bool.false_eq_true, if_false]

/-! ### Overloads and guard limits -/

theorem Device.watch_chan {d : Device} (h : twf ChanRun.init d.chans = true) (n t : Nat) :
    ((d.watch n t).chan n).ovlCond = d.overloaded n ∧ ∀ k, k ≠ n → (d.watch n t).chan k = d.chan k := by
  unfold Device.watch
  dsimp only
  split
  · next he => exact ⟨he.symm, fun _ _ => rfl⟩
  · exact ⟨by rw [Device.setChan_chan h, if_pos rfl], fun k hk => by rw [Device.setChan_chan h, if_neg hk]⟩

/-- The open span of a path ends 1,536 ticks after the recovery. -/
theorem mem_endSpan (t a : Nat) (l : List OvlSpan) : (⟨a, some (t + 1536)⟩ : OvlSpan) ∈ endSpan t (l ++ [⟨a, none⟩]) := by
  refine List.mem_filter.mpr ⟨List.mem_map.mpr ⟨⟨a, none⟩, List.mem_append_right _ (List.mem_singleton.mpr rfl), rfl⟩, ?_⟩
  exact decide_eq_true (by omega)

theorem endSpan_closed (t : Nat) (l : List OvlSpan) : ∀ o ∈ endSpan t l, o.to_.isSome = true := by
  intro o ho
  obtain ⟨-, hto⟩ := List.mem_filter.mp ho
  cases h : o.to_ with
  | none => rw [h] at hto; exact absurd hto Bool.false_ne_true
  | some _ => rfl

/-- Settles O26: each row in the state in which its condition begins or ends. -/
theorem overloadsAndGuardLimitsShow : Obligations.OverloadsAndGuardLimitsShow := by
  unfold Obligations.OverloadsAndGuardLimitsShow
  refine ⟨fun s ch t => ?_, fun s g t => ?_⟩
  · intro n c at_
    refine ⟨fun hrel hovl => if_pos ?_, fun hrel hovl => if_pos ?_, fun hovl => if_pos hovl, fun hovl => if_pos hovl,
      mem_endSpan t, endSpan_closed t, fun d hd => Device.watch_chan hd n t⟩
    · change (c.released && !c.ovlLow) = true
      rw [hrel, hovl]
      rfl
    · change (c.released && !c.ovlHigh) = true
      rw [hrel, hovl]
      rfl
  · intro at_
    refine ⟨fun hmode => ?_, rfl⟩
    change execGuardCurrentLimit g t s = _
    rcases hmode with h | h <;>
    · rw [execGuardCurrentLimit, h]
      rfl

/-! ### Starts and ramps -/

theorem Device.tickTo_chan (t n : Nat) (d : Device) : (d.tickTo t).chan n = d.chan n := by
  rw [Device.tickTo_eq]
  rfl

/-- The roles of a channel at an instant are a matter of its swap state alone. -/
theorem Device.setSwap_eq (n t : Nat) (d : Device) :
    ∃ f : ChanRun → ChanRun, (∀ c, ∃ a b, f c = { c with swap := a, swapLast := b }) ∧ (d.setSwap n t = d.setChan n f ∨ d.setSwap n t = d) := by
  unfold Device.setSwap
  split
  · exact ⟨_, fun c => ⟨_, _, rfl⟩, .inl rfl⟩
  · exact ⟨id, fun c => ⟨c.swap, c.swapLast, rfl⟩, .inr rfl⟩

end Sys2Proof.Machine
end

section
namespace Sys2Proof.Machine

/-! O27 and O28: starts and ramps; a path's return after its gain change. -/

/-- The roles of a channel at an instant are a matter of its swap state alone. -/
theorem Device.setSwap_chan {d : Device} (h : twf ChanRun.init d.chans = true) (n t : Nat) :
    (∃ a b, (d.setSwap n t).chan n = { d.chan n with swap := a, swapLast := b }) ∧ (∀ k, k ≠ n → (d.setSwap n t).chan k = d.chan k) ∧
    ∀ l c, { d.setSwap n t with chans := l, clk := c } = { d with chans := l, clk := c } := by
  unfold Device.setSwap
  split
  · exact ⟨⟨_, _, by rw [Device.setChan_chan h, if_pos rfl]⟩, fun k hk => by rw [Device.setChan_chan h, if_neg hk], fun _ _ => rfl⟩
  · exact ⟨⟨_, _, rfl⟩, fun _ _ => rfl, fun _ _ => rfl⟩

/-- A channel with its estimator seeded from the factory table and its combiner at its start, as the release of its modulators leaves it. -/
def Device.seeded (n : Nat) (d : Device) (c : ChanRun) : ChanRun :=
  let ch := d.fw.eff.chan n
  let temp := d.tileTemp n
  let rho := Factory.rho d.factory n ch.gl ch.gh temp
  let delta := Factory.delta d.factory n ch.gl ch.gh temp
  ChanRun.apply ((d.chan n).tick0 + releaseTicks)
    { c with
      phase := .running
      released := true
      est := .seeded
      tracked := 0
      skipped := 0
      rho := rho
      delta := delta
      heldRho := rho
      heldDelta := delta
      heldTemp := temp
      ratioGl := ch.gl
      ratioGh := ch.gh
      comb := if ch.range = 2 then .low else .high
      w := if ch.range = 2 then 32 else 0
      clean := 0
      ovlLow := false
      ovlHigh := false
      spanLow := []
      spanHigh := []
      ratioAlarm := false }

/-- The seeded values are in force from the release on, whatever the roles. -/
theorem ChanRun.appliedAt_seeded (n : Nat) (d : Device) (c : ChanRun) (a b : Nat) :
    { d.seeded n c with swap := a, swapLast := b }.appliedAt ((d.chan n).tick0 + releaseTicks) = ⟨(d.chan n).tick0 + releaseTicks,
      Factory.rho d.factory n (d.fw.eff.chan n).gl (d.fw.eff.chan n).gh (d.tileTemp n),
      Factory.delta d.factory n (d.fw.eff.chan n).gl (d.fw.eff.chan n).gh (d.tileTemp n), c.gamma⟩ := by
  simp [ChanRun.appliedAt, Device.seeded, ChanRun.apply]

theorem Device.releaseChan_eq (n : Nat) (d : Device) :
    d.releaseChan n = (d.setChan n (d.seeded n)).setSwap n ((d.chan n).tick0 + releaseTicks) := rfl

theorem Device.tickTo_seeded (t n : Nat) (d : Device) : (d.tickTo t).seeded n = d.seeded n := by
  rw [Device.tickTo_eq]
  rfl

theorem Device.setChan_wf {d : Device} (h : twf ChanRun.init d.chans = true) (n : Nat) (f : ChanRun → ChanRun) :
    twf ChanRun.init (d.setChan n f).chans = true := twf_tmod h n f

/-- But for its clocks a device is as it was when time moves on. -/
theorem Device.tickTo_frame (t : Nat) (l : Tbl ChanRun) (c : Clock) (d : Device) :
    { d.tickTo t with chans := l, clk := c } = { d with chans := l, clk := c } := by
  rw [Device.tickTo_eq]

/-- Tick 15,000 of a start sequence: the channel is seeded, but for its roles, and no other one differs. -/
theorem modulatorReleased (s : State) (ch : Fin 128) (hphase : (s.dev.chan ch.val).phase = .starting)
    (hjoined : (s.dev.chan ch.val).joined = true) (h : twf ChanRun.init s.dev.chans = true) :
    Completes (.modulatorRelease ch ((s.dev.chan ch.val).tick0 + 15000)) s fun u => DeviceOnly s u ∧
      (∃ a b, u.dev.chan ch.val = { s.dev.seeded ch.val (s.dev.chan ch.val) with swap := a, swapLast := b }) ∧
      (∀ n, n ≠ ch.val → u.dev.chan n = s.dev.chan n) ∧ { u.dev with chans := s.dev.chans, clk := s.dev.clk } = s.dev := by
  let t := (s.dev.chan ch.val).tick0 + 15000
  have ht : twf ChanRun.init (s.dev.tickTo t).chans = true := by rw [Device.tickTo_chans]; exact h
  have hset (k : Nat) := Device.setChan_chan ht ch.val ((s.dev.tickTo t).seeded ch.val) k
  obtain ⟨⟨a, b, hsame⟩, hother, hrest⟩ := Device.setSwap_chan (d := (s.dev.tickTo t).setChan ch.val ((s.dev.tickTo t).seeded ch.val))
    (Device.setChan_wf ht _ _) ch.val (((s.dev.tickTo t).chan ch.val).tick0 + releaseTicks)
  refine ⟨_, if_pos ⟨hphase, hjoined, rfl⟩, ⟨rfl, rfl⟩, ⟨a, b, hsame.trans ?_⟩, fun n hn => (hother n hn).trans ?_,
    (hrest s.dev.chans s.dev.clk).trans (Device.tickTo_frame t _ _ s.dev)⟩
  · rw [hset, if_pos rfl, Device.tickTo_seeded, Device.tickTo_chan]
  · rw [hset, if_neg hn, Device.tickTo_chan]

/-- Settles O27: each row at its tick. -/
theorem startsAndRampsKeepTheirTicks : Obligations.StartsAndRampsKeepTheirTicks := by
  unfold Obligations.StartsAndRampsKeepTheirTicks
  refine ⟨fun s ch => ?_, fun s ch p env t => ?_⟩
  · intro c at_
    refine ⟨fun hphase hiso hcal => ?_, fun hphase hjoined h => ?_, fun hphase hmode hslow => if_pos ⟨hmode, hphase, hslow, rfl⟩,
      fun b tick0 settle nswap phase => ⟨rfl, rfl⟩⟩
    · have hopen : c.joined = false := by rw [ChanRun.joined, hiso, hcal]; rfl
      exact if_pos ⟨hphase, hopen, rfl⟩
    · obtain ⟨u, hexec, hdev, ⟨a, b, hv⟩, hother, hrest⟩ := modulatorReleased s ch hphase hjoined h
      refine ⟨u, hexec, ?_⟩
      beta_reduce
      intro v g rho delta
      have hrun : v = { s.dev.seeded ch.val c with swap := a, swapLast := b } := hv
      have happlied := ChanRun.appliedAt_seeded ch.val s.dev c a b
      rw [releaseTicks] at happlied
      rw [hrun]
      refine ⟨hdev, rfl, rfl, rfl, rfl, rfl, rfl, happlied, fun hr => ⟨if_pos hr, if_pos hr⟩, fun hr => ⟨if_neg hr, if_neg hr⟩,
        hother, hrest⟩
  · intro c at_ seen
    refine ⟨fun hfull hphase hon hrel hbus => if_pos ⟨hfull, hphase, hon, hrel, hbus, rfl⟩, fun hps => if_neg hps, fun hphase => ?_, fun hphase => ?_,
      fun hphase hrel => if_pos ⟨hphase, hrel, rfl⟩⟩
    · change execRampDownEnd ch (c.from_ + 30000) s = _
      rw [execRampDownEnd, if_neg (fun h => h rfl)]
      simp only [show (s.dev.chan ch.val).phase = _ from hphase]
      rfl
    · change execRampDownEnd ch (c.from_ + 30000) s = _
      rw [execRampDownEnd, if_neg (fun h => h rfl)]
      simp only [show (s.dev.chan ch.val).phase = _ from hphase]
      rfl

/-! ### The return of a path -/

/-- A channel whose high path is out of use since tick 0, its gain switched. -/
def returningChan : ChanRun := { ChanRun.init with outHigh := some 0, switched := true }

def returningPath : State := { State.reset with dev := { State.reset.dev with chans := [(0, returningChan)] } }

/-- The device of `returningPath` after the re-acquisition settled at once, with pairs that show a ratio of 0. -/
def returnedPath : Device := (returningPath.dev.tickTo 18840).gainReady 0 18840 (some (0#64, 0#64))

/-- The ratio is where the re-acquisition began: it has had no sample yet. -/
theorem returnedPath_rho : (returnedPath.chan 0).rho = 0x3FF0000000000000#64 := by decide

/-- Refutes O28: at B + 18,840 the re-acquisition has not moved yet, whatever the pairs show. -/
theorem not_gainChangesAndCurrentSwaps : ¬ Obligations.GainChangesAndCurrentSwaps := by
  unfold Obligations.GainChangesAndCurrentSwaps
  intro h
  obtain ⟨-, hready, -⟩ := h returningPath 0 .high 0 18840 0 (some (0#64, 0#64)) true (by decide)
  obtain ⟨u, hu, -, -, hfound, -⟩ := hready (by decide) (by decide) (by decide) (by decide) (.inl rfl)
  have hexec : exec (.gainReady 0 18840 (some (0#64, 0#64)) true) returningPath = .next { returningPath with dev := returnedPath } := rfl
  obtain rfl : { returningPath with dev := returnedPath } = u := Host.Outcome.next.inj (hexec.symm.trans hu)
  have hrho : (returnedPath.chan 0).rho = 0#64 := congrArg Prod.fst hfound
  exact absurd (returnedPath_rho.symm.trans hrho) (by decide)

end Sys2Proof.Machine
end

section
namespace Sys2Proof.Machine

/-! O18: band searches, and what a synthesizer does that is aligned. -/

/-! ### Band searches -/

/-- Each step of the search halves what is left of the bands above. -/
theorem searchSteps_le (f : Nat × Nat → Bool) (l : List Nat) (k b : Nat) (h : b + 2 ^ (4 - k) ≤ 32) :
    (l.zipIdx k).foldl (fun b x => if f x then b + 2 ^ (4 - x.2) / 2 - 2 ^ (4 - x.2) else b + 2 ^ (4 - x.2) / 2) b < 32 := by
  induction l generalizing k b with
  | nil =>
    have hpos : 0 < 2 ^ (4 - k) := by positivity
    simpa using by omega
  | cons n l ih =>
    rw [List.zipIdx_cons, List.foldl_cons]
    apply ih
    have hhalf : 2 ^ (4 - k) / 2 + 2 ^ (4 - (k + 1)) ≤ 2 ^ (4 - k) := by
      by_cases hk : k < 4
      · rw [show 4 - k = 4 - (k + 1) + 1 by omega, pow_succ]
        omega
      · simp [show 4 - k = 0 by omega, show 4 - (k + 1) = 0 by omega]
    dsimp only
    generalize 2 ^ (4 - k) = p at h hhalf ⊢
    generalize 2 ^ (4 - (k + 1)) = q at hhalf ⊢
    split <;> omega

theorem searchBand_lt (steer : Int) (steps : List Nat) : searchBand steer steps < 32 := by
  have := searchSteps_le (fun x => decide (0 < searchError steer x.1)) (steps.take 5) 0 16 (by decide)
  simpa [searchBand] using this

/-- Where the end of a search leads, once its band is chosen. -/
theorem Device.endSearch_good {d : Device} {x : SynId} {count : Nat} (h : searchFails d.clk.steer count = false) (steps : List Nat) :
    d.endSearch x steps count = (d.setSyn x fun y => { y with band := searchBand d.clk.steer steps }).synState x .acquire := by
  simp [Device.endSearch, h]

theorem Device.endSearch_bad {d : Device} {x : SynId} {count : Nat} (h : searchFails d.clk.steer count = true) (steps : List Nat) :
    d.endSearch x steps count = (((d.setSyn x fun y => { y with band := searchBand d.clk.steer steps, failed := true }).synState x
      .unlocked).bootNext x).raise evClk (ebit clkSearchFail) := by
  simp only [Device.endSearch, Device.setSyn_steer, h, if_true, Device.setSyn_setSyn]
  rfl

section search
variable {s : State} {x : SynId} (hdue : s.dev.clk.reaches (s.dev.syn x).due = true)
include hdue

theorem exec_bandSearchEnd (h : (s.dev.syn x).state = .search) (steps : List Nat) (count : Nat) :
    exec (.bandSearchEnd x ⟨steps, count⟩) s = .next { s with dev := (s.dev.tickTo (s.dev.syn x).due).endSearch x steps count } :=
  if_pos ⟨h, hdue⟩

theorem goodSearchAcquires (h : (s.dev.syn x).state = .search) {count : Nat} (hgood : searchFails s.dev.clk.steer count = false)
    (steps : List Nat) :
    let y := s.dev.syn x
    Completes (.bandSearchEnd x ⟨steps, count⟩) s fun t => DeviceOnly s t ∧ t.dev.syn (SynId.other x) = s.dev.syn (SynId.other x) ∧
      t.dev.evts = s.dev.evts ∧ t.dev.syn x = { y with
        band := searchBand s.dev.clk.steer steps
        state := .acquire
        good := 0
        due := (s.dev.tickTo y.due).clk.time + 150000 + y.window } := by
  intro y
  have hexec := exec_bandSearchEnd hdue h steps count
  rw [Device.endSearch_good (by rw [Device.tickTo_steer]; exact hgood)] at hexec
  refine ⟨_, hexec, ⟨rfl, rfl⟩, ?_, by simp, ?_⟩
  · rw [Device.syn_other_synState, Device.syn_other_setSyn, Device.tickTo_syn]
  · rw [Device.syn_synState_same, Device.syn_setSyn_same, Device.setSyn_time, Device.tickTo_steer, Device.tickTo_syn]
    rfl

theorem badSearchRetries (h : (s.dev.syn x).state = .search) {count : Nat} (hbad : searchFails s.dev.clk.steer count = true)
    (steps : List Nat) :
    let y := s.dev.syn x
    let first := s.dev.pw.mode = .boot ∧ x = .A ∧ s.dev.clk.synB.state = .off
    Completes (.bandSearchEnd x ⟨steps, count⟩) s fun t => DeviceOnly s t ∧
      t.dev.syn (SynId.other x) = (if first then (s.dev.syn (SynId.other x)).enter (s.dev.tickTo y.due).clk.time .search
        else s.dev.syn (SynId.other x)) ∧
      (t.dev.evt evClk).bits.getLsbD clkSearchFail = true ∧ t.dev.syn x = { y with
        band := searchBand s.dev.clk.steer steps
        state := .unlocked
        good := 0
        failed := true
        due := (s.dev.tickTo y.due).clk.time + 3000000 } := by
  intro y first
  have hexec := exec_bandSearchEnd hdue h steps count
  rw [Device.endSearch_bad (by rw [Device.tickTo_steer]; exact hbad)] at hexec
  have htick := Device.tickTo_eq y.due s.dev
  have hB : (s.dev.tickTo y.due).clk.synB = s.dev.clk.synB := congrArg (·.clk.synB) htick
  refine ⟨_, hexec, ⟨rfl, rfl⟩, ?_, Device.raise_bit (by decide) _, ?_⟩
  · have hsynB (f : Syn → Syn) : x = .A → (((s.dev.tickTo y.due).setSyn x f).synState x .unlocked).clk.synB.state = s.dev.clk.synB.state := by
      rintro rfl
      exact congrArg Syn.state hB
    rw [Device.raise_syn, Device.bootNext_syn_other]
    simp only [Device.synState_pw, Device.setSyn_pw, Device.tickTo_pw, Device.syn_other_synState, Device.syn_other_setSyn, Device.tickTo_syn,
      Device.synState_time, Device.setSyn_time, first]
    by_cases hx : x = .A
    · rw [hsynB _ hx]
    · simp only [hx, false_and, and_false, if_false]
  · rw [Device.raise_syn, Device.bootNext_syn_same, Device.syn_synState_same, Device.syn_setSyn_same, Device.setSyn_time,
      Device.tickTo_steer, Device.tickTo_syn]
    rfl

end search

/-! ### A synthesizer that is aligned -/

/-- A synthesizer at READY, with a lock it had lost reported as regained. -/
def Device.readied (x : SynId) (d : Device) : Device :=
  (if (d.syn x).lost then d.raise evClk (ebit (clkRegained x)) else d).setSyn x fun y => { y with state := .ready, good := 0, lost := false, failed := false }

theorem clkRegained_bit (x : SynId) : (ebit (clkRegained x) &&& evtMask evClk).getLsbD (clkRegained x) = true := by cases x <;> decide

section readied
variable (x : SynId) (d : Device)

theorem Device.readied_same : (d.readied x).syn x = { d.syn x with state := .ready, good := 0, lost := false, failed := false } := by
  rw [Device.readied, Device.syn_setSyn_same]
  split <;> simp

theorem Device.readied_other : (d.readied x).syn (SynId.other x) = d.syn (SynId.other x) := by
  rw [Device.readied, Device.syn_other_setSyn]
  split <;> simp

theorem Device.readied_synsOnly : { (d.readied x).clk with synA := d.clk.synA, synB := d.clk.synB } = d.clk ∧
    (d.readied x).pw = d.pw ∧ (d.readied x).cnt = d.cnt := by
  have hclk : (if (d.syn x).lost then d.raise evClk (ebit (clkRegained x)) else d).clk = d.clk := by
    split <;> simp
  have hpw : (if (d.syn x).lost then d.raise evClk (ebit (clkRegained x)) else d).pw = d.pw := by
    split <;> simp
  have hcnt : (if (d.syn x).lost then d.raise evClk (ebit (clkRegained x)) else d).cnt = d.cnt := by
    split <;> simp
  refine ⟨?_, hpw, hcnt⟩
  have := ((if (d.syn x).lost then d.raise evClk (ebit (clkRegained x)) else d).setSyn_synsOnly x
    fun y => { y with state := .ready, good := 0, lost := false, failed := false }).clk
  rw [hclk] at this
  exact this

theorem Device.readied_evts : ((d.syn x).lost = true → ((d.readied x).evt evClk).bits.getLsbD (clkRegained x) = true) ∧
    ((d.syn x).lost = false → (d.readied x).evts = d.evts) := by
  refine ⟨fun h => ?_, fun h => ?_⟩
  · rw [Device.readied, h, if_pos rfl]
    exact Device.raise_bit (clkRegained_bit x) d
  · rw [Device.readied, h, if_neg Bool.false_ne_true]
    rfl

variable {x d} (t : Nat)

/-- The first synthesizer that is READY drives ROOT, and device time starts. -/
def Device.startRoot (x : SynId) (d : Device) : Device :=
  let d := d.setSyn x fun y => { y with state := .active }
  let d := ((d.setSyn .A fun y => { y with due := 0 }).setSyn .B fun y => { y with due := 0 }).bootNext x
  { d with clk := { d.clk with counting := true, time := 0, activeB := decide (x = SynId.B) } }

/-- A synthesizer takes the setting that a change of the reference path leads to. -/
def Device.retune (y : SynId) (d : Device) : Device :=
  { d with clk := { (d.clk.setSyn y fun z => { z with mult := d.clk.changeTo }) with change := 2 } }

/-- The planned switch of a change of the reference path: the former active one goes to search at the new setting. -/
def Device.plannedSwitch (x : SynId) (t : Nat) (d : Device) : Device := ((d.switchTo x t).synState (SynId.other x) .search).retune (SynId.other x)

/-- A change of the reference path is over. -/
def Device.changed (d : Device) : Device := { d with clk := { d.clk with change := 0, refMult := d.clk.changeTo } }

theorem Device.synReady_eq : d.synReady x t =
    let e := d.readied x
    if !e.clk.counting then e.startRoot x
    else if e.clk.coasting then (if x = .A then e.endCoast t else e)
    else if e.clk.change = 1 then e.plannedSwitch x t
    else if e.clk.change = 2 then { e with clk := { e.clk with change := 0, refMult := e.clk.changeTo } }
    else e := rfl

/-- Counting, coasting and a change stand as they did. -/
theorem Device.readied_counter : (d.readied x).clk.counting = d.clk.counting ∧ (d.readied x).clk.coasting = d.clk.coasting ∧
    (d.readied x).clk.change = d.clk.change := by
  obtain ⟨h, -, -⟩ := Device.readied_synsOnly x d
  exact ⟨congrArg (·.counting) h, congrArg (·.coasting) h, congrArg (·.change) h⟩

theorem Device.synReady_first (h1 : d.clk.counting = false) : d.synReady x t = (d.readied x).startRoot x := by
  obtain ⟨hc, -, -⟩ := Device.readied_counter (x := x) (d := d)
  rw [Device.synReady_eq]
  simp only [hc, h1, Bool.not_false, if_true]

section counting
variable (h1 : d.clk.counting = true)
include h1

theorem Device.synReady_coast (h2 : d.clk.coasting = true) : d.synReady .A t = (d.readied .A).endCoast t := by
  obtain ⟨hc, hk, -⟩ := Device.readied_counter (x := .A) (d := d)
  rw [Device.synReady_eq]
  simp only [hc, hk, h1, h2, Bool.not_true, Bool.false_eq_true, if_false, if_true]

theorem Device.synReady_noCoast (h2 : d.clk.coasting = false) : d.synReady x t =
    if d.clk.change = 1 then (d.readied x).plannedSwitch x t
    else if d.clk.change = 2 then (d.readied x).changed
    else d.readied x := by
  obtain ⟨hc, hk, hh⟩ := Device.readied_counter (x := x) (d := d)
  rw [Device.synReady_eq]
  simp only [hc, hk, hh, h1, h2, Bool.not_true, Bool.false_eq_true, if_false, Device.changed]

end counting

/-- The synthesizer that starts time is ACTIVE; in BOOT B begins to search once A is there. -/
theorem Device.startRoot_clk : (d.startRoot x).clk.counting = true ∧ (d.startRoot x).clk.time = 0 ∧ ((d.startRoot x).syn x).state = .active ∧
    (d.startRoot x).clk.driver = x ∧
    (d.pw.mode = .boot → x = .A → d.clk.synB.state = .off → (d.startRoot x).clk.synB.state = .search) := by
  let e := ((d.setSyn x fun y => { y with state := .active }).setSyn .A fun y => { y with due := 0 }).setSyn .B fun y => { y with due := 0 }
  have he : d.startRoot x = { e.bootNext x with clk := { (e.bootNext x).clk with counting := true, time := 0, activeB := decide (x = SynId.B) } } :=
    rfl
  have hsyn (y : SynId) : (d.startRoot x).syn y = (e.bootNext x).syn y := by
    rw [he]
    cases y <;> rfl
  refine ⟨rfl, rfl, ?_, ?_, fun hboot hx hoff => ?_⟩
  · rw [hsyn, Device.bootNext_syn_same]
    cases x <;> rfl
  · rw [he]
    cases x <;> rfl
  · subst hx
    have hfirst : e.pw.mode = .boot ∧ SynId.A = .A ∧ e.clk.synB.state = .off := ⟨hboot, rfl, hoff⟩
    have h := (hsyn .B).trans ((Device.bootNext_syn_other .A e).trans (if_pos hfirst))
    exact congrArg Syn.state h

theorem Device.retune_clk (y : SynId) (d : Device) : (d.retune y).clk.driver = d.clk.driver ∧ (d.retune y).clk.change = 2 ∧
    (d.retune y).clk.refMult = d.clk.refMult ∧ (d.retune y).clk.time = d.clk.time ∧ (d.retune y).syn y = { d.syn y with mult := d.clk.changeTo } ∧
    (d.retune y).syn (SynId.other y) = d.syn (SynId.other y) := by
  cases y <;> exact ⟨rfl, rfl, rfl, rfl, rfl, rfl⟩

theorem Device.retune_grows (y : SynId) (d : Device) : Device.Grows (fun e => (e.clk.rooted, e.unclocked)) d (d.retune y) := by
  cases y <;> exact .of_evts rfl rfl

theorem Device.synState_counter (x : SynId) (st : SynState) (d : Device) : (d.synState x st).clk.driver = d.clk.driver ∧
    (d.synState x st).clk.changeTo = d.clk.changeTo ∧ (d.synState x st).clk.refMult = d.clk.refMult := by
  cases x <;> exact ⟨rfl, rfl, rfl⟩

theorem Device.switchTo_changes (d : Device) : (d.switchTo x t).clk.changeTo = d.clk.changeTo ∧ (d.switchTo x t).clk.refMult = d.clk.refMult := by
  rw [Device.switchTo_clk]
  cases x <;> exact ⟨rfl, rfl⟩

theorem Device.plannedSwitch_clk : (d.plannedSwitch x t).clk.driver = x ∧ (d.plannedSwitch x t).syn x = { d.syn x with state := .active } ∧
    ((d.plannedSwitch x t).syn (SynId.other x)).state = .search ∧ ((d.plannedSwitch x t).syn (SynId.other x)).mult = d.clk.changeTo ∧
    (d.plannedSwitch x t).clk.change = 2 ∧ (d.plannedSwitch x t).clk.refMult = d.clk.refMult ∧ (d.plannedSwitch x t).clk.time = d.clk.time ∧
    ((d.plannedSwitch x t).evt evClk).bits.getLsbD (clkSwitch x) = true ∧
    (d.plannedSwitch x t).cnt = { d.cnt with synSwitches := d.cnt.synSwitches + 1#32 } := by
  obtain ⟨hdriver, hchange, hmult, htime, hsame, hother⟩ :=
    ((d.switchTo x t).synState (SynId.other x) .search).retune_clk (SynId.other x)
  obtain ⟨hdriver', hto', hmult'⟩ := (d.switchTo x t).synState_counter (SynId.other x) .search
  obtain ⟨hto, hmult''⟩ := d.switchTo_changes (x := x) t
  rw [SynId.other_other] at hother
  refine ⟨hdriver.trans (hdriver'.trans (Device.switchTo_driver ..)), hother.trans ((Device.syn_synState_other ..).trans (Device.switchTo_same ..)),
    ?_, (congrArg Syn.mult hsame).trans (hto'.trans hto), hchange, hmult.trans (hmult'.trans hmult''),
    htime.trans ((Device.synState_time ..).trans (Device.switchTo_time ..)), ?_, ?_⟩
  · refine (congrArg Syn.state hsame).trans ?_
    rw [Device.syn_synState_same]
    rfl
  · exact (Device.retune_grows _ _).bits _ _ ((Device.synState_grows _ _ _).bits _ _ (Device.switchTo_bit _ _))
  · change ((d.switchTo x t).synState (SynId.other x) .search).cnt = _
    simp

end readied

end Sys2Proof.Machine
end

section
namespace Sys2Proof.Machine

/-! O18, second part: the return of a reference, the end of a coast, and what an aligned synthesizer does. -/

/-! ### The policy's discipline -/

/-- The clocks without their discipline, their scheduled steps and what is being slewed. -/
def Clock.unslewed (c : Clock) : Clock := { c.undisciplined with remain := 0, slewAt := 0, rate := 0#32, later := 0 }

theorem Device.setDisc_unslewed (st : Disc) (d : Device) :
    Device.Grows (fun x => (x.clk.unslewed, { x with clk := Clock.reset, marks := Marks.init })) d (d.setDisc st) :=
  (Device.setDisc_grows st d).map fun p => ({ p.1 with remain := 0, slewAt := 0, rate := 0#32, later := 0 }, p.2)

theorem Device.startSlew_grows (x : Int) (d : Device) :
    Device.Grows (fun x => (x.clk.unslewed, { x with clk := Clock.reset, marks := Marks.init })) d (d.startSlew x) := by
  unfold Device.startSlew
  refine Device.ite_grows _ (.of_evts rfl rfl) (.trans ?_ (Device.setDisc_unslewed .slewing _))
  exact .of_evts rfl rfl

theorem Device.startSlew_under (x : Int) (d : Device) : (d.startSlew x).clk.under = .slewing := by
  by_cases h : d.clk.resume.isSome
  · rw [Device.startSlew, if_pos h]
    rfl
  · rw [Device.startSlew, if_neg h]
    exact Device.setDisc_under ..

theorem Device.applyPolicy_grows (x : Int) (d : Device) :
    Device.Grows (fun x => (x.clk.unslewed, { x with clk := Clock.reset, marks := Marks.init })) d (d.applyPolicy x) := by
  unfold Device.applyPolicy
  refine Device.ite_grows _ (Device.setDisc_unslewed ..) ?_
  split
  · exact Device.setDisc_unslewed ..
  · exact Device.setDisc_unslewed ..
  · exact Device.startSlew_grows ..

theorem Device.applyPolicy_under (x : Int) (d : Device) : (d.applyPolicy x).clk.under =
    if x.natAbs ≤ 192 then .locked else if d.clk.policy = 1 then .awaitStep else if d.clk.policy = 2 then .held else .slewing := by
  unfold Device.applyPolicy
  by_cases hx : x.natAbs ≤ 192
  · have hnear : nearZero x = true := decide_eq_true hx
    rw [if_pos hnear, if_pos hx]
    exact Device.setDisc_under ..
  · have hnear : ¬nearZero x = true := by simpa [nearZero] using hx
    rw [if_neg hnear, if_neg hx]
    split
    · next h => rw [if_pos h]; exact Device.setDisc_under ..
    · next h => rw [if_neg (by rw [h]; decide), if_pos h]; exact Device.setDisc_under ..
    · next h1 h2 => rw [if_neg h1, if_neg h2]; exact Device.startSlew_under ..

@[simp] theorem Device.applyPolicy_cnt (x : Int) (d : Device) : (d.applyPolicy x).cnt = d.cnt :=
  congrArg (·.2.cnt) (d.applyPolicy_grows x).same

/-! ### A reference that returns -/

/-- The clocks with an offset just measured, of a reference that is present. -/
def Clock.present (x : Int) (c : Clock) : Clock := { c with refPresent := true, offset := x, offsetAt := c.time }

/-- What the return of a reference reports. -/
def Device.reportReturn (x : Int) (event : Bool) (d : Device) : Device :=
  let d := if event then d.raise evClk (ebit clkReturned) else d
  if 64 * d.clk.jumpThresh < x.natAbs then d.raise evClk (ebit clkJump) else d

section back
variable (x : Int) (event : Bool) (d : Device)

@[simp] theorem Device.reportReturn_clk : (d.reportReturn x event).clk = d.clk := by
  simp [Device.reportReturn, apply_ite Device.clk]

@[simp] theorem Device.reportReturn_cnt : (d.reportReturn x event).cnt = d.cnt := by
  simp [Device.reportReturn, apply_ite Device.cnt]

theorem Device.reportReturn_grows : Device.Grows Device.core d (d.reportReturn x event) := by
  unfold Device.reportReturn
  refine .trans (e := if event then d.raise evClk (ebit clkReturned) else d) (Device.ite_grows _ (Device.raise_grows ..) (.refl d)) ?_
  exact Device.ite_grows _ (Device.raise_grows ..) (.refl _)

theorem Device.reportReturn_jump (h : 64 * d.clk.jumpThresh < x.natAbs) : ((d.reportReturn x event).evt evClk).bits.getLsbD clkJump = true := by
  have hclk : (if event then d.raise evClk (ebit clkReturned) else d).clk = d.clk := by split <;> simp
  unfold Device.reportReturn
  dsimp only
  rw [hclk, if_pos h]
  exact Device.raise_bit (by decide) _

theorem Device.returnRef_eq : d.returnRef x event =
    let e := Device.reportReturn x event { d with clk := d.clk.present x }
    if e.clk.coasting then e else e.applyPolicy x := rfl

end back

/-! ### The end of a coast -/

/-- What the loop and the policy go by. -/
def Clock.steering (c : Clock) : Bool × Int × Nat × Nat × Disc := (c.refPresent, c.offset, c.jumpThresh, c.policy, c.under)

/-- A takes over from the coast, before the reference is looked at. -/
def Device.coastEnded (t : Nat) (d : Device) : Device :=
  let d := d.switchTo .A t
  let d := { d with clk := { d.clk with coasting := false }, marks := { d.marks with coast := spanClose t d.marks.coast } }
  let d := (d.raise evClk (ebit clkCoastEnded)).synState .B .search
  if d.clk.change = 1 then d.retune .B else d

section ended
variable (t : Nat) (d : Device)

theorem Device.endCoast_eq : d.endCoast t =
    let e := d.coastEnded t
    if e.clk.refPresent && e.clk.under.waits then e.returnRef e.clk.offset false else e := rfl

/-- Before a change of the reference path goes on with B: A drives ROOT, and B searches. -/
theorem Device.coastEnded_clk : (d.coastEnded t).clk.coasting = false ∧ (d.coastEnded t).clk.driver = .A ∧
    (d.coastEnded t).clk.synA.state = .active ∧ (d.coastEnded t).clk.synB.state = .search ∧
    (d.coastEnded t).clk.steering = d.clk.steering ∧ ((d.coastEnded t).evt evClk).bits.getLsbD clkCoastEnded = true ∧
    (d.coastEnded t).cnt.synSwitches = d.cnt.synSwitches + 1#32 := by
  let e := d.switchTo .A t
  let f : Device := { e with clk := { e.clk with coasting := false }, marks := { e.marks with coast := spanClose t e.marks.coast } }
  let g := (f.raise evClk (ebit clkCoastEnded)).synState .B .search
  have hg : g.clk = f.clk.setSyn .B (Syn.enter f.clk.time .search) := by
    change (f.raise evClk (ebit clkCoastEnded)).clk.setSyn .B (Syn.enter (f.raise evClk (ebit clkCoastEnded)).clk.time .search) = _
    rw [Device.raise_clk]
  have he : e.clk = { (d.setSyn .A fun y => { y with state := .active }).clk with activeB := false } := Device.switchTo_clk t d
  have hcnt : g.cnt = { d.cnt with synSwitches := d.cnt.synSwitches + 1#32 } := by simp [g, f, e]
  have hbit : (g.evt evClk).bits.getLsbD clkCoastEnded = true := Device.raise_bit (by decide) f
  have hclk : g.clk = { ((d.setSyn .A fun y => { y with state := .active }).clk.setSyn .B (Syn.enter d.clk.time .search)) with
      activeB := false
      coasting := false } := by
    rw [hg]
    simp only [f, he]
    rfl
  have hended : d.coastEnded t = if g.clk.change = 1 then g.retune .B else g := rfl
  rw [hended]
  split
  · refine ⟨?_, ?_, ?_, ?_, ?_, hbit, congrArg Counters.synSwitches hcnt⟩ <;> simp only [Device.retune, hclk] <;> rfl
  · refine ⟨?_, ?_, ?_, ?_, ?_, hbit, congrArg Counters.synSwitches hcnt⟩ <;> simp only [hclk] <;> rfl

/-- What the return of a reference leaves as it is. -/
theorem Device.returnRef_grows (x : Int) (event : Bool) :
    Device.Grows (fun e => ({ e.clk.unslewed with refPresent := false, offset := 0, offsetAt := 0 }, { e.core with clk := Clock.reset, marks := Marks.init }))
      d (d.returnRef x event) := by
  rw [Device.returnRef_eq]
  refine .trans (e := Device.reportReturn x event { d with clk := d.clk.present x }) (.trans (e := { d with clk := d.clk.present x }) (.of_evts rfl rfl)
    ((Device.reportReturn_grows x event _).map fun e =>
      ({ e.clk.unslewed with refPresent := false, offset := 0, offsetAt := 0 }, { e with clk := Clock.reset, marks := Marks.init }))) ?_
  exact Device.ite_grows _ (.refl _) ((Device.applyPolicy_grows x _).map fun p => ({ p.1 with refPresent := false, offset := 0, offsetAt := 0 }, p.2.core))

theorem Device.returnRef_under (x : Int) (event : Bool) : (d.returnRef x event).clk.under =
    if d.clk.coasting then d.clk.under else if x.natAbs ≤ 192 then .locked else if d.clk.policy = 1 then .awaitStep
      else if d.clk.policy = 2 then .held else .slewing := by
  have hclk : (Device.reportReturn x event { d with clk := d.clk.present x }).clk = d.clk.present x := Device.reportReturn_clk ..
  rw [Device.returnRef_eq]
  dsimp only
  rw [apply_ite Device.clk, apply_ite Clock.under, Device.applyPolicy_under, hclk]
  rfl

theorem Device.returnRef_jump {x : Int} (event : Bool) (h : 64 * d.clk.jumpThresh < x.natAbs) :
    ((d.returnRef x event).evt evClk).bits.getLsbD clkJump = true := by
  rw [Device.returnRef_eq]
  have hjump := Device.reportReturn_jump x event { d with clk := d.clk.present x } h
  exact (Device.ite_grows (g := fun _ => ()) _ (.refl _) ((Device.applyPolicy_grows x _).map fun _ => ())).bits _ _ hjump

@[simp] theorem Device.returnRef_cnt (x : Int) (event : Bool) : (d.returnRef x event).cnt = d.cnt := by
  rw [Device.returnRef_eq]
  dsimp only
  rw [apply_ite Device.cnt, Device.applyPolicy_cnt, Device.reportReturn_cnt, ite_self]

/-- A has taken over from the coast: what it leaves, and what follows of a reference that is present. -/
theorem Device.endCoast_clk : (d.endCoast t).clk.coasting = false ∧ (d.endCoast t).clk.driver = .A ∧
    (d.endCoast t).clk.synA.state = .active ∧ (d.endCoast t).clk.synB.state = .search ∧
    ((d.endCoast t).evt evClk).bits.getLsbD clkCoastEnded = true ∧ (d.endCoast t).cnt.synSwitches = d.cnt.synSwitches + 1#32 ∧
    (d.clk.refPresent = true → d.clk.under.waits = true → d.endCoast t = (d.coastEnded t).returnRef d.clk.offset false) := by
  obtain ⟨hc, hd, hA, hB, hs, hbit, hcnt⟩ := d.coastEnded_clk t
  have hpres : (d.coastEnded t).clk.refPresent = d.clk.refPresent := congrArg (·.1) hs
  have hoff : (d.coastEnded t).clk.offset = d.clk.offset := congrArg (·.2.1) hs
  have hunder : (d.coastEnded t).clk.under = d.clk.under := congrArg (·.2.2.2.2) hs
  rw [Device.endCoast_eq]
  dsimp only
  rw [hpres, hoff, hunder]
  have hback := (d.coastEnded t).returnRef_grows d.clk.offset false
  split
  · refine ⟨(congrArg (·.1.coasting) hback.same).trans hc, ?_, (congrArg (·.1.synA.state) hback.same).trans hA,
      (congrArg (·.1.synB.state) hback.same).trans hB, hback.bits _ _ hbit, by rw [Device.returnRef_cnt]; exact hcnt, fun _ _ => rfl⟩
    exact (congrArg (·.1.driver) hback.same).trans hd
  · next h => exact ⟨hc, hd, hA, hB, hbit, hcnt, fun h1 h2 => absurd (by rw [h1, h2]; rfl) h⟩

end ended

section ready
variable {s : State} {x : SynId} (halign : (s.dev.syn x).state = .align) (t : Nat)
include halign

theorem exec_synthesizerReady : exec (.synthesizerReady x t) s = .next { s with
    dev := (s.dev.tickTo t).synReady x (Max.max t s.dev.clk.time) } := if_pos halign

omit halign in
/-- Time moves on: the synthesizers and the counter's state stay. -/
theorem tickTo_counter : (s.dev.tickTo t).clk.counting = s.dev.clk.counting ∧ (s.dev.tickTo t).clk.coasting = s.dev.clk.coasting ∧
    (s.dev.tickTo t).clk.change = s.dev.clk.change ∧ (s.dev.tickTo t).clk.changeTo = s.dev.clk.changeTo ∧
    (s.dev.tickTo t).clk.refMult = s.dev.clk.refMult ∧ (s.dev.tickTo t).clk.driver = s.dev.clk.driver ∧
    (s.dev.tickTo t).clk.activeB = s.dev.clk.activeB ∧ (s.dev.tickTo t).clk.steering = s.dev.clk.steering ∧
    (s.dev.tickTo t).clk.synB = s.dev.clk.synB := by
  rw [Device.tickTo_eq]
  exact ⟨rfl, rfl, rfl, rfl, rfl, rfl, rfl, rfl, rfl⟩

/-- The first one becomes ACTIVE, and device time starts. -/
theorem firstReadyStartsTime (hcount : s.dev.clk.counting = false) : Completes (.synthesizerReady x t) s fun u =>
    DeviceOnly s u ∧ u.dev.clk.counting = true ∧ u.dev.clk.time = 0 ∧ (u.dev.syn x).state = .active ∧ u.dev.clk.driver = x ∧
    (s.dev.pw.mode = .boot → x = .A → s.dev.clk.synB.state = .off → u.dev.clk.synB.state = .search) := by
  obtain ⟨hc, -, -, -, -, -, -, -, hB⟩ := tickTo_counter (s := s) t
  have hexec := exec_synthesizerReady halign t
  rw [Device.synReady_first _ (hc.trans hcount)] at hexec
  obtain ⟨h1, h2, h3, h4, h5⟩ := ((s.dev.tickTo t).readied x).startRoot_clk (x := x)
  obtain ⟨-, hpw, -⟩ := Device.readied_synsOnly x (s.dev.tickTo t)
  refine ⟨_, hexec, ⟨rfl, rfl⟩, h1, h2, h3, h4, fun hboot hx hoff => h5 ?_ hx ?_⟩
  · rw [hpw, Device.tickTo_pw, hboot]
  · subst hx
    refine (congrArg Syn.state (Device.readied_other .A (s.dev.tickTo t))).trans ?_
    rw [← hoff]
    exact congrArg Syn.state hB

section counting
variable (hcount : s.dev.clk.counting = true)
include hcount

theorem exec_synthesizerReady_noCoast (hcoast : s.dev.clk.coasting = false) :
    exec (.synthesizerReady x t) s = .next { s with
      dev := if s.dev.clk.change = 1 then ((s.dev.tickTo t).readied x).plannedSwitch x (Max.max t s.dev.clk.time)
      else if s.dev.clk.change = 2 then ((s.dev.tickTo t).readied x).changed
      else (s.dev.tickTo t).readied x } := by
  obtain ⟨hc, hk, hh, -⟩ := tickTo_counter (s := s) t
  rw [exec_synthesizerReady halign t, Device.synReady_noCoast _ (hc.trans hcount) (hk.trans hcoast), hh]

/-- A standby waits at READY. -/
theorem standbyReady (hcoast : s.dev.clk.coasting = false) (h1 : s.dev.clk.change ≠ 1) (h2 : s.dev.clk.change ≠ 2) :
    Completes (.synthesizerReady x t) s fun u =>
      DeviceOnly s u ∧ u.dev.syn x = { s.dev.syn x with state := .ready, good := 0, lost := false, failed := false } ∧
      u.dev.syn (SynId.other x) = s.dev.syn (SynId.other x) ∧ u.dev.clk.activeB = s.dev.clk.activeB ∧
      ((s.dev.syn x).lost = true → (u.dev.evt evClk).bits.getLsbD (clkRegained x) = true) ∧
      ((s.dev.syn x).lost = false → u.dev.evts = s.dev.evts) := by
  have hexec := exec_synthesizerReady_noCoast halign t hcount hcoast
  rw [if_neg h1, if_neg h2] at hexec
  obtain ⟨-, -, -, -, -, -, ha, -⟩ := tickTo_counter (s := s) t
  have hx : (s.dev.tickTo t).syn x = s.dev.syn x := Device.tickTo_syn ..
  obtain ⟨hbit, hevts⟩ := Device.readied_evts x (s.dev.tickTo t)
  obtain ⟨hclk, -, -⟩ := Device.readied_synsOnly x (s.dev.tickTo t)
  rw [hx] at hbit hevts
  refine ⟨_, hexec, ⟨rfl, rfl⟩, (Device.readied_same ..).trans (by rw [hx]), (Device.readied_other ..).trans (Device.tickTo_syn ..), ?_, hbit,
    fun h => (hevts h).trans (Device.tickTo_evts ..)⟩
  exact (congrArg (·.activeB) hclk).trans ha

/-- READY at the new setting ends the change. -/
theorem readyEndsChange (hcoast : s.dev.clk.coasting = false) (h2 : s.dev.clk.change = 2) :
    Completes (.synthesizerReady x t) s fun u =>
      DeviceOnly s u ∧ u.dev.syn x = { s.dev.syn x with state := .ready, good := 0, lost := false, failed := false } ∧
      u.dev.clk.change = 0 ∧ u.dev.clk.refMult = s.dev.clk.changeTo ∧ u.dev.clk.driver = s.dev.clk.driver ∧
      u.dev.syn (SynId.other x) = s.dev.syn (SynId.other x) ∧ u.dev.cnt = s.dev.cnt := by
  have hexec := exec_synthesizerReady_noCoast halign t hcount hcoast
  rw [if_neg (by omega), if_pos h2] at hexec
  obtain ⟨-, -, -, hto, -, hdriver, -⟩ := tickTo_counter (s := s) t
  have hx : (s.dev.tickTo t).syn x = s.dev.syn x := Device.tickTo_syn ..
  obtain ⟨hclk, -, hcnt⟩ := Device.readied_synsOnly x (s.dev.tickTo t)
  refine ⟨_, hexec, ⟨rfl, rfl⟩, ((Device.readied_same ..).trans (by rw [hx]) : (Device.readied x (s.dev.tickTo t)).syn x = _), rfl,
    (congrArg (·.changeTo) hclk).trans hto, ?_, ((Device.readied_other ..).trans (Device.tickTo_syn ..) :
      (Device.readied x (s.dev.tickTo t)).syn (SynId.other x) = _), hcnt.trans (Device.tickTo_cnt ..)⟩
  exact (congrArg (·.driver) hclk).trans hdriver

/-- The standby takes over at the new setting. -/
theorem readySwitchesAsPlanned (hcoast : s.dev.clk.coasting = false) (h1 : s.dev.clk.change = 1) :
    Completes (.synthesizerReady x t) s fun u =>
      DeviceOnly s u ∧ u.dev.clk.driver = x ∧ (u.dev.syn x).state = .active ∧ (u.dev.syn x).mult = (s.dev.syn x).mult ∧
      (u.dev.syn (SynId.other x)).state = .search ∧ (u.dev.syn (SynId.other x)).mult = s.dev.clk.changeTo ∧
      u.dev.clk.change = 2 ∧ u.dev.clk.refMult = s.dev.clk.refMult ∧ (u.dev.evt evClk).bits.getLsbD (clkSwitch x) = true ∧
      u.dev.cnt = { s.dev.cnt with synSwitches := s.dev.cnt.synSwitches + 1#32 } ∧ u.dev.clk.time = (s.dev.tickTo t).clk.time := by
  have hexec := exec_synthesizerReady_noCoast halign t hcount hcoast
  rw [if_pos h1] at hexec
  obtain ⟨-, -, -, hto, hmult, -⟩ := tickTo_counter (s := s) t
  have hx : (s.dev.tickTo t).syn x = s.dev.syn x := Device.tickTo_syn ..
  obtain ⟨hclk, -, hcnt⟩ := Device.readied_synsOnly x (s.dev.tickTo t)
  obtain ⟨hdriver, hsame, hother, hmo, hchange, hrm, htime, hbit, hcn⟩ :=
    Device.plannedSwitch_clk (x := x) (d := (s.dev.tickTo t).readied x) (Max.max t s.dev.clk.time)
  refine ⟨_, hexec, ⟨rfl, rfl⟩, hdriver, congrArg Syn.state hsame, (congrArg Syn.mult hsame).trans ?_, hother,
    hmo.trans ((congrArg (·.changeTo) hclk).trans hto), hchange, hrm.trans ((congrArg (·.refMult) hclk).trans hmult), hbit, ?_,
    htime.trans (congrArg (·.time) hclk)⟩
  · rw [Device.readied_same, hx]
  · rw [hcn, hcnt, Device.tickTo_cnt]

omit halign in
/-- In a coast A takes over. -/
theorem readyEndsCoast (halign : (s.dev.syn .A).state = .align) (hcoast : s.dev.clk.coasting = true) :
    Completes (.synthesizerReady .A t) s fun u =>
      DeviceOnly s u ∧ u.dev.clk.coasting = false ∧ u.dev.clk.driver = .A ∧ u.dev.clk.synA.state = .active ∧
      u.dev.clk.synB.state = .search ∧ (u.dev.evt evClk).bits.getLsbD clkCoastEnded = true ∧
      u.dev.cnt.synSwitches = s.dev.cnt.synSwitches + 1#32 ∧
      (s.dev.clk.refPresent = true → s.dev.clk.under = .holdover ∨ s.dev.clk.under = .held →
        (s.dev.clk.offset.natAbs ≤ 192 → u.dev.clk.under = .locked) ∧
        (192 < s.dev.clk.offset.natAbs → s.dev.clk.policy = 2 → u.dev.clk.under = .held) ∧
        (64 * s.dev.clk.jumpThresh < s.dev.clk.offset.natAbs → (u.dev.evt evClk).bits.getLsbD clkJump = true)) := by
  obtain ⟨hc, hk, -, -, -, -, -, hsteer, -⟩ := tickTo_counter (s := s) t
  let d := (s.dev.tickTo t).readied .A
  have hexec := exec_synthesizerReady halign t
  rw [Device.synReady_coast _ (hc.trans hcount) (hk.trans hcoast)] at hexec
  obtain ⟨hclk, -, hcnt⟩ := Device.readied_synsOnly .A (s.dev.tickTo t)
  have hsd : d.clk.steering = s.dev.clk.steering := (congrArg (·.steering) hclk).trans hsteer
  have hpres : d.clk.refPresent = s.dev.clk.refPresent := congrArg (·.1) hsd
  have hoff : d.clk.offset = s.dev.clk.offset := congrArg (·.2.1) hsd
  have hunder : d.clk.under = s.dev.clk.under := congrArg (·.2.2.2.2) hsd
  obtain ⟨h1, h2, h3, h4, h5, h6, hback⟩ := d.endCoast_clk (Max.max t s.dev.clk.time)
  refine ⟨_, hexec, ⟨rfl, rfl⟩, h1, h2, h3, h4, h5, h6.trans (by rw [hcnt, Device.tickTo_cnt]), fun hp hu => ?_⟩
  have hwaits : d.clk.under.waits = true := by rw [hunder]; rcases hu with h | h <;> rw [h] <;> rfl
  obtain ⟨hnc, -, -, -, hse, -⟩ := d.coastEnded_clk (Max.max t s.dev.clk.time)
  have hsd' := hse.trans hsd
  have hpol : (d.coastEnded (Max.max t s.dev.clk.time)).clk.policy = s.dev.clk.policy := congrArg (·.2.2.2.1) hsd'
  have hthr : (d.coastEnded (Max.max t s.dev.clk.time)).clk.jumpThresh = s.dev.clk.jumpThresh := congrArg (·.2.2.1) hsd'
  have hund := (d.coastEnded (Max.max t s.dev.clk.time)).returnRef_under d.clk.offset false
  have hret := hback (hpres.trans hp) hwaits
  change (_ → (d.endCoast _).clk.under = _) ∧ (_ → _ → (d.endCoast _).clk.under = _) ∧ (_ → ((d.endCoast _).evt evClk).bits.getLsbD clkJump = true)
  rw [hret, hund, hnc, hoff, hpol]
  refine ⟨fun h => ?_, fun h hp2 => ?_, fun h => Device.returnRef_jump _ false (by rw [hthr]; exact h)⟩
  · rw [if_neg Bool.false_ne_true, if_pos h]
  · rw [if_neg Bool.false_ne_true, if_neg (by omega), if_neg (by omega), if_pos hp2]

end counting

end ready

/-- Settles O18: by the end of the search, and by what an aligned synthesizer finds. -/
theorem synthesizersSearchAndBecomeReady : Obligations.SynthesizersSearchAndBecomeReady := by
  unfold Obligations.SynthesizersSearchAndBecomeReady
  refine ⟨fun s x steps count => ?_, fun s x t halign => ⟨firstReadyStartsTime halign t, fun h1 h2 h3 h4 => standbyReady halign t h1 h2 h3 h4,
    fun h1 h2 hx => ?_, readySwitchesAsPlanned halign t, readyEndsChange halign t⟩⟩
  · intro y d hdue
    refine ⟨fun hstate => ?_, fun hstate => ?_⟩
    · have hB : x = .A → s.dev.clk.synB = s.dev.syn (SynId.other x) := by rintro rfl; rfl
      cases hf : searchFails s.dev.clk.steer count with
      | false =>
        obtain ⟨t, hexec, hdev, hother, hevts, hsyn⟩ := goodSearchAcquires hdue hstate hf steps
        refine ⟨t, hexec, ?_⟩
        beta_reduce
        intro b bad first
        have hgood : ¬bad := of_decide_eq_false hf
        exact ⟨hdev, searchBand_lt _ _, fun _ => hother, fun h => absurd h hgood, fun _ => ⟨hsyn, hevts⟩, fun h => absurd h hgood⟩
      | true =>
        obtain ⟨t, hexec, hdev, hother, hbit, hsyn⟩ := badSearchRetries hdue hstate hf steps
        refine ⟨t, hexec, ?_⟩
        beta_reduce
        intro b bad first
        have hbad : bad := of_decide_eq_true hf
        refine ⟨hdev, searchBand_lt _ _, fun hno => hother.trans (if_neg fun h => hno ⟨hbad, h⟩), fun _ hfirst => ?_, fun h => absurd hbad h,
          fun _ => ⟨hsyn, hbit⟩⟩
        obtain ⟨-, rfl, -⟩ := id hfirst
        exact hother.trans (if_pos hfirst)
    · refine (if_pos ⟨hstate, hdue⟩ : exec (.synthesizerRetry x) s = _).trans ?_
      rfl
  · subst hx
    exact readyEndsCoast t h1 halign h2

end Sys2Proof.Machine
end

section
namespace Sys2Proof.Machine

/-! O19: what the edges of a reference do, and its loss. -/

/-! ### An edge -/

theorem reduceInto_spec {m : Int} (hm : 0 < m) (x : Int) :
    -m < 2 * reduceInto m x ∧ 2 * reduceInto m x ≤ m ∧ m ∣ x - reduceInto m x := by
  have h0 := Int.emod_nonneg x (by omega : m ≠ 0)
  have h1 := Int.emod_lt_of_pos x hm
  have hdvd : m ∣ x - x % m := Int.dvd_self_sub_emod
  rw [reduceInto]
  split
  · refine ⟨by omega, by omega, ?_⟩
    have : x - (x % m - m) = x - x % m + m := by ring
    rw [this]
    exact dvd_add_self_right.mpr hdvd
  · exact ⟨by omega, by omega, hdvd⟩

theorem Clock.refPeriod_pos (c : Clock) : 0 < c.refPeriod := by
  unfold Clock.refPeriod
  split
  · decide
  · split <;> decide

/-- What the pin itself records of an edge, whichever input is selected. -/
def Device.edgeSeen (pps : Bool) (t64 : Nat) (d : Device) : Device :=
  if pps then
    { d with clk := { d.clk with due := d.clk.due.map (StepDue.atEdge t64),
                                 ppsEdges := (d.clk.ppsEdges ++ [t64]).drop (d.clk.ppsEdges.length - 2) } }
  else d

/-- The edge belongs to the selected input. -/
def Clock.selects (pps : Bool) (c : Clock) : Bool := (pps && c.source == 2) || (!pps && c.source == 1)

theorem Clock.selects_iff (pps : Bool) (c : Clock) : c.selects pps = true ↔ (pps = true ∧ c.source = 2) ∨ (pps = false ∧ c.source = 1) := by
  simp [Clock.selects]

/-- The clocks without what an edge of an input records by itself. -/
def Clock.edgeless (c : Clock) : Clock := { c with time := 0, due := [], ppsEdges := [], lastEdge := 0 }

/-- The device at an edge of the selected input, before the loop looks at it. -/
def Device.atEdge (pps : Bool) (t64 : Nat) (d : Device) : Device :=
  let e := (d.tickTo (t64 / 64)).edgeSeen pps t64
  { e with clk := { e.clk with lastEdge := t64 } }

theorem Device.refEdge_eq (pps : Bool) (t64 : Nat) (steer : Int) (d : Device) : (d.tickTo (t64 / 64)).refEdge pps t64 steer =
    if ((d.tickTo (t64 / 64)).edgeSeen pps t64).clk.selects pps && ((d.tickTo (t64 / 64)).edgeSeen pps t64).clk.expects t64 then
      (d.atEdge pps t64).sourceEdge t64 steer else (d.tickTo (t64 / 64)).edgeSeen pps t64 := rfl

theorem Device.edgeSeen_frame (pps : Bool) (t64 : Nat) (d : Device) :
    ((d.tickTo (t64 / 64)).edgeSeen pps t64).clk.edgeless = d.clk.edgeless ∧
    ((d.tickTo (t64 / 64)).edgeSeen pps t64).clk.lastEdge = d.clk.lastEdge ∧
    ((d.tickTo (t64 / 64)).edgeSeen pps t64).clk.ppsEdges =
      (if pps then (d.clk.ppsEdges ++ [t64]).drop (d.clk.ppsEdges.length - 2) else d.clk.ppsEdges) ∧
    { (d.tickTo (t64 / 64)).edgeSeen pps t64 with clk := d.clk } = d := by
  rw [Device.tickTo_eq]
  unfold Device.edgeSeen
  cases pps <;> exact ⟨rfl, rfl, rfl, rfl⟩

section edge
variable {s : State} {pps : Bool} {t64 : Nat} (steer : Int) (hcount : s.dev.clk.counting = true)
include hcount

theorem exec_referenceEdge : exec (.referenceEdge pps t64 steer) s = .next { s with
    dev := if s.dev.clk.selects pps && s.dev.clk.expects t64 then (s.dev.atEdge pps t64).sourceEdge t64 steer
      else (s.dev.tickTo (t64 / 64)).edgeSeen pps t64 } := by
  obtain ⟨hclk, hlast, -, -⟩ := s.dev.edgeSeen_frame pps t64
  have hsel : ((s.dev.tickTo (t64 / 64)).edgeSeen pps t64).clk.selects pps = s.dev.clk.selects pps := congrArg (·.selects pps) hclk
  have hexp : ((s.dev.tickTo (t64 / 64)).edgeSeen pps t64).clk.expects t64 = s.dev.clk.expects t64 := by
    have hsrc : ((s.dev.tickTo (t64 / 64)).edgeSeen pps t64).clk.source = s.dev.clk.source := congrArg (·.source) hclk
    have hpres : ((s.dev.tickTo (t64 / 64)).edgeSeen pps t64).clk.refPresent = s.dev.clk.refPresent := congrArg (·.refPresent) hclk
    rw [Clock.expects, Clock.expects, hlast, hsrc, hpres]
  refine (if_pos hcount : exec (.referenceEdge pps t64 steer) s = _).trans ?_
  rw [← hsel, ← hexp, ← Device.refEdge_eq]
  rfl

/-- An edge of the other input, or one that is not expected, moves neither the offset nor the steering. -/
theorem edgeOfOther (h : s.dev.clk.selects pps = false ∨ s.dev.clk.expects t64 = false) :
    Completes (.referenceEdge pps t64 steer) s fun u =>
      DeviceOnly s u ∧ u.dev.clk.offset = s.dev.clk.offset ∧ u.dev.clk.steer = s.dev.clk.steer ∧ u.dev.clk.disc = s.dev.clk.disc ∧
      u.dev.clk.lastEdge = s.dev.clk.lastEdge ∧ u.dev.evts = s.dev.evts ∧ u.dev.fw = s.dev.fw := by
  have hno : (s.dev.clk.selects pps && s.dev.clk.expects t64) = false := by rcases h with h | h <;> simp [h]
  have hexec := exec_referenceEdge (pps := pps) (t64 := t64) steer hcount
  rw [hno, if_neg Bool.false_ne_true] at hexec
  obtain ⟨hclk, hlast, -, hrest⟩ := s.dev.edgeSeen_frame pps t64
  exact ⟨_, hexec, ⟨rfl, rfl⟩, congrArg (·.offset) hclk, congrArg (·.steer) hclk, congrArg (·.disc) hclk, hlast, congrArg (·.evts) hrest,
    congrArg (·.fw) hrest⟩

end edge

/-- The device at the edge of the selected input: its clocks but for what the edge records are as they were, and so is the rest. -/
theorem Device.atEdge_frame (pps : Bool) (t64 : Nat) (d : Device) :
    (d.atEdge pps t64).clk.edgeless = d.clk.edgeless ∧ (d.atEdge pps t64).clk.lastEdge = t64 ∧
    (d.atEdge pps t64).clk.returned =
      ({ d.clk with ppsEdges := if pps then (d.clk.ppsEdges ++ [t64]).drop (d.clk.ppsEdges.length - 2) else d.clk.ppsEdges }).returned ∧
    { d.atEdge pps t64 with clk := d.clk } = d := by
  obtain ⟨hclk, -, hpps, hrest⟩ := d.edgeSeen_frame pps t64
  refine ⟨hclk, rfl, ?_, hrest⟩
  rw [← hpps]
  have hsrc : ((d.tickTo (t64 / 64)).edgeSeen pps t64).clk.source = d.clk.source := congrArg (·.source) hclk
  have hgood : ((d.tickTo (t64 / 64)).edgeSeen pps t64).clk.goodEpochs = d.clk.goodEpochs := congrArg (·.goodEpochs) hclk
  simp only [Device.atEdge, Clock.returned, hsrc, hgood]

/-! ### What the loop makes of an edge -/

/-- The clocks with an offset just measured. -/
def Clock.measuredAt (x : Int) (c : Clock) : Clock := { c with offset := x, offsetAt := c.time }

theorem Clock.update_frame (x steer : Int) (c : Clock) : (c.update x steer).disc = c.disc ∧ (c.update x steer).resume = c.resume ∧
    (c.update x steer).offset = c.offset ∧ (c.update x steer).lastEdge = c.lastEdge ∧
    (c.update x steer).steer = clampInt (-109951162) 109951162 steer := by
  have hrate : (c.setRate c.slewRate).disc = c.disc ∧ (c.setRate c.slewRate).resume = c.resume ∧ (c.setRate c.slewRate).offset = c.offset ∧
      (c.setRate c.slewRate).lastEdge = c.lastEdge := by
    unfold Clock.setRate
    split <;> exact ⟨rfl, rfl, rfl, rfl⟩
  unfold Clock.update
  dsimp only
  split
  · exact ⟨hrate.1, hrate.2.1, hrate.2.2.1, hrate.2.2.2, rfl⟩
  · split <;> exact ⟨hrate.1, hrate.2.1, hrate.2.2.1, hrate.2.2.2, rfl⟩

theorem clampInt_spec {m : Int} (hm : 0 ≤ m) (x : Int) : -m ≤ clampInt (-m) m x ∧ clampInt (-m) m x ≤ m ∧ (-m ≤ x → x ≤ m → clampInt (-m) m x = x) := by
  unfold clampInt
  split
  · omega
  · split <;> omega

section loop
variable {d : Device} (t64 : Nat) (steer : Int)

omit d in
theorem Disc.steers_iff (st : Disc) : st.steers = true ↔ st = .locked ∨ st = .slewing ∨ st = .awaitStep := by
  cases st <;> simp [Disc.steers]

omit d in
theorem Disc.waits_iff (st : Disc) : st.waits = true ↔ st = .held ∨ st = .holdover := by
  cases st <;> simp [Disc.waits]

theorem Device.sourceEdge_steers (h : d.clk.under.steers = true) : d.sourceEdge t64 steer =
    { d with clk := (d.clk.measuredAt (d.clk.edgeOffset t64)).update (d.clk.edgeOffset t64) steer } := by
  rcases d.clk.under.steers_iff.mp h with hu | hu | hu <;>
  · unfold Device.sourceEdge
    rw [hu]
    rfl

theorem Device.sourceEdge_waits (h : d.clk.under.waits = true) : d.sourceEdge t64 steer =
    if d.clk.refPresent then { d with clk := d.clk.measuredAt (d.clk.edgeOffset t64) }
    else if d.clk.returned then d.returnRef (d.clk.edgeOffset t64) true else d := by
  rcases d.clk.under.waits_iff.mp h with hu | hu <;>
  · unfold Device.sourceEdge
    rw [hu]
    rfl

/-- The clocks with a target just captured. -/
def Clock.captured (t64 : Nat) (c : Clock) : Clock :=
  { c with refPresent := true, target := some ((t64 : Int) % c.refPeriod).toNat, offset := 0, offsetAt := c.time }

theorem Device.sourceEdge_acquiring (h : d.clk.under = .acquiring) : d.sourceEdge t64 steer =
    if !d.clk.returned || d.clk.coasting then d
    else if d.clk.source = 2 && d.clk.taiSet then d.returnRef (d.clk.edgeOffset t64) true
    else { d with clk := d.clk.captured t64 }.setDisc .locked := by
  unfold Device.sourceEdge
  rw [h]
  rfl

end loop

section selected
variable {s : State} {pps : Bool} {t64 : Nat} (steer : Int) (hcount : s.dev.clk.counting = true) (hsel : s.dev.clk.selects pps = true)
  (hexp : s.dev.clk.expects t64 = true)

/-- What an edge of the selected input has measured, with the discipline as it was. -/
def MeasuredAt (s : State) (t64 : Nat) (u : State) : Prop :=
  let c := s.dev.clk
  DeviceOnly s u ∧ u.dev.clk.disc = c.disc ∧ u.dev.clk.resume = c.resume ∧
    -(c.refPeriod) < 2 * u.dev.clk.offset ∧ 2 * u.dev.clk.offset ≤ c.refPeriod ∧
    c.refPeriod ∣ (t64 : Int) - c.refTarget - u.dev.clk.offset ∧ u.dev.clk.lastEdge = t64 ∧ u.dev.evts = s.dev.evts ∧ u.dev.fw = s.dev.fw

/-- The criterion of a return, with this edge. -/
def Clock.back (pps : Bool) (t64 : Nat) (c : Clock) : Bool :=
  ({ c with ppsEdges := if pps then (c.ppsEdges ++ [t64]).drop (c.ppsEdges.length - 2) else c.ppsEdges }).returned

omit hsel hexp in
theorem measuredAt_of_clk {u : State} {x : Int} (hx : x = s.dev.clk.edgeOffset t64) (hdev : DeviceOnly s u)
    (hclk : u.dev.clk.disc = s.dev.clk.disc ∧ u.dev.clk.resume = s.dev.clk.resume ∧ u.dev.clk.offset = x ∧ u.dev.clk.lastEdge = t64)
    (hrest : { u.dev with clk := s.dev.clk } = s.dev) : MeasuredAt s t64 u := by
  obtain ⟨hd, hr, ho, hl⟩ := hclk
  obtain ⟨h1, h2, h3⟩ := reduceInto_spec s.dev.clk.refPeriod_pos ((t64 : Int) - s.dev.clk.refTarget)
  rw [hx] at ho
  refine ⟨hdev, hd, hr, ?_, ?_, ?_, hl, congrArg (·.evts) hrest, congrArg (·.fw) hrest⟩
  · rw [ho]; exact h1
  · rw [ho]; exact h2
  · rw [ho]; exact h3

include hcount hsel hexp

theorem exec_referenceEdge_selected : exec (.referenceEdge pps t64 steer) s = .next { s with
    dev := (s.dev.atEdge pps t64).sourceEdge t64 steer } := by
  rw [exec_referenceEdge steer hcount, hsel, hexp]
  rfl

/-- While it steers, the loop takes its word. -/
theorem edgeSteers (h : s.dev.clk.under.steers = true) : Completes (.referenceEdge pps t64 steer) s fun u =>
    MeasuredAt s t64 u ∧ -109951162 ≤ u.dev.clk.steer ∧ u.dev.clk.steer ≤ 109951162 ∧
    (-109951162 ≤ steer → steer ≤ 109951162 → u.dev.clk.steer = steer) := by
  have hexec := exec_referenceEdge_selected steer hcount hsel hexp
  obtain ⟨hclk, hlast, -, hrest⟩ := s.dev.atEdge_frame pps t64
  have hu : (s.dev.atEdge pps t64).clk.under = s.dev.clk.under := congrArg (·.under) hclk
  have hx : (s.dev.atEdge pps t64).clk.edgeOffset t64 = s.dev.clk.edgeOffset t64 := congrArg (·.edgeOffset t64) hclk
  rw [Device.sourceEdge_steers _ _ (by rw [hu]; exact h), hx] at hexec
  obtain ⟨hd, hr, ho, hl, hs⟩ :=
    ((s.dev.atEdge pps t64).clk.measuredAt (s.dev.clk.edgeOffset t64)).update_frame (s.dev.clk.edgeOffset t64) steer
  obtain ⟨h1, h2, h3⟩ := clampInt_spec (by decide : (0 : Int) ≤ 109951162) steer
  refine ⟨_, hexec, measuredAt_of_clk rfl ⟨rfl, rfl⟩ ⟨hd.trans (congrArg (·.disc) hclk), hr.trans (congrArg (·.resume) hclk), ho, hl.trans hlast⟩ hrest,
    ?_, ?_, ?_⟩
  · exact h1.trans_eq hs.symm
  · exact hs.trans_le h2
  · exact fun ha hb => hs.trans (h3 ha hb)

/-- Not steering, on a reference that is present: only the offset is measured. -/
theorem edgeMeasures (h : s.dev.clk.under.waits = true) (hpres : s.dev.clk.refPresent = true) :
    Completes (.referenceEdge pps t64 steer) s fun u => MeasuredAt s t64 u ∧ u.dev.clk.steer = s.dev.clk.steer := by
  have hexec := exec_referenceEdge_selected steer hcount hsel hexp
  obtain ⟨hclk, hlast, -, hrest⟩ := s.dev.atEdge_frame pps t64
  have hu : (s.dev.atEdge pps t64).clk.under = s.dev.clk.under := congrArg (·.under) hclk
  have hp : (s.dev.atEdge pps t64).clk.refPresent = true := (congrArg (·.refPresent) hclk).trans hpres
  have hx : (s.dev.atEdge pps t64).clk.edgeOffset t64 = s.dev.clk.edgeOffset t64 := congrArg (·.edgeOffset t64) hclk
  rw [Device.sourceEdge_waits _ _ (by rw [hu]; exact h), hx, hp, if_pos rfl] at hexec
  exact ⟨_, hexec, measuredAt_of_clk rfl ⟨rfl, rfl⟩ ⟨congrArg (·.disc) hclk, congrArg (·.resume) hclk, rfl, hlast⟩ hrest,
    congrArg (·.steer) hclk⟩

/-- An acquisition that has not met its criterion, or that a coast holds up, goes on. -/
theorem edgeAcquires (h : s.dev.clk.under = .acquiring) (hno : s.dev.clk.back pps t64 = false ∨ s.dev.clk.coasting = true) :
    Completes (.referenceEdge pps t64 steer) s fun u =>
      DeviceOnly s u ∧ u.dev.clk.under = .acquiring ∧ u.dev.clk.refPresent = s.dev.clk.refPresent ∧ u.dev.clk.steer = s.dev.clk.steer ∧
      u.dev.evts = s.dev.evts := by
  have hexec := exec_referenceEdge_selected steer hcount hsel hexp
  obtain ⟨hclk, -, hback, hrest⟩ := s.dev.atEdge_frame pps t64
  have hu : (s.dev.atEdge pps t64).clk.under = s.dev.clk.under := congrArg (·.under) hclk
  have hk : (s.dev.atEdge pps t64).clk.coasting = s.dev.clk.coasting := congrArg (·.coasting) hclk
  have hstay : (!(s.dev.atEdge pps t64).clk.returned || (s.dev.atEdge pps t64).clk.coasting) = true := by
    rw [hback, hk]
    rcases hno with h | h
    · rw [show Clock.returned _ = false from h]; rfl
    · rw [h, Bool.or_true]
  rw [Device.sourceEdge_acquiring _ _ (hu.trans h), if_pos hstay] at hexec
  exact ⟨_, hexec, ⟨rfl, rfl⟩, hu.trans h, congrArg (·.refPresent) hclk, congrArg (·.steer) hclk, congrArg (·.evts) hrest⟩

/-- The acquisition captures its target. -/
theorem edgeCaptures (h : s.dev.clk.under = .acquiring) (hback : s.dev.clk.back pps t64 = true) (hcoast : s.dev.clk.coasting = false)
    (htai : s.dev.clk.source = 2 → s.dev.clk.taiSet = false) :
    Completes (.referenceEdge pps t64 steer) s fun u =>
      DeviceOnly s u ∧ u.dev.clk.under = .locked ∧ u.dev.clk.refPresent = true ∧ u.dev.clk.offset = 0 ∧
      u.dev.clk.target = some ((t64 : Int) % s.dev.clk.refPeriod).toNat ∧ u.dev.clk.steer = s.dev.clk.steer ∧ u.dev.evts = s.dev.evts := by
  have hexec := exec_referenceEdge_selected steer hcount hsel hexp
  obtain ⟨hclk, -, hb, hrest⟩ := s.dev.atEdge_frame pps t64
  have hu : (s.dev.atEdge pps t64).clk.under = s.dev.clk.under := congrArg (·.under) hclk
  have hgo : ¬(!(s.dev.atEdge pps t64).clk.returned || (s.dev.atEdge pps t64).clk.coasting) = true := by
    rw [hb, show Clock.returned _ = true from hback, show (s.dev.atEdge pps t64).clk.coasting = false from (congrArg (·.coasting) hclk).trans hcoast]
    decide
  have hcapture : ¬((decide ((s.dev.atEdge pps t64).clk.source = 2) && (s.dev.atEdge pps t64).clk.taiSet) = true) := by
    rw [show (s.dev.atEdge pps t64).clk.source = s.dev.clk.source from congrArg (·.source) hclk,
      show (s.dev.atEdge pps t64).clk.taiSet = s.dev.clk.taiSet from congrArg (·.taiSet) hclk]
    intro h
    obtain ⟨h2, ht⟩ := Bool.and_eq_true_iff.mp h
    rw [htai (of_decide_eq_true h2)] at ht
    cases ht
  rw [Device.sourceEdge_acquiring _ _ (hu.trans h), if_neg hgo, if_neg hcapture] at hexec
  have hkeep := (Device.setDisc_grows .locked { s.dev.atEdge pps t64 with clk := (s.dev.atEdge pps t64).clk.captured t64 }).same
  refine ⟨_, hexec, ⟨rfl, rfl⟩, Device.setDisc_under .locked _, congrArg (·.1.refPresent) hkeep, congrArg (·.1.offset) hkeep, ?_, ?_, congrArg (·.evts) hrest⟩
  · refine (congrArg (·.1.target) hkeep).trans ?_
    change some ((t64 : Int) % (s.dev.atEdge pps t64).clk.refPeriod).toNat = _
    rw [show (s.dev.atEdge pps t64).clk.refPeriod = s.dev.clk.refPeriod from congrArg (·.refPeriod) hclk]
  · exact (congrArg (·.1.steer) hkeep).trans (congrArg (·.steer) hclk)

omit hcount hsel hexp in
theorem Device.reportReturn_bit (x : Int) (d : Device) : ((d.reportReturn x true).evt evClk).bits.getLsbD clkReturned = true := by
  have hbit : ((d.raise evClk (ebit clkReturned)).evt evClk).bits.getLsbD clkReturned = true := Device.raise_bit (by decide) d
  unfold Device.reportReturn
  dsimp only
  rw [if_pos rfl]
  exact (Device.ite_grows _ (Device.raise_grows ..) (.refl _)).bits _ _ hbit

omit hcount hsel hexp in
/-- A return is reported, and its offset stands. -/
theorem Device.returnRef_reports (x : Int) (d : Device) : (d.returnRef x true).clk.refPresent = true ∧ (d.returnRef x true).clk.offset = x ∧
    (d.returnRef x true).clk.steer = d.clk.steer ∧ ((d.returnRef x true).evt evClk).bits.getLsbD clkReturned = true := by
  have hclk : (Device.reportReturn x true { d with clk := d.clk.present x }).clk = d.clk.present x := Device.reportReturn_clk ..
  have hbit := Device.reportReturn_bit x { d with clk := d.clk.present x }
  rw [Device.returnRef_eq]
  dsimp only
  generalize Device.reportReturn x true { d with clk := d.clk.present x } = e at hclk hbit ⊢
  have hpol := e.applyPolicy_grows x
  split
  · exact ⟨by rw [hclk]; rfl, by rw [hclk]; rfl, by rw [hclk]; rfl, hbit⟩
  · refine ⟨(congrArg (·.1.refPresent) hpol.same).trans ?_, (congrArg (·.1.offset) hpol.same).trans ?_,
      (congrArg (·.1.steer) hpol.same).trans ?_, hpol.bits _ _ hbit⟩ <;>
    · rw [hclk]
      rfl

/-- The edge that meets the criterion of a return. -/
theorem edgeReturns (h : (s.dev.clk.under = .acquiring ∧ s.dev.clk.source = 2 ∧ s.dev.clk.taiSet = true ∧ s.dev.clk.coasting = false) ∨
      ((s.dev.clk.under = .holdover ∨ s.dev.clk.under = .held) ∧ s.dev.clk.refPresent = false)) (hback : s.dev.clk.back pps t64 = true) :
    Completes (.referenceEdge pps t64 steer) s fun u =>
      let c := s.dev.clk
      let x := c.edgeOffset t64
      DeviceOnly s u ∧ u.dev.clk.refPresent = true ∧ u.dev.clk.offset = x ∧ u.dev.clk.steer = c.steer ∧
      (u.dev.evt evClk).bits.getLsbD clkReturned = true ∧
      (64 * c.jumpThresh < x.natAbs → (u.dev.evt evClk).bits.getLsbD clkJump = true) ∧
      (c.coasting = true → u.dev.clk.under = c.under) ∧
      (c.coasting = false → x.natAbs ≤ 192 → u.dev.clk.under = .locked) ∧
      (c.coasting = false → 192 < x.natAbs →
        u.dev.clk.under = (if c.policy = 1 then Disc.awaitStep else if c.policy = 2 then .held else .slewing)) := by
  let d := s.dev.atEdge pps t64
  let x := s.dev.clk.edgeOffset t64
  obtain ⟨hclk, -, hb, -⟩ := s.dev.atEdge_frame pps t64
  have hu : d.clk.under = s.dev.clk.under := congrArg (·.under) hclk
  have hx : d.clk.edgeOffset t64 = x := congrArg (·.edgeOffset t64) hclk
  have hk : d.clk.coasting = s.dev.clk.coasting := congrArg (·.coasting) hclk
  have hd : d.sourceEdge t64 steer = d.returnRef x true := by
    have hret : d.clk.returned = true := hb.trans hback
    rcases h with ⟨h1, h2, h3, h4⟩ | ⟨h1, h2⟩
    · have hsrc : d.clk.source = 2 := (congrArg (·.source) hclk).trans h2
      have htai : d.clk.taiSet = true := (congrArg (·.taiSet) hclk).trans h3
      rw [Device.sourceEdge_acquiring _ _ (hu.trans h1), hret, hk, h4, hsrc, htai, hx]
      rfl
    · have hp : d.clk.refPresent = false := (congrArg (·.refPresent) hclk).trans h2
      rw [Device.sourceEdge_waits _ _ ((Disc.waits_iff _).mpr (by rw [hu]; exact h1.symm)), hp, hret, hx]
      rfl
  have hexec := exec_referenceEdge_selected steer hcount hsel hexp
  rw [show (s.dev.atEdge pps t64).sourceEdge t64 steer = _ from hd] at hexec
  obtain ⟨hpres, hoff, hsteer, hbit⟩ := d.returnRef_reports x
  have hunder := d.returnRef_under x true
  rw [hk, hu, show d.clk.policy = s.dev.clk.policy from congrArg (·.policy) hclk] at hunder
  refine ⟨_, hexec, ⟨rfl, rfl⟩, hpres, hoff, hsteer.trans (congrArg (·.steer) hclk), hbit, fun hj => d.returnRef_jump true ?_, fun hc => hunder.trans ?_,
    fun hc hn => hunder.trans ?_, fun hc hn => hunder.trans ?_⟩
  · rw [show d.clk.jumpThresh = s.dev.clk.jumpThresh from congrArg (·.jumpThresh) hclk]
    exact hj
  · rw [if_pos hc]
  · rw [hc, if_neg Bool.false_ne_true, if_pos hn]
  · rw [hc, if_neg Bool.false_ne_true, if_neg (Nat.not_le.mpr hn)]

end selected

/-! ### The loss of the reference -/

/-- The clocks and the fabric once the selected reference is absent. -/
def Device.absent (d : Device) : Device :=
  { d with clk := { d.clk with refPresent := false, goodEpochs := 0, ppsEdges := [] }, fab := { d.fab with goodEpochs := 0 } }

theorem Device.refLost_eq (d : Device) : d.refLost =
    if !d.clk.refPresent then d.absent
    else
      let e := d.absent.raise evClk (ebit clkRefLost)
      if e.clk.under.steers then e.holdover else e := rfl

theorem Device.holdover_due (d : Device) : d.holdover.clk.due = d.clk.due.filter (fun x => x.kind != 0) ∧ d.holdover.clk.under = .holdover ∧
    (d.holdover.evt evClk).bits.getLsbD clkHoldover = true := by
  rw [Device.holdover, Device.raise_clk]
  exact ⟨Device.setDisc_due .holdover _, Device.setDisc_under .holdover _, Device.raise_bit (by decide) _⟩

section lost
variable {s : State}

/-- What a reference that is lost leaves as it is. -/
def LossKeeps (s u : State) : Prop :=
  let c := s.dev.clk
  DeviceOnly s u ∧ u.dev.clk.refPresent = false ∧ u.dev.clk.goodEpochs = 0 ∧ u.dev.clk.steer = c.steer ∧
    u.dev.clk.time = (s.dev.tickTo c.lossAt).clk.time ∧ u.dev.fw = s.dev.fw ∧ u.dev.regs = s.dev.regs ∧ u.dev.chans = s.dev.chans

theorem lossKeeps_of_frame {e : Device} (hclk : e.clk.undisciplined = (s.dev.tickTo s.dev.clk.lossAt).absent.clk.undisciplined)
    (hfw : e.fw = s.dev.fw) (hregs : e.regs = s.dev.regs) (hchans : e.chans = s.dev.chans) : LossKeeps s { s with dev := e } := by
  refine ⟨⟨rfl, rfl⟩, congrArg (·.refPresent) hclk, congrArg (·.goodEpochs) hclk, (congrArg (·.steer) hclk).trans ?_, congrArg (·.time) hclk,
    hfw, hregs, hchans⟩
  exact Device.tickTo_steer ..

variable (hgone : (s.dev.tickTo s.dev.clk.lossAt).refGone = true)
include hgone

theorem exec_referenceLost : exec .referenceLost s = .next { s with dev := (s.dev.tickTo s.dev.clk.lossAt).refLost } := if_pos hgone

theorem lossOfAbsent (h : s.dev.clk.refPresent = false) : Completes .referenceLost s fun u =>
    LossKeeps s u ∧ u.dev.clk.under = s.dev.clk.under ∧ u.dev.evts = s.dev.evts := by
  have hexec := exec_referenceLost hgone
  have htick := Device.tickTo_eq s.dev.clk.lossAt s.dev
  have hp : (s.dev.tickTo s.dev.clk.lossAt).clk.refPresent = false := (congrArg (·.clk.refPresent) htick).trans h
  rw [Device.refLost_eq, hp, Bool.not_false, if_pos rfl] at hexec
  exact ⟨_, hexec, lossKeeps_of_frame rfl (Device.tickTo_fw ..) (Device.tickTo_regs ..) (Device.tickTo_chans ..), congrArg (·.clk.under) htick,
    Device.tickTo_evts ..⟩

/-- A reference that was present: from a state that steers on it to HOLDOVER. -/
theorem lossOfPresent (h : s.dev.clk.refPresent = true) : Completes .referenceLost s fun u =>
    let c := s.dev.clk
    LossKeeps s u ∧ (u.dev.evt evClk).bits.getLsbD clkRefLost = true ∧
    (c.under = .locked ∨ c.under = .slewing ∨ c.under = .awaitStep →
      u.dev.clk.under = .holdover ∧ u.dev.clk.due = c.due.filter (fun x => x.kind != 0) ∧
      (u.dev.evt evClk).bits.getLsbD clkHoldover = true) ∧
    (c.under = .free ∨ c.under = .acquiring ∨ c.under = .holdover ∨ c.under = .held →
      u.dev.clk.under = c.under ∧ u.dev.clk.due = c.due) := by
  have hexec := exec_referenceLost hgone
  have htick := Device.tickTo_eq s.dev.clk.lossAt s.dev
  have hp : (s.dev.tickTo s.dev.clk.lossAt).clk.refPresent = true := (congrArg (·.clk.refPresent) htick).trans h
  let e := (s.dev.tickTo s.dev.clk.lossAt).absent.raise evClk (ebit clkRefLost)
  have hclk : e.clk = (s.dev.tickTo s.dev.clk.lossAt).absent.clk := Device.raise_clk ..
  have hunder : e.clk.under = s.dev.clk.under := by rw [hclk]; exact congrArg (·.clk.under) htick
  have hdue : e.clk.due = s.dev.clk.due := by rw [hclk]; exact congrArg (·.clk.due) htick
  have hbit : (e.evt evClk).bits.getLsbD clkRefLost = true := Device.raise_bit (by decide) _
  have hfw : e.fw = s.dev.fw := (Device.raise_fw ..).trans (Device.tickTo_fw ..)
  have hregs : e.regs = s.dev.regs := (Device.raise_regs ..).trans (Device.tickTo_regs ..)
  have hchans : e.chans = s.dev.chans := (Device.raise_chans ..).trans (Device.tickTo_chans ..)
  have hdev : (s.dev.tickTo s.dev.clk.lossAt).refLost = if e.clk.under.steers then e.holdover else e := by
    rw [Device.refLost_eq, hp]
    rfl
  rw [hdev] at hexec
  generalize e = e at hexec hclk hunder hdue hbit hfw hregs hchans
  cases hs : e.clk.under.steers with
  | true =>
    rw [hs, if_pos rfl] at hexec
    obtain ⟨h1, h2, h3⟩ := e.holdover_due
    have hkeep := e.holdover_grows
    refine ⟨_, hexec, lossKeeps_of_frame ?_ ((Device.holdover_fw _).trans hfw) ((congrArg (·.2.regs) hkeep.same).trans hregs)
      ((congrArg (·.2.chans) hkeep.same).trans hchans), hkeep.bits _ _ hbit, fun _ => ⟨h2, h1.trans (by rw [hdue]), h3⟩, fun hno => ?_⟩
    · exact (congrArg (·.1) hkeep.same).trans (congrArg (·.undisciplined) hclk)
    · rw [hunder] at hs
      rcases hno with h | h | h | h <;> rw [h] at hs <;> cases hs
  | false =>
    rw [hs, if_neg Bool.false_ne_true] at hexec
    refine ⟨_, hexec, lossKeeps_of_frame (congrArg (·.undisciplined) hclk) hfw hregs hchans, hbit, fun hyes => ?_, fun _ => ⟨hunder, hdue⟩⟩
    rw [hunder] at hs
    exact absurd ((Disc.steers_iff _).mpr hyes) (hs ▸ Bool.false_ne_true)

end lost

/-- Settles O19: an edge by the input it belongs to and the discipline it meets, and the loss by whether the reference was present. -/
theorem referencesSteerAndAreLost : Obligations.ReferencesSteerAndAreLost := by
  unfold Obligations.ReferencesSteerAndAreLost
  refine ⟨?_, fun s => ?_⟩
  · intro s pps t64 steer hcount c selected back measured
    refine ⟨fun hsel hexp => ?_, fun hno => edgeOfOther steer hcount ?_⟩
    · have hsel' : c.selects pps = true := (c.selects_iff pps).mpr hsel
      refine ⟨fun h => edgeSteers steer hcount hsel' hexp ((Disc.steers_iff _).mpr h), fun h hno => edgeAcquires steer hcount hsel' hexp h hno,
        fun h hb hc ht => edgeCaptures steer hcount hsel' hexp h hb hc ht, fun h hb => edgeReturns steer hcount hsel' hexp h hb,
        fun ⟨h, hp⟩ => edgeMeasures steer hcount hsel' hexp ((Disc.waits_iff _).mpr h) hp⟩
    · refine hno.imp_left fun h => ?_
      cases hs : c.selects pps with
      | true => exact absurd ((c.selects_iff pps).mp hs) h
      | false => rfl
  · intro c t same
    exact ⟨fun h => if_neg (h ▸ Bool.false_ne_true), fun hgone => ⟨lossOfAbsent hgone, lossOfPresent hgone⟩⟩

end Sys2Proof.Machine
end

section
namespace Sys2Proof.Machine

/-! O20: a step of device time moves the instant since which a posted access waits, which stands with the registers. -/

/-- Device time at 0, a `time.set` step of 48 ticks due at once, and a posted access under way. -/
def steppingAccess : State :=
  { State.reset with dev := { State.reset.dev with
      clk := { Clock.reset with counting := true, due := [⟨0, 1, 3072, 0, none⟩] }
      regs := { Regs.reset with posted := [(0, { Posted.init with busy := true, since := 1000 })] } } }

theorem steppingAccess_nextStep : steppingAccess.dev.nextStep = some ⟨0, 1, 3072, 0, none⟩ := by decide

/-- The device after the step. -/
def steppedAccess : Device := steppingAccess.dev.step_ ⟨0, 1, 3072, 0, none⟩

theorem exec_steppingAccess : exec .timeStep steppingAccess = .next { steppingAccess with dev := steppedAccess } := by
  change execTimeStep steppingAccess = _
  rw [execTimeStep, steppingAccess_nextStep]
  rfl

theorem steppedAccess_posted : steppedAccess.regs.posted = [(0, { Posted.init with busy := true, since := 1048 })] := by decide

/-- Refutes O20: the instant at which a posted access was launched moves with the step. -/
theorem not_deviceTimeStepsAndSlews : ¬ Obligations.DeviceTimeStepsAndSlews := by
  unfold Obligations.DeviceTimeStepsAndSlews
  rintro ⟨hstep, -⟩
  obtain ⟨u, hu, delta, -, -, -, -, -, -, -, -, -, -, -, -, hregs⟩ := hstep steppingAccess _ rfl steppingAccess_nextStep
  obtain rfl : { steppingAccess with dev := steppedAccess } = u := Host.Outcome.next.inj (exec_steppingAccess.symm.trans hu)
  have hposted : steppedAccess.regs.posted = [(0, { Posted.init with busy := true, since := 1000 })] := congrArg Regs.posted hregs
  exact absurd (steppedAccess_posted.symm.trans hposted) (by decide)

end Sys2Proof.Machine
end

section
namespace Sys2Proof.Machine

/-! Writes of the register map: which function of the device a write is, by its address. O40 and O41. -/

/-! ### A write outside the mailboxes -/

section write
variable {s : State} {a : Access} (hwf : a.wf = true) (hboot : s.dev.pw.booted = true)
include hwf hboot

theorem State.write_word (hreg : mbxReg (baseOf a.addr) = none) (hbuf : mbxBuf (baseOf a.addr) = none) :
    s.write a = { s with dev := s.dev.writeWord (wordAccess a) } := by
  unfold State.write
  extract_lets b
  have hb : b = wordAccess a := rfl
  have hbwf : (wordAccess a).wf = true := hwf
  simp [hb, hboot, hbwf, hreg, hbuf]

theorem State.writeReg_word (hreg : mbxReg (baseOf a.addr) = none) (hbuf : mbxBuf (baseOf a.addr) = none) :
    s.writeReg a = { s with dev := s.dev.writeWord (wordAccess a) } := by
  have hrings : s.rings a = none := by rw [State.rings, hreg]
  rw [State.writeReg, hrings, State.write_word hwf hboot hreg hbuf]

end write

/-- The event registers lie apart from the mailboxes. -/
theorem evtAt_range {base i : Nat} (h : evtAt base = some i) : 0x1010 ≤ base ∧ base ≤ 0x1064 := by
  unfold evtAt at h
  split at h
  · omega
  · split at h
    · omega
    · cases h

theorem mbxReg_none {base : Nat} (h : base < 0x100 ∨ 0x200 ≤ base) : mbxReg base = none := if_neg (by omega)
theorem mbxBuf_none {base : Nat} (h : base < 0x10000 ∨ 0x12000 ≤ base) : mbxBuf base = none := if_neg (by omega)

theorem Device.writeWord_evt {a : Access} {i : Nat} (h : evtAt (baseOf a.addr) = some i) (d : Device) : d.writeWord a =
    if aliasOf a.addr ≠ 0 then d.violate kindAlias a else { d with evts := tmod Evt.init d.evts i (Evt.clear a.value) } := by
  simp only [Device.writeWord, h]

/-- A command that writes an event register. -/
theorem exec_eventWrite {s : State} {a : Access} {c : Instr} {i : Nat} (hc : c = .eventClear a ∨ c = .registerWrite (.one a)) (hwf : a.wf = true)
    (hboot : s.dev.pw.booted = true) (h : evtAt (baseOf a.addr) = some i) : exec c s = .next { s with
      dev := if aliasOf a.addr ≠ 0 then s.dev.violate kindAlias (wordAccess a)
        else { s.dev with evts := tmod Evt.init s.dev.evts i (Evt.clear a.value) } } := by
  obtain ⟨hlo, hhi⟩ := evtAt_range h
  have hwrite := State.writeReg_word hwf hboot (mbxReg_none (.inr (by omega))) (mbxBuf_none (.inl (by omega)))
  have hword : (wordAccess a).value = a.value := rfl
  rw [Device.writeWord_evt (by rw [wordAccess_baseOf]; exact h), wordAccess_aliasOf, hword] at hwrite
  rcases hc with rfl | rfl
  · refine (if_pos ?_ : execEventClear a s = .next (s.writeReg a)).trans (congrArg _ hwrite)
    change (evtAt (baseOf a.addr)).isSome = true
    rw [h]
    rfl
  · exact congrArg Host.Outcome.next hwrite

/-- A violation shows in `EVT_VIOL` and in no other event register. -/
theorem Device.violate_evt_ne (kind : BitVec 3) (a : Access) (d : Device) {k : Nat} (hk : k ≠ evViol) : (d.violate kind a).evt k = d.evt k := by
  unfold Device.violate
  extract_lets port op v latched v' d1
  by_cases hb : ebit kind.toNat &&& evtMask evViol = 0#24
  · rw [Device.raise, if_pos hb]
    rfl
  · rw [Device.evt_raise hb, if_neg hk]
    rfl

theorem Evt.clear_seq (v : Word) (e : Evt) : (e.clear v).seq = e.seq := by
  unfold Evt.clear
  split <;> rfl

theorem Evt.clear_cycle (v : Word) (e : Evt) : (e.clear v).cycle = none := by
  unfold Evt.clear
  split <;> rfl

theorem Evt.clear_bits (v : Word) (e : Evt) :
    (e.clear v).bits = if v.extractLsb' 24 8 = e.seq then e.bits &&& ~~~(v.extractLsb' 0 24) else e.bits := by
  unfold Evt.clear
  split <;> rfl

/-- Settles O40: what a register records, and what a write clears. -/
theorem eventRegistersClearBySequence : Obligations.EventRegistersClearBySequence := by
  unfold Obligations.EventRegistersClearBySequence
  refine ⟨fun e => ⟨?_, ?_⟩, fun d i bits h hb => ?_, fun e v bits n => ?_, fun s a c i hc hwf hboot hi h => ?_⟩
  · exact BitVec.extractLsb'_append_eq_left
  · exact BitVec.extractLsb'_append_eq_right
  · rw [Device.evt_raise hb, if_pos rfl]
    refine ⟨fun hother => if_neg ?_, fun hcount hsame => if_pos ?_, fun hcount => if_pos hcount, rfl⟩
    · rw [Bool.and_eq_true, beq_iff_eq]
      rintro ⟨hsome, heq⟩
      rcases hother with hnone | hne
      · rw [← heq, hnone] at hsome
        cases hsome
      · exact hne heq
    · rw [hsame, Clock.cycle, if_pos hcount]
      simp
  · refine ⟨?_, ?_⟩
    · refine BitVec.eq_of_getLsbD_eq fun j hj => ?_
      simp only [Evt.record, BitVec.getLsbD_and, BitVec.getLsbD_or]
      cases bits.getLsbD j <;> simp
    · rw [Evt.record, Evt.clear_cycle, Evt.clear_seq]
      refine if_neg ?_
      rw [Bool.and_eq_true, beq_iff_eq]
      rintro ⟨hsome, rfl⟩
      cases hsome
  · have hexec := exec_eventWrite hc hwf hboot hi
    refine ⟨fun hal => ?_, fun hal => ?_⟩
    · rw [if_neg (not_not.mpr hal)] at hexec
      have hevt (k : Nat) := tget_tmod h i k (Evt.clear a.value)
      have hsame := (hevt i).trans (if_pos rfl)
      exact ⟨_, hexec, ⟨rfl, rfl⟩, (congrArg Evt.seq hsame).trans (Evt.clear_seq _ _), (congrArg Evt.bits hsame).trans (Evt.clear_bits _ _),
        fun k hk => (hevt k).trans (if_neg hk), rfl⟩
    · rw [if_pos hal] at hexec
      obtain ⟨u, hu, hdev, -, hcnt, hbit, -, hframe⟩ := completes_of_violate (by decide) hexec
      obtain rfl := Host.Outcome.next.inj (hu.symm.trans hexec)
      exact ⟨_, hu, hdev, hcnt, hbit, fun k hk => Device.violate_evt_ne _ _ _ hk, hframe⟩

/-! ### Frames of the control port -/

theorem cpNext_cart {a : BitVec 24} (h : baseOf a = 0x030000) : cpNext a = a := if_pos h

theorem cpNext_toNat {a : BitVec 24} (h : baseOf a ≠ 0x030000) : (cpNext a).toNat = a.toNat / 2 ^ 22 * 2 ^ 22 + (a.toNat + 4) % 2 ^ 22 := by
  have happ : cpNext a = a.extractLsb' 22 2 ++ (a.setWidth 22 + 4#22) := if_neg h
  have hlt : a.toNat < 2 ^ 24 := a.isLt
  have hlow : (a.setWidth 22 + 4#22).toNat = (a.toNat + 4) % 2 ^ 22 := by simp [BitVec.toNat_add]
  have hhigh : (a.extractLsb' 22 2).toNat = a.toNat / 2 ^ 22 := by
    rw [BitVec.extractLsb'_toNat, Nat.shiftRight_eq_div_pow]
    omega
  rw [happ, BitVec.toNat_append, ← Nat.shiftLeft_add_eq_or_of_lt (by rw [hlow]; exact Nat.mod_lt _ (by decide)), hlow, hhigh, Nat.shiftLeft_eq]

/-- From word to word the address goes on by 4 within its 22 bits, but stays at `CART_FIFO`. -/
theorem cpNext_spec (a : BitVec 24) : aliasOf (cpNext a) = aliasOf a ∧ (baseOf a = 0x030000 → cpNext a = a) ∧
    (baseOf a ≠ 0x030000 → baseOf (cpNext a) = (baseOf a + 4) % 2 ^ 22) := by
  refine ⟨?_, cpNext_cart, fun h => ?_⟩
  · by_cases h : baseOf a = 0x030000
    · rw [cpNext_cart h]
    · simp only [aliasOf, cpNext_toNat h]
      omega
  · simp only [baseOf, cpNext_toNat h]
    omega

theorem CpOpcode.writes_length (o : CpOpcode) (op : Byte) (n : Nat) (a : BitVec 24) (l : List (BitVec 4)) : (o.writes op n a l).length = n := by
  induction n generalizing a l with
  | zero => rfl
  | succ n ih => rw [CpOpcode.writes, List.length_cons, ih]

theorem CpOpcode.writes_head (o : CpOpcode) (op : Byte) (n : Nat) (a : BitVec 24) (l : List (BitVec 4)) :
    ∀ x ∈ (o.writes op n a l).head?, x.addr = a ∧ x.opcode = op ∧ x.port = .control := by
  cases n with
  | zero => simp [CpOpcode.writes]
  | succ n =>
    intro x hx
    obtain rfl : _ = x := Option.some.inj hx
    exact ⟨rfl, rfl, rfl⟩

theorem CpOpcode.writes_next (o : CpOpcode) (op : Byte) (n : Nat) (a : BitVec 24) (l : List (BitVec 4)) (k : Nat) (x y : Access)
    (hx : (o.writes op n a l)[k]? = some x) (hy : (o.writes op n a l)[k + 1]? = some y) : y.addr = cpNext x.addr := by
  induction n generalizing a l k with
  | zero => simp [CpOpcode.writes] at hx
  | succ n ih =>
    rw [CpOpcode.writes, List.getElem?_cons_succ] at hy
    cases k with
    | zero =>
      obtain rfl : _ = x := Option.some.inj hx
      rw [← List.head?_eq_getElem?] at hy
      exact (o.writes_head op n _ _ y hy).1
    | succ k => exact ih _ _ k (by rwa [CpOpcode.writes, List.getElem?_cons_succ] at hx) hy

/-- A frame is logged by its opcode, or by a last word cut short. -/
theorem cpBad_spec {clocks : List (BitVec 4)} (h : 8 ≤ clocks.length) : (cpOpcode (cpOp clocks) = none → cpBad clocks = true) ∧
    (∀ o, cpOpcode (cpOp clocks) = some o → cpBad clocks = (o.write && (clocks.length - (32 + o.dummy)) % o.wordClocks != 0)) := by
  refine ⟨fun ho => ?_, fun o ho => ?_⟩
  · simp [cpBad, h, ho]
  · simp [cpBad, h, ho, CpOpcode.data]

/-- The access that a bad frame is logged as. -/
def frameAccess (clocks : List (BitVec 4)) : Access := ⟨.control, cpOp clocks, cpAddr clocks, 0#32⟩

theorem Device.violate_viol (kind : BitVec 3) (a : Access) (d : Device) : (d.violate kind a).regs =
    { d.regs with viol := (d.violate kind a).regs.viol } := by
  simp [Device.violate]

theorem Device.violate_latched {kind : BitVec 3} {a : Access} {d : Device} (h : (d.evt evViol).bits &&& 0x3F#24 ≠ 0#24) :
    (d.violate kind a).regs.viol = { d.regs.viol with
      count := if d.regs.viol.count = 0xFFFF#16 then d.regs.viol.count else d.regs.viol.count + 1#16 } := by
  simp [Device.violate, h]

/-- Settles O41: the words of a frame in order, and what a bad one is logged as. -/
theorem violationsLatchTheFirst : Obligations.ViolationsLatchTheFirst := by
  unfold Obligations.ViolationsLatchTheFirst
  refine ⟨fun clocks h => cpBad_spec h, cpNext_spec, fun s opcode rest hboot => ?_⟩
  intro clocks t
  have hframe : s.writeFrame clocks = t := rfl
  refine ⟨fun ho => ?_, fun hgood => ?_, fun o ho hw => ?_, fun hgood => if_neg ?_, fun hbad => ?_⟩
  · have hnone : cpWrites clocks = [] := by simp [cpWrites, ho]
    change s.writes (cpWrites clocks) = s
    rw [hnone]
    rfl
  · change (if cpBad clocks then Host.Outcome.next s else .next (s.writeFrame clocks)) = _
    rw [hgood]
    rfl
  · have hwrites : cpWrites clocks = o.writes (cpOp clocks) (o.whole clocks) (cpAddr clocks) (o.data clocks) := by simp [cpWrites, ho, hw]
    rw [hwrites, CpOpcode.writes_length]
    refine ⟨by rw [CpOpcode.whole, CpOpcode.data, List.length_drop], o.writes_head _ _ _ _, fun k x y => o.writes_next _ _ _ _ k x y⟩
  · change ¬(s.dev.pw.booted && cpBad clocks) = true
    rw [hgood, Bool.and_false]
    exact Bool.false_ne_true
  · have hexec : exec (.badFrame opcode rest) s = .next { t with dev := t.dev.violate kindFrame (frameAccess clocks) } := by
      refine (if_pos ?_).trans ?_
      · change (s.dev.pw.booted && cpBad clocks) = true
        rw [hboot, hbad]
        rfl
      · rfl
    refine ⟨_, hexec, rfl, Device.violate_bit (by decide) _ _, Device.violate_cnt _ _ _, fun h => ?_, fun h hc => ?_, ?_, ?_⟩
    · simp [Device.violate, h, frameAccess, kindFrame]
    · exact (Device.violate_latched h).trans (by rw [if_neg hc])
    · have h := Device.violate_frame kindFrame (frameAccess clocks) t.dev
      exact congrArg (fun d : Device => { d with regs := t.dev.regs }) h
    · exact (congrArg (fun r : Regs => { r with viol := t.dev.regs.viol }) (Device.violate_viol kindFrame (frameAccess clocks) t.dev)).trans rfl

end Sys2Proof.Machine
end

section
namespace Sys2Proof.Machine

/-! O43: the control registers in all four forms, and the reads that have an effect. -/

/-- The word a write leaves in the fields of a mask: written, set, cleared or toggled (R302). -/
theorem aliased_eq (al : Nat) (mask old v : Word) : aliased al mask old v =
    if al = 0 then (old &&& ~~~mask) ||| (v &&& mask) else if al = 1 then old ||| (v &&& mask)
    else if al = 2 then old &&& ~~~(v &&& mask) else old ^^^ (v &&& mask) := by
  unfold aliased
  split
  · rfl
  · rfl
  · rfl
  · next h0 h1 h2 => rw [if_neg h0, if_neg h1, if_neg h2]

section at_
variable {a : Access} (d : Device)

theorem Device.writeWord_intMask (h : baseOf a.addr = 0x1100) : d.writeWord a =
    { d with regs := { d.regs with intMask := (aliased (aliasOf a.addr) 0x1FFF#32 (d.regs.intMask.setWidth 32) a.value).setWidth 13 } }.rewritten 0x1100 := by
  simp only [Device.writeWord, h]
  rfl

theorem Device.writeWord_bellCtl (h : baseOf a.addr = 0x2000) : d.writeWord a = (d.bellCtlWrite a).rewritten 0x2000 := by
  simp only [Device.writeWord, h]
  rfl

theorem Device.writeWord_dlCtl (h : baseOf a.addr = 0x7000) : d.writeWord a = (d.dlCtlWrite a).rewritten 0x7000 := by
  simp only [Device.writeWord, h]
  rfl

omit d in
/-- The read-only registers lie apart from every register that a write acts on. -/
theorem roRegs_apart {base : Nat} (h : roRegs.contains base = true) : evtAt base = none ∧ isTile base = false ∧ mbxReg base = none ∧
    mbxBuf base = none ∧ base ≠ 0x1100 ∧ base ≠ 0x2000 ∧ base ≠ 0x5000 ∧ base ≠ 0x5004 ∧ base ≠ 0x5008 ∧ base ≠ 0x7000 := by
  have hall : ∀ b ∈ roRegs, evtAt b = none ∧ isTile b = false ∧ mbxReg b = none ∧ mbxBuf b = none ∧ b ≠ 0x1100 ∧ b ≠ 0x2000 ∧ b ≠ 0x5000 ∧
      b ≠ 0x5004 ∧ b ≠ 0x5008 ∧ b ≠ 0x7000 := by decide
  exact hall base (List.contains_iff_mem.mp h)

theorem Device.writeWord_ro (h : roRegs.contains (baseOf a.addr) = true) : d.writeWord a = d.ignoredWrite a := by
  obtain ⟨hevt, htile, -, -, h1, h2, h3, h4, h5, h6⟩ := roRegs_apart h
  simp only [Device.writeWord, hevt, htile, h, Bool.false_eq_true, if_false, Bool.true_or, if_true]

end at_

section write
variable {s : State} {a : Access} (hwf : a.wf = true) (hboot : s.dev.pw.booted = true)
include hwf hboot

/-- INT_MASK takes its fields. -/
theorem intMaskWrite (h : baseOf a.addr = 0x1100) : exec (.registerWrite (.one a)) s = .next { s with
    dev := { s.dev with regs := { s.dev.regs with
      struck := s.dev.regs.struck.filter fun x => baseOf x.addr != baseOf a.addr
      intMask := (aliased (aliasOf a.addr) 0x1FFF#32 (s.dev.regs.intMask.setWidth 32) a.value).setWidth 13 } } } := by
  have hwrite := State.writeReg_word hwf hboot (mbxReg_none (.inr (by omega))) (mbxBuf_none (.inl (by omega)))
  rw [Device.writeWord_intMask s.dev ((wordAccess_baseOf a).trans h), wordAccess_aliasOf] at hwrite
  refine (congrArg Host.Outcome.next hwrite).trans ?_
  rw [h]
  rfl

/-- A read-only register logs a write. -/
theorem readOnlyWrite (h : roRegs.contains (baseOf a.addr) = true) : Completes (.registerWrite (.one a)) s fun u =>
    (DeviceOnly s u ∧ u.dev.cnt.violations = s.dev.cnt.violations + 1#32 ∧
      (u.dev.evt evViol).bits.getLsbD (if aliasOf a.addr = 0 then 0 else 3) = true) ∧
    { u.dev with evts := s.dev.evts, cnt := s.dev.cnt, regs := { u.dev.regs with viol := s.dev.regs.viol } } = s.dev := by
  obtain ⟨-, -, hreg, hbuf, -⟩ := roRegs_apart h
  have hwrite := State.writeReg_word hwf hboot hreg hbuf
  rw [Device.writeWord_ro s.dev (by rw [wordAccess_baseOf]; exact h), Device.ignoredWrite, wordAccess_aliasOf] at hwrite
  have hexec := (congrArg Host.Outcome.next hwrite : exec (.registerWrite (.one a)) s = _)
  by_cases hal : aliasOf a.addr = 0
  · rw [if_pos hal] at hexec ⊢
    obtain ⟨u, hu, hdev, -, hcnt, hbit, -, hframe⟩ := completes_of_violate (c := .registerWrite (.one a)) (by decide) hexec
    exact ⟨u, hu, ⟨hdev, congrArg Counters.violations hcnt, hbit⟩, hframe⟩
  · rw [if_neg hal] at hexec ⊢
    obtain ⟨u, hu, hdev, -, hcnt, hbit, -, hframe⟩ := completes_of_violate (c := .registerWrite (.one a)) (by decide) hexec
    exact ⟨u, hu, ⟨hdev, congrArg Counters.violations hcnt, hbit⟩, hframe⟩

/-! ### `BELL_CTL` -/

/-- The sources that a write rings. -/
def bellRung (a : Access) : BitVec 5 := (if a.value.getLsbD 0 then srcRing else 0#5) ||| (if a.value.getLsbD 1 then srcSnap else 0#5)

omit hwf hboot in
theorem bellRung_bits (a : Access) : (bellRung a).getLsbD 0 = a.value.getLsbD 0 ∧ (bellRung a).getLsbD 4 = a.value.getLsbD 1 ∧ bellRung a &&& 0xE#5 = 0#5 := by
  unfold bellRung
  cases a.value.getLsbD 0 <;> cases a.value.getLsbD 1 <;> decide

omit hwf hboot in
theorem bellRung_eq_zero (a : Access) : bellRung a = 0#5 ↔ a.value &&& 3#32 = 0#32 := by
  have hthree : ∀ j : Fin 32, (3#32).getLsbD j.val = decide (j.val < 2) := by decide
  have hmask : a.value &&& 3#32 = 0#32 ↔ a.value.getLsbD 0 = false ∧ a.value.getLsbD 1 = false := by
    refine ⟨fun h => ?_, fun ⟨h0, h1⟩ => BitVec.eq_of_getLsbD_eq fun j hj => ?_⟩
    · have hbit (j : Fin 32) : (a.value.getLsbD j.val && decide (j.val < 2)) = false := by
        rw [← hthree, ← BitVec.getLsbD_and, h]
        exact BitVec.getLsbD_zero
      exact ⟨by simpa using hbit 0, by simpa using hbit 1⟩
    · rw [BitVec.getLsbD_and, hthree ⟨j, hj⟩, BitVec.getLsbD_zero]
      match j with
      | 0 => rw [h0]; rfl
      | 1 => rw [h1]; rfl
      | j + 2 => simp
  rw [hmask]
  unfold bellRung
  cases a.value.getLsbD 0 <;> cases a.value.getLsbD 1 <;> decide

/-- The RW fields of BELL_CTL after a write. -/
def Bell.written (w : Word) (b : Bell) : Bell := { b with inEdge := w.getLsbD 9, inEn := w.getLsbD 8, outSrc := w.extractLsb' 4 4 }

omit hwf hboot in
theorem Device.bellCtlWrite_eq (a : Access) (d : Device) : d.bellCtlWrite a =
    let e : Device := { d with bell := d.bell.written (aliased (aliasOf a.addr) 0x3F0#32 d.bell.ctl a.value) }
    if aliasOf a.addr = 0 ∧ bellRung a ≠ 0#5 then e.ringBell (d.clk.busTime + 16) (bellRung a) else e := rfl

theorem exec_bellWrite (h : baseOf a.addr = 0x2000) {c : Instr}
    (hc : c = .bellRing a ∨ c = .registerWrite (.one a) ∨ (c = .bellSnap a ∧ a.value.getLsbD 1 = true)) :
    exec c s = .next { s with dev := (s.dev.bellCtlWrite (wordAccess a)).rewritten (baseOf a.addr) } := by
  have hwrite := State.writeReg_word (s := s) hwf hboot (mbxReg_none (.inr (by omega))) (mbxBuf_none (.inl (by omega)))
  rw [Device.writeWord_bellCtl s.dev ((wordAccess_baseOf a).trans h)] at hwrite
  rw [h, ← hwrite]
  rcases hc with rfl | rfl | ⟨rfl, h1⟩
  · exact if_pos (by rw [h]; rfl)
  · rfl
  · exact (if_pos h1).trans (if_pos (by rw [h]; rfl))

/-- A write of BELL_CTL: its fields, and the Bell that a normal write of RING or SNAP rings in the next BUS cycle. -/
theorem bellWrite (h : baseOf a.addr = 0x2000) {c : Instr}
    (hc : c = .bellRing a ∨ c = .registerWrite (.one a) ∨ (c = .bellSnap a ∧ a.value.getLsbD 1 = true)) :
    let w := aliased (aliasOf a.addr) 0x3F0#32 s.dev.bell.ctl a.value
    Completes c s fun u =>
      DeviceOnly s u ∧ (u.dev.bell.inEdge = w.getLsbD 9 ∧ u.dev.bell.inEn = w.getLsbD 8 ∧ u.dev.bell.outSrc = w.extractLsb' 4 4) ∧
      { u.dev with bell := s.dev.bell, regs := s.dev.regs } = s.dev ∧
      u.dev.regs = { s.dev.regs with struck := s.dev.regs.struck.filter fun x => baseOf x.addr != baseOf a.addr } ∧
      { u.dev.bell with inEdge := s.dev.bell.inEdge, inEn := s.dev.bell.inEn, outSrc := s.dev.bell.outSrc, due := s.dev.bell.due } = s.dev.bell ∧
      (aliasOf a.addr ≠ 0 ∨ a.value &&& 3#32 = 0#32 → u.dev.bell.due = s.dev.bell.due) ∧
      (aliasOf a.addr = 0 → a.value &&& 3#32 ≠ 0#32 →
        ∃ src, u.dev.bell.due = bellInsert ⟨s.dev.clk.time / 16 * 16 + 16, src⟩ s.dev.bell.due ∧
          src.getLsbD 0 = a.value.getLsbD 0 ∧ src.getLsbD 4 = a.value.getLsbD 1 ∧ src &&& 0xE#5 = 0#5) := by
  intro w
  have hexec := exec_bellWrite (s := s) hwf hboot h hc
  have hw : aliased (aliasOf (wordAccess a).addr) 0x3F0#32 s.dev.bell.ctl (wordAccess a).value = w := by rw [wordAccess_aliasOf]; rfl
  have hr : bellRung (wordAccess a) = bellRung a := rfl
  rw [Device.bellCtlWrite_eq, hw, hr, wordAccess_aliasOf] at hexec
  by_cases hring : aliasOf a.addr = 0 ∧ bellRung a ≠ 0#5
  · rw [if_pos hring] at hexec
    obtain ⟨hal, hne⟩ := hring
    refine ⟨_, hexec, ⟨rfl, rfl⟩, ⟨rfl, rfl, rfl⟩, rfl, rfl, rfl, fun hno => ?_, fun _ _ => ⟨_, rfl, bellRung_bits a⟩⟩
    rcases hno with hno | hno
    · exact absurd hal hno
    · exact absurd ((bellRung_eq_zero a).mpr hno) hne
  · rw [if_neg hring] at hexec
    exact ⟨_, hexec, ⟨rfl, rfl⟩, ⟨rfl, rfl, rfl⟩, rfl, rfl, rfl, fun _ => rfl,
      fun hal hne => absurd ⟨hal, fun h0 => hne ((bellRung_eq_zero a).mp h0)⟩ hring⟩

/-! ### `DL_CTL` -/

omit hwf hboot in
/-- What a write of DL_CTL's fields leaves in the port. -/
theorem Device.dlWrite_port (v : Word) (d : Device) :
    let p := d.port
    let q := (d.dlWrite v).port
    (q.hostFailEn = v.getLsbD 8 ∧ q.txPreset = v.extractLsb' 4 4 ∧ q.rxEnable = v.getLsbD 1 ∧
      q.forceLane = v.extractLsb' 9 3 ∧ q.enable = v.getLsbD 0 ∧
      (v.getLsbD 0 = true → p.enable = false → p.stopping = false → ∃ g, q.gridAt = some g ∧ 135168 ∣ g ∧ d.clk.time / 16 * 16 ≤ g ∧
        g < d.clk.time / 16 * 16 + 135168) ∧
      (v.getLsbD 0 = true → p.enable = false → p.stopping = true → q.stopping = false ∧ q.gridAt = p.gridAt) ∧
      (v.getLsbD 0 = false → p.enable = true → q.stopping = true ∧ q.gridAt = p.gridAt) ∧
      (v.getLsbD 0 = p.enable → q.stopping = p.stopping ∧ q.gridAt = p.gridAt)) ∧
    q.force = v.getLsbD 12 := by
  intro p q
  have hq : q = (let p := { p with force := v.getLsbD 12, forceLane := v.extractLsb' 9 3, hostFailEn := v.getLsbD 8,
                                   txPreset := v.extractLsb' 4 4, rxEnable := v.getLsbD 1 }
    if v.getLsbD 0 && !p.enable then
      if p.stopping then { p with enable := true, stopping := false }
      else { p with enable := true, gridAt := some (((d.clk.busTime + markerTicks - 1) / markerTicks * markerTicks : Nat) : Int) }
    else if !v.getLsbD 0 && p.enable then { p with enable := false, stopping := true }
    else p) := rfl
  rw [hq]
  dsimp only
  have hgrid : ∃ g : Int, (((d.clk.busTime + markerTicks - 1) / markerTicks * markerTicks : Nat) : Int) = g ∧ 135168 ∣ g ∧
      ((d.clk.time / 16 * 16 : Nat) : Int) ≤ g ∧ g < ((d.clk.time / 16 * 16 : Nat) : Int) + 135168 := by
    refine ⟨_, rfl, ?_, ?_, ?_⟩ <;>
    · simp only [markerTicks, Clock.busTime]
      omega
  cases hv : v.getLsbD 0 <;> cases he : p.enable
  · simp
  · simp
  · cases hs : p.stopping
    · obtain ⟨g, hg, hdvd, hlo, hhi⟩ := hgrid
      have hlo' : (d.clk.time : Int) / 16 * 16 ≤ g := by exact_mod_cast hlo
      have hhi' : g < (d.clk.time : Int) / 16 * 16 + 135168 := by exact_mod_cast hhi
      simp [hg, hdvd, hlo', hhi']
    · simp
  · simp

theorem exec_dlWrite (h : baseOf a.addr = 0x7000) {c : Instr}
    (hc : c = .registerWrite (.one a) ∨ c = .dlEnable a ∨ (c = .dlForce a ∧ a.value.getLsbD 12 = true) ∨
      (c = .dlDisable a ∧ (aliased (aliasOf a.addr) 0x1FF3#32 s.dev.port.ctl a.value).getLsbD 0 = false)) :
    exec c s = .next { s with dev := (s.dev.dlCtlWrite (wordAccess a)).rewritten (baseOf a.addr) } := by
  have hwrite := State.writeReg_word (s := s) hwf hboot (mbxReg_none (.inr (by omega))) (mbxBuf_none (.inl (by omega)))
  rw [Device.writeWord_dlCtl s.dev ((wordAccess_baseOf a).trans h)] at hwrite
  rw [h, ← hwrite]
  have hrow : writeRow (· == 0x7000) a s = .next (s.writeReg a) := if_pos (by rw [h]; rfl)
  rcases hc with rfl | rfl | ⟨rfl, h1⟩ | ⟨rfl, h1⟩
  · rfl
  · exact hrow
  · exact (if_pos h1).trans hrow
  · refine (if_neg ?_ : execDlDisable a s = writeRow (· == 0x7000) a s).trans hrow
    change ¬(aliased (aliasOf a.addr) 0x1FF3#32 s.dev.port.ctl a.value).getLsbD 0 = true
    rw [h1]
    exact Bool.false_ne_true

omit hwf hboot in
theorem at_bit12 {pos v : Nat} (h : v * 2 ^ pos < 2 ^ 12) : (at_ pos v).getLsbD 12 = false := by
  rw [at_, BitVec.getLsbD_ofNat, Nat.testBit_lt_two_pow h, Bool.and_false]

omit hwf hboot in
theorem bitAt_bit12 {pos : Nat} (h : 1 * 2 ^ pos < 2 ^ 12) (b : Bool) : (bitAt pos b).getLsbD 12 = false := by
  cases b
  · simp [bitAt]
  · exact at_bit12 h

omit hwf hboot in
theorem laneCode_lt (n : Nat) : laneCode n < 4 := by
  unfold laneCode
  split <;> decide

omit hwf hboot in
/-- FORCE stands in bit 12 of DL_CTL, and no other field does. -/
theorem PortSt.ctl_force (p : PortSt) : p.ctl.getLsbD 12 = p.force := by
  have hforce : (bitAt 12 p.force).getLsbD 12 = p.force := by cases p.force <;> rfl
  have hlane := p.forceLane.isLt
  have hpreset := p.txPreset.isLt
  have hcode := laneCode_lt p.lanes
  simp only [PortSt.ctl, BitVec.getLsbD_or, hforce, at_bit12 (show p.forceLane.toNat * 2 ^ 9 < 2 ^ 12 by omega), bitAt_bit12 (show 1 * 2 ^ 8 < 2 ^ 12 by decide),
    at_bit12 (show p.txPreset.toNat * 2 ^ 4 < 2 ^ 12 by omega), at_bit12 (show laneCode p.lanes * 2 ^ 2 < 2 ^ 12 by omega),
    bitAt_bit12 (show 1 * 2 ^ 1 < 2 ^ 12 by decide), bitAt_bit12 (show 1 * 2 ^ 0 < 2 ^ 12 by decide), Bool.or_false]

/-- A write of DL_CTL that nothing holds back. -/
theorem dlCtlWrite_free (h : baseOf a.addr = 0x7000) {c : Instr}
    (hc : c = .registerWrite (.one a) ∨ c = .dlEnable a ∨ (c = .dlForce a ∧ a.value.getLsbD 12 = true) ∨
      (c = .dlDisable a ∧ (aliased (aliasOf a.addr) 0x1FF3#32 s.dev.port.ctl a.value).getLsbD 0 = false))
    (hfree : a.value.getLsbD 12 = false ∨ s.dev.regs.lockDbg = false) :
    exec c s = .next { s with dev := (s.dev.dlWrite (aliased (aliasOf a.addr) 0x1FF3#32 s.dev.port.ctl a.value)).rewritten (baseOf a.addr) } := by
  have hno : (s.dev.regs.lockDbg && (wordAccess a).value.getLsbD 12) = false := by
    change (s.dev.regs.lockDbg && a.value.getLsbD 12) = false
    rcases hfree with h | h
    · rw [h, Bool.and_false]
    · rw [h, Bool.false_and]
  rw [exec_dlWrite hwf hboot h hc, Device.dlCtlWrite]
  rw [hno, if_neg Bool.false_ne_true, wordAccess_aliasOf]
  rfl

/-- While `LOCK_DBG` is set a 1 in FORCE is ignored and logged, and the rest of the write takes effect. -/
theorem dlCtlWrite_locked (h : baseOf a.addr = 0x7000) {c : Instr}
    (hc : c = .registerWrite (.one a) ∨ c = .dlEnable a ∨ (c = .dlForce a ∧ a.value.getLsbD 12 = true) ∨
      (c = .dlDisable a ∧ (aliased (aliasOf a.addr) 0x1FF3#32 s.dev.port.ctl a.value).getLsbD 0 = false))
    (hval : a.value.getLsbD 12 = true) (hlock : s.dev.regs.lockDbg = true) :
    exec c s = .next { s with dev := ((s.dev.dlWrite (aliased (aliasOf a.addr) 0xFF3#32 s.dev.port.ctl a.value)).violate kindLocked
      (wordAccess a)).rewritten (baseOf a.addr) } := by
  have hyes : (s.dev.regs.lockDbg && (wordAccess a).value.getLsbD 12) = true := by
    change (s.dev.regs.lockDbg && a.value.getLsbD 12) = true
    rw [hlock, hval]
    rfl
  rw [exec_dlWrite hwf hboot h hc, Device.dlCtlWrite]
  rw [hyes, if_pos rfl, wordAccess_aliasOf]
  rfl

omit hwf hboot in
/-- FORCE lies outside the fields that a locked write reaches. -/
theorem aliased_locked_force (al : Nat) (old v : Word) : (aliased al 0xFF3#32 old v).getLsbD 12 = old.getLsbD 12 := by
  rw [aliased_eq]
  split
  · simp
  · split
    · simp
    · split <;> simp

end write

/-! ### Reads with an effect -/

theorem Clock.latch_same (c : Clock) (p : Port) (w : Word) : (c.latch p w).latched p = some w := by
  cases p <;> rfl

theorem Clock.latch_other (c : Clock) (w : Word) : ∀ {p q : Port}, q ≠ p → (c.latch p w).latched q = c.latched q
  | .control, .control, h | .fabric, .fabric, h | .ammond, .ammond, h => absurd rfl h
  | .control, .fabric, _ | .control, .ammond, _ | .fabric, .control, _ | .fabric, .ammond, _ | .ammond, .control, _ | .ammond, .fabric, _ => rfl

section read
variable {s : State} (hboot : s.dev.pw.booted = true)
include hboot

/-- What a read of a plain register returns and does. -/
theorem State.readReg_word {addr : BitVec 24} (p : Port) (htile : isTile (baseOf addr) = false) (hreg : mbxReg (baseOf addr) = none)
    (hbuf : mbxBuf (baseOf addr) = none) (hrw : rwReg (baseOf addr) = false) :
    s.readReg p addr =
      (Device.plainWord p (baseOf addr) (if baseOf addr = 0x30000 ∨ baseOf addr = 0x30004 then s.dev.pump s.dev.clk.time else s.dev),
        { s with dev := Device.readEffect p (baseOf addr)
                   (if baseOf addr = 0x30000 ∨ baseOf addr = 0x30004 then s.dev.pump s.dev.clk.time else s.dev) }) := by
  simp only [State.readReg, hboot, htile, State.mbxWord, hreg, hbuf, Device.liveWord, hrw, Bool.not_true, Bool.false_eq_true, if_false]

/-- `CART_FIFO` gives and removes its oldest word. -/
theorem cartFifoRead (port : Port) : Completes (.cartFifoPop (.one port)) s fun u =>
    let f := (s.dev.pump s.dev.clk.time).port.fifo
    DeviceOnly s u ∧ u.dev.port.fifo = f.tail ∧
      u.dev.regs.lastRead = tput 0#32 s.dev.regs.lastRead (portIndex port) ((f.head?.map (·.1)).getD 0#32) ∧ u.dev.fw = s.dev.fw := by
  have hread := State.readReg_word hboot (addr := 0x030000#24) port (by decide) (by decide) (by decide) (by decide)
  have hinner := Device.inner_of (Device.pump_inner s.dev.clk.time s.dev)
  obtain ⟨-, -, hregs, hfw, -⟩ := hinner
  refine ⟨_, rfl, ?_⟩
  beta_reduce
  intro f
  rw [State.readBy, hread]
  have hlast : tput 0#32 (s.dev.pump s.dev.clk.time).regs.lastRead (portIndex port) ((f.head?.map (·.1)).getD 0#32) =
      tput 0#32 s.dev.regs.lastRead (portIndex port) ((f.head?.map (·.1)).getD 0#32) := by rw [hregs]
  exact ⟨⟨rfl, rfl⟩, List.drop_one, hlast, hfw⟩

/-- `TIME_LO` gives the low word of device time and latches the high one for its port. -/
theorem timeLoRead (port : Port) : Completes (.timeLoRead (.one port)) s fun u =>
    DeviceOnly s u ∧ u.dev.regs.lastRead = tput 0#32 s.dev.regs.lastRead (portIndex port) (BitVec.ofNat 32 (s.dev.clk.time / 16 * 16)) ∧
      u.dev.clk.latched port = some (BitVec.ofNat 32 (s.dev.clk.time / 16 * 16 / 2 ^ 32)) ∧
      (∀ q, q ≠ port → u.dev.clk.latched q = s.dev.clk.latched q) ∧ { u.dev with regs := s.dev.regs, clk := s.dev.clk } = s.dev := by
  have hread := State.readReg_word hboot (addr := 0x003004#24) port (by decide) (by decide) (by decide) (by decide)
  refine ⟨_, rfl, ?_⟩
  rw [State.readBy, hread]
  exact ⟨⟨rfl, rfl⟩, rfl, Clock.latch_same .., fun q hq => Clock.latch_other _ _ hq, rfl⟩

end read

/-- Settles O43: each register's write and each read with an effect, by its rule. -/
theorem controlRegistersAct : Obligations.ControlRegistersAct := by
  unfold Obligations.ControlRegistersAct
  intro s a hwf hboot renewed al p word b fields written logged
  have hword (mask old : Word) : word mask old = aliased al mask old a.value := (aliased_eq al mask old a.value).symm
  refine ⟨fun h => ?_, readOnlyWrite hwf hboot, fun h c hc => ?_, fun h c hc => ?_, fun port => ⟨cartFifoRead hboot port, timeLoRead hboot port⟩⟩
  · rw [hword]
    exact intMaskWrite hwf hboot h
  · simp only [fields, b, hword]
    exact bellWrite hwf hboot h hc
  · simp only [hword] at hc ⊢
    refine ⟨fun hfree => ⟨_, dlCtlWrite_free hwf hboot h hc hfree, ?_⟩, fun hval hlock => ⟨_, dlCtlWrite_locked hwf hboot h hc hval hlock, ?_⟩⟩
    · obtain ⟨hwritten, hforce⟩ := Device.dlWrite_port (aliased al 0x1FF3#32 p.ctl a.value) s.dev
      exact ⟨⟨rfl, rfl⟩, rfl, rfl, hwritten, hforce⟩
    · obtain ⟨hwritten, hforce⟩ := Device.dlWrite_port (aliased al 0xFF3#32 p.ctl a.value) s.dev
      rw [aliased_locked_force, PortSt.ctl_force] at hforce
      exact ⟨⟨⟨rfl, rfl⟩, congrArg (·.violations) (Device.violate_cnt ..), Device.violate_bit (by decide) ..⟩, hwritten, hforce⟩

end Sys2Proof.Machine
end

section
namespace Sys2Proof.Machine

/-! O44: posted accesses to the field tiles, for each port and tile apart. -/

/-! ### Where an address lies -/

/-- The word at an offset of a tile's window. -/
theorem inTile {base off : Nat} (t : Fin 4) (hoff : off < 0x10000) (h : base = 0x200000 + 0x10000 * t.val + off) :
    isTile base = true ∧ tileNo base = t.val ∧ tileOff base = off ∧ 0x200000 ≤ base := by
  have ht := t.isLt
  refine ⟨?_, ?_, ?_, by omega⟩
  · simp only [isTile, Bool.and_eq_true, decide_eq_true_eq]
    omega
  · unfold tileNo
    omega
  · unfold tileOff
    omega

theorem evtAt_tile {base : Nat} (h : 0x200000 ≤ base) : evtAt base = none := by
  cases he : evtAt base with
  | none => rfl
  | some i => have := evtAt_range he; omega

/-! ### One posted access among the others -/

theorem postKey_eq_iff {p q : Port} {t k : Nat} (ht : t < 4) (hk : k < 4) : postKey q k = postKey p t ↔ q = p ∧ k = t := by
  cases p <;> cases q <;> simp [postKey, portIndex] <;> omega

/-- What a posted access leaves as it was. -/
def PostOnly (p : Port) (t : Nat) (d e : Device) : Prop :=
  { e with regs := d.regs } = d ∧ { e.regs with posted := d.regs.posted, lastRead := d.regs.lastRead } = d.regs ∧
    ∀ q k, k < 4 → (q ≠ p ∨ k ≠ t) → e.regs.post q k = d.regs.post q k

theorem PostOnly.refl (p : Port) (t : Nat) (d : Device) : PostOnly p t d d := ⟨rfl, rfl, fun _ _ _ _ => rfl⟩

theorem PostOnly.read {p : Port} {t : Nat} {d e : Device} (h : PostOnly p t d e) (l : Tbl Word) :
    PostOnly p t d { e with regs := { e.regs with lastRead := l } } := by
  obtain ⟨hdev, hregs, hpost⟩ := h
  exact ⟨hdev, hregs, hpost⟩

section post
variable {d : Device} (h : twf Posted.init d.regs.posted = true) (p : Port) {t : Nat} (ht : t < 4) (f : Posted → Posted)
include h

theorem Device.setPost_self : (d.setPost p t f).regs.post p t = f (d.regs.post p t) := by
  rw [Device.setPost_post h, if_pos rfl]

include ht

theorem Device.setPost_other {q : Port} {k : Nat} (hk : k < 4) (hne : q ≠ p ∨ k ≠ t) : (d.setPost p t f).regs.post q k = d.regs.post q k := by
  rw [Device.setPost_post h, if_neg]
  rw [postKey_eq_iff ht hk]
  rintro ⟨rfl, rfl⟩
  exact hne.elim (· rfl) (· rfl)

theorem Device.setPost_only : PostOnly p t d (d.setPost p t f) := ⟨rfl, rfl, fun _ _ hk hne => Device.setPost_other h p ht f hk hne⟩

end post

/-! ### A write, and a read -/

/-- A write of a tile's register that may be written. -/
theorem Device.writeWord_tile {a : Access} {t off : Nat} (htile : isTile (baseOf a.addr) = true) (hno : tileNo (baseOf a.addr) = t)
    (hoff : tileOff (baseOf a.addr) = off) (h : 0x200000 ≤ baseOf a.addr) (hwrite : tileWritable off = true) (d : Device) : d.writeWord a =
      if d.regs.lockDbg then d.violate kindLocked a
      else if d.pw.mode ≠ .maintain then d.violate kindMode a
      else if (d.regs.post a.port t).busy then d.violate kindPostOverrun a
      else d.setPost a.port t fun y => { y with busy := true, nack := false, addr := a.addr, value := a.value, write := true, since := d.clk.time } := by
  simp only [Device.writeWord, evtAt_tile h, htile, if_true, Device.tileWrite, hno, hoff, hwrite, Bool.not_true, Bool.false_eq_true, if_false]

section access
variable {s : State} {a : Access} {t : Fin 4} {off : Nat} (hboot : s.dev.pw.booted = true) (hoff : off < 0x10000)
  (hbase : baseOf a.addr = 0x200000 + 0x10000 * t.val + off)
include hboot hoff hbase

theorem exec_postedWrite (hwf : a.wf = true) (hwrite : tileWritable off = true) : exec (.postedWrite a) s = .next { s with
    dev := if s.dev.regs.lockDbg then s.dev.violate kindLocked (wordAccess a)
      else if s.dev.pw.mode ≠ .maintain then s.dev.violate kindMode (wordAccess a)
      else if (s.dev.regs.post a.port t.val).busy then s.dev.violate kindPostOverrun (wordAccess a)
      else s.dev.setPost a.port t.val fun y =>
        { y with busy := true, nack := false, addr := (wordAccess a).addr, value := a.value, write := true, since := s.dev.clk.time } } := by
  obtain ⟨htile, hno, hoffs, hlow⟩ := inTile t hoff hbase
  have hword := State.writeReg_word (s := s) hwf hboot (mbxReg_none (.inr (by omega))) (mbxBuf_none (.inr (by omega)))
  rw [← wordAccess_baseOf] at htile hno hoffs hlow
  rw [Device.writeWord_tile htile hno hoffs hlow hwrite] at hword
  rw [wordAccess_baseOf] at htile
  exact (if_pos htile).trans (congrArg Host.Outcome.next hword)

theorem exec_postedRead : exec (.postedRead a.port a.addr) s = .next { s with
    dev := { (s.dev.tileRead a.port a.addr).2 with
      regs := { (s.dev.tileRead a.port a.addr).2.regs with
        lastRead := tput 0#32 (s.dev.tileRead a.port a.addr).2.regs.lastRead (portIndex a.port) (s.dev.tileRead a.port a.addr).1 } } } := by
  obtain ⟨htile, -, -, -⟩ := inTile t hoff hbase
  have hread : s.readReg a.port a.addr = ((s.dev.tileRead a.port a.addr).1, { s with dev := (s.dev.tileRead a.port a.addr).2 }) := by
    simp only [State.readReg, hboot, htile, Bool.not_true, Bool.false_eq_true, if_false, if_true]
  refine (if_pos htile : execPostedRead a.port a.addr s = .next (s.readBy a.port a.addr)).trans ?_
  rw [State.readBy, hread]

end access

/-- A read in a tile window returns zero and launches, or returns the value that came for its address. -/
theorem Device.tileRead_cases (p : Port) (addr : BitVec 24) (d : Device) :
    let x := d.regs.post p (tileNo (baseOf addr))
    (x.busy = true → d.tileRead p addr = (0#32, d)) ∧
    (x.busy = false → x.valid = true → baseOf x.readAddr = baseOf addr →
      d.tileRead p addr = (x.readValue, d.setPost p (tileNo (baseOf addr)) fun y => { y with valid := false })) ∧
    (x.busy = false → (x.valid = false ∨ baseOf x.readAddr ≠ baseOf addr) → d.tileRead p addr = (0#32, d.setPost p (tileNo (baseOf addr)) fun y =>
      { y with busy := true, nack := false, addr := addr, write := false, since := d.clk.time })) := by
  intro x
  refine ⟨fun hb => if_pos hb, fun hb hv ha => ?_, fun hb hne => ?_⟩
  · exact (if_neg (hb ▸ Bool.false_ne_true)).trans (if_pos ⟨hv, ha⟩)
  · refine (if_neg (hb ▸ Bool.false_ne_true)).trans (if_neg fun ⟨hv, ha⟩ => ?_)
    exact hne.elim (fun hf => Bool.false_ne_true (hf.symm.trans hv)) (· ha)

theorem postedRead_spec {s : State} {a : Access} {t : Fin 4} {off : Nat} (hboot : s.dev.pw.booted = true) (hoff : off < 0x10000)
    (hbase : baseOf a.addr = 0x200000 + 0x10000 * t.val + off) (h : twf Posted.init s.dev.regs.posted = true) :
    let x := s.dev.regs.post a.port t.val
    Completes (.postedRead a.port a.addr) s fun u => (DeviceOnly s u ∧ PostOnly a.port t.val s.dev u.dev) ∧
      let back (w : Word) : Prop := u.dev.regs.lastRead = tput 0#32 s.dev.regs.lastRead (portIndex a.port) w
      (x.busy = true → back 0#32 ∧ u.dev.regs.post a.port t.val = x) ∧
      (x.busy = false → x.valid = true → baseOf x.readAddr = baseOf a.addr →
        back x.readValue ∧ u.dev.regs.post a.port t.val = { x with valid := false }) ∧
      (x.busy = false → (x.valid = false ∨ baseOf x.readAddr ≠ baseOf a.addr) →
        back 0#32 ∧ u.dev.regs.post a.port t.val =
          { x with busy := true, nack := false, addr := a.addr, write := false, since := s.dev.clk.time }) := by
  intro x
  obtain ⟨-, hno, -, -⟩ := inTile t hoff hbase
  have hcases := Device.tileRead_cases a.port a.addr s.dev
  rw [hno] at hcases
  obtain ⟨hbusy, hcame, hlaunch⟩ := hcases
  have hexec := exec_postedRead hboot hoff hbase
  have honly (f : Posted → Posted) := Device.setPost_only h a.port t.isLt f
  have hself (f : Posted → Posted) := Device.setPost_self h a.port (t := t.val) f
  by_cases hb : x.busy = true
  · rw [hbusy hb] at hexec
    refine ⟨_, hexec, ⟨⟨rfl, rfl⟩, (PostOnly.refl ..).read _⟩, fun _ => ⟨rfl, rfl⟩, fun hf => ?_, fun hf => ?_⟩ <;>
      exact absurd (hf.symm.trans hb) Bool.false_ne_true
  · have hb := Bool.eq_false_iff.mpr hb
    by_cases hv : x.valid = true ∧ baseOf x.readAddr = baseOf a.addr
    · rw [hcame hb hv.1 hv.2] at hexec
      refine ⟨_, hexec, ⟨⟨rfl, rfl⟩, (honly _).read _⟩, fun hf => ?_, fun _ _ _ => ⟨rfl, hself fun y => { y with valid := false }⟩, fun _ hne => ?_⟩
      · exact absurd (hb.symm.trans hf) Bool.false_ne_true
      · exact (hne.elim (fun hf => Bool.false_ne_true (hf.symm.trans hv.1)) (· hv.2)).elim
    · have hne : x.valid = false ∨ baseOf x.readAddr ≠ baseOf a.addr := by
        rwa [not_and_or, Bool.not_eq_true] at hv
      rw [hlaunch hb hne] at hexec
      refine ⟨_, hexec, ⟨⟨rfl, rfl⟩, (honly _).read _⟩, fun hf => ?_, fun _ hv' ha => absurd ⟨hv', ha⟩ hv, fun _ _ => ⟨rfl, hself fun y =>
        { y with busy := true, nack := false, addr := a.addr, write := false, since := s.dev.clk.time }⟩⟩
      exact absurd (hb.symm.trans hf) Bool.false_ne_true

/-! ### The end of an access -/

section done
variable {s : State} {p : Port} {t : Fin 4} (h : twf Posted.init s.dev.regs.posted = true)

/-- What a write that reaches a tile's register leaves, but for the tile and its channels. -/
theorem Device.tileApply_frame (t : Nat) (x : Posted) (d : Device) :
    (d.tileApply t x).regs = { d.regs with struck := d.regs.struck.filter fun y => baseOf y.addr != baseOf x.addr } ∧
    { d.tileApply t x with regs := d.regs, tiles := d.tiles, chans := d.chans } = d := by
  unfold Device.tileApply
  dsimp only
  split <;> exact ⟨rfl, rfl⟩

theorem exec_postedAccessDone (hlt : s.dev.clk.time < (s.dev.regs.post p t.val).since + 12288) :
    exec (.postedAccessDone p t) s = .next { s with dev := s.dev.postDone p t.val } := if_pos hlt

variable (hbusy : (s.dev.regs.post p t.val).busy = true)
include hbusy

/-- The three ends of a posted access: no such location, a write, a read. -/
theorem Device.postDone_cases :
    let x := s.dev.regs.post p t.val
    (tileKnown (tileOff (baseOf x.addr)) = false →
      s.dev.postDone p t.val = s.dev.setPost p t.val fun y => { y with busy := false, nack := true }) ∧
    (tileKnown (tileOff (baseOf x.addr)) = true → x.write = false →
      s.dev.postDone p t.val = s.dev.setPost p t.val fun y =>
        { y with busy := false, valid := true, readAddr := x.addr, readValue := s.dev.tileWord t.val (tileOff (baseOf x.addr)) }) ∧
    (tileKnown (tileOff (baseOf x.addr)) = true → x.write = true →
      s.dev.postDone p t.val = (s.dev.tileApply t.val x).setPost p t.val fun y => { y with busy := false }) := by
  refine ⟨fun hk => ?_, fun hk hw => ?_, fun hk hw => ?_⟩
  · simp only [Device.postDone, hbusy, hk, Bool.not_true, Bool.not_false, Bool.false_eq_true, if_true, if_false]
  · simp only [Device.postDone, hbusy, hk, hw, Bool.not_true, Bool.false_eq_true, if_false]
  · simp only [Device.postDone, hbusy, hk, hw, Bool.not_true, Bool.false_eq_true, if_true, if_false]

include h

omit hbusy in
/-- A posted write that ends has freed the tile's access and renewed the parity of its word. -/
theorem Device.postWritten (x : Posted) :
    let e := (s.dev.tileApply t.val x).setPost p t.val fun y => { y with busy := false }
    e.regs.post p t.val = { s.dev.regs.post p t.val with busy := false } ∧
    { e with regs := s.dev.regs, tiles := s.dev.tiles, chans := s.dev.chans } = s.dev ∧
    { e.regs with posted := s.dev.regs.posted } =
      { s.dev.regs with struck := s.dev.regs.struck.filter fun y => baseOf y.addr != baseOf x.addr } := by
  intro e
  obtain ⟨hregs, hframe⟩ := Device.tileApply_frame t.val x s.dev
  have hposted : twf Posted.init (s.dev.tileApply t.val x).regs.posted = true := by rw [hregs]; exact h
  refine ⟨?_, hframe, ?_⟩
  · rw [Device.setPost_self hposted, hregs]
    rfl
  · change { (s.dev.tileApply t.val x).regs with posted := s.dev.regs.posted } = _
    rw [hregs]

end done

/-- The write of `TILE_TEST` sets its bit. -/
theorem Device.tileApply_test {d : Device} (h : twf Tile.init d.tiles = true) (t : Nat) {x : Posted} (hoff : tileOff (baseOf x.addr) = 0x400)
    (hal : aliasOf x.addr = 0) :
    (d.tileApply t x).tile t = { d.tile t with test := x.value.getLsbD 0 } ∧ { d.tileApply t x with regs := d.regs, tiles := d.tiles } = d := by
  have hbit (w : Word) : (aliased 0 1#32 w x.value).getLsbD 0 = x.value.getLsbD 0 := by simp [aliased]
  have heq : d.tileApply t x = (d.rewritten (baseOf x.addr)).setTile t fun y => { y with test := x.value.getLsbD 0 } := by
    simp only [Device.tileApply, hoff, hal, if_true, hbit]
  rw [heq]
  refine ⟨?_, rfl⟩
  exact (tget_tmod h t t fun y : Tile => { y with test := x.value.getLsbD 0 }).trans (if_pos rfl)

/-- The tile link has not answered in time: the access ends with NACK, and its tick is reached. -/
theorem postedNack {s : State} {p : Port} {t : Fin 4} (h : twf Posted.init s.dev.regs.posted = true) (hbusy : (s.dev.regs.post p t.val).busy = true)
    (hreach : s.dev.clk.reaches ((s.dev.regs.post p t.val).since + 12288) = true) :
    let x := s.dev.regs.post p t.val
    Completes (.postedAccessNack p t) s fun u => DeviceOnly s u ∧ u.dev.clk = (s.dev.tickTo (x.since + 12288)).clk ∧
      { u.dev with regs := s.dev.regs, clk := s.dev.clk } = s.dev ∧ { u.dev.regs with posted := s.dev.regs.posted } = s.dev.regs ∧
      (∀ q k, k < 4 → (q ≠ p ∨ k ≠ t.val) → u.dev.regs.post q k = s.dev.regs.post q k) ∧
      u.dev.regs.post p t.val = { x with busy := false, nack := true } := by
  intro x
  have hgo : (x.busy && s.dev.clk.reaches (x.since + 12288)) = true := by rw [hbusy, hreach]; rfl
  have hregs : (s.dev.tickTo (x.since + 12288)).regs = s.dev.regs := by rw [Device.tickTo_eq]
  have htwf : twf Posted.init (s.dev.tickTo (x.since + 12288)).regs.posted = true := by rw [hregs]; exact h
  refine ⟨_, if_pos hgo, ⟨rfl, rfl⟩, rfl, ?_, ?_, fun q k hk hne => ?_, ?_⟩
  · change { s.dev.tickTo (x.since + 12288) with regs := s.dev.regs, clk := s.dev.clk } = s.dev
    rw [Device.tickTo_eq]
  · change { (s.dev.tickTo (x.since + 12288)).regs with posted := s.dev.regs.posted } = s.dev.regs
    rw [hregs]
  · refine (Device.setPost_other htwf p t.isLt _ hk hne).trans ?_
    rw [hregs]
  · refine (Device.setPost_self htwf p _).trans ?_
    rw [hregs]

/-- Settles O44: each end of a posted access, of a write and of a read by its rule. -/
theorem tileAccessesArePosted : Obligations.TileAccessesArePosted := by
  unfold Obligations.TileAccessesArePosted
  intro s a t off hwf hboot hoff halign hbase htwf x at_ only back
  have honly (f : Posted → Posted) := Device.setPost_only htwf a.port t.isLt f
  have hself (f : Posted → Posted) := Device.setPost_self htwf a.port (t := t.val) f
  refine ⟨fun hwrite => ?_, ?_, fun hbusy hlt => ?_, fun hle => if_neg (Nat.not_lt.mpr hle), postedNack htwf⟩
  · have hexec := exec_postedWrite hboot hoff hbase hwf hwrite
    refine ⟨fun hlock => ?_, fun hlock hmode => ?_, fun hlock hmode hb => ?_, fun hlock hmode hb => ?_⟩
    · rw [if_pos hlock] at hexec
      exact hexec
    · rw [if_neg (hlock ▸ Bool.false_ne_true), if_pos hmode] at hexec
      exact hexec
    · rw [if_neg (hlock ▸ Bool.false_ne_true), if_neg (not_not.mpr hmode), if_pos hb] at hexec
      exact hexec
    · rw [if_neg (hlock ▸ Bool.false_ne_true), if_neg (not_not.mpr hmode), if_neg (hb ▸ Bool.false_ne_true)] at hexec
      obtain ⟨hdev, hregs, hother⟩ := honly fun y =>
        { y with busy := true, nack := false, addr := at_.addr, value := a.value, write := true, since := s.dev.clk.time }
      exact ⟨_, hexec, ⟨⟨rfl, rfl⟩, hdev, hregs, hother⟩, rfl, hself _⟩
  · obtain ⟨u, hu, ⟨hdev, hframe, hregs, hother⟩, hcases⟩ := postedRead_spec hboot hoff hbase htwf
    exact ⟨u, hu, ⟨hdev, hframe, hregs, hother⟩, hcases⟩
  · have hexec := exec_postedAccessDone hlt
    obtain ⟨hunknown, hread, hwritten⟩ := Device.postDone_cases hbusy
    refine ⟨fun hk => ?_, fun hk hw => ?_, fun hk hw => ?_, fun hoff4 hal hw htiles => ?_⟩
    · rw [hunknown hk] at hexec
      obtain ⟨hdev, hregs, hother⟩ := honly fun y => { y with busy := false, nack := true }
      exact ⟨_, hexec, ⟨⟨rfl, rfl⟩, hdev, hregs, hother⟩, hself _⟩
    · rw [hread hk hw] at hexec
      obtain ⟨hdev, hregs, hother⟩ := honly fun y =>
        { y with busy := false, valid := true, readAddr := x.addr, readValue := s.dev.tileWord t.val (tileOff (baseOf x.addr)) }
      exact ⟨_, hexec, ⟨⟨rfl, rfl⟩, hdev, hregs, hother⟩, hself _⟩
    · rw [hwritten hk hw] at hexec
      exact ⟨_, hexec, ⟨rfl, rfl⟩, Device.postWritten htwf x⟩
    · rw [hwritten (by rw [hoff4]; rfl) hw] at hexec
      obtain ⟨hpost, -, -⟩ := Device.postWritten htwf x
      obtain ⟨htest, hframe⟩ := Device.tileApply_test htiles t.val hoff4 hal
      exact ⟨_, hexec, ⟨rfl, rfl⟩, hpost, htest, hframe⟩

end Sys2Proof.Machine
end

section
namespace Sys2Proof.Machine

/-! O42: a mailbox's exchange from the host's side. -/

/-! ### Bytes written and read back -/

section bytes
variable {α : Type} [DecidableEq α] {d : α} {t : Tbl α}

theorem tget_tputList_of_out (h : twf d t = true) {k j : Nat} {l : List α} (hj : j < k ∨ k + l.length ≤ j) :
    tget d (tputList d t k l) j = tget d t j := by
  induction l generalizing t k with
  | nil => rfl
  | cons x l ih =>
    rw [List.length_cons] at hj
    rw [tputList, ih (twf_tput h k x) (by omega), tget_tput h, if_neg (by omega)]

theorem tgetList_tputList (h : twf d t = true) (k : Nat) (l : List α) : tgetList d (tputList d t k l) k l.length = l := by
  induction l generalizing t k with
  | nil => rfl
  | cons x l ih =>
    have hhead : tget d (tputList d (tput d t k x) (k + 1) l) k = x := by
      rw [tget_tputList_of_out (twf_tput h k x) (.inl (Nat.lt_succ_self k)), tget_tput h, if_pos rfl]
    rw [List.length_cons, tputList, tgetList, hhead, ih (twf_tput h k x)]

end bytes

/-! ### A write to a mailbox -/

theorem mbxReg_at {base m off : Nat} (hm : m < 4) (hoff : off < 0x40) (h : base = 0x100 + 0x40 * m + off) : mbxReg base = some (m, off) := by
  rw [mbxReg, if_pos (by omega)]
  exact congrArg some (Prod.ext (by dsimp only; omega) (by dsimp only; omega))

theorem mbxBuf_at {base m off : Nat} (hm : m < 4) (hoff : off < 0x800) (h : base = 0x10000 + 0x800 * m + off) : mbxBuf base = some (m, off) := by
  rw [mbxBuf, if_pos (by omega)]
  exact congrArg some (Prod.ext (by dsimp only; omega) (by dsimp only; omega))

section write
variable {s : State} {a : Access} {m off : Nat} (hwf : a.wf = true) (hboot : s.dev.pw.booted = true)

include hwf hboot

theorem State.write_mbxReg (hreg : mbxReg (baseOf a.addr) = some (m, off)) : s.write a = s.mbxRegWrite m off (wordAccess a) := by
  unfold State.write
  extract_lets b
  have hb : b = wordAccess a := rfl
  have hbwf : (wordAccess a).wf = true := hwf
  simp [hb, hboot, hbwf, hreg]

theorem State.write_mbxBuf (hreg : mbxReg (baseOf a.addr) = none) (hbuf : mbxBuf (baseOf a.addr) = some (m, off)) :
    s.write a = s.mbxBufWrite m off (wordAccess a) := by
  unfold State.write
  extract_lets b
  have hb : b = wordAccess a := rfl
  have hbwf : (wordAccess a).wf = true := hwf
  simp [hb, hboot, hbwf, hreg, hbuf]

variable (hm : m < 4) (hal : aliasOf a.addr = 0)
include hm hal

/-- A write of the request buffer is an overrun while the firmware holds it, and else stores the word. -/
theorem exec_requestWrite (hoff : off < 1024) (h : baseOf a.addr = 0x10000 + 0x800 * m + off) : exec (.mbxRequestWrite a) s = .next
    (if (s.mailbox m).reqBusy then s.overrun m
     else s.setMailbox m fun b => { b with request := tputList 0#8 b.request off (leWord a.value) }) := by
  have hreg : mbxReg (baseOf a.addr) = none := mbxReg_none (.inr (by omega))
  have hbuf := mbxBuf_at hm (by omega) h
  have hrow : ((mbxBuf (baseOf a.addr)).any fun x => decide (x.2 < 0x400)) = true := by
    rw [hbuf, Option.any_some, decide_eq_true_eq]
    exact hoff
  have hrings : s.rings a = none := by rw [State.rings, hreg]
  refine (if_pos hrow).trans (congrArg Host.Outcome.next ?_)
  rw [State.writeReg, hrings]
  dsimp only
  rw [State.write_mbxBuf hwf hboot hreg hbuf, State.mbxBufWrite, wordAccess_aliasOf, if_neg (not_not.mpr hal), if_neg (Nat.not_le.mpr hoff)]
  rfl

/-- A doorbell, and what the firmware answers of itself on an idle mailbox. -/
theorem exec_doorbell (h : baseOf a.addr = 0x108 + 0x40 * m) : exec (.mbxDoorbell a) s = .next
    (if (s.mailbox m).reqBusy || (s.mailbox m).rspValid then s.overrun m else (s.doorbell m).answerUnknown m) := by
  have hreg : mbxReg (baseOf a.addr) = some (m, 8) := mbxReg_at hm (by omega) (by omega)
  have hrow : ((mbxReg (baseOf a.addr)).any fun x => x.2 == 8) = true := by rw [hreg]; rfl
  have hwrite : s.write a = s.doorbell m := by
    rw [State.write_mbxReg hwf hboot hreg]
    refine if_neg ?_
    rw [wordAccess_aliasOf]
    exact not_not.mpr hal
  refine (if_pos hrow).trans (congrArg Host.Outcome.next ?_)
  cases hidle : (s.mailbox m).reqBusy || (s.mailbox m).rspValid
  · have hrings : s.rings a = some m := by
      rw [State.rings, hreg]
      exact if_pos ⟨rfl, hal, hwf, hboot, by rw [hidle]; rfl⟩
    rw [State.writeReg, hrings, if_neg Bool.false_ne_true]
    dsimp only
    rw [hwrite]
  · have hrings : s.rings a = none := by
      rw [State.rings, hreg]
      refine if_neg fun ⟨_, _, _, _, hno⟩ => ?_
      rw [hidle] at hno
      exact Bool.false_ne_true hno
    rw [State.writeReg, hrings, if_pos rfl]
    dsimp only
    rw [hwrite, State.doorbell]
    exact if_pos hidle

/-- RSP_DONE releases the response. -/
theorem exec_rspDone (h : baseOf a.addr = 0x100 + 0x40 * m) (hval : a.value.getLsbD 0 = true) :
    exec (.rspDone a) s = .next (s.setMailbox m Mailbox.release) := by
  have hreg : mbxReg (baseOf a.addr) = some (m, 0) := mbxReg_at hm (by omega) (by omega)
  have hrow : ((mbxReg (baseOf a.addr)).any fun x => x.2 == 0) = true := by rw [hreg]; rfl
  have hrings : s.rings a = none := by
    rw [State.rings, hreg]
    exact if_neg fun ⟨h8, _⟩ => absurd h8 (by decide)
  refine (if_pos hrow).trans (congrArg Host.Outcome.next ?_)
  rw [State.writeReg, hrings]
  dsimp only
  rw [State.write_mbxReg hwf hboot hreg]
  refine (if_neg ?_).trans (if_pos hval)
  rw [wordAccess_aliasOf]
  exact not_not.mpr hal

end write

/-! ### The mailboxes afterwards -/

/-- No other mailbox differs. -/
def OtherMailboxes (s : State) (m : Nat) (u : State) : Prop := u.pending = s.pending ∧ ∀ k, k ≠ m → u.mailbox k = s.mailbox k

section after
variable {s : State} (h : twf Mailbox.init s.mbx = true) (m : Nat)
include h

theorem State.changed {u : State} {f : Mailbox → Mailbox} (hu : u.mbx = tmod Mailbox.init s.mbx m f) (hp : u.pending = s.pending) :
    OtherMailboxes s m u ∧ u.mailbox m = f (s.mailbox m) := by
  have hk (k : Nat) : u.mailbox k = if k = m then f (s.mailbox m) else s.mailbox k := by
    rw [State.mailbox, hu]
    exact tget_tmod h m k f
  exact ⟨⟨hp, fun k hne => (hk k).trans (if_neg hne)⟩, (hk m).trans (if_pos rfl)⟩

/-- A request that is refused is counted and reported, and nothing else changes. -/
theorem State.overrun_spec (hm : m < 4) :
    OtherMailboxes s m (s.overrun m) ∧ ((s.overrun m).dev.evt evMbx).bits.getLsbD (4 + m) = true ∧
      (s.overrun m).mailbox m = { s.mailbox m with overruns := (s.mailbox m).overruns + 1#16 } ∧
      { (s.overrun m).dev with evts := s.dev.evts } = s.dev := by
  have hbit : ∀ k : Fin 4, (ebit (4 + k.val) &&& evtMask evMbx).getLsbD (4 + k.val) = true := by decide
  have hmbx : (s.overrun m).mbx = tmod Mailbox.init s.mbx m fun b => { b with overruns := b.overruns + 1#16 } := rfl
  obtain ⟨hothers, hself⟩ := State.changed h m hmbx rfl
  refine ⟨hothers, Device.raise_bit (hbit ⟨m, hm⟩) _, hself, ?_⟩
  change { s.dev.raise evMbx (ebit (4 + m)) with evts := s.dev.evts } = s.dev
  unfold Device.raise
  split <;> rfl

/-- A doorbell on an idle mailbox hands the request to the firmware, behind those of earlier BUS cycles. -/
theorem State.doorbell_spec (hreq : (s.mailbox m).reqBusy = false) (hrsp : (s.mailbox m).rspValid = false) :
    let cycle := s.dev.clk.time / 16
    let n := if s.dev.fw.arrival.1 = cycle then s.dev.fw.arrival.2 else s.dev.fw.arrival.2 + 1
    OtherMailboxes s m (s.doorbell m) ∧
      (s.doorbell m).mailbox m = { s.mailbox m with reqBusy := true, taken := false, arrived := 6 * n + m, epoch := s.dev.epoch } ∧
      (s.doorbell m).dev = { s.dev with fw := { s.dev.fw with arrival := (cycle, n) },
                                        cnt := { s.dev.cnt with mbxAccepted := tbump s.dev.cnt.mbxAccepted m } } := by
  intro cycle n
  have hidle : ¬((s.mailbox m).reqBusy || (s.mailbox m).rspValid) = true := by rw [hreq, hrsp]; exact Bool.false_ne_true
  have hmbx : (s.doorbell m).mbx = tmod Mailbox.init s.mbx m fun b =>
      { b with reqBusy := true, taken := false, arrived := 6 * n + m, epoch := s.dev.epoch } := by
    rw [State.doorbell, if_neg hidle]
    rfl
  obtain ⟨hothers, hself⟩ := State.changed h m hmbx (by rw [State.doorbell, if_neg hidle]; rfl)
  refine ⟨hothers, hself, ?_⟩
  rw [State.doorbell, if_neg hidle]
  rfl

end after

/-- A request whose code is known is not answered at once. -/
theorem State.answerUnknown_known {s : State} {m : Nat} (h : (cmdModes (s.rawMailbox m).code).isSome = true) : s.answerUnknown m = s := by
  have hnone : (cmdModes (s.rawMailbox m).code).isNone = false := by rw [← Option.not_isSome, h]; rfl
  rw [State.answerUnknown]
  rw [hnone, Bool.and_false, if_neg Bool.false_ne_true]

/-! ### The placing of completions -/

/-- A session after one of its fields has changed, by its id. -/
theorem Device.session?_setSession {d : Device} {id : Nat} {f : Session → Session} {x : Session} (hid : ∀ y, (f y).id = y.id)
    (h : d.session? id = some x) : (d.setSession id f).session? id = some (f x) := by
  have hpred : ((fun y : Session => y.id == id) ∘ fun y => if y.id = id then f y else y) = fun y => y.id == id := by
    funext y
    dsimp only [Function.comp]
    split
    · rw [hid]
    · rfl
  have hx : x.id = id := by simpa using List.find?_some h
  change (d.fw.sessions.map fun y => if y.id = id then f y else y).find? (fun y => y.id == id) = some (f x)
  rw [List.find?_map, hpred]
  rw [Device.session?] at h
  rw [h, Option.map_some, if_pos hx]

@[simp] theorem Device.sendMessage_inner (v : Via) (bytes : List Byte) (d : Device) : (d.sendMessage v bytes).inner = d.inner := by
  unfold Device.sendMessage
  split
  · rfl
  · split
    · rw [Device.messageCart, Device.formCart_inner]
      rfl
    · rfl
  · exact Device.send_inner ..

theorem Device.session?_of_inner {d e : Device} (h : d.inner = e.inner) (id : Nat) : d.session? id = e.session? id := by
  have hfw : d.fw = e.fw := congrArg (·.fw) h
  rw [Device.session?, hfw, Device.session?]

theorem Device.send_out (x : OutFrame) (d : Device) : (d.send x).fab.out = d.fab.out ++ [x] := by
  unfold Device.send
  extract_lets ports e
  have hout : e.fab.out = d.fab.out := forList_keeps (g := fun d : Device => d.fab.out) (f := fun k d => d.countPort k fcTx) ports (fun _ _ => rfl) d
  rw [← hout]

/-- What a session over the fabric sends goes to its partner. -/
theorem Session.via_fabric {x : Session} (h0 : x.transport ≠ 0) (h1 : x.transport ≠ 1) : x.via = .fabric x.peer := by
  unfold Session.via
  split
  · next h => exact absurd h h0
  · next h => exact absurd h h1
  · rfl

/-- Settles O42: each write and each placing by its rule. -/
theorem mailboxesExchangeInOrder : Obligations.MailboxesExchangeInOrder := by
  unfold Obligations.MailboxesExchangeInOrder
  intro s a m off ⟨htwf, horder⟩ hwf hboot hm hal others overrun
  have hrequest : twf 0#8 (s.mailbox m).request = true := by
    have := horder m
    simp only [Mailbox.inOrder, Memory.wf, Bool.and_eq_true] at this
    obtain ⟨⟨-, hreq, -⟩, -⟩ := this
    exact hreq
  have hover : overrun (s.overrun m) := by
    obtain ⟨h1, h2, h3, h4⟩ := State.overrun_spec htwf m hm
    exact ⟨h1, h2, h3, h4⟩
  refine ⟨fun hoff halign hbase => ?_, fun hbase => ?_, fun hbase hval => ?_, fun i x c q hx hq hlock => ?_⟩
  · have hexec := exec_requestWrite hwf hboot hm hal hoff hbase
    refine ⟨fun hbusy => ?_, fun hidle => ?_⟩
    · rw [if_pos hbusy] at hexec
      exact ⟨_, hexec, hover⟩
    · rw [if_neg (hidle ▸ Bool.false_ne_true)] at hexec
      obtain ⟨hothers, hself⟩ := State.changed (u := s.setMailbox m fun b => { b with request := tputList 0#8 b.request off (leWord a.value) })
        (f := fun b => { b with request := tputList 0#8 b.request off (leWord a.value) }) htwf m rfl rfl
      refine ⟨_, hexec, hothers, rfl, ?_, ?_, fun k hk => ?_⟩
      · rw [hself]
      · rw [hself]
        exact tgetList_tputList hrequest off (leWord a.value)
      · rw [hself]
        exact tget_tputList_of_out hrequest hk
  · have hexec := exec_doorbell hwf hboot hm hal hbase
    refine ⟨fun hbusy => ?_, fun hreq hrsp hknown => ?_⟩
    · rw [if_pos (Bool.or_eq_true _ _ ▸ hbusy)] at hexec
      exact ⟨_, hexec, hover⟩
    · rw [hreq, hrsp, Bool.false_or, if_neg Bool.false_ne_true] at hexec
      obtain ⟨hothers, hself, hdev⟩ := State.doorbell_spec htwf m hreq hrsp
      have hraw : ((s.doorbell m).rawMailbox m).code = (s.rawMailbox m).code := by
        rw [State.rawMailbox, hself]
        rfl
      rw [State.answerUnknown_known (by rw [hraw]; exact hknown)] at hexec
      exact ⟨_, hexec, hothers, hself, hdev⟩
  · obtain ⟨hothers, hself⟩ := State.changed (u := s.setMailbox m Mailbox.release) htwf m rfl rfl
    exact ⟨_, exec_rspDone hwf hboot hm hal hbase hval, hothers, rfl, hself⟩
  · have hexec : exec (.completionPlace i) s = .next (s.placeCompletion i.val) := if_pos (by rw [hboot, hlock]; rfl)
    have hsession : (s.dev.setSession i.val fun y => { y with queue := q }).session? i.val = some { x with queue := q } :=
      Device.session?_setSession (fun _ => rfl) hx
    rw [State.placeCompletion, hx] at hexec
    dsimp only at hexec
    rw [hq] at hexec
    dsimp only at hexec
    refine ⟨fun ht hcan => ?_, fun ht hmbx hidle => ?_⟩
    · rw [if_neg ht, if_pos hcan] at hexec
      refine ⟨_, hexec, ⟨rfl, rfl⟩, ⟨{ x with queue := q }, ?_, rfl⟩, fun ht1 => ?_⟩
      · exact (Device.session?_of_inner (Device.sendMessage_inner ..) _).trans hsession
      · rw [Session.via_fabric ht ht1]
        exact Device.send_out ..
    · rw [if_pos ht, hmbx, hidle, if_neg Bool.false_ne_true] at hexec
      obtain ⟨hothers, hself⟩ := State.changed (u := { s.setMailbox m (Mailbox.place (s.dev.completionBytes c)) with
        dev := (s.dev.setSession i.val fun y => { y with queue := q }).raise evMbx (ebit 8) }) htwf m rfl rfl
      have hbit : (((s.dev.setSession i.val fun y => { y with queue := q }).raise evMbx (ebit 8)).evt evMbx).bits.getLsbD 8 = true :=
        Device.raise_bit (by decide) _
      have hreq : (s.mailbox m).reqBusy = false := (Bool.or_eq_false_iff.mp hidle).1
      refine ⟨_, hexec, hothers, congrArg (·.rspValid) hself, congrArg (·.placed) hself,
        (congrArg (·.reqBusy) hself).trans hreq, congrArg (·.request) hself, congrArg (·.response) hself, hbit, { x with queue := q }, ?_, rfl⟩
      exact (Device.session?_of_inner (Device.raise_inner ..) _).trans hsession

end Sys2Proof.Machine
end

section
namespace Sys2Proof.Machine

/-! O15: parity, its scrub pass and its repair. -/

/-! ### The parity of a word -/

theorem foldl_xor_pair (f g : Nat → Bool) (l : List Nat) (b c : Bool) :
    l.foldl (fun b k => b ^^ (f k ^^ g k)) (b ^^ c) = (l.foldl (fun b k => b ^^ f k) b ^^ l.foldl (fun b k => b ^^ g k) c) := by
  induction l generalizing b c with
  | nil => rfl
  | cons k l ih =>
    have hswap : ((b ^^ c) ^^ (f k ^^ g k)) = ((b ^^ f k) ^^ (c ^^ g k)) := by
      cases b <;> cases c <;> cases f k <;> cases g k <;> rfl
    rw [List.foldl_cons, List.foldl_cons, List.foldl_cons, hswap, ih]

theorem parityOf_xor (v w : Word) : parityOf (v ^^^ w) = (parityOf v ^^ parityOf w) := by
  have h := foldl_xor_pair v.getLsbD w.getLsbD (List.range 32) false false
  rw [Bool.xor_false] at h
  simpa only [parityOf, BitVec.getLsbD_xor] using h

theorem foldl_xor_single (k n : Nat) : (List.range n).foldl (fun b j => b ^^ decide (j = k)) false = decide (k < n) := by
  induction n with
  | zero => rfl
  | succ n ih =>
    rw [List.range_succ, List.foldl_append, ih, List.foldl_cons, List.foldl_nil]
    rcases Nat.lt_trichotomy k n with h | h | h
    · simp [h, Nat.lt_succ_of_lt h, Nat.ne_of_gt h]
    · simp [h]
    · simp [Nat.not_lt.mpr (Nat.le_of_lt h), Nat.not_lt.mpr (Nat.succ_le_of_lt h), Nat.ne_of_lt h]

/-- A word with one bit set has odd parity. -/
theorem parityOf_one {k : Nat} (hk : k < 32) : parityOf (1#32 <<< k) = true := by
  have hbit : (fun (b : Bool) j => b ^^ (1#32 <<< k).getLsbD j) = fun b j => b ^^ decide (j = k) := by
    funext b j
    refine congrArg (b ^^ ·) ?_
    rw [BitVec.getLsbD_shiftLeft, BitVec.getLsbD_one, Bool.eq_iff_iff]
    simp only [Bool.and_eq_true, Bool.not_eq_true', decide_eq_true_eq, decide_eq_false_iff_not]
    omega
  rw [parityOf, hbit, foldl_xor_single, decide_eq_true hk]

/-- A word's parity fails when one of its bits is flipped. -/
theorem parityOf_flip (w : Word) {k : Nat} (hk : k < 32) : parityOf (w ^^^ (1#32 <<< k)) = !(parityOf w) := by
  rw [parityOf_xor, parityOf_one hk, Bool.xor_true]

/-! ### The scrub pass -/

theorem protectedWord_rw {base : Nat} (h : base = 0x1100 ∨ base = 0x2000 ∨ base = 0x7000) : protectedWord base = true := by
  rcases h with rfl | rfl | rfl <;> decide

theorem Device.mem_struck_scrub {d : Device} {l : List ParityIn} {y : BadWord} : y ∈ (d.scrubParity l).regs.struck ↔
    ∃ x ∈ l, (protectedWord (baseOf x.addr) = true ∧ parityOf x.live ≠ x.bit) ∧
      (⟨x.addr, x.live, x.chan.map (·.val), x.point.map (·.val)⟩ : BadWord) = y := by
  simp only [Device.scrubParity, List.mem_map, List.mem_filter, Bool.and_eq_true, bne_iff_ne, and_assoc]

/-! ### A repair -/

section repair
variable {s : State} {addr : BitVec 24} {ch : Option (Fin 128)} {pt : Option (Fin 1024)} {x : BadWord} (hstruck : s.dev.regs.struck = [x])
  (haddr : x.addr = addr) (hchan : x.chan = ch.map (·.val)) (hpoint : x.point = pt.map (·.val))
include hstruck

theorem Device.erase_struck : s.dev.regs.struck.erase x = [] := by rw [hstruck, List.erase_cons_head]

theorem exec_parityRepair (hcount : s.dev.clk.counting = true) (haddr : x.addr = addr) (hchan : x.chan = ch.map (·.val))
    (hpoint : x.point = pt.map (·.val)) (still shadow : Bool) :
    exec (.parityRepair addr ch pt still shadow) s = .next { s with dev := s.dev.repairParity x still shadow } := by
  have hfound : (s.dev.regs.struck.find? fun x => x.addr == addr && x.chan == ch.map (·.val) && x.point == pt.map (·.val)) = some x := by
    rw [hstruck]
    simp [haddr, hchan, hpoint]
  change execParityRepair addr ch pt still shadow s = _
  rw [execParityRepair, hfound]
  exact if_pos hcount

/-- A word that still fails is restored: counted, reported, logged and marked. -/
theorem Device.restoreWord_spec :
    let t := s.dev.restoreWord x
    t.regs = { s.dev.regs with struck := [] } ∧ t.cnt = { s.dev.cnt with parityRepairs := s.dev.cnt.parityRepairs + 1#32 } ∧
      (t.evt evParity).bits.getLsbD 0 = true ∧ t.pw.declared = s.dev.pw.declared ∧ t.nv.logNext = s.dev.nv.logNext + 1 ∧
      t.marks = { s.dev.marks with parity := (s.dev.epoch, x.chan, x.point) :: s.dev.marks.parity } := by
  unfold Device.restoreWord
  extract_lets _ _ _ d1
  have hbit : ((d1.raise evParity (ebit 0)).evt evParity).bits.getLsbD 0 = true := Device.raise_bit (by decide) _
  have hraised : (d1.raise evParity (ebit 0)).nv = s.dev.nv := by rw [Device.raise_nv]
  refine ⟨?_, ?_, (Device.logPut_grows ..).bits _ _ hbit, ?_, ?_, ?_⟩
  · rw [Device.logPut_regs, Device.raise_regs]
    exact congrArg (fun l => { s.dev.regs with struck := l }) (Device.erase_struck hstruck)
  · rw [Device.logPut_cnt, Device.raise_cnt]
  · rw [Device.logPut_pw, Device.raise_pw]
  · rw [Device.logPut_nv, hraised]
  · rw [Device.logPut_marks, Device.raise_marks]

omit hstruck in
/-- A shadow that cannot be corrected is reported, and declares SAFE under cause 1. -/
theorem Device.shadowFails_spec (still : Bool) :
    let t := s.dev.repairParity x still true
    (t.evt evParity).bits.getLsbD 1 = true ∧ t.cnt = s.dev.cnt ∧
      (s.dev.pw.mode ≠ .boot → s.dev.pw.mode ≠ .safe → s.dev.pw.declared = none → t.pw.declared = some 1) := by
  intro t
  let e : Device := { s.dev with regs := { s.dev.regs with struck := s.dev.regs.struck.erase x } }
  have ht : t = (e.raise evParity (ebit 1)).declareSafe 1 := rfl
  have hbit : ((e.raise evParity (ebit 1)).evt evParity).bits.getLsbD 1 = true := Device.raise_bit (by decide) _
  rw [ht]
  refine ⟨(Device.declareSafe_grows ..).bits _ _ hbit, ?_, fun hboot hsafe hdecl => ?_⟩
  · rw [Device.declareSafe_cnt, Device.raise_cnt]
  · rw [Device.declareSafe_first (by rw [Device.raise_pw]; exact hboot) (by rw [Device.raise_pw]; exact hsafe) (by rw [Device.raise_pw]; exact hdecl)]

end repair

/-- Settles O15: the scrub pass, the parity of a word, and each end of a repair by its rule. -/
theorem parityIsRepairedOrDeclared : Obligations.ParityIsRepairedOrDeclared := by
  unfold Obligations.ParityIsRepairedOrDeclared
  refine ⟨fun d l x hx hbase => ⟨fun hbad => ?_, fun y hy => ?_⟩, fun w k hk => parityOf_flip w hk, fun s addr ch pt still shadow hnone => ?_,
    fun s addr ch pt x hcount hstruck haddr hchan hpoint => ?_⟩
  · exact Device.mem_struck_scrub.mpr ⟨x, hx, ⟨protectedWord_rw hbase, hbad⟩, rfl⟩
  · obtain ⟨z, hz, ⟨-, hbad⟩, rfl⟩ := Device.mem_struck_scrub.mp hy
    exact ⟨z, hz, rfl, rfl, hbad⟩
  · have hfind : (s.dev.regs.struck.find? fun x => x.addr == addr && x.chan == ch.map (·.val) && x.point == pt.map (·.val)) = none := by
      rw [List.find?_eq_none]
      intro x hx
      have hne := List.any_eq_false.mp hnone x hx
      simp only [Bool.and_eq_true, not_and]
      exact fun ⟨h, _⟩ => absurd h hne
    change execParityRepair addr ch pt still shadow s = _
    rw [execParityRepair, hfind]
  · have hexec := exec_parityRepair hstruck hcount haddr hchan hpoint
    refine ⟨⟨_, hexec true false, ⟨rfl, rfl⟩, ?_⟩, ?_, fun still => ⟨_, hexec still true, ⟨rfl, rfl⟩, Device.shadowFails_spec still⟩⟩
    · rw [← hchan, ← hpoint]
      exact Device.restoreWord_spec hstruck
    · refine (hexec false false).trans ?_
      rw [Device.repairParity, if_neg Bool.false_ne_true, if_neg Bool.false_ne_true, Device.erase_struck hstruck]

end Sys2Proof.Machine
end

section
namespace Sys2Proof.Machine

/-! The spine of a device: its clocks, registers, power state and firmware apart from sessions and transactions. What samples, carts, runs and stops leave of it, and of the event bits that are set: one lemma for each operation, in the order of the definitions. -/

/-- What the data path and the stops of channels, checks and runs leave as it is. -/
def Device.spine (d : Device) : Device :=
  { d.core with
    chans := []
    points := []
    groups := []
    tiles := []
    trig := Trig.reset
    gran := ⟨[], [], [], [], [], false⟩
    jobs := []
    ended := []
    maps := []
    bell := Bell.reset
    nv := NonVol.init
    work := Work.reset
    marks := Marks.init
    fw := { d.fw with sessions := [], txns := [], closed := [] } }

/-- An operation that leaves the spine as it is, and every event bit set that was. -/
abbrev Device.Runs (d e : Device) : Prop := Device.Grows Device.spine d e

section runs
variable {d e : Device}

theorem Device.Grows.runs (h : Device.Grows Device.core d e) : Device.Runs d e := h.map Device.spine

theorem Device.Runs.raise (h : Device.Runs d e) (i : Nat) (b : BitVec 24) : Device.Runs d (e.raise i b) := h.trans (Device.raise_grows i b e).runs

theorem Device.Runs.clk (h : Device.Runs d e) : e.clk = d.clk := congrArg (·.clk) h.same
theorem Device.Runs.regs (h : Device.Runs d e) : e.regs = d.regs := congrArg (·.regs) h.same
theorem Device.Runs.mode (h : Device.Runs d e) : e.pw.mode = d.pw.mode := congrArg (·.pw.mode) h.same

end runs

variable (d : Device)

/-! ### Carts and the Granary -/

theorem Device.countUnit_runs (u i : Nat) : Device.Runs d (d.countUnit u i) := .of_evts rfl rfl
theorem Device.setRegion_runs (r : Nat) (f : RegionRun → RegionRun) : Device.Runs d (d.setRegion r f) := .of_evts rfl rfl
theorem Device.discardCart_runs (s : Nat) : Device.Runs d (d.discardCart s) := .of_evts rfl rfl

theorem Device.formCartAt_runs (at_ type stream time : Nat) (tag : BitVec 16) (flags : BitVec 14) (count : Nat) (words : List Word)
    (bound dests : Nat) : Device.Runs d (d.formCartAt at_ type stream time tag flags count words bound dests) := (Device.formCartAt_grows ..).runs

theorem Device.formCart_runs (type stream time : Nat) (tag : BitVec 16) (flags : BitVec 14) (count : Nat) (words : List Word)
    (bound dests : Nat) : Device.Runs d (d.formCart type stream time tag flags count words bound dests) := Device.formCartAt_runs ..

theorem Device.closeCart_runs (s : Nat) (bound : OpenCart → Nat) : Device.Runs d (d.closeCart s bound) := by
  unfold Device.closeCart
  split
  · exact .refl d
  · exact .trans (e := { d with port := { d.port with open_ := terase d.port.open_ s } }) (.of_evts rfl rfl) (Device.formCartAt_runs ..)

theorem Device.shut_runs (s : Nat) : Device.Runs d (d.shut s) := Device.closeCart_runs ..

theorem Device.makeRoom_runs (s t n : Nat) : Device.Runs d (d.makeRoom s t n) := by
  unfold Device.makeRoom
  extract_lets cut long e
  have he : Device.Runs d e := Device.ite_grows _ (Device.shut_runs d s) (.refl d)
  exact he.trans (.of_evts rfl rfl)

theorem Device.pushElem_runs (s t at_ ready : Nat) (flags : BitVec 14) (bytes : List Byte) :
    Device.Runs d (d.pushElem s t at_ ready flags bytes) := by
  unfold Device.pushElem
  extract_lets o p e
  have he : Device.Runs d e := .of_evts rfl rfl
  exact he.trans (Device.ite_grows _ (Device.shut_runs e s) (.refl e))

theorem Device.cutAfter_runs (s next : Nat) : Device.Runs d (d.cutAfter s next) := Device.ite_grows _ (Device.shut_runs d s) (.refl d)

theorem Device.shutAll_runs : Device.Runs d d.shutAll := forList_grows _ (fun s d => Device.shut_runs d s) d

theorem Device.dropReady_runs (keep : ReadyCart → Bool) : Device.Runs d (d.dropReady keep) := by
  unfold Device.dropReady
  extract_lets gone e
  have he : Device.Runs d e := forList_grows _ (fun (x : ReadyCart) d => Device.discardCart_runs d x.cart.stream) d
  exact he.trans (.of_evts rfl rfl)

theorem Device.settleSlot_runs (r k : Nat) : Device.Runs d (d.settleSlot r k) := by
  unfold Device.settleSlot
  extract_lets x members
  refine Device.ite_grows _ (.refl d) (Device.ite_grows _ ((Device.setRegion_runs d r _).raise _ _) ?_)
  split
  · exact .refl d
  · refine Device.ite_grows _ (Device.Runs.raise ?_ _ _) (.refl d)
    exact (Device.setRegion_runs d r _).trans (.of_evts rfl rfl)

theorem Device.settleRegion_runs (r : Nat) : Device.Runs d (d.settleRegion r) := forList_grows _ (fun k d => Device.settleSlot_runs d r k) d

theorem Device.toGranary_runs (s ready at_ : Nat) (x : Elem) : Device.Runs d (d.toGranary s ready at_ x) :=
  Device.ite_grows _ (.of_evts rfl rfl) (.refl d)

theorem Device.readCart_runs (r : Nat) (x : Readout) : Device.Runs d (d.readCart r x) := by
  have hcount (k : Nat) : Device.Runs d (if k = 0 then d else d.countRegion r cntSkipped k) :=
    Device.ite_grows _ (.refl d) (.of_evts rfl rfl)
  unfold Device.readCart
  generalize d.readRest r x = rest
  cases rest with
  | nil => exact (hcount _).trans (Device.setRegion_runs ..)
  | cons e l => exact ((hcount _).trans (Device.formCart_runs ..)).trans (Device.setRegion_runs ..)

theorem Device.pumpRegion_runs (r now n : Nat) : Device.Runs d (d.pumpRegion r now n) := by
  induction n generalizing d with
  | zero => exact .refl d
  | succ n ih =>
    unfold Device.pumpRegion
    split
    · exact .refl d
    · exact Device.ite_grows _ (.refl d) ((Device.readCart_runs d r _).trans (ih _))

theorem Device.pumpPaced_runs (now : Nat) (l : List Paced) : Device.Runs d (d.pumpPaced now l) := by
  induction l generalizing d with
  | nil => exact .of_evts rfl rfl
  | cons p l ih =>
    unfold Device.pumpPaced
    exact Device.ite_grows _ ((Device.formCart_runs ..).trans (ih _)) (.of_evts rfl rfl)

theorem Device.pump_runs (now : Nat) : Device.Runs d (d.pump now) :=
  .trans (forList_grows _ (fun (x : Nat × Readout) d => Device.pumpRegion_runs d x.1 now _) d) (Device.pumpPaced_runs _ now _)

theorem Device.endSending_runs (keep : Paced → Bool) : Device.Runs d (d.endSending keep) := by
  unfold Device.endSending
  extract_lets d1 d2
  have h1 : Device.Runs d d1 := forList_grows _ (fun (x : Nat × Readout) d => (Device.setRegion_runs d x.1 _).trans (Device.complete_grows ..).runs) d
  have h2 : Device.Runs d1 d2 := by
    refine forList_grows _ (fun x d => ?_) d1
    split
    · exact .refl d
    · next w e _ =>
      have hmap : Device.Runs d (d.setMap x.1 fun y => { y with waiter := none }) := .of_evts rfl rfl
      exact hmap.trans (Device.complete_grows ..).runs
  exact (h1.trans h2).trans (.of_evts rfl rfl)

/-! ### Detections -/

theorem Device.setUnitAt_runs (u t : Nat) (r : UnitRun) : Device.Runs d (d.setUnitAt u t r) := by
  unfold Device.setUnitAt
  split <;> exact .of_evts rfl rfl

theorem Device.fire_runs (u : Nat) (x : UnitCfg) (late : Option Nat) (mark forced : Bool) (det : Detection) :
    Device.Runs d (d.fire u x late mark forced det) := by
  unfold Device.fire
  extract_lets d1 at_ r d2 c d3 f key
  have h2 : Device.Runs d d2 := (Device.countUnit_runs d u 1).trans (Device.setUnitAt_runs ..)
  have h3 : Device.Runs d2 d3 := forList_grows _ (fun v d => Device.setUnitAt_runs ..) d2
  refine (h2.trans h3).trans ?_
  split <;> exact .of_evts rfl rfl

theorem Device.detect_runs (u : Nat) (x : UnitCfg) (det : Detection) (late : Option Nat) (mark : Bool) :
    Device.Runs d (d.detect u x det late mark) := by
  unfold Device.detect
  extract_lets at_ d1 r q d2
  have h1 : Device.Runs d d1 := Device.countUnit_runs ..
  have h2 : Device.Runs d d2 := h1.trans (Device.setUnitAt_runs ..)
  exact Device.ite_grows _ (.refl d) (Device.ite_grows _ h1 (Device.ite_grows _ (h2.trans (Device.fire_runs ..)) h2))

/-! ### The Mill -/

theorem Device.maskUnit_runs (u : Nat) (x : UnitCfg) (t n : Nat) (flags : BitVec 14) : Device.Runs d (d.maskUnit u x t n flags) := by
  unfold Device.maskUnit
  extract_lets r r' fires e
  have he : Device.Runs d e := Device.setUnitAt_runs ..
  exact Device.ite_grows _ (Device.setUnitAt_runs ..) (Device.ite_grows _ (he.trans (Device.detect_runs ..)) he)

theorem Device.bandUnit_runs (u : Nat) (x : UnitCfg) (t : Nat) (p : F64) (flags : BitVec 14) : Device.Runs d (d.bandUnit u x t p flags) := by
  unfold Device.bandUnit
  extract_lets r a b hit back fires e
  have he : Device.Runs d e := Device.setUnitAt_runs ..
  exact Device.ite_grows _ (he.trans (Device.detect_runs ..)) he

theorem Device.setMap_runs (m : Nat) (f : MapRun → MapRun) : Device.Runs d (d.setMap m f) := .of_evts rfl rfl

theorem Device.sendSnapshot_runs (m s0 : Nat) : Device.Runs d (d.sendSnapshot m s0) := by
  unfold Device.sendSnapshot
  split
  · exact .refl d
  · exact .of_evts rfl rfl

theorem Device.mapBoundary_runs (m : Nat) (x : MapDue) : Device.Runs d (d.mapBoundary m x) :=
  (Device.setMap_runs d m _).trans (Device.ite_grows _ (Device.sendSnapshot_runs ..) (.refl _))

theorem Device.mapTake_runs (m : Nat) (x : MapResult) : Device.Runs d (d.mapTake m x) := by
  have hadd : Device.Runs d (d.mapAdd m x.cells) := by
    unfold Device.mapAdd
    extract_lets old full counts first e
    have he : Device.Runs d e := Device.setMap_runs ..
    exact Device.ite_grows _ (he.raise _ _) he
  exact Device.ite_grows _ (.of_evts rfl rfl) (hadd.trans (.of_evts rfl rfl))

theorem Device.mapSettle_runs (k m : Nat) : Device.Runs d (Device.mapSettle k m d) := by
  induction k generalizing d with
  | zero => exact .refl d
  | succ k ih =>
    have he (f : MapRun → MapRun) (l : List MapResult) : Device.Runs d (forList l (Device.mapTake m) (d.setMap m f)) :=
      (Device.setMap_runs d m f).trans (forList_grows l (fun y d => Device.mapTake_runs d m y) _)
    unfold Device.mapSettle
    generalize (d.map m).due.head? = x
    cases x with
    | none => exact he _ _
    | some y => exact Device.ite_grows _ (((he _ _).trans (Device.mapBoundary_runs ..)).trans (ih _)) (he _ _)

theorem Device.density_runs (j index t at_ : Nat) (cols : List Int) (flags : BitVec 14) : Device.Runs d (d.density j index t at_ cols flags) := by
  unfold Device.density
  extract_lets maps
  refine forList_grows _ (fun x d => ?_) d
  exact Device.ite_grows _ (.refl d) ((Device.setMap_runs d x.1 _).trans (Device.mapSettle_runs ..))

theorem Device.sendFragments_runs (s t at_ ready n total : Nat) (flags : BitVec 14) (words : List Word) :
    Device.Runs d (d.sendFragments s t at_ ready n total flags words) := by
  unfold Device.sendFragments
  extract_lets dest dest'
  exact forNat_grows n (fun i d => Device.formCartAt_runs ..) d

theorem Device.sendResult_runs (s t at_ ready period : Nat) (flags : BitVec 14) (words : List Word) :
    Device.Runs d (d.sendResult s t at_ ready period flags words) := by
  unfold Device.sendResult
  extract_lets n nfrag d1 off d2
  have h1 : Device.Runs d d1 := Device.makeRoom_runs ..
  have h2 : Device.Runs d1 d2 :=
    Device.ite_grows _ (.refl d1) (Device.ite_grows _ (Device.sendFragments_runs ..) (Device.pushElem_runs ..))
  exact (h1.trans h2).trans (Device.cutAfter_runs ..)

theorem Device.verdict_runs (i t : Nat) (eval has : Bool) (n : Nat) (bands : List F64) (flags : BitVec 14) :
    Device.Runs d (d.verdict i t eval has n bands flags) := by
  unfold Device.verdict
  extract_lets c d1
  have h1 : Device.Runs d d1 := Device.ite_grows _ (forList_grows _ (fun x d => Device.maskUnit_runs ..) d) (.refl d)
  exact h1.trans (Device.ite_grows _ (forList_grows _ (fun x d => Device.bandUnit_runs ..) d1) (.refl d1))

theorem Device.countJob_runs (j i : Nat) : Device.Runs d (d.countJob j i) := .of_evts rfl rfl
theorem Device.setFree_runs (n : Nat) : Device.Runs d { d with free := n } := .of_evts rfl rfl

theorem Device.emit_runs (i : Nat) (r : JobRun) (k : Taken) (c : Cfg) (j : JobCfg) : Device.Runs d (d.emit i r k c j) := by
  unfold Device.emit
  extract_lets t ready at_ avg has s flags out eval viol words d1 d2 d3 d4 d5 d6
  clear_value words viol eval out flags has avg
  have h1 : Device.Runs d d1 := Device.ite_grows _ (.refl d) (Device.setFree_runs d _)
  have h2 : Device.Runs d d2 := h1.trans (Device.countJob_runs ..)
  have h3 : Device.Runs d d3 := Device.ite_grows _ (h2.trans (Device.countJob_runs ..)) h2
  have h4 : Device.Runs d d4 := h3.trans (Device.sendResult_runs ..)
  have h5 : Device.Runs d d5 := h4.trans (Device.toGranary_runs ..)
  have h6 : Device.Runs d d6 := h5.trans (Device.verdict_runs ..)
  exact h6.trans (Device.density_runs ..)

theorem Device.setRun_runs (i : Nat) (place : Option Nat) (r : JobRun) : Device.Runs d (d.setRun i place r) := by
  unfold Device.setRun
  split <;> exact .of_evts rfl rfl

theorem Device.flushRun_runs (i : Nat) (place : Option Nat) (r : JobRun) : Device.Runs d (d.flushRun i place r) := by
  unfold Device.flushRun
  split
  · exact .refl d
  · extract_lets c
    split
    · exact .refl d
    · exact Device.ite_grows _ ((Device.setRun_runs ..).trans (Device.emit_runs ..)) (.refl d)

theorem Device.flushJob_runs (b i : Nat) : Device.Runs d (d.flushJob b i) := by
  unfold Device.flushJob
  extract_lets d1 d2
  have h1 : Device.Runs d d1 := by
    refine forNat_grows _ (fun k d => ?_) d
    split
    · exact Device.flushRun_runs ..
    · exact .refl d
  exact (h1.trans (Device.flushRun_runs ..)).trans (.of_evts rfl rfl)

theorem Device.endRun_runs (i stop : Nat) : Device.Runs d (d.endRun i stop) := Device.ite_grows _ (.refl d) (.of_evts rfl rfl)

theorem Device.stopRun_runs (b i : Nat) : Device.Runs d (d.stopRun b i) := by
  have hjob (f : JobRun → JobRun) (d : Device) : Device.Runs d (d.setJob i f) := .of_evts rfl rfl
  exact ((Device.endRun_runs d i b).trans (hjob _ _)).trans (Device.flushJob_runs ..)

/-! ### Channels, checks, calibration -/

theorem Device.setChan_runs (n : Nat) (f : ChanRun → ChanRun) : Device.Runs d (d.setChan n f) := .of_evts rfl rfl
theorem Device.setGroup_runs (g : Nat) (f : GroupRun → GroupRun) : Device.Runs d (d.setGroup g f) := .of_evts rfl rfl

theorem Device.setPoints_runs (l : List Nat) (f : Nat → PointRun → PointRun) : Device.Runs d (d.setPoints l f) :=
  forList_grows l (k := fun p d => d.setPt p (f p)) (fun _ _ => .of_evts rfl rfl) d

theorem Device.stopChan_runs (n b : Nat) (old : Cfg) : Device.Runs d (d.stopChan n b old) :=
  (Device.setChan_runs d n _).trans (Device.setPoints_runs ..)

theorem Device.abandonCheck_runs (g t : Nat) : Device.Runs d (d.abandonCheck g t) := by
  unfold Device.abandonCheck
  split
  · exact .refl d
  · exact (Device.setGroup_runs d g _).trans (forList_grows _ (fun n d => Device.setChan_runs d n _) _)

theorem Device.stopChecks_runs (b : Nat) : Device.Runs d (d.stopChecks b) :=
  forNat_grows 32 (fun g d => (Device.abandonCheck_runs d g b).trans (Device.setGroup_runs ..)) d

theorem Device.startWrite_runs : Device.Runs d d.startWrite := by
  unfold Device.startWrite
  split
  · exact .refl d
  · extract_lets b c
    exact Device.ite_grows _ (.of_evts rfl rfl) (.of_evts rfl rfl)

theorem Device.abortCal_runs : Device.Runs d d.abortCal := by
  unfold Device.abortCal
  split
  · exact .refl d
  · extract_lets mine head c w d1 d2 d3
    have h1 : Device.Runs d d1 := .of_evts rfl rfl
    have h2 : Device.Runs d1 d2 := Device.ite_grows _ (Device.startWrite_runs d1) (.refl d1)
    have h3 : Device.Runs d2 d3 := (Device.completeOpt_grows ..).runs
    exact Device.ite_grows _ (.refl d) (((h1.trans h2).trans h3).trans (forList_grows _ (fun w d => (Device.completeOpt_grows ..).runs) d3))

theorem Device.dropCal_runs : Device.Runs d d.dropCal := (Device.abortCal_runs d).trans (.of_evts rfl rfl)

theorem Device.haltRegion_runs (b r : Nat) : Device.Runs d (d.haltRegion b r) := (Device.setRegion_runs d r _).trans (Device.settleRegion_runs ..)

theorem Device.setMarks_runs (m : Marks) : Device.Runs d { d with marks := m } := .of_evts rfl rfl

theorem Device.leaveRun_runs (b : Nat) : Device.Runs d (d.leaveRun b) := by
  unfold Device.leaveRun
  extract_lets cfg d1 d2 m d3 d4
  have h1 : Device.Runs d d1 := forList_grows _ (fun n d => Device.stopChan_runs ..) d
  have h2 : Device.Runs d1 d2 := Device.stopChecks_runs ..
  have h3 : Device.Runs d2 d3 := Device.setMarks_runs d2 { m with runs := spanClose b d2.marks.runs }
  have h4 : Device.Runs d3 d4 := forList_grows _ (fun i d => Device.stopRun_runs ..) d3
  exact (((h1.trans h2).trans h3).trans h4).trans (forList_grows _ (fun r d => Device.haltRegion_runs ..) d4)

theorem Device.leaveMaintain_runs (m : Mode) : Device.Runs d (d.leaveMaintain m) := Device.ite_grows _ (.of_evts rfl rfl) (.refl d)

end Sys2Proof.Machine
end

section
namespace Sys2Proof.Machine

/-! The entry to SAFE, and what a loss of lock leads to. -/

/-- The clocks, registers and power state of a device. -/
def Device.still (d : Device) : Device := { d.spine with fw := Fw.reset }

theorem Device.Grows.still {d e : Device} (h : Device.Runs d e) : Device.Grows Device.still d e := h.map fun x => { x with fw := Fw.reset }

theorem Device.Grows.power {d e : Device} (h : Device.Grows Device.still d e) : e.pw.mode = d.pw.mode ∧ e.pw.safeCause = d.pw.safeCause ∧
    e.pw.prior = d.pw.prior ∧ e.pw.modeSince = d.pw.modeSince ∧ e.pw.declared = d.pw.declared ∧ e.pw.pending = d.pw.pending ∧
    e.pw.rails = d.pw.rails ∧ e.pw.vhv = d.pw.vhv ∧ e.clk.time = d.clk.time :=
  ⟨congrArg (·.pw.mode) h.same, congrArg (·.pw.safeCause) h.same, congrArg (·.pw.prior) h.same, congrArg (·.pw.modeSince) h.same,
    congrArg (·.pw.declared) h.same, congrArg (·.pw.pending) h.same, congrArg (·.pw.rails) h.same, congrArg (·.pw.vhv) h.same,
    congrArg (·.clk.time) h.same⟩

/-! ### What SAFE ends -/

section
variable (d : Device)

theorem Device.tell_runs (x : OutFrame) : Device.Runs d (d.tell x) := (Device.send_grows x d).runs.trans (.of_evts rfl rfl)

theorem Device.setReservations_runs (rs : List Reservation) : Device.Runs d (d.setReservations rs) := by
  unfold Device.setReservations
  extract_lets old news stale f e
  have he : Device.Runs d e := .of_evts rfl rfl
  exact he.trans (forList_grows news (fun a d => Device.tell_runs d _) e)

theorem Device.cancelAsk_runs (key : Nat) : Device.Runs d (d.cancelAsk key) :=
  Device.ite_grows _ (Device.setReservations_runs ..) (Device.tell_runs ..)

theorem Device.dropComing_runs (coord : Option Nat) (id : Nat) : Device.Runs d (d.dropComing coord id) :=
  .trans (e := { d with fab := { d.fab with coming := d.fab.coming.filter fun c => !(c.isOf coord id) } }) (.of_evts rfl rfl)
    (forList_grows _ (fun k d => Device.cancelAsk_runs d k) _)

theorem Device.settleTxn_runs (st : TxnState) (t : Txn) : Device.Runs d (d.settleTxn st t) := .of_evts rfl rfl
theorem Device.setTxn_runs (coord : Option Nat) (id : Nat) (f : Txn → Txn) : Device.Runs d (d.setTxn coord id f) := .of_evts rfl rfl

theorem Device.discardBatches_still : Device.Grows Device.still d d.discardBatches := by
  unfold Device.discardBatches
  extract_lets gone d1 held d2
  have h1 : Device.Runs d d1 := forList_grows gone (fun t d => (Device.dropComing_runs d t.coord t.id).trans (Device.settleTxn_runs ..)) d
  have h2 : Device.Runs d1 d2 := forList_grows held (fun t d => (Device.dropComing_runs d t.coord t.id).trans (Device.setTxn_runs ..)) d1
  exact (h1.trans h2).still.trans (.of_evts rfl rfl)

/-- The device with no change of mode under way. -/
def Device.unchanging (d : Device) : Device :=
  { d with pw := { d.pw with pending := none, hearth := none, hearthWaiter := none, wake := none } }

theorem Device.cancelChanges_still : Device.Grows Device.still d.unchanging d.cancelChanges := by
  unfold Device.cancelChanges
  extract_lets p d1 deny d2 d3 d4
  have hdeny (w : Option Waiter) (d : Device) : Device.Grows Device.still d (deny w d) := (Device.completeOpt_grows ..).runs.still
  exact (((hdeny _ d1).trans (hdeny _ d2)).trans (hdeny _ d3)).trans (hdeny _ d4)

/-- What SAFE ends before the mode changes. -/
def Device.ceased (b : Nat) (d : Device) : Device :=
  ((if d.pw.mode = .run then d.leaveRun b else d).leaveMaintain .safe).shutAll.dropCal.discardBatches

theorem Device.ceased_still (b : Nat) : Device.Grows Device.still d (d.ceased b) := by
  have hrun : Device.Runs d (if d.pw.mode = .run then d.leaveRun b else d) := Device.ite_grows _ (Device.leaveRun_runs d b) (.refl d)
  exact (((hrun.trans (Device.leaveMaintain_runs ..)).trans (Device.shutAll_runs _)).trans (Device.dropCal_runs _)).still.trans
    (Device.discardBatches_still _)

/-- The device as it enters SAFE, before what waits for a change of mode is answered. -/
def Device.safed (cause : Nat) (p : Power) (d : Device) : Device := ({ d with pw := p }.toSafe cause).unchanging

theorem Device.safed_spec (cause : Nat) (p : Power) :
    (d.safed cause p).clk = d.clk ∧ (d.safed cause p).regs = d.regs ∧
      (∀ i j, (d.evt i).bits.getLsbD j = true → ((d.safed cause p).evt i).bits.getLsbD j = true) ∧
      ((d.safed cause p).evt evSys).bits.getLsbD sysSafe = true :=
  ⟨Device.toSafe_clk cause { d with pw := p }, Device.toSafe_regs cause { d with pw := p }, (Device.toSafe_frame cause { d with pw := p }).bits,
    Device.toSafe_bit cause { d with pw := p }⟩

theorem Device.safed_pw (cause : Nat) (p : Power) :
    let q := (d.safed cause p).pw
    q.mode = .safe ∧ q.safeCause = cause ∧ q.prior = p.mode ∧ q.modeSince = d.clk.time ∧ q.declared = p.declared ∧ q.pending = none ∧
      q.rails = p.rails ∧ q.vhv = p.vhv := by
  unfold Device.safed Device.unchanging
  rw [Device.toSafe_pw]
  exact ⟨rfl, rfl, rfl, rfl, rfl, rfl, rfl, rfl⟩

/-- A power state in which the mode changes to SAFE: no cause waits, and whether the device slept. -/
def Power.safing (asleep : Bool) (p : Power) : Power := { p with declared := none, safeAsleep := asleep }

theorem Power.safing_fields (asleep : Bool) (p : Power) : (p.safing asleep).mode = p.mode ∧ (p.safing asleep).declared = none ∧
    (p.safing asleep).rails = p.rails ∧ (p.safing asleep).vhv = p.vhv := ⟨rfl, rfl, rfl, rfl⟩

def Device.safing (b : Nat) (d : Device) : Power := (d.ceased b).pw.safing (decide (d.pw.mode = .hearth) || d.pw.wake.isSome)

theorem Device.enterSafe_eq (b cause : Nat) : d.enterSafe b cause =
    (((Device.toSafe cause { d.ceased b with pw := d.safing b }).cancelChanges.endSending fun x => x.type == 7).dropReady
      fun x => x.cart.type == 7) := rfl

theorem Device.enterSafe_still (b cause : Nat) : Device.Grows Device.still ((d.ceased b).safed cause (d.safing b)) (d.enterSafe b cause) := by
  rw [Device.enterSafe_eq, Device.safed]
  generalize Device.toSafe cause { d.ceased b with pw := d.safing b } = e
  exact (Device.cancelChanges_still e).trans ((Device.endSending_runs _ _).trans (Device.dropReady_runs _ _)).still

/-- SAFE at the boundary b: the clocks and registers stand, and the events that are recorded. -/
theorem Device.enterSafe_grows (b cause : Nat) : Device.Grows (fun d => (d.clk, d.regs)) d (d.enterSafe b cause) ∧
    ((d.enterSafe b cause).evt evSys).bits.getLsbD sysSafe = true := by
  have h1 := d.ceased_still b
  have h3 := d.enterSafe_still b cause
  obtain ⟨hclk, hregs, hbits, hbit⟩ := (d.ceased b).safed_spec cause (d.safing b)
  generalize (d.ceased b).safed cause (d.safing b) = e at h3 hclk hregs hbits hbit
  generalize d.ceased b = c at h1 hclk hregs hbits
  refine ⟨⟨Prod.ext ?_ ?_, fun i j h => h3.bits i j (hbits i j (h1.bits i j h))⟩, h3.bits _ _ hbit⟩
  · exact ((congrArg (·.clk) h3.same).trans hclk).trans (congrArg (·.clk) h1.same)
  · exact ((congrArg (·.regs) h3.same).trans hregs).trans (congrArg (·.regs) h1.same)

/-- The power state shows the mode, its cause, and that nothing waits for a change. -/
theorem Device.enterSafe_pw (b cause : Nat) :
    (d.enterSafe b cause).pw.mode = .safe ∧ (d.enterSafe b cause).pw.safeCause = cause ∧ (d.enterSafe b cause).pw.prior = d.pw.mode ∧
      (d.enterSafe b cause).pw.modeSince = d.clk.time ∧ (d.enterSafe b cause).pw.declared = none ∧ (d.enterSafe b cause).pw.pending = none ∧
      (d.enterSafe b cause).pw.rails = d.pw.rails ∧ (d.enterSafe b cause).pw.vhv = d.pw.vhv := by
  obtain ⟨hmode1, -, -, -, -, -, hrails1, hvhv1, htime⟩ := (d.ceased_still b).power
  obtain ⟨hmode3, hcause3, hprior3, hsince3, hdecl3, hpend3, hrails3, hvhv3, -⟩ := (d.enterSafe_still b cause).power
  obtain ⟨hmode, hcause, hprior, hsince, hdecl, hpend, hrails, hvhv⟩ := (d.ceased b).safed_pw cause (d.safing b)
  obtain ⟨hp1, hp2, hp3, hp4⟩ := Power.safing_fields (decide (d.pw.mode = .hearth) || d.pw.wake.isSome) (d.ceased b).pw
  rw [← Device.safing] at hp1 hp2 hp3 hp4
  rw [hmode3, hcause3, hprior3, hsince3, hdecl3, hpend3, hrails3, hvhv3, hmode, hcause, hprior, hsince, hdecl, hpend, hrails, hvhv, hp1, hp2, hp3,
    hp4, hmode1, hrails1, hvhv1, htime]
  exact ⟨rfl, rfl, rfl, rfl, rfl, rfl, rfl, rfl⟩

theorem Device.safeAtOnce_grows (was : Power) : Device.Grows (fun d => (d.clk, d.regs)) d (d.safeAtOnce was) := by
  unfold Device.safeAtOnce
  refine Device.ite_grows _ (.trans ((Device.pump_runs d d.clk.time).map fun x => (x.clk, x.regs)) ?_) (.refl d)
  exact ((d.pump d.clk.time).enterSafe_grows d.clk.time 6).1

end

/-! ### A loss of lock -/

/-- The device when the loss comes: its clocks have moved on. -/
structure Arrives (d e : Device) (t : Nat) : Prop where
  syn : ∀ x, e.syn x = d.syn x
  clk : { e.clk with time := d.clk.time } = d.clk
  time : e.clk.time = (d.tickTo t).clk.time
  rest : { e with clk := d.clk } = d

theorem Device.tickTo_arrives (t : Nat) (d : Device) : Arrives d (d.tickTo t) t where
  syn _ := Device.tickTo_syn ..
  clk := by rw [Device.tickTo_eq]
  time := rfl
  rest := by rw [Device.tickTo_eq]

section lost
variable {s : State} {x : SynId} {t : Nat}

theorem exec_lockLost : ∃ e, Arrives s.dev e t ∧ exec (.lockLost x t) s =
    .next { s with dev := (e.loseLock x (Max.max t s.dev.clk.time)).safeAtOnce s.dev.pw } := ⟨_, Device.tickTo_arrives t s.dev, rfl⟩

/-- The active synthesizer hands over to a READY standby. -/
theorem lockLostSwitches (h : (s.dev.syn x).state = .active) (hready : (s.dev.syn (SynId.other x)).state = .ready) :
    Completes (.lockLost x t) s fun u =>
      DeviceOnly s u ∧ (u.dev.syn x).state = .unlocked ∧ (u.dev.syn x).lost = true ∧ (u.dev.syn (SynId.other x)).state = .active ∧
      u.dev.clk.driver = (SynId.other x) ∧ u.dev.clk.coasting = s.dev.clk.coasting ∧
      u.dev.cnt = { s.dev.cnt with synSwitches := s.dev.cnt.synSwitches + 1#32 } ∧
      (u.dev.evt evClk).bits.getLsbD (clkLost x) = true ∧ (u.dev.evt evClk).bits.getLsbD (clkSwitch (SynId.other x)) = true ∧
      u.dev.marks.clksw = Max.max t s.dev.clk.time / Config.epochTicks :: s.dev.marks.clksw ∧
      u.dev.clk.time = (s.dev.tickTo t).clk.time ∧ u.dev.fw = s.dev.fw ∧ u.dev.pw = s.dev.pw := by
  obtain ⟨e, ⟨hsyn, hclk, htime, hrest⟩, hexec⟩ := exec_lockLost (s := s) (x := x) (t := t)
  have hfw : e.fw = s.dev.fw := congrArg (·.fw) hrest
  have hpw : e.pw = s.dev.pw := congrArg (·.pw) hrest
  have hcnt : e.cnt = s.dev.cnt := congrArg (·.cnt) hrest
  have hmarks : e.marks = s.dev.marks := congrArg (·.marks) hrest
  have hcoast : e.clk.coasting = s.dev.clk.coasting := congrArg (·.coasting) hclk
  rw [Device.loseLock_switch _ (by rw [hsyn]; exact h) (by rw [hsyn]; exact hready), Device.safeAtOnce_of_pw (by simp [hpw])] at hexec
  refine ⟨_, hexec, ⟨rfl, rfl⟩, ?_, ?_, ?_, Device.switchTo_driver _ _, ?_, ?_, (Device.switchTo_grows _ _).bits _ _ (Device.lockGone_bit e),
    Device.switchTo_bit _ _, ?_, ?_, ?_, ?_⟩
  · rw [Device.syn_switchTo_other, Device.syn_synState_same]
    rfl
  · rw [Device.syn_switchTo_other, Device.syn_synState_same, Device.lockGone_same]
    rfl
  · rw [Device.switchTo_same]
  · rw [← hcoast, ← (Device.lockGone_counter x e).2.1, Device.switchTo_clk]
    exact ((Device.setSyn_counter ..).2.1).trans (Device.setSyn_counter ..).2.1
  · simp [hcnt]
  · simp [hmarks, Device.lockGone]
  · simp [htime]
  · simp [hfw]
  · simp [hpw]

/-- A standby only waits to retry. -/
theorem lockLostStandby (h : (s.dev.syn x).state = .ready ∨ (s.dev.syn x).state = .align) : Completes (.lockLost x t) s fun u =>
    DeviceOnly s u ∧ u.dev.syn x = { s.dev.syn x with
      state := .unlocked
      good := 0
      lost := true
      due := u.dev.clk.time + (if (s.dev.syn x).failed then 3000000 else 300000) } ∧
    u.dev.syn (SynId.other x) = s.dev.syn (SynId.other x) ∧ u.dev.clk.activeB = s.dev.clk.activeB ∧ u.dev.clk.coasting = s.dev.clk.coasting ∧
    (u.dev.evt evClk).bits.getLsbD (clkLost x) = true := by
  obtain ⟨e, ⟨hsyn, hclk, -, hrest⟩, hexec⟩ := exec_lockLost (s := s) (x := x) (t := t)
  have hpw : e.pw = s.dev.pw := congrArg (·.pw) hrest
  have hB : e.clk.activeB = s.dev.clk.activeB := congrArg (·.activeB) hclk
  have hcoast : e.clk.coasting = s.dev.clk.coasting := congrArg (·.coasting) hclk
  rw [Device.loseLock_standby _ (by rw [hsyn]; exact h.symm), Device.safeAtOnce_of_pw (by simp [hpw])] at hexec
  have hactive (f : Syn → Syn) (d : Device) : (d.setSyn x f).clk.activeB = d.clk.activeB := by cases x <;> rfl
  refine ⟨_, hexec, ⟨rfl, rfl⟩, ?_, ?_, ?_, ?_, Device.lockGone_bit e⟩
  · rw [Device.syn_synState_same, Device.lockGone_same, Device.synState_time, hsyn]
    rfl
  · rw [Device.syn_other_synState, Device.lockGone_other, hsyn]
  · refine (hactive _ _).trans ?_
    rw [Device.lockGone, Device.raise_clk, hactive, hB]
  · rw [← hcoast, ← (Device.lockGone_counter x e).2.1]
    exact (Device.setSyn_counter ..).2.1

section coast
variable (h : (s.dev.syn x).state = .active) (hready : (s.dev.syn (SynId.other x)).state ≠ .ready)
include h hready

/-- Without a READY standby the device coasts on B. -/
theorem lockLostCoasts (hother : (s.dev.syn (SynId.other x)).state ≠ .active) (hheld : s.dev.clk.synB.held.isSome = true) :
    Completes (.lockLost x t) s fun u =>
      DeviceOnly s u ∧ u.dev.clk.coasting = true ∧ u.dev.clk.driver = .B ∧ u.dev.clk.synB.state = .coast ∧
      u.dev.clk.synA.state ≠ .active ∧ (u.dev.evt evClk).bits.getLsbD clkBothLost = true ∧
      (u.dev.evt evClk).bits.getLsbD (clkLost x) = true ∧ u.dev.cnt = s.dev.cnt ∧ u.dev.clk.time = (s.dev.tickTo t).clk.time ∧
      u.dev.clk.steer = s.dev.clk.steer ∧ u.dev.fw = s.dev.fw ∧
      (x = .B → s.dev.clk.change ≠ 1 → s.dev.clk.synA.state ≠ .off → u.dev.clk.synA = s.dev.clk.synA) := by
  obtain ⟨e, ⟨hsyn, hclk, htime, hrest⟩, hexec⟩ := exec_lockLost (s := s) (x := x) (t := t)
  have hfw : e.fw = s.dev.fw := congrArg (·.fw) hrest
  have hpw : e.pw = s.dev.pw := congrArg (·.pw) hrest
  have hcnt : e.cnt = s.dev.cnt := congrArg (·.cnt) hrest
  have hsteer : e.clk.steer = s.dev.clk.steer := congrArg (·.steer) hclk
  have hB : e.clk.synB = s.dev.clk.synB := congrArg (·.synB) hclk
  have hA : e.clk.synA = s.dev.clk.synA := congrArg (·.synA) hclk
  have hchange : e.clk.change = s.dev.clk.change := congrArg (·.change) hclk
  have hheld' : (e.lockGone x).clk.synB.held.isSome = true := by rw [Device.lockGone_held, hB, hheld]
  obtain ⟨-, -, hdecl⟩ := Device.coast_pw_of_held hheld' (Max.max t s.dev.clk.time)
  rw [Device.lockGone_pw, hpw] at hdecl
  rw [Device.loseLock_coast _ (by rw [hsyn]; exact h) (by rw [hsyn]; exact hready), Device.safeAtOnce_eq hdecl] at hexec
  obtain ⟨hc, hd, hsynB, hsynA, hkeep⟩ := Device.coast_syns (Max.max t s.dev.clk.time) (e.lockGone x)
  have hgrows := (e.lockGone_grows (x := x)).trans (Device.coast_grows (Max.max t s.dev.clk.time) (e.lockGone x))
  refine ⟨_, hexec, ⟨rfl, rfl⟩, hc, hd, by rw [hsynB]; rfl, hsynA, Device.coast_bit _ _, (Device.coast_grows _ _).bits _ _ (Device.lockGone_bit e),
    by simp [hcnt], (congrArg (·.1.time) hgrows.same).trans htime, (congrArg (·.1.steer) hgrows.same).trans hsteer, by simp [hfw], ?_⟩
  rintro rfl hch hoff
  have hgone : (e.lockGone .B).clk.synA = s.dev.clk.synA := (Device.lockGone_other (x := .B) e).trans hA
  have hgch : (e.lockGone .B).clk.change = s.dev.clk.change := by
    rw [Device.lockGone, Device.raise_clk]
    exact hchange
  exact (hkeep (by rw [hgch]; exact hch) (by rw [hgone]; exact hoff) (by rw [hgone]; exact hother)).trans hgone

/-- Where B has never held a control word, SAFE is entered at once under cause 6. -/
theorem lockLostUnheld (hheld : s.dev.clk.synB.held = none) (hsafe : s.dev.pw.mode ≠ .safe) (hdecl : s.dev.pw.declared = none) :
    Completes (.lockLost x t) s fun u =>
      DeviceOnly s u ∧ u.dev.clk.coasting = true ∧ u.dev.pw.mode = .safe ∧ u.dev.pw.safeCause = 6 ∧
      (u.dev.evt evSys).bits.getLsbD sysSafe = true := by
  obtain ⟨e, ⟨hsyn, hclk, -, hrest⟩, hexec⟩ := exec_lockLost (s := s) (x := x) (t := t)
  have hpw : e.pw = s.dev.pw := congrArg (·.pw) hrest
  have hB : e.clk.synB = s.dev.clk.synB := congrArg (·.synB) hclk
  rw [Device.loseLock_coast _ (by rw [hsyn]; exact h) (by rw [hsyn]; exact hready)] at hexec
  obtain ⟨hc, -⟩ := Device.coast_syns (Max.max t s.dev.clk.time) (e.lockGone x)
  have hcases := Device.coast_pw_of_unheld (d := e.lockGone x) (by rw [Device.lockGone_held, hB, hheld]) (by rw [Device.lockGone_pw, hpw]; exact hsafe)
    (by rw [Device.lockGone_pw, hpw]; exact hdecl) (Max.max t s.dev.clk.time)
  generalize (e.lockGone x).coast (Max.max t s.dev.clk.time) = f at hc hcases hexec
  rcases hcases with ⟨hmode, hcause, hnone, hbit⟩ | hsix
  · rw [Device.safeAtOnce_eq fun _ => by rw [hnone]; exact nofun] at hexec
    exact ⟨_, hexec, ⟨rfl, rfl⟩, hc, hmode, hcause, hbit⟩
  · have hgrows := f.safeAtOnce_grows s.dev.pw
    rw [Device.safeAtOnce, if_pos ⟨hdecl, hsix⟩] at hexec hgrows
    obtain ⟨hmode, hcause, -⟩ := (f.pump f.clk.time).enterSafe_pw f.clk.time 6
    exact ⟨_, hexec, ⟨rfl, rfl⟩, (congrArg (·.1.coasting) hgrows.same).trans hc, hmode, hcause, (Device.enterSafe_grows ..).2⟩

end coast

end lost

end Sys2Proof.Machine
end

section
namespace Sys2Proof.Machine

/-! O17: the loss of the base, and the losses of lock. -/

section
variable {d : Device} {x : SynId} (t : Nat)

/-- A synthesizer that is not active waits to retry, or stays as it is. -/
theorem Device.loseLock_inactive (h : (d.syn x).state ≠ .active) :
    d.loseLock x t = d ∨ d.loseLock x t = (d.lockGone x).synState x .unlocked := by
  by_cases hl : (d.syn x).state = .align ∨ (d.syn x).state = .ready
  · exact .inr (Device.loseLock_standby t hl)
  · exact .inl (Device.loseLock_unlocked t (by tauto))

theorem Device.standby_counter (x : SynId) (d : Device) :
    let e := (d.lockGone x).synState x .unlocked
    e.clk.driver = d.clk.driver ∧ e.clk.coasting = d.clk.coasting ∧ e.clk.synB.held = d.clk.synB.held ∧ e.pw = d.pw ∧ e.fw = d.fw := by
  obtain ⟨h1, h2, -⟩ := Device.setSyn_counter x (Syn.enter (d.lockGone x).clk.time .unlocked) (d.lockGone x)
  obtain ⟨h3, h4, -⟩ := Device.lockGone_counter x d
  refine ⟨h1.trans h3, h2.trans h4, ?_, by simp, by simp⟩
  rw [← Device.lockGone_held x d]
  cases x <;> rfl

theorem Device.standby_grows (x : SynId) (d : Device) :
    Device.Grows (fun e => (e.clk.rooted, e.unclocked)) d ((d.lockGone x).synState x .unlocked) :=
  (d.lockGone_grows (x := x)).trans (Device.synState_grows ..)

theorem Device.loseLock_grows (x : SynId) (t : Nat) (d : Device) :
    Device.Grows (fun e => (e.clk.rooted, e.unclocked)) d (d.loseLock x t) := by
  by_cases h : (d.syn x).state = .active
  · by_cases hready : (d.syn (SynId.other x)).state = .ready
    · rw [Device.loseLock_switch t h hready]
      exact (Device.standby_grows x d).trans (Device.switchTo_grows _ _)
    · rw [Device.loseLock_coast t h hready]
      exact d.lockGone_grows.trans (Device.coast_grows ..)
  · rcases Device.loseLock_inactive t h with h | h <;> rw [h]
    · exact .refl d
    · exact Device.standby_grows x d

theorem Device.declareSafe_ne {c k : Nat} (hk : c ≠ k) {e : Device} (h : e.pw.declared ≠ some k) : (e.declareSafe c).pw.declared ≠ some k := by
  unfold Device.declareSafe
  split
  · rw [Device.logPut_pw]
    exact h
  · split
    · rw [Device.toSafe_pw]
      exact h
    · exact fun hc => hk (Option.some.inj hc)

theorem Device.coastCauses_ne {e : Device} (hheld : e.clk.synB.held.isSome = true) (h : e.pw.declared ≠ some 6) :
    e.coastCauses.pw.declared ≠ some 6 := by
  have hcauses : e.coastCauses = if e.clk.xoOk then e else e.declareSafe 3 := by
    simp [Device.coastCauses, Option.isSome_iff_ne_none.mp hheld]
  rw [hcauses]
  split
  · exact h
  · exact Device.declareSafe_ne (by decide) h

/-- A loss of lock under a held word declares no cause 6, and leaves the word. -/
theorem Device.loseLock_held (hheld : d.clk.synB.held.isSome = true) (h : d.pw.declared ≠ some 6) :
    (d.loseLock x t).clk.synB.held.isSome = true ∧ (d.loseLock x t).pw.declared ≠ some 6 := by
  by_cases hact : (d.syn x).state = .active
  · by_cases hready : (d.syn (SynId.other x)).state = .ready
    · rw [Device.loseLock_switch t hact hready, Device.switchTo_pw, Device.synState_pw, Device.lockGone_pw, Device.switchTo_clk]
      refine ⟨?_, h⟩
      rw [← hheld, ← Device.lockGone_held x d]
      cases x <;> rfl
    · obtain ⟨e, he, hpw, hB, -⟩ := Device.coast_causes t (d.lockGone x)
      obtain ⟨-, -, hsynB, -⟩ := Device.coast_syns t (d.lockGone x)
      have hh : (d.lockGone x).clk.synB.held.isSome = true := by rw [Device.lockGone_held]; exact hheld
      rw [Device.loseLock_coast t hact hready]
      refine ⟨by rw [hsynB]; exact hh, ?_⟩
      rw [he]
      exact Device.coastCauses_ne (by rw [hB]; exact hh) (by rw [hpw, Device.lockGone_pw]; exact h)
  · obtain ⟨-, -, hB, hpw, -⟩ := Device.standby_counter x d
    rcases Device.loseLock_inactive t hact with he | he <;> rw [he]
    · exact ⟨hheld, h⟩
    · exact ⟨by rw [hB]; exact hheld, by rw [hpw]; exact h⟩

@[simp] theorem Device.loseLock_fw (x : SynId) (t : Nat) (d : Device) : (d.loseLock x t).fw = d.fw := by
  by_cases hact : (d.syn x).state = .active
  · by_cases hready : (d.syn (SynId.other x)).state = .ready
    · simp [Device.loseLock_switch t hact hready]
    · simp [Device.loseLock_coast t hact hready]
  · rcases Device.loseLock_inactive t hact with he | he <;> simp [he]

/-- The device coasts on B. -/
structure Coasts (d : Device) : Prop where
  coasting : d.clk.coasting = true
  driver : d.clk.driver = .B
  synB : d.clk.synB.state = .coast
  synA : d.clk.synA.state ≠ .active
  bit : (d.evt evClk).bits.getLsbD clkBothLost = true

theorem Device.coast_coasts (d : Device) : Coasts (d.coast t) := by
  obtain ⟨hc, hd, hB, hA, -⟩ := Device.coast_syns t d
  exact ⟨hc, hd, by rw [hB]; rfl, hA, Device.coast_bit t d⟩

/-- Another loss of lock does not end a coast. -/
theorem Coasts.loseLock (h : Coasts d) : Coasts (d.loseLock x t) ∧ (d.loseLock x t).pw = d.pw := by
  obtain ⟨hc, hd, hB, hA, hbit⟩ := h
  cases x with
  | B =>
    have hB' : (d.syn .B).state = .coast := hB
    rw [Device.loseLock_unlocked t (by rw [hB']; decide)]
    exact ⟨⟨hc, hd, hB, hA, hbit⟩, rfl⟩
  | A =>
    obtain ⟨h1, h2, -, h4, -⟩ := Device.standby_counter .A d
    rcases Device.loseLock_inactive (x := .A) t hA with he | he <;> rw [he]
    · exact ⟨⟨hc, hd, hB, hA, hbit⟩, rfl⟩
    · have hother : ((d.lockGone .A).synState .A .unlocked).clk.synB = d.clk.synB :=
        (Device.syn_other_synState .A .unlocked (d.lockGone .A)).trans (Device.lockGone_other (x := .A) d)
      exact ⟨⟨h2.trans hc, h1.trans hd, by rw [hother]; exact hB, nofun, (Device.standby_grows .A d).bits _ _ hbit⟩, h4⟩

/-- The active synthesizer of two that cannot hand over loses lock: B coasts, under the cause that the missing base gives. -/
theorem Device.lostWithoutPartner (hact : (d.syn x).state = .active) (hready : (d.syn (SynId.other x)).state ≠ .ready) :
    Coasts (d.loseLock x t) ∧ (d.clk.synB.held.isSome = true → d.clk.xoOk = false → d.pw.mode ≠ .boot → d.pw.mode ≠ .safe →
      d.pw.declared = none → (d.loseLock x t).pw.declared = some 3) := by
  rw [Device.loseLock_coast t hact hready]
  refine ⟨Device.coast_coasts t _, fun hheld hxo hboot hsafe hdecl => ?_⟩
  obtain ⟨-, hthree, -⟩ := Device.coast_pw_of_held (d := d.lockGone x) (by rw [Device.lockGone_held]; exact hheld) t
  rw [Device.lockGone_pw] at hthree
  exact congrArg Power.declared (hthree ((Device.lockGone_counter x d).2.2.trans hxo) hboot hsafe hdecl)

/-- Both synthesizers lose lock while x drives ROOT. -/
theorem Device.bothLost (hact : (d.syn x).state = .active) :
    let e := (d.loseLock (SynId.other x) t).loseLock x t
    Coasts e ∧ (d.clk.synB.held.isSome = true → d.clk.xoOk = false → d.pw.mode ≠ .boot → d.pw.mode ≠ .safe → d.pw.declared = none →
      e.pw.declared = some 3) := by
  by_cases hother : (d.syn (SynId.other x)).state = .active
  · have hx : (d.syn (SynId.other (SynId.other x))).state ≠ .ready := by rw [SynId.other_other, hact]; decide
    obtain ⟨hcoasts, hdecl⟩ := Device.lostWithoutPartner t hother hx
    obtain ⟨hstays, hpw⟩ := hcoasts.loseLock (x := x) t
    exact ⟨hstays, fun h1 h2 h3 h4 h5 => by rw [hpw]; exact hdecl h1 h2 h3 h4 h5⟩
  · by_cases hl : (d.syn (SynId.other x)).state = .align ∨ (d.syn (SynId.other x)).state = .ready
    · rw [Device.loseLock_standby t hl]
      obtain ⟨-, -, hB, hpw, -⟩ := Device.standby_counter (SynId.other x) d
      have hxo := congrArg (·.1.xoOk) (Device.standby_grows (SynId.other x) d).same
      have hx : (((d.lockGone (SynId.other x)).synState (SynId.other x) .unlocked).syn x) = d.syn x := by
        rw [Device.syn_synState_other, Device.lockGone, Device.raise_syn, Device.syn_setSyn_other]
      have hy : (((d.lockGone (SynId.other x)).synState (SynId.other x) .unlocked).syn (SynId.other x)).state ≠ .ready := by
        rw [Device.syn_synState_same]
        exact nofun
      obtain ⟨hcoasts, hdecl⟩ := Device.lostWithoutPartner t (by rw [hx]; exact hact) hy
      refine ⟨hcoasts, fun h1 h2 h3 h4 h5 => hdecl (by rw [hB]; exact h1) (hxo.trans h2) ?_ ?_ ?_⟩ <;> rw [hpw]
      exacts [h3, h4, h5]
    · rw [Device.loseLock_unlocked (x := SynId.other x) t (by tauto)]
      exact Device.lostWithoutPartner t hact (by tauto)

end

/-- What the loss of the base leaves of the clocks, and what it declares. -/
theorem Device.baseAbsent_spec (d : Device) :
    let e := d.baseAbsent
    e.clk.xoOk = false ∧ e.clk.time = d.clk.time ∧ e.fw = d.fw ∧
      (d.clk.synB.held.isSome = true → d.pw.declared ≠ some 6 → e.pw.declared ≠ some 6) ∧
      ((d.syn d.clk.driver).state = .active → d.clk.coasting = false → Coasts e) ∧
      (d.pw.mode ≠ .boot → d.pw.mode ≠ .safe → d.pw.declared = none →
        (d.clk.coasting = true ∧ d.clk.synA.state ≠ .active) ∨
        (d.clk.coasting = false ∧ (d.syn d.clk.driver).state = .active ∧ d.clk.synB.held.isSome = true) → e.pw.declared = some 3) := by
  intro e
  let f : Device := { d with clk := { d.clk with xoOk := false } }
  have he : e = if f.clk.coasting then (f.loseLock .A f.clk.time).declareSafe 3
      else (f.loseLock (SynId.other f.clk.driver) f.clk.time).loseLock f.clk.driver f.clk.time := rfl
  have hsyn (x : SynId) : f.syn x = d.syn x := by cases x <;> rfl
  cases hc : d.clk.coasting with
  | true =>
    rw [he, if_pos (show f.clk.coasting = true from hc)]
    have hgrows := Device.loseLock_grows .A f.clk.time f
    refine ⟨?_, ?_, ?_, fun hheld hdecl => ?_, fun _ hf => absurd hf (by decide), fun hboot hsafe hdecl hcase => ?_⟩
    · rw [Device.declareSafe_clk]
      exact congrArg (·.1.xoOk) hgrows.same
    · rw [Device.declareSafe_clk]
      exact congrArg (·.1.time) hgrows.same
    · rw [Device.declareSafe_fw, Device.loseLock_fw]
    · exact Device.declareSafe_ne (by decide) (Device.loseLock_held (d := f) f.clk.time hheld hdecl).2
    · rcases hcase with ⟨-, hA⟩ | ⟨hf, -⟩
      · have hpw : (f.loseLock .A f.clk.time).pw = d.pw := by
          rcases Device.loseLock_inactive (x := .A) (d := f) f.clk.time hA with h | h <;> rw [h]
          exact (Device.standby_counter .A f).2.2.2.1
        rw [Device.declareSafe_first (by rw [hpw]; exact hboot) (by rw [hpw]; exact hsafe) (by rw [hpw]; exact hdecl)]
      · exact absurd hf (by decide)
  | false =>
    rw [he, if_neg (show ¬f.clk.coasting = true from hc ▸ Bool.false_ne_true)]
    have hgrows := (Device.loseLock_grows (SynId.other f.clk.driver) f.clk.time f).trans (Device.loseLock_grows f.clk.driver f.clk.time _)
    refine ⟨congrArg (·.1.xoOk) hgrows.same, congrArg (·.1.time) hgrows.same, ?_, fun hheld hdecl => ?_, fun hact _ => ?_,
      fun hboot hsafe hdecl hcase => ?_⟩
    · rw [Device.loseLock_fw, Device.loseLock_fw]
    · obtain ⟨h1, h2⟩ := Device.loseLock_held (d := f) (x := SynId.other f.clk.driver) f.clk.time hheld hdecl
      exact (Device.loseLock_held f.clk.time h1 h2).2
    · exact (Device.bothLost (d := f) f.clk.time (by rw [hsyn]; exact hact)).1
    · rcases hcase with ⟨hf, -⟩ | ⟨-, hact, hheld⟩
      · exact absurd hf (by decide)
      · exact (Device.bothLost (d := f) f.clk.time (by rw [hsyn]; exact hact)).2 hheld rfl hboot hsafe hdecl

/-- Settles O17: each loss of lock by the two synthesizers' states, and the loss of the base by whether the device coasts. -/
theorem lossOfLockSwitchesOrCoasts : Obligations.LossOfLockSwitchesOrCoasts := by
  unfold Obligations.LossOfLockSwitchesOrCoasts
  refine ⟨fun s x t => lockLostSwitches, fun s x t => ⟨fun _ hact hready hother => ⟨fun hheld => lockLostCoasts hact hready hother hheld,
    fun hheld hsafe hdecl => lockLostUnheld hact hready hheld hsafe hdecl⟩, lockLostStandby⟩, fun s => ⟨fun h => if_neg h, fun hxo => ?_⟩⟩
  have hexec : exec .xoAbsent s = .next { s with dev := s.dev.baseAbsent.safeAtOnce s.dev.pw } := if_pos hxo
  obtain ⟨hlost, htime, hfw, hsix, hcoasts, hdecl⟩ := s.dev.baseAbsent_spec
  have hgrows := s.dev.baseAbsent.safeAtOnce_grows s.dev.pw
  refine ⟨_, hexec, ⟨rfl, rfl⟩, (congrArg (·.1.xoOk) hgrows.same).trans hlost, (congrArg (·.1.time) hgrows.same).trans htime, fun hheld => ?_,
    fun hact hc => ?_, fun hboot hsafe hnone hcase => ?_⟩
  · have hno : s.dev.pw.declared = none → s.dev.baseAbsent.pw.declared ≠ some 6 := fun h => hsix hheld (by rw [h]; exact nofun)
    rw [Device.safeAtOnce_eq hno]
    exact hfw
  · obtain ⟨h1, h2, h3, -, h5⟩ := hcoasts hact hc
    have hdriver : s.dev.baseAbsent.clk.activeB = true := by
      rw [Clock.driver] at h2
      split at h2
      · assumption
      · cases h2
    exact ⟨(congrArg (·.1.coasting) hgrows.same).trans h1, (congrArg (·.1.activeB) hgrows.same).trans hdriver,
      (congrArg (·.1.synB.state) hgrows.same).trans h3, hgrows.bits _ _ h5⟩
  · have hthree := hdecl hboot hsafe hnone hcase
    rw [Device.safeAtOnce_eq fun _ => by rw [hthree]; decide]
    exact hthree

end Sys2Proof.Machine
end

section
namespace Sys2Proof.Machine

/-! O59 and O60: the checks of a request's header, and requests in frames. -/

/-! ### The table -/

/-- Every command of the table runs a handler of its own. -/
theorem firmwareRows_handler (errs : List ScrubErr) :
    ∀ p ∈ firmwareRows errs, ∃ h : Handler, ∀ src s, exec (p.2 src) s = fwRow p.1 h src s := by
  simp only [firmwareRows, List.forall_mem_cons]
  and_intros
  iterate 22 exact ⟨_, fun _ _ => rfl⟩
  · exact ⟨captureRead errs, fun _ _ => rfl⟩
  iterate 5 exact ⟨_, fun _ _ => rfl⟩
  · exact ⟨densityRead errs, fun _ _ => rfl⟩
  iterate 29 exact ⟨_, fun _ _ => rfl⟩
  exact fun _ h => absurd h List.not_mem_nil

/-- No command of the table has code 0. -/
theorem firmwareRows_code (errs : List ScrubErr) : ∀ p ∈ firmwareRows errs, p.1 ≠ 0 := by
  intro p hp
  have hmem : p.1 ∈ (firmwareRows errs).map (·.1) := List.mem_map_of_mem hp
  have hnot : 0 ∉ (firmwareRows errs).map (·.1) := by
    change 0 ∉ (firmwareRows []).map (·.1)
    decide
  exact fun h => hnot (h ▸ hmem)

/-! ### The header -/

theorem Device.hasBitOf_eq (x k : Nat) : Device.headerFails.hasBitOf x k = x.testBit k := by
  rw [Device.headerFails.hasBitOf, Nat.testBit_eq_decide_div_mod_eq]
  rfl

section Header
variable {d : Device} {r : Raw} {modes : Nat}

/-- R333 step 1. -/
theorem Device.headerFails_badLength (h : r.sized = false) : d.headerFails r = some stBadLength := by
  rw [Device.headerFails, h]
  rfl

/-- R333 step 2. -/
theorem Device.headerFails_badCommand (h : r.sized = true) (hc : cmdModes r.code = none) : d.headerFails r = some stBadCommand := by
  rw [Device.headerFails, h, hc]
  rfl

/-- The checks that follow, of a known command of a sound size. -/
theorem Device.headerFails_known (h : r.sized = true) (hc : cmdModes r.code = some modes) : d.headerFails r =
    if d.halted && !(responderCodes.contains r.code) then some (if r.code = 0x0C01 then stDenied else stInternal)
    else if r.flags ≠ 0 then some stBadField
    else if (if r.session = 0 then !(sessionFree.contains r.code) else (d.sessionOf r).isNone) then some stNoSession
    else if r.txn ≠ 0 && (d.openTxn r.code r.session r.txn).isNone then some stTxnStale
    else if !(modes.testBit d.pw.mode.code) then some stWrongMode
    else if d.lockCovers r.code then some stLocked
    else none := by
  rw [← Device.hasBitOf_eq, Device.headerFails, h, hc]
  rfl

theorem Device.headerFails_halted (h : r.sized = true) (hc : cmdModes r.code = some modes) (hh : d.halted = true)
    (hr : responderCodes.contains r.code = false) : d.headerFails r = some (if r.code = 0x0C01 then stDenied else stInternal) := by
  rw [Device.headerFails_known h hc, hh, hr]
  rfl

/-- What the responder of the boot ROM serves, or the firmware, goes on to the flags. -/
theorem Device.headerFails_served (h : r.sized = true) (hc : cmdModes r.code = some modes)
    (hr : d.halted = false ∨ responderCodes.contains r.code = true) : d.headerFails r =
    if r.flags ≠ 0 then some stBadField
    else if (if r.session = 0 then !(sessionFree.contains r.code) else (d.sessionOf r).isNone) then some stNoSession
    else if r.txn ≠ 0 && (d.openTxn r.code r.session r.txn).isNone then some stTxnStale
    else if !(modes.testBit d.pw.mode.code) then some stWrongMode
    else if d.lockCovers r.code then some stLocked
    else none := by
  have hno : ¬ (d.halted && !(responderCodes.contains r.code)) = true := by
    rcases hr with hr | hr <;> simp only [hr, Bool.false_and, Bool.not_true, Bool.and_false, Bool.false_eq_true, not_false_eq_true]
  rw [Device.headerFails_known h hc, if_neg hno]

/-- A request that names no session where it must, or one that is not open. -/
theorem Raw.sessionless_iff : (if r.session = 0 then !(sessionFree.contains r.code) else (d.sessionOf r).isNone) = true ↔
    ¬ (r.session = 0 ∧ sessionFree.contains r.code = true ∨ r.session ≠ 0 ∧ ∃ x, d.sessionOf r = some x) := by
  by_cases h0 : r.session = 0
  · simp [h0]
  · cases hs : d.sessionOf r <;> simp [h0]

theorem headerFails_order : ∀ (d : Device) (r : Raw),
    (r.sized = false → d.headerFails r = some stBadLength) ∧
    (r.sized = true →
      (cmdModes r.code = none → d.headerFails r = some stBadCommand) ∧
      ∀ modes, cmdModes r.code = some modes →
        (d.halted = true → responderCodes.contains r.code = false →
          d.headerFails r = some (if r.code = 0x0C01 then stDenied else stInternal)) ∧
        (d.halted = false ∨ responderCodes.contains r.code = true → r.flags ≠ 0 → d.headerFails r = some stBadField) ∧
        (d.halted = false ∨ responderCodes.contains r.code = true → r.flags = 0 →
          let open_ : Prop := (r.session = 0 ∧ sessionFree.contains r.code = true) ∨ (r.session ≠ 0 ∧ ∃ x, d.sessionOf r = some x)
          (¬open_ → d.headerFails r = some stNoSession) ∧
          (open_ →
            (r.txn ≠ 0 → d.openTxn r.code r.session r.txn = none → d.headerFails r = some stTxnStale) ∧
            (r.txn = 0 ∨ d.openTxn r.code r.session r.txn ≠ none →
              (modes.testBit d.pw.mode.code = false → d.headerFails r = some stWrongMode) ∧
              (modes.testBit d.pw.mode.code = true →
                (d.lockCovers r.code = true → d.headerFails r = some stLocked) ∧
                (d.lockCovers r.code = false → d.headerFails r = none)))))) := by
  intro d r
  refine ⟨Device.headerFails_badLength, fun h => ⟨Device.headerFails_badCommand h, fun modes hc => ⟨Device.headerFails_halted h hc, fun hr hf => ?_, fun hr hf => ?_⟩⟩⟩
  · rw [Device.headerFails_served h hc hr, if_pos hf]
  · have hgo := Device.headerFails_served h hc hr
    rw [if_neg (not_not_intro hf)] at hgo
    refine ⟨fun ho => ?_, fun ho => ⟨fun ht hn => ?_, fun ht => ⟨fun hm => ?_, fun hm => ⟨fun hl => ?_, fun hl => ?_⟩⟩⟩⟩
    · rw [hgo, if_pos (Raw.sessionless_iff.2 ho)]
    all_goals rw [if_neg (mt Raw.sessionless_iff.1 (not_not_intro ho))] at hgo
    · rw [hgo, if_pos (by simp [ht, hn])]
    all_goals rw [if_neg (by rcases ht with ht | ht <;> simp [ht])] at hgo
    · rw [hgo, hm]
      rfl
    · rw [hgo, hm, hl]
      rfl
    · rw [hgo, hm, hl]
      rfl

end Header

/-! ### A refusal -/

section Refusal
variable {c : Instr} {m : Fin 4} {s : State} {code : Nat} {h : Handler}

/-- What a command answers a mailbox's request at once stands in that mailbox. -/
theorem answers_of_respond {d : Device} {a : Ans} {n : Nat} (hw : twf Mailbox.init s.mbx = true) (hr : (s.mailbox m).reqBusy = true)
    (hex : exec c s = .next (({ s with dev := d } : State).respond (.mailbox m) n (s.rawMailbox m).tag a)) :
    Answers c m s a.status a.payload (a.epoch.getD d.epoch) d := by
  have hcol (k : Nat) := State.mailbox_setMailbox (s := { s with dev := d }) hw m k
    (Mailbox.answer (d.answerBytes a.status (s.rawMailbox m).tag (a.epoch.getD d.epoch) a.payload))
  have hbusy : (({ s with dev := d } : State).mailbox m).reqBusy = true := hr
  rw [State.respond, if_pos hbusy] at hex
  refine ⟨_, hex, rfl, rfl, (hcol m).trans ?_, fun k hk => ?_⟩
  · rw [if_pos rfl]
    rfl
  · have hother := hcol k
    rw [if_neg hk] at hother
    exact ⟨congrArg Mailbox.request hother, congrArg Mailbox.response hother, congrArg Mailbox.rspValid hother, congrArg Mailbox.overruns hother⟩

theorem Device.refusal_status (n x t : Nat) (st : BitVec 16) (d : Device) : (d.refusal n x t st).status = st := by
  rw [Device.refusal]
  split <;> rfl

theorem Device.refusal_epoch (n x t : Nat) (st : BitVec 16) (d : Device) : (d.refusal n x t st).epoch = none := by
  rw [Device.refusal]
  split <;> rfl

/-- A header check refuses a request of any command: the answer, with the device but for the session's timer as it was. -/
theorem answers_of_header (hc : exec c s = fwRow code h (.mailbox m) s) (hw : twf Mailbox.init s.mbx = true)
    (hb : s.dev.serves = true) (hr : (s.mailbox m).reqBusy = true) (ht : (s.mailbox m).taken = false) (ho : s.oldest m = true)
    (hcode : (s.rawMailbox m).code = code) {st : BitVec 16} (hf : (s.touched m).headerFails (s.rawMailbox m) = some st) :
    Answers c m s st ((s.touched m).refusal code (s.sessionNo m) (s.txnNo m) st).payload s.dev.epoch (s.touched m) := by
  have hex : s.execute h (s.rawMailbox m) = ({ s with dev := s.touched m } : State).respond (.mailbox m) (s.sessionNo m)
      (s.rawMailbox m).tag ((s.touched m).refusal (s.rawMailbox m).code (s.sessionNo m) (s.txnNo m) st) := by
    rw [State.execute]
    have hf' : (s.dev.touchSession (s.rawMailbox m)).headerFails (s.rawMailbox m) = some st := hf
    simp only [hf']
    rfl
  rw [hcode] at hex
  have hans : Answers c m s _ _ _ (s.touched m) := answers_of_respond hw hr (by
    rw [hc, ← hex]
    simp only [fwRow]
    rw [if_pos (by simp [hb, hr, ht, ho, hcode])])
  rwa [Device.refusal_status, Device.refusal_epoch, Option.getD_none, State.touched_epoch] at hans

/-- Settles O59: the checks one after the other; and a refusal is the answer, with what the refused command's response holds. -/
theorem headerChecksComeInOrder : Obligations.HeaderChecksComeInOrder := by
  unfold Obligations.HeaderChecksComeInOrder
  refine ⟨headerFails_order, fun errs code c hrow s m st hw hb hr ht ho hcode hf => ?_⟩
  obtain ⟨h, hc⟩ := firmwareRows_handler errs _ hrow
  refine ⟨_, answers_of_header (hc _ s) hw hb hr ht ho hcode hf, fun hn => ?_, fun hn => ?_⟩
  · rw [Device.refusal, hn]
    rfl
  · rw [Device.refusal, hn]
    rfl

end Refusal

end Sys2Proof.Machine
end

section
namespace Sys2Proof.Machine

/-! O60: a request in a frame is executed once. -/

section Frames
variable {s : State} {via : Via} {src : ReqSource} {frame body : List Byte} {c : Instr} {h : Handler} {code : Nat}

/-- Where a frame's request comes from: the payload of a request frame of the return lane, or a partner's message. -/
def Carries (via : Via) (src : ReqSource) (frame body : List Byte) : Prop :=
  via = .returnLane ∧ src = .returnLane frame ∧ body = laneRequest frame ∧ body ≠ [] ∨
    ∃ p, via = .fabric p ∧ src = .fabric p frame ∧ body = frame

/-- A request with a code is not empty. -/
theorem rawFrame_code_nil (via : Via) (epoch : Nat) : (rawFrame via [] epoch).code = 0 := rfl

theorem fwRow_frame (hsrc : Carries via src frame body) : fwRow code h src s = .next (s.frameRow code h via body) := by
  obtain ⟨rfl, rfl, rfl, -⟩ | ⟨p, rfl, rfl, rfl⟩ := hsrc
  · rfl
  · rfl

/-- A frame that is taken goes on to its turn. -/
theorem State.frameRow_taken (ht : s.dev.takesFrames via = true) (hc : (rawFrame via body s.dev.epoch).code = code) (h0 : code ≠ 0) :
    s.frameRow code h via body =
      match s.dev.fw.frames.find? fun f => decide (f.via = via) && f.bytes == body with
      | some f =>
        if s.dev.serves && s.turn f.arrived then (s.dropFrame f).executeFrame h (rawFrame via body f.epoch) else s
      | none =>
        if s.dev.serves && s.standing.isEmpty then s.executeFrame h (rawFrame via body s.dev.epoch)
        else
          let x := s.dev.arrive via.rank
          { s with dev := { x.2 with fw := { x.2.fw with frames := x.2.fw.frames ++ [⟨via, body, x.1, s.dev.epoch⟩] } } } := by
  have hne : body.isEmpty = false := by
    cases body with
    | nil => exact absurd hc.symm h0
    | cons _ _ => rfl
  rw [State.frameRow]
  refine (if_neg ?_).trans rfl
  simp [ht, hne, hc]

/-- Where nothing stands, no frame waits. -/
theorem State.frames_of_standing (ht : s.dev.takesFrames via = true) (hs : s.standing = []) :
    (s.dev.fw.frames.find? fun f => decide (f.via = via) && f.bytes == body) = none := by
  rw [List.find?_eq_none]
  intro f hf hm
  have hvia : f.via = via := of_decide_eq_true (Bool.and_eq_true_iff.1 hm).1
  have hin : f.arrived ∈ s.standing :=
    List.mem_append_right _ (List.mem_map_of_mem (List.mem_filter.2 ⟨hf, hvia ▸ ht⟩))
  rw [hs] at hin
  exact absurd hin List.not_mem_nil

/-- A frame whose turn it is at once is executed. -/
theorem State.frameRow_now (ht : s.dev.takesFrames via = true) (hb : s.dev.serves = true) (hs : s.standing = [])
    (hc : (rawFrame via body s.dev.epoch).code = code) (h0 : code ≠ 0) :
    s.frameRow code h via body = s.executeFrame h (rawFrame via body s.dev.epoch) := by
  rw [State.frameRow_taken ht hc h0, State.frames_of_standing ht hs]
  refine if_pos ?_
  rw [hb, hs]
  rfl

/-- A repeated frame is answered again, or dropped. -/
theorem State.executeFrame_repeat {r : Raw} {x : Session} {e : Word × Option (List Byte)} (hx : s.dev.sessionOf r = some x)
    (he : (x.remembered.find? fun y => y.1 == r.tag) = some e) : s.executeFrame h r = { s with dev := match e.2 with
      | some bytes => (s.dev.touchSession r).sendMessage r.via bytes
      | none => s.dev.touchSession r } := by
  obtain ⟨t, o⟩ := e
  rw [State.executeFrame, hx, Option.bind_some, he]
  cases o <;> rfl

/-- A new frame is remembered and executed. -/
theorem State.executeFrame_new {r : Raw} {x : Session} (hx : s.dev.sessionOf r = some x) (he : ∀ e ∈ x.remembered, e.1 ≠ r.tag) :
    s.executeFrame h r = ({ s with dev := s.dev.rememberTag r } : State).execute h r := by
  have hnone : (x.remembered.find? fun y => y.1 == r.tag) = none :=
    List.find?_eq_none.2 fun e hin heq => he e hin (eq_of_beq heq)
  rw [State.executeFrame, hx, Option.bind_some, hnone]

/-- A frame that comes while something stands waits for its turn. -/
theorem State.frameRow_waits (ht : s.dev.takesFrames via = true) (hc : (rawFrame via body s.dev.epoch).code = code) (h0 : code ≠ 0)
    (hnew : ∀ f ∈ s.dev.fw.frames, f.via = via → f.bytes ≠ body) (hs : s.standing ≠ []) :
    s.frameRow code h via body =
      let x := s.dev.arrive via.rank
      { s with dev := { x.2 with fw := { x.2.fw with frames := x.2.fw.frames ++ [⟨via, body, x.1, s.dev.epoch⟩] } } } := by
  have hnone : (s.dev.fw.frames.find? fun f => decide (f.via = via) && f.bytes == body) = none := by
    rw [List.find?_eq_none]
    intro f hf hm
    obtain ⟨hvia, hbytes⟩ := Bool.and_eq_true_iff.1 hm
    exact hnew f hf (of_decide_eq_true hvia) (eq_of_beq hbytes)
  rw [State.frameRow_taken ht hc h0, hnone]
  refine if_neg ?_
  rw [Bool.and_eq_true, List.isEmpty_iff]
  exact fun ⟨_, hnil⟩ => hs hnil

/-- A mailbox whose request is not being worked on stands. -/
theorem State.standing_of_mailbox {k : Nat} (hk : k < 4) (hb : (s.mailbox k).reqBusy = true) (ht : (s.mailbox k).taken = false) :
    s.standing ≠ [] := by
  have hin : k ∈ (List.range 4).filter fun k => (s.mailbox k).reqBusy && !(s.mailbox k).taken :=
    List.mem_filter.2 ⟨List.mem_range.2 hk, by rw [hb, ht]; rfl⟩
  exact List.ne_nil_of_mem (List.mem_append_left _ (List.mem_map_of_mem hin))

end Frames

/-! ### What a new frame leaves -/

/-- The mailboxes that are freed are no business of the device's. -/
theorem State.settleMailboxes_outside (s : State) :
    s.settleMailboxes.dev = s.dev ∧ s.settleMailboxes.pending = s.pending := by
  have hkeeps : Keeps (fun s : State => (s.dev, s.pending)) fun m s =>
      if (s.mailbox m).taken && !(s.dev.awaits m) then s.setMailbox m fun b => { b with taken := false, reqBusy := false } else s := by
    intro m s
    dsimp only
    split <;> rfl
  exact Prod.mk.inj (forNat_keeps 4 hkeeps s)

theorem Device.sessionOf_iff {d : Device} {r : Raw} {x : Session} :
    d.sessionOf r = some x ↔ d.session? r.session = some x ∧ x.transport = r.via.transport := by
  rw [Device.sessionOf]
  cases d.session? r.session with
  | none => exact ⟨nofun, fun h => nomatch h.1⟩
  | some y =>
    dsimp only
    constructor
    · intro h
      split at h
      · next ht => exact ⟨h, Option.some.inj h ▸ ht⟩
      · exact nomatch h
    · rintro ⟨h, ht⟩
      rw [if_pos (Option.some.inj h ▸ ht), h]

theorem Device.session?_id {d : Device} {id : Nat} {x : Session} (h : d.session? id = some x) : x.id = id :=
  eq_of_beq (List.find?_some (p := fun y : Session => y.id == id) h)

/-- A session with a tag behind its last ones; with its timer restarted; and with an answer beside its tag. -/
def Session.tagged (tag : Word) (x : Session) : Session :=
  { x with remembered := (x.remembered ++ [(tag, none)]).drop (x.remembered.length + 1 - 16) }
def Session.timed (limit : Nat → Nat) (x : Session) : Session := { x with deadline := limit x.keepalive }
def Session.answered (tag : Word) (bytes : List Byte) (x : Session) : Session :=
  { x with remembered := x.remembered.map fun (t, a) => if t = tag ∧ a = none then (t, some bytes) else (t, a) }

theorem Session.timed_id (limit : Nat → Nat) (x : Session) : (x.timed limit).id = x.id := rfl

/-- The end of a keep-alive time that begins now. -/
def Device.limit (d : Device) (keepalive : Nat) : Nat := d.clk.time + keepalive * Config.epochTicks

theorem Device.rememberTag_eq {d : Device} {r : Raw} {x : Session} (hx : d.sessionOf r = some x) :
    d.rememberTag r = d.setSession r.session (Session.tagged r.tag) := by
  rw [Device.rememberTag, hx]
  dsimp only
  rw [Device.session?_id (Device.sessionOf_iff.1 hx).1]
  rfl

theorem Device.touchSession_eq {d : Device} {r : Raw} {x : Session} (hx : d.sessionOf r = some x) :
    d.touchSession r = d.setSession r.session (Session.timed d.limit) := by
  rw [Device.touchSession, hx]
  dsimp only
  rw [Device.session?_id (Device.sessionOf_iff.1 hx).1]
  rfl

/-- The answer is kept beside the tag that has just been remembered. -/
theorem Session.answered_tagged {x : Session} {tag : Word} (hnew : ∀ e ∈ x.remembered, e.1 ≠ tag) (limit : Nat → Nat) (bytes : List Byte) :
    (((x.tagged tag).timed limit).answered tag bytes).remembered = (x.remembered ++ [(tag, some bytes)]).drop (x.remembered.length + 1 - 16) := by
  have hold : x.remembered.map (fun (t, a) => if t = tag ∧ a = none then (t, some bytes) else (t, a)) = x.remembered := by
    refine (List.map_congr_left fun e he => ?_).trans (List.map_id _)
    obtain ⟨t, a⟩ := e
    exact if_neg fun hta => hnew _ he hta.1
  change ((x.remembered ++ [(tag, none)]).drop (x.remembered.length + 1 - 16)).map _ = _
  rw [List.map_drop, List.map_append, hold, List.map_singleton]
  exact congrArg (fun e => (x.remembered ++ [e]).drop (x.remembered.length + 1 - 16)) 
    (if_pos (c := tag = tag ∧ (none : Option (List Byte)) = none) ⟨rfl, rfl⟩)

/-- What answers a new frame at once is sent over the frame's own transport, and kept beside its tag. -/
theorem State.execute_answered {h : Handler} {r : Raw} {s : State} {a : Ans} {d : Device} (hvia : r.via.transport ≠ 0)
    (hok : (s.dev.touchSession r).headerFails r = none)
    (hh : h (r.req (s.dev.touchSession r)) (s.dev.touchSession r) = (some a, d)) :
    let bytes := d.answerBytes a.status r.tag (a.epoch.getD d.epoch) a.payload
    (s.execute h r).dev = (d.rememberAnswer r.session r.tag bytes).sendMessage r.via bytes ∧ (s.execute h r).pending = s.pending := by
  have hex : s.execute h r = (({ s with dev := d } : State).respond r.via r.session r.tag a).settleMailboxes := by
    rw [State.execute]
    simp only [hok, hh]
    rfl
  rw [hex]
  obtain ⟨hdev, hpend⟩ := State.settleMailboxes_outside (({ s with dev := d } : State).respond r.via r.session r.tag a)
  rw [hdev, hpend]
  revert hvia
  cases r.via with
  | mailbox m => exact fun hvia => absurd rfl hvia
  | returnLane => exact fun _ => ⟨rfl, rfl⟩
  | fabric p => exact fun _ => ⟨rfl, rfl⟩

theorem Carries.transport {via : Via} {src : ReqSource} {frame body : List Byte} (h : Carries via src frame body) : via.transport ≠ 0 := by
  obtain ⟨rfl, -⟩ | ⟨p, rfl, -⟩ := h
  · exact Nat.one_ne_zero
  · exact (Nat.succ_ne_zero 1)

theorem modeQuery_answers {r : Req} (h : r.body.length = 0) (d : Device) :
    modeQuery r d = (some (Ans.ok (leWord d.modeWord ++ leBytes 8 d.pw.modeSince ++ leWord d.pw.pendingWord)), d) := if_pos h

/-- A new request for mode.query in a frame: its answer is sent, and kept beside its tag. -/
theorem State.executeFrame_modeQuery {s : State} {r : Raw} {x : Session} {d : Device} (hvia : r.via.transport ≠ 0) (hlen : r.length = 0)
    (hx : s.dev.sessionOf r = some x) (hnew : ∀ e ∈ x.remembered, e.1 ≠ r.tag) (hrem : d = (s.dev.rememberTag r).touchSession r)
    (hok : d.headerFails r = none) :
    let bytes := d.answerBytes stOk r.tag d.epoch (leWord s.dev.modeWord ++ leBytes 8 s.dev.pw.modeSince ++ leWord s.dev.pw.pendingWord)
    (s.executeFrame modeQuery r).pending = s.pending ∧ ∃ e : Device, (s.executeFrame modeQuery r).dev = e.sendMessage r.via bytes ∧
      e.fab = s.dev.fab ∧ e.port = s.dev.port ∧ e.pw = s.dev.pw ∧
      e.clk = s.dev.clk ∧ e.regs = s.dev.regs ∧ e.fw.eff = s.dev.fw.eff ∧ e.fw.txns = s.dev.fw.txns ∧
      ∃ y, e.session? x.id = some y ∧ y.remembered = (x.remembered ++ [(r.tag, some bytes)]).drop (x.remembered.length + 1 - 16) ∧
        y.deadline = s.dev.clk.time + x.keepalive * Config.epochTicks := by
  have hsession := Device.sessionOf_iff.1 hx
  have hid := Device.session?_id hsession.1
  have hmid : (s.dev.rememberTag r).session? r.session = some (x.tagged r.tag) := by
    rw [Device.rememberTag_eq hx]
    exact Device.session?_setSession (fun _ => rfl) hsession.1
  have hd : d = (s.dev.setSession r.session (Session.tagged r.tag)).setSession r.session (Session.timed s.dev.limit) := by
    rw [hrem, Device.touchSession_eq (Device.sessionOf_iff.2 ⟨hmid, hsession.2⟩), Device.rememberTag_eq hx]
    rfl
  have hlater : d.session? r.session = some ((x.tagged r.tag).timed s.dev.limit) := by
    rw [Device.rememberTag_eq hx] at hmid
    rw [hd]
    exact Device.session?_setSession (f := Session.timed s.dev.limit) (x := x.tagged r.tag) (Session.timed_id _) hmid
  have hbody : (r.req d).body.length = 0 := by
    change ((r.bytes.drop 16).take r.length).length = 0
    rw [hlen, List.take_zero]
    rfl
  have hrun := State.execute_answered (s := { s with dev := s.dev.rememberTag r }) hvia (hrem ▸ hok) (hrem ▸ modeQuery_answers hbody d)
  rw [← State.executeFrame_new hx hnew] at hrun
  have hanswered := fun bytes => Device.session?_setSession (f := Session.answered r.tag bytes) (fun _ => rfl) hlater
  have hmode : d.modeWord = s.dev.modeWord := by rw [hd]; rfl
  have hpw : d.pw = s.dev.pw := by rw [hd]; rfl
  rw [← hrem, hmode, hpw] at hrun
  refine ⟨hrun.2, _, hrun.1, ?_⟩
  rw [hid]
  refine ⟨?_, ?_, ?_, ?_, ?_, ?_, ?_, _, hanswered _, Session.answered_tagged hnew _ _, rfl⟩
  all_goals rw [hd]; rfl

/-- Settles O60: a repeat is found by its tag; what stands makes a frame wait; a new frame's answer goes beside its tag. -/
theorem framesAreExecutedOnce : Obligations.FramesAreExecutedOnce := by
  unfold Obligations.FramesAreExecutedOnce
  refine ⟨?_, ?_, ?_⟩
  · intro errs code c hrow s via src frame body x e hsrc r ht hb hs hcode hx he
    obtain ⟨h, hc⟩ := firmwareRows_handler errs _ hrow
    have h0 : code ≠ 0 := firmwareRows_code errs _ hrow
    intro d
    exact (hc src s).trans (by rw [fwRow_frame hsrc, State.frameRow_now ht hb hs hcode h0, State.executeFrame_repeat hx he]; rfl)
  · intro errs code c hrow s via src frame body hsrc ht hcode hnew hstand
    obtain ⟨h, hc⟩ := firmwareRows_handler errs _ hrow
    have h0 : code ≠ 0 := firmwareRows_code errs _ hrow
    obtain ⟨k, hk, htk, hk4⟩ := hstand
    have hwait := State.frameRow_waits (h := h) ht hcode h0 hnew (State.standing_of_mailbox hk4 hk htk)
    refine ⟨_, (hc src s).trans ((fwRow_frame hsrc).trans (congrArg Host.Outcome.next hwait)),
      ⟨rfl, rfl⟩, ⟨via, body, (s.dev.arrive via.rank).1, s.dev.epoch⟩, rfl, rfl, rfl, rfl⟩
  · intro s frame body via src x hsrc r ht hb hs hcode hlen hx _ hnew d hok
    have hexec : exec (.modeQuery src) s = .next (s.executeFrame modeQuery r) := by
      change execModeQuery src s = _
      rw [execModeQuery, fwRow_frame hsrc, State.frameRow_now ht hb hs hcode (by decide)]
    have hvia : r.via.transport ≠ 0 := Carries.transport (via := via) hsrc
    exact ⟨_, hexec, State.executeFrame_modeQuery hvia hlen hx hnew rfl hok⟩

end Sys2Proof.Machine
end

section
namespace Sys2Proof.Machine

/-! O54: sessions open, are kept alive and close. -/

/-! ### The device as a command finds it -/

/-- A request changes no more than its session's timer. -/
theorem State.touched_eq (m : Nat) (s : State) :
    s.touched m = { s.dev with fw := { s.dev.fw with sessions := (s.touched m).fw.sessions } } := by
  rw [State.touched, Device.touchSession]
  split <;> rfl

section touched
variable (m : Nat) (s : State)

@[simp] theorem State.touched_clk : (s.touched m).clk = s.dev.clk := congrArg (·.clk) (s.touched_eq m)
@[simp] theorem State.touched_pw : (s.touched m).pw = s.dev.pw := congrArg (·.pw) (s.touched_eq m)
@[simp] theorem State.touched_regs : (s.touched m).regs = s.dev.regs := congrArg (·.regs) (s.touched_eq m)
@[simp] theorem State.touched_evts : (s.touched m).evts = s.dev.evts := congrArg (·.evts) (s.touched_eq m)
@[simp] theorem State.touched_cnt : (s.touched m).cnt = s.dev.cnt := congrArg (·.cnt) (s.touched_eq m)
@[simp] theorem State.touched_chans : (s.touched m).chans = s.dev.chans := congrArg (·.chans) (s.touched_eq m)
@[simp] theorem State.touched_points : (s.touched m).points = s.dev.points := congrArg (·.points) (s.touched_eq m)
@[simp] theorem State.touched_trig : (s.touched m).trig = s.dev.trig := congrArg (·.trig) (s.touched_eq m)
@[simp] theorem State.touched_gran : (s.touched m).gran = s.dev.gran := congrArg (·.gran) (s.touched_eq m)
@[simp] theorem State.touched_maps : (s.touched m).maps = s.dev.maps := congrArg (·.maps) (s.touched_eq m)
@[simp] theorem State.touched_nv : (s.touched m).nv = s.dev.nv := congrArg (·.nv) (s.touched_eq m)
@[simp] theorem State.touched_work : (s.touched m).work = s.dev.work := congrArg (·.work) (s.touched_eq m)
@[simp] theorem State.touched_fab : (s.touched m).fab = s.dev.fab := congrArg (·.fab) (s.touched_eq m)
@[simp] theorem State.touched_free : (s.touched m).free = s.dev.free := congrArg (·.free) (s.touched_eq m)
@[simp] theorem State.touched_txns : (s.touched m).fw.txns = s.dev.fw.txns := congrArg (·.fw.txns) (s.touched_eq m)
@[simp] theorem State.touched_closed : (s.touched m).fw.closed = s.dev.fw.closed := congrArg (·.fw.closed) (s.touched_eq m)
@[simp] theorem State.touched_nextTxn : (s.touched m).fw.nextTxn = s.dev.fw.nextTxn := congrArg (·.fw.nextTxn) (s.touched_eq m)
@[simp] theorem State.touched_tickets : (s.touched m).fw.tickets = s.dev.fw.tickets := congrArg (·.fw.tickets) (s.touched_eq m)
@[simp] theorem State.touched_committed : (s.touched m).fw.committed = s.dev.fw.committed := congrArg (·.fw.committed) (s.touched_eq m)
@[simp] theorem State.touched_effective : (s.touched m).fw.effective = s.dev.fw.effective := congrArg (·.fw.effective) (s.touched_eq m)
@[simp] theorem State.touched_opened : (s.touched m).fw.opened = s.dev.fw.opened := congrArg (·.fw.opened) (s.touched_eq m)

theorem Session.timed_peer (limit : Nat → Nat) (x : Session) : (x.timed limit).transport = x.transport ∧ (x.timed limit).peer = x.peer := ⟨rfl, rfl⟩

/-- The sessions stay those that they were, but for a timer. -/
theorem State.touched_sessions : ∃ f : Session → Session, (∀ x, (f x).id = x.id) ∧ (∀ x, (f x).transport = x.transport ∧ (f x).peer = x.peer) ∧
    (s.touched m).fw.sessions = s.dev.fw.sessions.map f := by
  rw [State.touched, Device.touchSession]
  cases hx : s.dev.sessionOf (s.rawMailbox m) with
  | none => exact ⟨id, fun _ => rfl, fun _ => ⟨rfl, rfl⟩, (List.map_id _).symm⟩
  | some x =>
    refine ⟨fun y => if y.id = x.id then y.timed s.dev.limit else y, fun y => ?_, fun y => ?_, rfl⟩
    · dsimp only
      split
      · exact Session.timed_id _ _
      · rfl
    · dsimp only
      split
      · exact Session.timed_peer _ _
      · exact ⟨rfl, rfl⟩

theorem State.touched_session_none (id : Nat) : (s.touched m).session? id = none ↔ s.dev.session? id = none := by
  obtain ⟨f, hid, -, hf⟩ := s.touched_sessions m
  have hpred : ((fun x : Session => x.id == id) ∘ f) = fun x => x.id == id := funext fun x => by rw [Function.comp_apply, hid]
  rw [Device.session?, hf, List.find?_map, hpred, Option.map_eq_none_iff, Device.session?]

end touched

/-! ### session.open -/

/-- A session inserted where no other has its id is the one of that id. -/
theorem session?_insert {x : Session} {l : List Session} (h : l.find? (·.id == x.id) = none) :
    (sessionInsert x l).find? (·.id == x.id) = some x := by
  have hx : (x.id == x.id) = true := beq_self_eq_true _
  induction l with
  | nil => exact List.find?_cons_of_pos hx
  | cons y l ih =>
    rw [sessionInsert]
    split
    · exact List.find?_cons_of_pos hx
    · have hy : ¬ (y.id == x.id) = true := List.find?_eq_none.1 h y List.mem_cons_self
      rw [List.find?_cons_of_neg (p := fun z : Session => z.id == x.id) hy] at h ⊢
      exact ih h

theorem sessionInsert_length (x : Session) (l : List Session) : (sessionInsert x l).length = l.length + 1 := by
  induction l with
  | nil => rfl
  | cons y l ih =>
    rw [sessionInsert]
    split
    · rfl
    · rw [List.length_cons, ih, List.length_cons]

/-- The free ids are ids of sessions, and no session holds them. -/
theorem Device.mem_freeIds {d : Device} {i : Nat} : i ∈ d.freeIds ↔ (1 ≤ i ∧ i ≤ 16) ∧ d.session? i = none := by
  rw [Device.freeIds, List.mem_filter, Option.isNone_iff_eq_none]
  refine and_congr_left fun _ => ?_
  rw [sessionIds, List.mem_map]
  constructor
  · rintro ⟨k, hk, rfl⟩
    have := List.mem_range.1 hk
    omega
  · exact fun h => ⟨i - 1, List.mem_range.2 (by omega), by omega⟩

theorem getD_mem_cons {α : Type} (i : α) (is : List α) (k : Nat) : (i :: is).getD k i ∈ i :: is := by
  by_cases hk : k < (i :: is).length
  · rw [List.getD_eq_getElem _ _ hk]
    exact List.getElem_mem hk
  · rw [List.getD_eq_default _ _ (Nat.le_of_not_lt hk)]
    exact List.mem_cons_self

/-- The session that session.open opens. -/
def State.newSession (m : Nat) (s : State) (id own keep : Nat) : Session :=
  ⟨id, 0, own, 0, keep, (s.touched m).limit keep, (s.body m).drop 4, [], 0, [], (s.touched m).fw.opened⟩

/-- session.open of a sound record, by what free ids there are. -/
theorem sessionOpen_eq {s : State} {m : Nat} (hlen : (s.body m).length = 20) (hm : u8 (s.body m) 0 = 0xFF ∨ u8 (s.body m) 0 ≤ 3)
    (h1 : u8 (s.body m) 1 = 0) (hk : u16 (s.body m) 2 = 0 ∨ 100 ≤ u16 (s.body m) 2 ∧ u16 (s.body m) 2 ≤ 60000) :
    let own := if u8 (s.body m) 0 = 0xFF then m else u8 (s.body m) 0
    let keep := if u16 (s.body m) 2 = 0 then 10000 else u16 (s.body m) 2
    sessionOpen (s.request m) (s.touched m) = match (s.touched m).freeIds with
      | [] => refuse stDenied (s.touched m)
      | i :: is =>
        let id := (i :: is).getD (Config.freeNat (s.touched m).free % (i :: is).length) i
        (some (Ans.ok (leBytes 2 id ++ byteOf own ++ zeros 1 ++ leBytes 4 keep)),
          { s.touched m with
            fw := { (s.touched m).fw with sessions := sessionInsert (s.newSession m id own keep) (s.touched m).fw.sessions, opened := (s.touched m).fw.opened + 1 }
            free := (s.touched m).free + 1 }) := by
  intro own keep
  have hsize : (s.request m).body.length = 20 := hlen
  have hown : (if u8 (s.body m) 0 = 0xFF then some m else if u8 (s.body m) 0 ≤ 3 then some (u8 (s.body m) 0) else none) = some own := by
    change _ = some (if u8 (s.body m) 0 = 0xFF then m else u8 (s.body m) 0)
    split
    · rfl
    · next h => exact if_pos (hm.resolve_left h)
  have hchecks : (u8 (s.body m) 1 == 0 && (u16 (s.body m) 2 == 0 || (decide (100 ≤ u16 (s.body m) 2) && decide (u16 (s.body m) 2 ≤ 60000)))) = true := by
    simpa [h1] using hk
  rw [sessionOpen, sizedTo, if_pos hsize]
  change (match (if u8 (s.body m) 0 = 0xFF then some m else if u8 (s.body m) 0 ≤ 3 then some (u8 (s.body m) 0) else none) with
    | none => _
    | some m => _) = _
  rw [hown]
  refine (if_pos hchecks).trans ?_
  cases (s.touched m).freeIds with
  | nil => rfl
  | cons i is => rfl

/-! ### session.keepalive -/

/-- A command that needs a session, and whose header has passed, names an open one. -/
theorem Device.session_of_passed {d : Device} {r : Raw} (h : d.headerFails r = none) (hc : sessionFree.contains r.code = false) :
    ∃ x, d.sessionOf r = some x := by
  cases hs : r.sized with
  | false => exact nomatch (Device.headerFails_badLength hs).symm.trans h
  | true =>
    cases hm : cmdModes r.code with
    | none => exact nomatch (Device.headerFails_badCommand hs hm).symm.trans h
    | some modes =>
      rw [Device.headerFails_known hs hm] at h
      by_contra hno
      have hopen : ¬ (r.session = 0 ∧ sessionFree.contains r.code = true ∨ r.session ≠ 0 ∧ ∃ x, d.sessionOf r = some x) := by
        rw [hc]
        exact fun ho => ho.elim (fun k => nomatch k.2) fun k => hno k.2
      rw [if_pos (Raw.sessionless_iff.2 hopen)] at h
      split at h
      · exact nomatch h
      · split at h <;> exact nomatch h

theorem Session.timed_deadline (limit : Nat → Nat) (x : Session) : (x.timed limit).deadline = limit x.keepalive := rfl
theorem Session.timed_keepalive (limit : Nat → Nat) (x : Session) : (x.timed limit).keepalive = x.keepalive := rfl

/-- The session that a standing request names, with its timer restarted. -/
theorem State.stands_session {s : State} {m code : Nat} (hs : s.stands code m) (hc : sessionFree.contains code = false) :
    ∃ x, s.dev.session? (s.sessionNo m) = some x ∧ s.touched m = s.dev.setSession (s.sessionNo m) (Session.timed s.dev.limit) := by
  obtain ⟨-, -, -, -, -, hcode, hpass⟩ := hs
  cases hx : s.dev.sessionOf (s.rawMailbox m) with
  | some x => exact ⟨x, (Device.sessionOf_iff.1 hx).1, Device.touchSession_eq hx⟩
  | none =>
    have hsame : s.dev.touchSession (s.rawMailbox m) = s.dev := by rw [Device.touchSession, hx]
    rw [hsame] at hpass
    obtain ⟨x, hx'⟩ := Device.session_of_passed hpass (hcode ▸ hc)
    exact nomatch hx.symm.trans hx'

/-! ### session.close -/

/-- What the begin and the end of a transaction leave as it is: the inner part, and of the firmware all but the transactions, those that have ended, the decisions and the numbers that the next one takes. -/
def Device.aside (d : Device) : Device := { d.inner with fw := { d.fw with txns := [], closed := [], decided := [], nextTxn := 0, tickets := 0 } }

theorem Device.aside_of_inner {d e : Device} (h : d.inner = e.inner) : d.aside = e.aside :=
  congrArg (fun c : Device => { c with fw := { c.fw with txns := [], closed := [], decided := [], nextTxn := 0, tickets := 0 } }) h

section ends
variable (t : Txn) (d : Device)

theorem Device.toParts_inner (f : Nat → OutFrame) : (d.toParts t f).inner = d.inner :=
  forList_inner t.parts (fun p d => d.send (f p.addr)) (fun _ _ => Device.send_inner ..) d

theorem Device.announce_aside (commit closed : Bool) : (d.announce t commit closed).aside = d.aside := by
  have h := Device.aside_of_inner (d.toParts_inner t fun a => .decision a d.fab.address t.id commit closed)
  exact h

theorem Device.announce_txns (commit closed : Bool) : (d.announce t commit closed).fw.txns = d.fw.txns :=
  congrArg (·.fw.txns) (d.toParts_inner t fun a => .decision a d.fab.address t.id commit closed)

theorem Device.abortTxn_aside : (d.abortTxn t).aside = d.aside := by
  rw [Device.abortTxn]
  split
  · exact d.announce_aside t false true
  · rfl

/-- An aborted transaction leaves the open ones. -/
theorem Device.abortTxn_txns : (d.abortTxn t).fw.txns = d.fw.txns.filter fun u => !(decide (u.coord = t.coord) && u.id == t.id) := by
  rw [Device.abortTxn]
  split
  · change (d.announce t false true).fw.txns.filter _ = _
    rw [Device.announce_txns]
  · rfl

theorem forList_abortTxn_aside (l : List Txn) (d : Device) : (forList l Device.abortTxn d).aside = d.aside :=
  forList_keeps l (fun t d => d.abortTxn_aside t) d

/-- Of the transactions that were aborted none is left. -/
theorem mem_forList_abortTxn {l : List Txn} {d : Device} {u : Txn} (h : u ∈ (forList l Device.abortTxn d).fw.txns) :
    u ∈ d.fw.txns ∧ u ∉ l := by
  induction l generalizing d with
  | nil => exact ⟨h, List.not_mem_nil⟩
  | cons t l ih =>
    obtain ⟨hin, hnot⟩ := ih (d := d.abortTxn t) h
    rw [Device.abortTxn_txns, List.mem_filter] at hin
    refine ⟨hin.1, fun hmem => ?_⟩
    rcases List.mem_cons.1 hmem with rfl | hl
    · simp at hin
    · exact hnot hl

theorem Device.closeSession_sessions (id : Nat) (d : Device) :
    (d.closeSession id).fw.sessions = d.fw.sessions.filter fun x => x.id != id := by
  have hsame : (forList (d.fw.txns.filter fun t => t.session = id ∧ t.coord = none ∧ !t.prepared ∧ (t.state = .open_ ∨ t.state = .waiting))
      Device.abortTxn d).fw.sessions = d.fw.sessions := congrArg (·.fw.sessions) (forList_abortTxn_aside _ d)
  exact congrArg (List.filter fun x => x.id != id) hsame

/-- A closed session is found no more, and the others as before. -/
theorem Device.closeSession_session? (id k : Nat) (d : Device) :
    (d.closeSession id).session? k = if k = id then none else d.session? k := by
  rw [Device.session?, Device.closeSession_sessions, List.find?_filter]
  split
  · next h =>
    subst h
    exact List.find?_eq_none.2 fun x _ => by simp
  · next h =>
    refine List.find?_congr fun x _ => ?_
    by_cases hx : x.id = k
    · simp [hx, h]
    · simp [hx]

end ends

/-- Settles O54: the id of a new session is one that none holds; a closed session's open transactions are those that its end aborts. -/
theorem sessionsOpenAndClose : Obligations.SessionsOpenAndClose := by
  unfold Obligations.SessionsOpenAndClose
  intro s m q l
  refine ⟨fun hs hlen hm h1 hk => ?_, fun hs hlen => ?_, fun hs hlen => ?_⟩
  · intro own keep
    have heq := sessionOpen_eq hlen hm h1 hk
    refine ⟨fun hfree => ?_, fun hfree => ?_⟩
    · obtain ⟨i, is, hids⟩ := List.exists_cons_of_ne_nil hfree
      rw [hids] at heq
      let id := (i :: is).getD (Config.freeNat (s.touched m).free % (i :: is).length) i
      have hfind : id ∈ (s.touched m).freeIds := by
        rw [hids]
        exact getD_mem_cons i is _
      obtain ⟨hid, hnone⟩ := Device.mem_freeIds.1 hfind
      have hans := answersOk_of_handler (c := .sessionOpen q) rfl hs heq
      have hnew := session?_insert (x := s.newSession m id own keep) hnone
      obtain ⟨f, -, -, hf⟩ := s.touched_sessions m
      refine ⟨id, _, hid.1, hid.2, (s.touched_session_none m id).1 hnone, hans, ?_, ?_, ?_, s.newSession m id own keep, hnew, rfl, rfl, rfl, rfl, rfl, ?_, ?_⟩
      · dsimp only
        rw [s.touched_eq m]
      · dsimp only
        rw [State.touched_opened]
      · dsimp only
        rw [sessionInsert_length, hf, List.length_map]
      · exact s.touched_opened m
      · exact congrArg (fun c : Clock => c.time + keep * Config.epochTicks) (s.touched_clk m)
    · rw [hfree] at heq
      exact refuses_of_handler rfl hs heq
  · obtain ⟨x, hx, htouch⟩ := State.stands_session hs (by decide)
    refine ⟨answersOk_of_handler rfl hs (if_pos hlen), x.timed s.dev.limit, ?_, ?_⟩
    · rw [htouch]
      exact Device.session?_setSession (Session.timed_id _) hx
    · rw [Session.timed_deadline, Session.timed_keepalive, Device.limit]
  · have hans := answersOk_of_handler (c := .sessionClose q) (d := (s.touched m).closeSession (s.sessionNo m)) rfl hs (if_pos hlen)
    have haside := forList_abortTxn_aside ((s.touched m).fw.txns.filter fun t =>
      t.session = s.sessionNo m ∧ t.coord = none ∧ !t.prepared ∧ (t.state = .open_ ∨ t.state = .waiting)) (s.touched m)
    refine ⟨_, hans, ?_, fun t ht hgone => ?_, fun id hid => ?_, ?_, ?_, ?_, ?_, ?_⟩
    · rw [Device.closeSession_session?, if_pos rfl]
    · obtain ⟨hin, hnot⟩ := mem_forList_abortTxn ht
      exact hnot (List.mem_filter.2 ⟨hin, by simpa using hgone⟩)
    · rw [Device.closeSession_session?, if_neg hid]
    · exact (congrArg (·.fw.live) haside).trans (s.touched_live m)
    · exact (congrArg (·.fw.eff) haside).trans (s.touched_eff m)
    · exact (congrArg (·.work) haside).trans (s.touched_work m)
    · exact (congrArg (·.clk) haside).trans (s.touched_clk m)
    · exact (congrArg (·.regs) haside).trans (s.touched_regs m)

end Sys2Proof.Machine
end

section
namespace Sys2Proof.Machine

/-! O56: mode requests. -/

/-- The transitions of R22: from IDLE to a working mode, from a working mode or SAFE to IDLE, from HEARTH to the mode before. -/
def Mode.Listed (now target prior : Mode) : Prop := (now = .idle ∧ (target = .run ∨ target = .calibrate ∨ target = .maintain)) ∨
  ((now = .run ∨ now = .calibrate ∨ now = .maintain ∨ now = .safe) ∧ target = .idle) ∨ (now = .hearth ∧ target = prior)

theorem modeAllowed_iff (now target prior : Mode) : modeAllowed now target prior = true ↔ Mode.Listed now target prior := by
  cases now <;> cases target <;> simp [modeAllowed, Mode.Listed]

/-- A request for a mode of a sound form, down to its refusals and its acceptance. -/
theorem modeSet_eq {r : Req} {k : Fin 8} {target : Mode} (d : Device) (hb : r.body = [BitVec.ofNat 8 k, 0#8, 0#8, 0#8])
    (hk : Mode.ofCode k = some target) : modeSet r d =
      require (modeAllowed d.pw.mode target d.pw.prior) stWrongMode d
        (require (!d.pw.changing && !(decide (d.pw.mode = .safe) && !d.pw.logRead)) stDenied d
          (require (!d.longFull r.session) stDenied d
            (some ⟨stAccepted, [], some (if d.working then d.epoch + 2 else d.epoch + 1)⟩,
              (d.startLong r.session).acceptMode target (if d.working then d.epoch + 2 else d.epoch + 1) r.waiter))) := by
  have hlen : r.body.length = 4 := by rw [hb]; rfl
  have hcode : Mode.ofCode (u8 r.body 0) = some target := by
    have h8 : u8 r.body 0 = k := by
      rw [hb]
      change (BitVec.ofNat 8 k).toNat = k
      rw [BitVec.toNat_ofNat]
      omega
    rw [h8, hk]
  have hzero : allZero r.body 1 3 = true := by rw [hb]; rfl
  rw [modeSet, sizedTo, if_pos hlen]
  dsimp only
  rw [hcode]
  exact if_pos hzero

theorem modeSet_notListed {r : Req} {k : Fin 8} {target : Mode} (d : Device) (hb : r.body = [BitVec.ofNat 8 k, 0#8, 0#8, 0#8])
    (hk : Mode.ofCode k = some target) (hno : ¬ Mode.Listed d.pw.mode target d.pw.prior) :
    modeSet r d = (some (Ans.st stWrongMode), d) := by
  rw [modeSet_eq d hb hk]
  exact if_neg (mt (modeAllowed_iff _ _ _).1 hno)

/-! ### Acceptance -/

/-- The device once an open calibration has ended, where the device leaves CALIBRATE. -/
def Device.uncalibrated (d : Device) : Device := if d.pw.mode = .calibrate then d.abortCal else d

theorem Device.uncalibrated_runs (d : Device) : Device.Runs d d.uncalibrated := by
  rw [Device.uncalibrated]
  split
  · exact d.abortCal_runs
  · exact .refl d

theorem Device.uncalibrated_work {d : Device} (h : d.pw.mode ≠ .calibrate) : d.uncalibrated.work = d.work := by
  rw [Device.uncalibrated, if_neg h]

/-- A change that is accepted waits: a wake, or the change itself from a mode that is awake. -/
theorem Device.acceptMode_waits (m : Mode) (e : Nat) (w : Waiter) (d : Device) : ∃ p : Power,
    d.acceptMode m e w = { d.uncalibrated with pw := p } ∧ p.mode = d.uncalibrated.pw.mode ∧ p.changing = true ∧
      (d.uncalibrated.pw.mode ≠ .hearth → d.uncalibrated.pw.mode ≠ .safe → p.pending = some (m, e, some w)) := by
  change ∃ p, (if (decide (d.uncalibrated.pw.mode = .hearth) || (decide (d.uncalibrated.pw.mode = .safe) && d.uncalibrated.pw.safeAsleep)) = true
    then { d.uncalibrated with pw := { d.uncalibrated.pw with wake := some (e, m, some w) } }
    else { d.uncalibrated with pw := { d.uncalibrated.pw with pending := some (m, e, some w) } }) = _ ∧ _
  split
  · next hw =>
    refine ⟨_, rfl, rfl, ?_, fun hh hs => ?_⟩
    · exact (Bool.or_eq_true_iff.2 (.inr rfl))
    · simp [hh, hs] at hw
  · exact ⟨_, rfl, rfl, rfl, fun _ _ => rfl⟩

/-- From a working mode a change takes effect two epochs on. -/
theorem Mode.Listed.working {d : Device} {target : Mode} (h : Mode.Listed d.pw.mode target d.pw.prior) (hh : d.pw.mode ≠ .hearth)
    (hs : d.pw.mode ≠ .safe) : d.working = true := by
  rw [Device.working]
  rcases h with ⟨h, -⟩ | ⟨h | h | h | h, -⟩ | ⟨h, -⟩
  · rw [h]
  · rw [h]
  · rw [h]
  · rw [h]
  · exact absurd h hs
  · exact absurd h hh

/-- Settles O56: the transitions that *Mode transitions* holds are those that `modeSet` lets pass, and a change that is accepted waits. -/
theorem modeRequestsFollowTheTransitions : Obligations.ModeRequestsFollowTheTransitions := by
  unfold Obligations.ModeRequestsFollowTheTransitions
  intro listed
  refine ⟨fun d r k target hb hk hno => modeSet_notListed d hb hk hno, fun s m k target hs hb hk => ?_⟩
  intro now
  refine ⟨fun hno => ?_, fun hl hch hlog hfull => ?_⟩
  · refine ⟨refuses_of_handler rfl hs (modeSet_notListed _ hb hk ?_), congrArg (·.mode) (s.touched_pw m)⟩
    rwa [State.touched_pw]
  · have heq := modeSet_eq (s.touched m) (r := s.request m) hb hk
    have hpass : modeAllowed (s.touched m).pw.mode target (s.touched m).pw.prior = true := by
      rw [State.touched_pw]
      exact (modeAllowed_iff _ _ _).2 hl
    have hopen : (!(s.touched m).pw.changing && !(decide ((s.touched m).pw.mode = .safe) && !(s.touched m).pw.logRead)) = true := by
      rw [State.touched_pw, hch]
      by_cases hsafe : s.dev.pw.mode = .safe
      · rw [hlog hsafe, Bool.not_true, Bool.and_false]
        rfl
      · simp [hsafe]
    have hroom : (!(s.touched m).longFull (s.request m).session) = true := by
      change (!(s.touched m).longFull (s.sessionNo m)) = true
      rw [hfull]
      rfl
    rw [require, if_pos hpass, require, if_pos hopen, require, if_pos hroom, State.touched_epoch] at heq
    have hworking : (s.touched m).working = s.dev.working := by rw [Device.working, State.touched_pw, Device.working]
    rw [hworking] at heq
    have hans := answers_of_handler (c := .modeSet (.mailbox m)) rfl hs heq
    rw [Option.getD_some] at hans
    refine ⟨_, hans, ?_⟩
    obtain ⟨p, hp, hmode, hchanging, hpending⟩ := Device.acceptMode_waits target (if s.dev.working = true then s.dev.epoch + 2 else s.dev.epoch + 1)
      (s.request m).waiter ((s.touched m).startLong (s.request m).session)
    have hruns := Device.uncalibrated_runs ((s.touched m).startLong (s.request m).session)
    have hnow : ((s.touched m).startLong (s.request m).session).uncalibrated.pw.mode = now := hruns.mode.trans (congrArg (·.mode) (s.touched_pw m))
    rw [hp]
    refine ⟨hmode.trans hnow, hchanging, ?_, ?_, ?_, fun hh hsafe => ?_, fun hc => ?_⟩
    · exact (congrArg (·.fw.eff) hruns.same).trans (s.touched_eff m)
    · exact (congrArg (·.fw.live) hruns.same).trans (s.touched_live m)
    · exact hruns.regs.trans (s.touched_regs m)
    · rw [hpending (hnow ▸ hh) (hnow ▸ hsafe), if_pos (Mode.Listed.working hl hh hsafe)]
      rfl
    · refine (Device.uncalibrated_work ?_).trans (s.touched_work m)
      change (s.touched m).pw.mode ≠ _
      rwa [State.touched_pw]

end Sys2Proof.Machine
end

section
namespace Sys2Proof.Machine

/-! O55: transactions begin, commit and abort. -/

/-! ### Partners -/

theorem noRepeat_of_nodup {l : List Nat} (h : l.Nodup) : noRepeat l = true := by
  induction l with
  | nil => rfl
  | cons a l ih =>
    obtain ⟨ha, hl⟩ := List.nodup_cons.1 h
    simp [noRepeat, ha, ih hl]

theorem addrsOf_length (l : List Byte) (off n : Nat) : (addrsOf l off n).length = n := by
  induction n generalizing off with
  | zero => rfl
  | succ n ih => rw [addrsOf, List.length_cons, ih]

/-- A frame goes to every partner, in their order. -/
theorem Device.toParts_out (t : Txn) (f : Nat → OutFrame) (d : Device) :
    (d.toParts t f).fab.out = d.fab.out ++ t.parts.map fun p => f p.addr := by
  rw [Device.toParts, forList]
  induction t.parts generalizing d with
  | nil => exact (List.append_nil _).symm
  | cons p l ih => rw [List.foldl_cons, ih, Device.send_out, List.append_assoc, List.map_cons, List.singleton_append]

/-! ### txn.begin -/

/-- txn.begin of a sound form, by how many of the session's transactions are open. -/
theorem txnBegin_eq {r : Req} {n : Nat} (d : Device) (hn : u16 r.body 2 = n) (hlen : r.body.length = 4 + 2 * n) (h1 : u8 r.body 1 = 0)
    (hscope : u8 r.body 0 = 0 ∧ n = 0 ∨ u8 r.body 0 = 1 ∧ 1 ≤ n ∧ n ≤ 64)
    (hnodup : (addrsOf r.body 4 n).Nodup) (hall : ∀ a ∈ addrsOf r.body 4 n, 1 ≤ a ∧ a ≤ 0xFFE ∧ d.reaches a = true) :
    let parts := addrsOf r.body 4 n
    let t := d.newTxn r parts
    txnBegin r d = if d.openCount r.session < 4 then
        (if u8 r.body 0 = 0 then (some t.begun, d.addTxn t) else (none, (d.addTxn t).toParts t fun a => .txnOpen a t.id t.ticket parts))
      else refuse stTxnLimit d := by
  intro parts t
  have hsize : (decide (4 ≤ r.body.length) && r.body.length == 4 + 2 * u16 r.body 2) = true := by
    rw [hn, hlen]
    simp
  have hbounds : parts.all (fun a => decide (1 ≤ a) && decide (a ≤ 0xFFE)) = true :=
    List.all_eq_true.2 fun a ha => by
      obtain ⟨hlow, hhigh, -⟩ := hall a ha
      simp [hlow, hhigh]
  have hfields : (decide (u8 r.body 0 ≤ 1) && u8 r.body 1 == 0 && (if u8 r.body 0 = 0 then n == 0
      else decide (1 ≤ n) && decide (n ≤ 64) && noRepeat parts && parts.all fun a => decide (1 ≤ a) && decide (a ≤ 0xFFE))) = true := by
    rw [hbounds, noRepeat_of_nodup hnodup]
    obtain ⟨h0, hn0⟩ | ⟨h0, hlow, hhigh⟩ := hscope
    · simp [h0, h1, hn0]
    · simp [h0, h1, hlow, hhigh]
  have hreach : parts.all (fun a => d.reaches a) = true := List.all_eq_true.2 fun a ha => (hall a ha).2.2
  rw [txnBegin]
  dsimp only
  rw [require, if_pos hsize, hn]
  rw [require, if_pos hfields]
  rw [require]
  by_cases hopen : d.openCount r.session < 4
  · rw [if_pos hopen, if_pos (decide_eq_true hopen)]
    exact if_pos hreach
  · rw [if_neg hopen, if_neg (mt of_decide_eq_true hopen)]

/-! ### Transactions by name -/

/-- The open transaction that a header names is one of the device's. -/
theorem Device.openTxn_mem {code session id : Nat} {d : Device} {t : Txn} (h : d.openTxn code session id = some t) : t ∈ d.fw.txns := by
  rw [Device.openTxn] at h
  split at h
  · exact nomatch h
  · split at h
    · next x u hl =>
      have hu : u ∈ d.fw.txns := by
        rw [Device.linkedTxn] at hl
        split at hl
        · exact List.mem_of_find?_eq_some hl
        · exact nomatch hl
      split at h
      · exact Option.some.inj h ▸ hu
      · exact nomatch h
    · exact List.mem_of_find?_eq_some h

/-- A change of one transaction is made to those of its key. -/
theorem Device.mem_setTxn {coord : Option Nat} {id : Nat} {f : Txn → Txn} {d : Device} {x : Txn}
    (hx : x ∈ (d.setTxn coord id f).fw.txns) (hc : x.coord = coord) (hi : x.id = id) : ∃ y, x = f y := by
  obtain ⟨y, -, rfl⟩ := List.mem_map.1 hx
  by_cases hy : y.coord = coord ∧ y.id = id
  · exact ⟨y, if_pos hy⟩
  · rw [if_neg hy] at hc hi
    exact absurd ⟨hc, hi⟩ hy

theorem Device.setTxn_mem {coord : Option Nat} {id : Nat} (f : Txn → Txn) {d : Device} {t : Txn} (ht : t ∈ d.fw.txns) (hc : t.coord = coord)
    (hi : t.id = id) : f t ∈ (d.setTxn coord id f).fw.txns :=
  List.mem_map.2 ⟨t, ht, if_pos ⟨hc, hi⟩⟩

theorem Device.setTxn_aside (coord : Option Nat) (id : Nat) (f : Txn → Txn) (d : Device) : (d.setTxn coord id f).aside = d.aside := rfl
theorem Device.retire_aside (t : Txn) (d : Device) : (d.retire t).aside = d.aside := rfl

/-- A retired transaction is gone, and the others stay. -/
theorem Device.mem_retire {t x : Txn} {d : Device} (h : x ∈ (d.retire t).fw.txns) : x ∈ d.fw.txns ∧ ¬ (x.coord = t.coord ∧ x.id = t.id) := by
  obtain ⟨hin, hkey⟩ := List.mem_filter.1 h
  exact ⟨hin, by simpa [imp_iff_not_or] using hkey⟩

/-- What a command leaves as it is, of the device that it finds. -/
theorem State.aside_touched {m : Nat} {s : State} {e : Device} (h : e.aside = (s.touched m).aside) :
    e.fw.live = s.dev.fw.live ∧ e.fw.eff = s.dev.fw.eff ∧ e.fw.sessions = (s.touched m).fw.sessions ∧ e.regs = s.dev.regs ∧ e.clk = s.dev.clk ∧
      e.fw.committed = s.dev.fw.committed ∧ e.fw.effective = s.dev.fw.effective :=
  ⟨(congrArg (·.fw.live) h).trans (s.touched_live m), (congrArg (·.fw.eff) h).trans (s.touched_eff m), congrArg (·.fw.sessions) h,
    (congrArg (·.regs) h).trans (s.touched_regs m), (congrArg (·.clk) h).trans (s.touched_clk m),
    (congrArg (·.fw.committed) h).trans (s.touched_committed m), (congrArg (·.fw.effective) h).trans (s.touched_effective m)⟩

/-- A transaction that waits for a mailbox's request keeps that mailbox. -/
theorem Device.awaits_of_txn {d : Device} {t : Txn} {w : Waiter} {m : Nat} (ht : t ∈ d.fw.txns)
    (hstate : t.state = .waiting ∨ t.state = .aborted ∨ t.state = .open_ ∧ t.fabric = true) (hw : t.waiter = some w) (hv : w.via = .mailbox m) :
    d.awaits m = true := by
  refine Bool.or_eq_true_iff.2 (.inr (List.any_eq_true.2 ⟨t, ht, ?_⟩))
  rw [hw, Bool.and_eq_true]
  exact ⟨decide_eq_true hstate, decide_eq_true hv⟩

theorem State.stands_code {s : State} {code m : Nat} (hs : s.stands code m) : (s.request m).code = code := by
  obtain ⟨-, -, -, -, -, hcode, -⟩ := hs
  exact hcode

section commands
variable {s : State} {m : Fin 4} {t : Txn}

/-- What is left of a device once a mailbox is kept for its request's answer. -/
theorem kept_of_aside {c : Instr} {code : Nat} {h : Handler} {d : Device} (hc : exec c s = fwRow code h (.mailbox m) s) (hs : s.stands code m)
    (hh : h (s.request m) (s.touched m) = (none, d)) (ha : d.awaits m = true) (haside : d.aside = (s.touched m).aside) :
    Completes c s fun u => (u.pending = s.pending ∧ u.mailbox m = { s.mailbox m with taken := true } ∧
      u.dev.fw.eff = s.dev.fw.eff ∧ u.dev.fw.live = s.dev.fw.live ∧ u.dev.regs = s.dev.regs ∧ u.dev.clk = s.dev.clk) ∧ u.dev = d := by
  obtain ⟨u, hu, rfl, hp, hm⟩ := kept_of_handler hc hs hh ha
  obtain ⟨hlive, heff, -, hregs, hclk, -, -⟩ := State.aside_touched haside
  exact ⟨u, hu, ⟨hp, hm, heff, hlive, hregs, hclk⟩, rfl⟩

/-- A request of the right length goes to its handler. -/
theorem sizedTo_request {n : Nat} {k : Handler} {d : Device} (hlen : (s.body m).length = n) :
    sizedTo n k (s.request m) d = k (s.request m) d := if_pos hlen

/-- txn.abort of the transaction that its header names. -/
theorem txnAbort_eq (hs : s.stands 0x0203 m) (hlen : (s.body m).length = 0)
    (ht : (s.touched m).openTxn 0x0203 (s.sessionNo m) (s.txnNo m) = some t) (hd : t.state ≠ .inDoubt) :
    txnAbort (s.request m) (s.touched m) = if t.state = .waiting then
        (some (Ans.ok []), (if t.fabric then (s.touched m).announce t false true else s.touched m).setTxn t.coord t.id fun t =>
          { t with state := .aborted, items := [] })
      else (some (Ans.ok []), (s.touched m).abortTxn t) := by
  have hname : (s.touched m).openTxn (s.request m).code (s.request m).session (s.request m).txn = some t := by
    rw [State.stands_code hs]
    exact ht
  rw [txnAbort, sizedTo_request hlen]
  dsimp only
  rw [hname]
  exact if_neg hd

/-- txn.commit of the open transaction that its header names. -/
theorem txnCommit_eq (hs : s.stands 0x0202 m) (hlen : (s.body m).length = 4)
    (ht : (s.touched m).openTxn 0x0202 (s.sessionNo m) (s.txnNo m) = some t) (hc : t.coord = none) (ho : t.state = .open_) :
    txnCommit (s.request m) (s.touched m) =
      if t.fabric then
        match commitTarget (s.touched m).epoch (u32 (s.body m) 0) with
        | none => refuse stBadField (s.touched m)
        | some target =>
          require (!(s.touched m).longFull (s.sessionNo m)) stDenied (s.touched m)
            (none, (s.touched m).setTxn none t.id fun t =>
              { t with state := .waiting, target := target, arrived := Min.min (s.mailbox m).epoch (s.touched m).epoch, waiter := some (s.waiter m) })
      else
        require (u32 (s.body m) 0 == 0) stBadField (s.touched m) <|
        if t.items = [] then
          (some (Ans.ok []), (s.touched m).retire { t with state := .effective, effect := (s.touched m).epoch, tag := (s.touched m).fw.committed })
        else
          (none, (s.touched m).setTxn none t.id fun t =>
            { t with state := .waiting, arrived := Min.min (s.mailbox m).epoch (s.touched m).epoch, waiter := some (s.waiter m) }) := by
  have hname : (s.touched m).openTxn (s.request m).code (s.request m).session (s.request m).txn = some t := by
    rw [State.stands_code hs]
    exact ht
  rw [txnCommit, sizedTo_request hlen]
  dsimp only
  rw [hname]
  dsimp only
  have hown : t.coord.isNone = true := by rw [hc]; rfl
  rw [require, if_pos hown, require, if_pos (decide_eq_true ho)]
  rfl

end commands

/-- Settles O55: the handlers' cases; a transaction that waits for its answer keeps its request's mailbox. -/
theorem transactionsBeginCommitAndAbort : Obligations.TransactionsBeginCommitAndAbort := by
  unfold Obligations.TransactionsBeginCommitAndAbort
  intro s m q l d kept
  refine ⟨fun hs => ⟨fun hl => ?_, ?_⟩, ?_, ?_, ?_⟩
  · have heq := txnBegin_eq (r := s.request m) (n := 0) d (congrArg (u16 · 2) hl) (congrArg List.length hl) (congrArg (u8 · 1) hl)
      (.inl ⟨congrArg (u8 · 0) hl, rfl⟩) List.nodup_nil (fun _ h => nomatch h)
    refine ⟨fun hopen => ?_, fun hfull => ?_⟩
    · refine ⟨d.newTxn (s.request m) [], s.touched_nextTxn m, congrArg (· + 1) (s.touched_tickets m), rfl, rfl, rfl, rfl, rfl, ?_⟩
      exact answersOk_of_handler rfl hs (heq.trans ((if_pos hopen).trans (if_pos (congrArg (u8 · 0) hl))))
    · exact refuses_of_handler rfl hs (heq.trans (if_neg (Nat.not_lt.2 hfull)))
  · intro n h0 h1 hn hlen hlow hhigh hopen parts hnodup hall
    have heq := txnBegin_eq (r := s.request m) (n := n) d hn hlen h1 (.inr ⟨h0, hlow, hhigh⟩) hnodup hall
    have hscope : ¬ u8 l 0 = 0 := by omega
    replace heq := heq.trans ((if_pos hopen).trans (if_neg hscope))
    let t := d.newTxn (s.request m) parts
    have hinner := (d.addTxn t).toParts_inner t fun a => .txnOpen a t.id t.ticket parts
    have hfw : ((d.addTxn t).toParts t fun a => .txnOpen a t.id t.ticket parts).fw = (d.addTxn t).fw := congrArg (·.fw) hinner
    have hparts : parts.isEmpty = false := by
      have hlength : parts.length = n := addrsOf_length l 4 n
      cases hp : parts with
      | nil => rw [hp] at hlength; exact absurd hlength.symm (by simp only [List.length_nil]; omega)
      | cons a is => rfl
    have hawaits : ((d.addTxn t).toParts t fun a => .txnOpen a t.id t.ticket parts).awaits m = true := by
      refine Device.awaits_of_txn (t := t) (w := s.waiter m) ?_ (.inr (.inr ⟨rfl, ?_⟩)) ?_ rfl
      · rw [hfw]
        exact List.mem_append_right _ (List.mem_singleton.2 rfl)
      · exact congrArg (!·) hparts
      · exact if_neg (hparts ▸ Bool.false_ne_true)
    have haside : (d.addTxn t).aside = d.aside := rfl
    obtain ⟨u, hu, hkept, hdev⟩ := kept_of_aside (c := .txnBegin q) rfl hs heq hawaits ((Device.aside_of_inner hinner).trans haside)
    refine ⟨u, hu, hkept, ?_, ?_⟩
    · rw [hdev]
      exact (congrArg (·.nextTxn) hfw).trans (congrArg (· + 1) (s.touched_nextTxn m))
    · rw [hdev, Device.toParts_out]
      have hout : (d.addTxn t).fab.out = s.dev.fab.out := congrArg Fabric.out (s.touched_fab m)
      have hid : t.id = s.dev.fw.nextTxn := s.touched_nextTxn m
      have hticket : t.ticket = s.dev.fw.tickets + 1 := congrArg (· + 1) (s.touched_tickets m)
      have haddrs : t.parts = parts.map fun a => (⟨a, false, none, false⟩ : Part) := rfl
      change (d.addTxn t).fab.out ++ t.parts.map (fun p => .txnOpen p.addr t.id t.ticket parts) = _
      rw [hout, hid, hticket, haddrs, List.map_map]
      rfl
  · intro t hs hlen ht
    refine ⟨fun hw => ?_, fun ho => ?_⟩
    · have heq := txnAbort_eq hs hlen ht (by rw [hw]; exact nofun)
      rw [if_pos hw] at heq
      have haside : (if t.fabric then d.announce t false true else d).aside = d.aside := by
        split
        · exact d.announce_aside t false true
        · rfl
      obtain ⟨hlive, heff, hsessions, -⟩ := State.aside_touched ((Device.setTxn_aside ..).trans haside)
      refine ⟨_, answersOk_of_handler rfl hs heq, fun x hx hc hi => ?_, hlive, heff, hsessions⟩
      obtain ⟨y, rfl⟩ := Device.mem_setTxn hx hc hi
      exact ⟨rfl, rfl⟩
    · have heq := txnAbort_eq hs hlen ht (by rw [ho]; exact nofun)
      rw [if_neg (by rw [ho]; exact nofun)] at heq
      obtain ⟨hlive, heff, hsessions, -⟩ := State.aside_touched (d.abortTxn_aside t)
      refine ⟨_, answersOk_of_handler rfl hs heq, fun x hx => ?_, hlive, heff, hsessions⟩
      rw [Device.abortTxn_txns, List.mem_filter] at hx
      exact ⟨hx.1, by simpa [imp_iff_not_or] using hx.2⟩
  · intro t target hs hlen ht hc ho hf htarget hfull
    have heq := txnCommit_eq hs hlen ht hc ho
    rw [if_pos hf, State.touched_epoch, htarget] at heq
    dsimp only at heq
    have hroom : (!(s.touched m).longFull (s.sessionNo m)) = true := congrArg (!·) hfull
    rw [require, if_pos hroom] at heq
    have hmem := Device.setTxn_mem (fun t => { t with state := .waiting, target := target, arrived := Min.min (s.mailbox m).epoch s.dev.epoch, waiter := some (s.waiter m) })
      (Device.openTxn_mem ht) hc rfl
    obtain ⟨u, hu, hkept, hdev⟩ := kept_of_aside (c := .txnCommit q) rfl hs heq (Device.awaits_of_txn (w := s.waiter m) hmem (.inl rfl) rfl rfl) rfl
    rw [← hdev] at hmem
    exact ⟨u, hu, hkept, _, hmem, rfl, rfl, rfl, rfl, rfl⟩
  · intro t hs hl ht hc ho hf
    have heq := txnCommit_eq hs (congrArg List.length hl) ht hc ho
    have hv : (u32 (s.body m) 0 == 0) = true := congrArg (fun l => u32 l 0 == 0) hl
    rw [hf, if_neg Bool.false_ne_true, require, if_pos hv] at heq
    refine ⟨fun hi => ?_, fun hi => ?_⟩
    · rw [if_pos hi] at heq
      obtain ⟨hlive, heff, -, -, -, hcommitted, heffective⟩ := State.aside_touched (m := m) (s := s)
        (Device.retire_aside { t with state := .effective, effect := (s.touched m).epoch, tag := (s.touched m).fw.committed } d)
      refine ⟨_, answersOk_of_handler rfl hs heq, fun x hx => ?_, hlive, heff, hcommitted, heffective⟩
      obtain ⟨hin, hkey⟩ := Device.mem_retire hx
      exact ⟨hin, hc ▸ hkey⟩
    · rw [if_neg hi, State.touched_epoch] at heq
      have hmem := Device.setTxn_mem (fun t => { t with state := .waiting, arrived := Min.min (s.mailbox m).epoch s.dev.epoch, waiter := some (s.waiter m) })
        (Device.openTxn_mem ht) hc rfl
      obtain ⟨u, hu, hkept, hdev⟩ := kept_of_aside (c := .txnCommit q) rfl hs heq (Device.awaits_of_txn (w := s.waiter m) hmem (.inl rfl) rfl rfl) rfl
      have hcommitted : u.dev.fw.committed = s.dev.fw.committed := by
        rw [hdev]
        exact s.touched_committed m
      rw [← hdev] at hmem
      exact ⟨u, hu, hkept, hcommitted, _, hmem, rfl, rfl, rfl, rfl⟩

end Sys2Proof.Machine
end

section
namespace Sys2Proof.Machine

/-! O57: a new slew rate takes up what slewing has left, at its instant. -/

/-- The bytes of a request for holdover.policy of session 1 that sets a slew rate of 1/4 and nothing else. -/
def slewRateRequest : List Byte :=
  leBytes 2 16 ++ leBytes 2 0x0A05 ++ leBytes 4 0x55 ++ leBytes 2 1 ++ leBytes 2 0 ++ leBytes 4 0 ++
    ([2#8, 0#8, 0#8, 0#8] ++ leBytes 4 0x3E800000 ++ zeros 8)

/-- A device that runs, at tick 16, with session 1 and that request in mailbox 0. -/
def rateAsked : State :=
  { State.reset with
    dev := { State.reset.dev with
      clk := { Clock.reset with time := 16, counting := true }
      pw := { State.reset.dev.pw with mode := .run, booted := true }
      fw := { State.reset.dev.fw with sessions := [⟨1, 0, 0, 0, 10000, 0, [], [], 0, [], 0⟩] } }
    mbx := [(0, { Mailbox.init with request := tputList 0#8 [] 0 slewRateRequest, reqLen := 32#11, reqBusy := true })] }

theorem rateAsked_stands : rateAsked.stands 0x0A05 0 := by
  unfold State.stands
  decide +kernel

theorem rateAsked_body : rateAsked.body 0 = [2#8, 0#8, 0#8, 0#8] ++ leBytes 4 0x3E800000 ++ zeros 8 := by decide +kernel

/-- The device once the slew rate is set. -/
def rateSet : Device := (rateAsked.touched 0).setPolicy 2 0 0x3E800000#32 0

theorem rateAsked_handled : holdoverPolicy (rateAsked.request 0) (rateAsked.touched 0) = (some (Ans.ok []), rateSet) := by
  have hbody : (rateAsked.request 0).body = [2#8, 0#8, 0#8, 0#8] ++ leBytes 4 0x3E800000 ++ zeros 8 := rateAsked_body
  rw [holdoverPolicy, sizedTo, hbody, if_pos (by decide)]
  refine (if_pos (by decide +kernel)).trans ?_
  rfl

/-- Slewing goes on from the present instant, and began at tick 0. -/
theorem rateSet_slewAt : rateSet.clk.slewAt = 16 ∧ rateAsked.dev.clk.slewAt = 0 := by decide +kernel

/-- Refutes O57: with another slew rate the instant from which slewing counts moves to the present one. -/
theorem not_commandsActAtOnce : ¬ Obligations.CommandsActAtOnce := by
  unfold Obligations.CommandsActAtOnce
  intro h
  obtain ⟨-, -, hpolicy, -⟩ := h rateAsked 0
  have hset := hpolicy rateAsked_stands (by decide +kernel) (by decide +kernel) (by decide +kernel) (by decide +kernel) (by decide +kernel)
    (by decide +kernel) (by decide +kernel)
  obtain ⟨e, ⟨t, hexec, hdev, -⟩, -, hsame⟩ := hset.2 (.inl (by decide +kernel))
  obtain ⟨u, hrun, hleft, -⟩ := answersOk_of_handler (c := .holdoverPolicy (.mailbox (0 : Fin 4))) rfl rateAsked_stands rateAsked_handled
  obtain rfl : t = u := Host.Outcome.next.inj (hexec.symm.trans hrun)
  have hclk : e.clk = rateSet.clk := by
    rw [← Device.raise_clk evMbx (ebit 0) e, ← Device.raise_clk evMbx (ebit 0) rateSet]
    exact congrArg (·.clk) (hdev.symm.trans hleft)
  obtain ⟨hclocks, -⟩ := hsame (by decide +kernel)
  have hslew : e.clk.slewAt = rateAsked.dev.clk.slewAt := congrArg (·.slewAt) hclocks
  rw [hclk, rateSet_slewAt.1, rateSet_slewAt.2] at hslew
  exact absurd hslew (by decide)

end Sys2Proof.Machine
end

section
namespace Sys2Proof.Machine

/-! O58: long commands are accepted. -/

section takes
variable {c : Instr} {m : Fin 4} {s : State} {code : Nat} {h : Handler}

/-- A long command is taken with what it adds, or refused when the session's queue is full. -/
def Takes (c : Instr) (m : Fin 4) (s : State) (f : Device → Device) : Prop :=
  ((s.touched m).longFull (s.sessionNo m) = false → Accepts c m s f) ∧ ((s.touched m).longFull (s.sessionNo m) = true → Refuses c m s stDenied)

/-- A handler that accepts long work takes it; what it adds may be read off the device as the request found it. -/
theorem takes_of_handler {f g : Device → Device} (hc : exec c s = fwRow code h (.mailbox m) s) (hs : s.stands code m)
    (hh : h (s.request m) (s.touched m) = acceptLong (s.request m) (s.touched m) g)
    (hf : g ((s.touched m).startLong (s.sessionNo m)) = f ((s.touched m).startLong (s.sessionNo m))) : Takes c m s f := by
  refine ⟨fun hroom => ?_, fun hfull => refuses_of_handler hc hs (hh.trans (if_pos hfull))⟩
  have hacc := accepts_of_handler hc hs hroom hh
  rw [Accepts, hf] at hacc
  exact hacc

end takes

/-! ### What checks read of the device -/

/-- Whether device time may be set is read off the batches, the transactions, the units, the Bell and the clocks. -/
theorem Device.timeBusy_congr {d e : Device} (hb : d.fw.batches = e.fw.batches) (ht : d.fw.txns = e.fw.txns) (heff : d.fw.eff = e.fw.eff)
    (hbell : d.bell = e.bell) (hclk : d.clk = e.clk) : d.timeBusy = e.timeBusy := by
  have hep : d.epoch = e.epoch := congrArg (fun c : Clock => c.time / Config.epochTicks) hclk
  rw [Device.timeBusy, hb, ht, heff, hbell, hep, hclk, Device.timeBusy]

section touched
variable (m : Nat) (s : State)

@[simp] theorem State.touched_bell : (s.touched m).bell = s.dev.bell := congrArg (·.bell) (s.touched_eq m)
@[simp] theorem State.touched_batches : (s.touched m).fw.batches = s.dev.fw.batches := congrArg (·.fw.batches) (s.touched_eq m)
@[simp] theorem State.touched_inWarning : (s.touched m).inWarning = s.dev.inWarning := by rw [Device.inWarning, State.touched_pw, Device.inWarning]
@[simp] theorem State.touched_openCal : (s.touched m).openCal = s.dev.openCal := by rw [Device.openCal, State.touched_work, Device.openCal]
@[simp] theorem State.touched_followsCommons : (s.touched m).followsCommons = s.dev.followsCommons := by
  rw [Device.followsCommons, State.touched_clk, State.touched_fab, Device.followsCommons]
@[simp] theorem State.touched_timeBusy : (s.touched m).timeBusy = s.dev.timeBusy :=
  Device.timeBusy_congr (s.touched_batches m) (s.touched_txns m) (s.touched_eff m) (s.touched_bell m) (s.touched_clk m)
@[simp] theorem State.touched_reaches (a : Nat) : (s.touched m).reaches a = s.dev.reaches a := by rw [Device.reaches, State.touched_fab, Device.reaches]

end touched

/-- The first four bytes, and the codes they are. -/
theorem bytes_of_take4 {l : List Byte} {a b c d : Byte} (h : l.take 4 = [a, b, c, d]) :
    u8 l 0 = a.toNat ∧ u8 l 1 = b.toNat ∧ (c = 0#8 → d = 0#8 → allZero l 2 2 = true) := by
  rw [← List.take_append_drop 4 l, h]
  refine ⟨?_, ?_, fun hc hd => ?_⟩
  · change a.toNat + 256 * 0 = _
    omega
  · change b.toNat + 256 * 0 = _
    omega
  · subst hc hd
    rfl

section commands
variable {s : State} {m : Fin 4}

theorem linPersist_takes (hs : s.stands 0x0503 m) (hl : s.body m = []) (hw : s.dev.inWarning = false) (hn : ∀ x ∈ s.dev.work.writes, x.store ≠ 1) :
    Takes (.linPersist (.mailbox m)) m s fun d => d.addWrite ⟨1, 2, Ledger.init, [], d.fw.live.lins, some (s.waiter m), false, false⟩ := by
  refine takes_of_handler rfl hs ((sizedTo_request (congrArg List.length hl)).trans ?_) rfl
  have hclean : (!(s.touched m).inWarning) = true := by rw [State.touched_inWarning, hw]; rfl
  have hfree : (!((s.touched m).work.writes.any fun w => w.store == 1)) = true := by
    rw [State.touched_work]
    simpa using hn
  exact (if_pos hclean).trans (if_pos hfree)

theorem hearthEnter_takes (hs : s.stands 0x0C03 m) (hl : s.body m = []) (hc : s.dev.pw.changing = false) :
    Takes (.hearthEnter (.mailbox m)) m s fun d => { d with pw := { d.pw with hearth := some (d.hearthEpoch, some (s.waiter m)) } } := by
  refine takes_of_handler rfl hs ((sizedTo_request (congrArg List.length hl)).trans (if_pos ?_)) rfl
  rw [State.touched_pw, hc]
  rfl

theorem diagSelftest_takes (hs : s.stands 0x0D01 m) (hl : (s.body m).length = 4) (ht : u32 (s.body m) 0 < 64) (hn : s.dev.work.selftest = none) :
    Takes (.diagSelftest (.mailbox m)) m s fun d => { d with work := { d.work with selftest := some (u32 (s.body m) 0, s.waiter m) } } := by
  have hfree : (s.touched m).work.selftest.isNone = true := by rw [State.touched_work, hn]; rfl
  exact takes_of_handler rfl hs ((sizedTo_request hl).trans ((if_pos (decide_eq_true ht)).trans (if_pos hfree))) rfl

theorem diagLoopback_takes (hs : s.stands 0x0D02 m) (hl : (s.body m).length = 8) (ht : u8 (s.body m) 0 ≤ 2)
    (hi : u8 (s.body m) 0 = 1 ∨ u8 (s.body m) 1 < 4) (hz : allZero (s.body m) 2 2 = true) (hlow : 1 ≤ u32 (s.body m) 4)
    (hhigh : u32 (s.body m) 4 ≤ 60000) (hn : s.dev.work.loopback = none) {f : Device → Device}
    (hf : f = fun d => let d := { d with work := { d.work with loopback := some ⟨u8 (s.body m) 0, u8 (s.body m) 1, s.dev.epoch + u32 (s.body m) 4, s.waiter m⟩ } }
      if u8 (s.body m) 0 = 0 then d.setTile (u8 (s.body m) 1) fun x => { x with test := true } else d) :
    Takes (.diagLoopback (.mailbox m)) m s f := by
  have hfree : (s.touched m).work.loopback.isNone = true := by rw [State.touched_work, hn]; rfl
  have hfields : (decide (u8 (s.body m) 0 ≤ 2) && (u8 (s.body m) 0 == 1 || decide (u8 (s.body m) 1 < 4)) && allZero (s.body m) 2 2 &&
      decide (1 ≤ u32 (s.body m) 4) && decide (u32 (s.body m) 4 ≤ 60000)) = true := by
    simp [ht, hz, hlow, hhigh, hi]
  refine takes_of_handler rfl hs ((sizedTo_request hl).trans ((if_pos hfields).trans (if_pos hfree))) ?_
  rw [hf, ← s.touched_epoch m]
  rfl

theorem fwStage_takes {g : Fin 64} (hs : s.stands 0x0E01 m) (h16 : 16 ≤ (s.body m).length) (h1008 : (s.body m).length ≤ 1008)
    (hl : (s.body m).take 4 = [BitVec.ofNat 8 g, 1#8, 0#8, 0#8]) (h4 : u32 (s.body m) 4 % 4 = 0) (hsize : u32 (s.body m) 8 ≤ imageLimit)
    (hz : allZero (s.body m) 12 4 = true) (htype : (s.dev.fw.eff.region g).type = 5) (hw : s.dev.inWarning = false)
    (hfits : u32 (s.body m) 4 + ((s.body m).length - 16) ≤ (s.dev.fw.eff.region g).capacity)
    (hcap : u32 (s.body m) 8 ≤ (s.dev.fw.eff.region g).capacity) (hn : s.dev.work.verify = none) :
    Takes (.fwStage (.mailbox m)) m s fun d => { d.setRegion g (RegionRun.writeChunk (u32 (s.body m) 4) ((s.body m).drop 16)) with
      work := { d.work with verify := some (g.val, u32 (s.body m) 8, s.waiter m) } } := by
  obtain ⟨hg, hctl, hres⟩ := bytes_of_take4 hl
  have hgnat : u8 (s.body m) 0 = g := by rw [hg, BitVec.toNat_ofNat]; omega
  have hone : u8 (s.body m) 1 = 1 := hctl
  have heff := s.touched_eff m
  have hlen : (decide (16 ≤ (s.body m).length) && decide ((s.body m).length - 16 ≤ 992)) = true := by
    simp [h16]
    omega
  have hfields : (decide (u8 (s.body m) 0 < 64) && ((s.touched m).fw.eff.region (u8 (s.body m) 0)).type == 5 && decide (u8 (s.body m) 1 ≤ 1) &&
      allZero (s.body m) 2 2 && u32 (s.body m) 4 % 4 == 0 && allZero (s.body m) 12 4 &&
      (if u8 (s.body m) 1 = 1 then decide (u32 (s.body m) 8 ≤ imageLimit) else u32 (s.body m) 8 == 0)) = true := by
    rw [heff, hgnat, hone, hres rfl rfl, hz]
    simp [htype, h4, hsize]
  have hclean : (!(s.touched m).inWarning) = true := by rw [State.touched_inWarning, hw]; rfl
  have hroom : (decide (u32 (s.body m) 4 + ((s.body m).length - 16) ≤ ((s.touched m).fw.eff.region (u8 (s.body m) 0)).capacity) &&
      decide (u32 (s.body m) 8 ≤ ((s.touched m).fw.eff.region (u8 (s.body m) 0)).capacity)) = true := by
    rw [heff, hgnat]
    simp [hfits, hcap]
  have hidle : (u8 (s.body m) 1 == 0 || (s.touched m).work.verify.isNone) = true := by
    rw [State.touched_work, hn]
    exact Bool.or_true _
  have hverify : ¬ u8 (s.body m) 1 = 0 := by rw [hone]; exact Nat.one_ne_zero
  refine takes_of_handler (h := fwStage) rfl hs ((if_pos hlen).trans ((if_pos hfields).trans ((if_pos hclean).trans ((if_pos hroom).trans
    ((if_pos hidle).trans (if_neg hverify)))))) ?_
  exact congrArg (fun k => ({ ((s.touched m).startLong (s.sessionNo m)).setRegion k (RegionRun.writeChunk (u32 (s.body m) 4) ((s.body m).drop 16)) with
    work := { (s.touched m).work with verify := some (k, u32 (s.body m) 8, s.waiter m) } } : Device)) hgnat

/-- R368: what may set device time now. -/
theorem State.touched_settable {s : State} {m : Nat} (hb : s.dev.timeBusy = false) (hf : s.dev.followsCommons = false) :
    (!(s.touched m).timeBusy && !(s.touched m).followsCommons) = true := by
  rw [State.touched_timeBusy, State.touched_followsCommons, hb, hf]
  rfl

theorem timeSet_pps_takes (hs : s.stands 0x0A01 m) (hl : (s.body m).length = 32) (hb : s.dev.timeBusy = false) (hf : s.dev.followsCommons = false)
    (h8 : (s.body m).take 8 = zeros 8) (hz : allZero (s.body m) 20 4 = true) (hn : u64 (s.body m) 8 * Config.secondTicks < 2 ^ 64) :
    Takes (.timeSet (.mailbox m)) m s fun d => { d with clk := d.clk.addDue ⟨s.dev.clk.time, 2, 0, u64 (s.body m) 8, some (s.waiter m)⟩ } := by
  obtain ⟨hmode, hres⟩ : u8 (s.body m) 0 = 0 ∧ allZero (s.body m) 1 7 = true := by
    rw [← List.take_append_drop 8 (s.body m), h8]
    exact ⟨rfl, rfl⟩
  have hfields : (decide (u8 (s.body m) 0 ≤ 1) && allZero (s.body m) 1 7 && allZero (s.body m) 20 4) = true := by
    rw [hmode, hres, hz]
    rfl
  refine takes_of_handler rfl hs ((sizedTo_request hl).trans ((if_pos hfields).trans ((if_pos hmode).trans ((if_pos (decide_eq_true hn)).trans
    (if_pos (State.touched_settable hb hf)))))) ?_
  exact congrArg (fun c : Clock => ({ (s.touched m).startLong (s.sessionNo m) with
    clk := (s.touched m).clk.addDue ⟨c.time, 2, 0, u64 (s.body m) 8, some (s.waiter m)⟩ } : Device)) (s.touched_clk m)

theorem timeSet_step_takes {e : Nat} (hs : s.stands 0x0A01 m) (hl : (s.body m).length = 32) (hb : s.dev.timeBusy = false) (hf : s.dev.followsCommons = false)
    (h8 : (s.body m).take 8 = [1#8] ++ zeros 7) (hz : allZero (s.body m) 20 4 = true) (hn : epochNamed s.dev.epoch (u32 (s.body m) 16) = some e)
    (he : s.dev.epoch + 2 ≤ e) (h48 : u64 (s.body m) 24 % 48 = 0) (hsrc : s.dev.clk.source ≠ 2) :
    Takes (.timeSet (.mailbox m)) m s fun d =>
      { d with clk := d.clk.addDue ⟨boundary e, 1, 64 * ((u64 (s.body m) 24 : Int) - boundary e), 0, some (s.waiter m)⟩ } := by
  obtain ⟨hmode, hres⟩ : u8 (s.body m) 0 = 1 ∧ allZero (s.body m) 1 7 = true := by
    rw [← List.take_append_drop 8 (s.body m), h8]
    exact ⟨rfl, rfl⟩
  have hfields : (decide (u8 (s.body m) 0 ≤ 1) && allZero (s.body m) 1 7 && allZero (s.body m) 20 4) = true := by
    rw [hmode, hres, hz]
    rfl
  have hstep : (decide ((s.touched m).epoch + 2 ≤ e) && u64 (s.body m) 24 % 48 == 0 && (s.touched m).clk.source != 2) = true := by
    rw [State.touched_epoch, State.touched_clk]
    simp [he, h48, hsrc]
  have hname : epochNamed (s.touched m).epoch (u32 (s.request m).body 16) = some e := by
    rw [State.touched_epoch]
    exact hn
  have hlater : ¬ u8 (s.body m) 0 = 0 := by rw [hmode]; exact Nat.one_ne_zero
  refine takes_of_handler (g := fun d => { d with clk := d.clk.addDue ⟨boundary e, 1, 64 * ((u64 (s.body m) 24 : Int) - boundary e), 0, some (s.waiter m)⟩ })
    rfl hs ((sizedTo_request hl).trans ((if_pos hfields).trans ((if_neg hlater).trans ?_))) rfl
  rw [hname]
  exact (if_pos hstep).trans (if_pos (State.touched_settable hb hf))

/-- A field of what stands behind the first four bytes. -/
theorem u32_drop4 (l : List Byte) : u32 (l.drop 4) 4 = u32 l 8 := by
  rw [u32, u32, field, field, List.drop_drop]

theorem fabricForward_takes (hs : s.stands 0x0B04 m) (h20 : 20 ≤ (s.body m).length) (hlow : 1 ≤ u16 (s.body m) 0)
    (hhigh : u16 (s.body m) 0 ≤ 0xFFE) (hz : u16 (s.body m) 2 = 0) (hl : (s.body m).length = 20 + u16 (s.body m) 4) (hn : u16 (s.body m) 4 ≤ 988)
    (hreach : s.dev.reaches (u16 (s.body m) 0) = true) (hroute : (s.dev.fab.route (u16 (s.body m) 0)).isSome = true) :
    Takes (.fabricForward (.mailbox m)) m s fun d =>
      { d with fab := { d.fab with forwards := d.fab.forwards ++
        [(⟨u16 (s.body m) 0, BitVec.ofNat 32 (u32 (s.body m) 8), s.waiter m, s.dev.clk.time + forwardWait⟩ : Forward)] } }.send
        (.message (u16 (s.body m) 0) (padWord ((s.body m).drop 4))) := by
  have hsize : (decide (20 ≤ (s.body m).length) && decide (u16 (s.body m) 4 ≤ 988) && (s.body m).length == 20 + u16 (s.body m) 4) = true := by
    simp [h20, hn, ← hl]
  have hfields : (decide (1 ≤ u16 (s.body m) 0) && decide (u16 (s.body m) 0 ≤ 0xFFE) && u16 (s.body m) 2 == 0) = true := by
    simp [hlow, hhigh, hz]
  refine takes_of_handler (h := fabricForward) rfl hs ((if_pos hsize).trans (if_pos hfields)) ?_
  have hgo : ((s.touched m).reaches (u16 (s.body m) 0) && ((s.touched m).fab.route (u16 (s.body m) 0)).isSome) = true := by
    rw [State.touched_reaches, State.touched_fab, hreach, hroute]
    rfl
  rw [← u32_drop4, ← s.touched_clk m]
  exact if_pos hgo

theorem bellSchedule_takes {a : Nat} (hs : s.stands 0x0B05 m) (hl : (s.body m).length = 16) (ha : u16 (s.body m) 8 = a) (hlow : 1 ≤ a)
    (hhigh : a ≤ 0xFFF) (hz : allZero (s.body m) 10 6 = true) (hsoon : boundary (s.dev.epoch + 4) ≤ u64 (s.body m) 0) (h16 : u64 (s.body m) 0 % 16 = 0)
    (hplanned : ∀ t ∈ s.dev.bell.planned, bellsClose (u64 (s.body m) 0) t = false)
    (hdue : ∀ x ∈ s.dev.bell.due, x.sources &&& srcFabric ≠ 0#5 → bellsClose (u64 (s.body m) 0) x.tick = false) {x : BellSched}
    (hx : x = ⟨u64 (s.body m) 0, if a = 0xFFF then s.dev.fab.members.map (·.addr) else [a], [], some (s.waiter m)⟩) {f : Device → Device}
    (hf : let put (d : Device) : Device := { d with bell := { d.bell with sched := d.bell.sched ++ [x] } }
      f = fun d => if x.dests = [] then (put d).endSched x else if a ≠ 0xFFF ∧ !(d.reaches a) then (put d).endSched x
        else { put d with bell := { (put d).bell with planned := d.bell.planned ++ [u64 (s.body m) 0] } }.send (.bell a (u64 (s.body m) 0))) :
    Takes (.bellSchedule (.mailbox m)) m s f := by
  have hheld : (!((s.touched m).bell.planned ++ (((s.touched m).bell.due.filter fun x => decide (x.sources &&& srcFabric ≠ 0#5)).map (·.tick))).any
      (bellsClose (u64 (s.body m) 0))) = true := by
    rw [State.touched_bell, Bool.not_eq_true', List.any_eq_false]
    intro t ht
    rcases List.mem_append.1 ht with ht | ht
    · exact (hplanned t ht) ▸ Bool.false_ne_true
    · obtain ⟨y, hy, rfl⟩ := List.mem_map.1 ht
      obtain ⟨hin, hfab⟩ := List.mem_filter.1 hy
      exact (hdue y hin (of_decide_eq_true hfab)) ▸ Bool.false_ne_true
  have hfields : (decide (boundary ((s.touched m).epoch + 4) ≤ u64 (s.body m) 0) && u64 (s.body m) 0 % 16 == 0 &&
      !((s.touched m).bell.planned ++ (((s.touched m).bell.due.filter fun x => decide (x.sources &&& srcFabric ≠ 0#5)).map (·.tick))).any
        (bellsClose (u64 (s.body m) 0)) && decide (1 ≤ u16 (s.body m) 8) && decide (u16 (s.body m) 8 ≤ 0xFFF) && allZero (s.body m) 10 6) = true := by
    rw [hheld, State.touched_epoch, ha, hz]
    simp [hsoon, h16, hlow, hhigh]
  subst ha hx hf
  refine takes_of_handler (h := bellSchedule) rfl hs ((sizedTo_request hl).trans (if_pos hfields)) ?_
  rw [← s.touched_fab m]
  rfl

end commands

end Sys2Proof.Machine
end

section
namespace Sys2Proof.Machine

/-! O58, on: calibrations, and the obligation. -/

theorem Device.startWrite_work (d : Device) : d.startWrite.work = d.work := by
  unfold Device.startWrite
  split
  · rfl
  · split <;> rfl

theorem Device.addWrite_work (w : StoreWrite) (d : Device) : (d.addWrite w).work = { d.work with writes := d.work.writes ++ [w] } := by
  rw [Device.addWrite]
  dsimp only
  split
  · exact Device.startWrite_work _
  · rfl

theorem Takes.congr {c : Instr} {m : Fin 4} {s : State} {f g : Device → Device} (h : Takes c m s f)
    (hfg : f ((s.touched m).startLong (s.sessionNo m)) = g ((s.touched m).startLong (s.sessionNo m))) : Takes c m s g := by
  refine ⟨fun hroom => ?_, h.2⟩
  have hacc := h.1 hroom
  rw [Accepts, hfg] at hacc
  exact hacc

section calibration
variable {s : State} {m : Fin 4} {c : Cal}

/-- What cal.commit begins. -/
def Cal.commitWork (c : Cal) (w : Waiter) (d : Device) : Device :=
  { d with work := { d.work with cal := some { c with committing := true }, rejectPending := false } }.addWrite
    ⟨0, 0, { d.work.ownerLedger with label := c.label, lastInSitu := c.inSitu },
      c.points.foldl (fun t p => tinsert t p (c.record d.fw.eff p)) d.storedRecs, [], some w, false, d.work.rejectPending⟩

theorem calCommit_accepts (hs : s.stands 0x0903 m) (hl : s.body m = []) (hc : s.dev.openCal = some c) (hlevel : c.level = none)
    (hcomplete : c.complete = true) (hw : s.dev.inWarning = false)
    (hcoef : firstFail (c.points.flatMap fun p => coefFail p (c.coef p).1) = none) :
    Takes (.calCommit (.mailbox m)) m s (c.commitWork (s.waiter m)) := by
  refine takes_of_handler (g := c.commitWork (s.waiter m)) rfl hs ((sizedTo_request (congrArg List.length hl)).trans ?_) rfl
  have hfree : c.level.isNone = true := by rw [hlevel]; rfl
  rw [State.touched_openCal, hc]
  refine (if_pos hcomplete).trans ((if_pos hfree).trans ?_)
  rw [State.touched_inWarning, hw, hcoef]
  rfl

/-- What a session's long work leaves of the device's work. -/
theorem State.longStarted_work (m n : Nat) (s : State) : ((s.touched m).startLong n).work = s.dev.work := s.touched_work m

/-- The declarations that a cal.point leaves: those of its request beside the earlier ones, or those of the bus. -/
def Cal.table (cfg : Cfg) (level : Nat) (rho : F64) (decls : List (Nat × Bool × Cplx)) (c : Cal) : Tbl Cplx :=
  if c.inSitu then decls.foldl (fun t x => tinsert t x.1 x.2.2) (c.decl level)
  else c.points.foldl (fun t p => tinsert t p (if level = 0 then Cplx.zero else ⟨busSpan (cfg.chan (p / 8)).gl rho, 0#64⟩)) []

theorem tfind_foldl_tinsert {α β : Type} (key : β → Nat) (val : β → α) (l : List β) (t : Tbl α) (j : Nat) :
    (tfind (l.foldl (fun t x => tinsert t (key x) (val x)) t) j).isSome = true ↔ (tfind t j).isSome = true ∨ ∃ x ∈ l, key x = j := by
  induction l generalizing t with
  | nil => simp
  | cons x l ih =>
    rw [List.foldl_cons, ih, tfind_tinsert]
    by_cases hj : j = key x
    · simp [hj]
    · rw [if_neg hj]
      have hne : ¬ key x = j := fun h => hj h.symm
      simp [hne]

/-- Every point that is declared stands in the table. -/
theorem Cal.table_isSome {cfg : Cfg} {level : Nat} {rho : F64} {decls : List (Nat × Bool × Cplx)} {p : Nat}
    (h : c.inSitu = true ∧ ((tfind (c.decl level) p).isSome = true ∨ ∃ x ∈ decls, x.1 = p) ∨ c.inSitu = false ∧ p ∈ c.points) :
    (tfind (c.table cfg level rho decls) p).isSome = true := by
  rw [Cal.table]
  rcases h with ⟨hi, h⟩ | ⟨hi, h⟩
  · rw [hi, if_pos rfl]
    exact (tfind_foldl_tinsert (·.1) (·.2.2) decls _ p).2 h
  · rw [hi, if_neg Bool.false_ne_true]
    exact (tfind_foldl_tinsert id (fun p => if level = 0 then Cplx.zero else ⟨busSpan (cfg.chan (p / 8)).gl rho, 0#64⟩) c.points [] p).2 (.inr ⟨p, h, rfl⟩)

/-- What cal.point begins. -/
def Cal.startWork (level : Nat) (table : Tbl Cplx) (w : Waiter) (d : Device) (c : Cal) : Cal :=
  { c.setDecl level table with
    level := some level, b0 := Max.max (d.epoch + 1) c.bopen,
    spans := c.schedule (Max.max (d.epoch + 1) c.bopen), sums := [], restarts := 0, restartPt := 0, isoFail := none,
    supply := if d.inWarning then some (c.first, d.supplyFound d.warnRail) else none, waiter := some w }

/-- A sound request for cal.point, by what it asks for. -/
theorem calPoint_eq {n : Nat} (hl : (s.body m).length = 16 + 24 * n) (hn : n ≤ 41) (hc : s.dev.openCal = some c) (hlevel : c.level = none)
    (hlow : u8 (s.body m) 0 ≤ 1) (hstart : u8 (s.body m) 1 ≤ 1) (hz : allZero (s.body m) 2 6 = true)
    (hrho : c.inSitu = false ∧ u8 (s.body m) 0 = 1 ∨ f64At (s.body m) 8 = 0#64) (hsitu : c.inSitu = true ∨ n = 0)
    (hdecls : ∀ x ∈ readDecls (s.body m) 16 n, x.2.1 = true ∧ x.1 ∈ c.points)
    (hspan : c.inSitu = false ∧ u8 (s.body m) 0 = 1 → ∀ p ∈ c.points,
      F64.le (F64.abs (busSpan (s.dev.fw.eff.chan (p / 8)).gl (f64At (s.body m) 8))) (dec 9 10) = true)
    (hdeclared : u8 (s.body m) 1 = 0 ∨
      ∀ p ∈ c.points, (tfind (c.table s.dev.fw.eff (u8 (s.body m) 0) (f64At (s.body m) 8) (readDecls (s.body m) 16 n)) p).isSome = true) :
    calPoint (s.request m) (s.touched m) =
      if u8 (s.body m) 1 = 0 then
        (some (Ans.ok []), { s.touched m with work := { (s.touched m).work with
          cal := some (if c.inSitu then c.setDecl (u8 (s.body m) 0) (c.table s.dev.fw.eff (u8 (s.body m) 0) (f64At (s.body m) 8) (readDecls (s.body m) 16 n)) else c) } })
      else acceptLong (s.request m) (s.touched m) fun d => { d with work := { d.work with
        cal := some (c.startWork (u8 (s.body m) 0) (c.table s.dev.fw.eff (u8 (s.body m) 0) (f64At (s.body m) 8) (readDecls (s.body m) 16 n)) (s.waiter m) d) } } := by
  have hcount : ((s.request m).body.length - 16) / 24 = n := by
    change ((s.body m).length - 16) / 24 = n
    omega
  rw [calPoint]
  dsimp only
  rw [hcount, State.touched_openCal, hc, State.touched_eff]
  dsimp only
  have hsize : (decide (16 ≤ (s.body m).length) && ((s.body m).length - 16) % 24 == 0 && decide (n ≤ 41)) = true := by
    have hwhole : ((s.body m).length - 16) % 24 = 0 := by omega
    rw [hwhole]
    simp [hl, hn]
  have hempty : (c.inSitu || (readDecls (s.body m) 16 n).isEmpty) = true := by
    rcases hsitu with h | rfl
    · rw [h]
      rfl
    · exact Bool.or_true _
  have hgood : (readDecls (s.body m) 16 n).all (fun x => x.2.1 && c.points.contains x.1) = true := by
    refine List.all_eq_true.2 fun x hx => ?_
    obtain ⟨hres, hin⟩ := hdecls x hx
    rw [hres, Bool.true_and, List.contains_iff_mem]
    exact hin
  have hbus : ((!c.inSitu && u8 (s.body m) 0 == 1) || f64At (s.body m) 8 == 0#64) = true := by
    rcases hrho with ⟨hi, h1⟩ | h0
    · rw [hi, h1]
      rfl
    · rw [h0]
      exact Bool.or_true _
  have hreach : (!(!c.inSitu && u8 (s.body m) 0 == 1) || c.points.all fun p =>
      F64.le (F64.abs (busSpan (s.dev.fw.eff.chan (p / 8)).gl (f64At (s.body m) 8))) (dec 9 10)) = true := by
    by_cases hhigh : c.inSitu = false ∧ u8 (s.body m) 0 = 1
    · rw [List.all_eq_true.2 (hspan hhigh)]
      exact Bool.or_true _
    · have hno : (!c.inSitu && u8 (s.body m) 0 == 1) = false := by
        rw [Bool.eq_false_iff]
        intro h
        simp only [Bool.and_eq_true, Bool.not_eq_true', beq_iff_eq] at h
        exact hhigh h
      rw [hno]
      rfl
  have hfields : (decide (u8 (s.body m) 0 ≤ 1) && decide (u8 (s.body m) 1 ≤ 1) && allZero (s.body m) 2 6 &&
      ((!c.inSitu && u8 (s.body m) 0 == 1) || f64At (s.body m) 8 == 0#64) && (c.inSitu || (readDecls (s.body m) 16 n).isEmpty) &&
      (readDecls (s.body m) 16 n).all (fun x => x.2.1 && c.points.contains x.1) &&
      (!(!c.inSitu && u8 (s.body m) 0 == 1) || c.points.all fun p =>
        F64.le (F64.abs (busSpan (s.dev.fw.eff.chan (p / 8)).gl (f64At (s.body m) 8))) (dec 9 10))) = true := by
    rw [hreach, hgood, hempty, hbus, hz, decide_eq_true hlow, decide_eq_true hstart]
    rfl
  have hstands : (u8 (s.body m) 1 == 0 || c.points.all fun p =>
      (tfind (c.table s.dev.fw.eff (u8 (s.body m) 0) (f64At (s.body m) 8) (readDecls (s.body m) 16 n)) p).isSome) = true := by
    rcases hdeclared with h | h
    · rw [h]
      rfl
    · rw [List.all_eq_true.2 h]
      exact Bool.or_true _
  have hfree : c.level.isNone = true := by rw [hlevel]; rfl
  exact (if_pos hsize).trans ((if_pos hfields).trans ((if_pos hstands).trans ((if_pos hfree).trans rfl)))

/-- What a new table of declarations leaves of a calibration. -/
theorem Cal.setDecl_rest (level : Nat) (t : Tbl Cplx) (c : Cal) : (c.setDecl level t).level = c.level ∧ (c.setDecl level t).chans = c.chans ∧
    (c.setDecl level t).points = c.points := by
  rw [Cal.setDecl]
  split <;> exact ⟨rfl, rfl, rfl⟩

theorem Cal.decl_setDecl (level : Nat) (t : Tbl Cplx) (c : Cal) : (c.setDecl level t).decl level = t := by
  rw [Cal.decl, Cal.setDecl]
  split <;> rfl

theorem Cal.startWork_rest (level : Nat) (t : Tbl Cplx) (w : Waiter) (d : Device) (c : Cal) :
    (c.startWork level t w d).level = some level ∧ (c.startWork level t w d).waiter = some w ∧ (c.startWork level t w d).restarts = 0 ∧
      (c.startWork level t w d).b0 = Max.max (d.epoch + 1) c.bopen ∧ (c.startWork level t w d).chans = c.chans ∧
      (c.startWork level t w d).points = c.points ∧ (c.startWork level t w d).supply.isSome = d.inWarning := by
  obtain ⟨-, hchans, hpoints⟩ := Cal.setDecl_rest level t c
  refine ⟨rfl, rfl, rfl, rfl, hchans, hpoints, ?_⟩
  change (if d.inWarning then some (c.first, d.supplyFound d.warnRail) else none).isSome = d.inWarning
  cases d.inWarning <;> rfl

/-- A declaration alone: it stands in the open calibration, and nothing is measured. -/
theorem calPoint_declares {n : Nat} (hs : s.stands 0x0902 m) (hlevel : c.level = none)
    (heq : calPoint (s.request m) (s.touched m) = (some (Ans.ok []), { s.touched m with work := { (s.touched m).work with
      cal := some (if c.inSitu then c.setDecl (u8 (s.body m) 0) (c.table s.dev.fw.eff (u8 (s.body m) 0) (f64At (s.body m) 8) (readDecls (s.body m) 16 n)) else c) } })) :
    ∃ k, AnswersOk (.calPoint (.mailbox m)) m s [] { s.touched m with work := { s.dev.work with cal := some k } } ∧
      k.level = none ∧ k.chans = c.chans ∧ k.points = c.points ∧ (c.inSitu = false → k = c) ∧
      (c.inSitu = true → ∀ x ∈ readDecls (s.body m) 16 n, (tfind (k.decl (u8 (s.body m) 0)) x.1).isSome = true) := by
  rw [State.touched_work] at heq
  refine ⟨_, answersOk_of_handler (c := .calPoint (.mailbox m)) rfl hs heq, ?_⟩
  obtain ⟨hkeep, hchans, hpoints⟩ := Cal.setDecl_rest (u8 (s.body m) 0) (c.table s.dev.fw.eff (u8 (s.body m) 0) (f64At (s.body m) 8) (readDecls (s.body m) 16 n)) c
  cases hi : c.inSitu with
  | false => exact ⟨hlevel, rfl, rfl, fun _ => rfl, fun h => absurd h (by decide)⟩
  | true =>
    rw [if_pos rfl]
    refine ⟨hkeep.trans hlevel, hchans, hpoints, fun h => absurd h (by decide), fun _ x hx => ?_⟩
    rw [Cal.decl_setDecl]
    exact Cal.table_isSome (.inl ⟨hi, .inr ⟨x, hx, rfl⟩⟩)

/-- A measurement: it is accepted, and stands in the calibration with its schedule. -/
theorem calPoint_measures {level : Nat} {table : Tbl Cplx} (hs : s.stands 0x0902 m)
    (heq : calPoint (s.request m) (s.touched m) = acceptLong (s.request m) (s.touched m) fun d =>
      { d with work := { d.work with cal := some (c.startWork level table (s.waiter m) d) } }) :
    ((s.touched m).longFull (s.sessionNo m) = true → Refuses (.calPoint (.mailbox m)) m s stDenied) ∧
    ((s.touched m).longFull (s.sessionNo m) = false → ∃ k, Accepts (.calPoint (.mailbox m)) m s (fun d => { d with work := { d.work with cal := some k } }) ∧
      k.level = some level ∧ k.waiter = some (s.waiter m) ∧ k.restarts = 0 ∧ k.b0 = Max.max (s.dev.epoch + 1) c.bopen ∧ k.chans = c.chans ∧
      k.points = c.points ∧ k.supply.isSome = s.dev.inWarning) := by
  have hrest := Cal.startWork_rest level table (s.waiter m) ((s.touched m).startLong (s.sessionNo m)) c
  have hepoch : ((s.touched m).startLong (s.sessionNo m)).epoch = s.dev.epoch := s.touched_epoch m
  have hwarn : ((s.touched m).startLong (s.sessionNo m)).inWarning = s.dev.inWarning := s.touched_inWarning m
  rw [hepoch, hwarn] at hrest
  have htakes : Takes (.calPoint (.mailbox m)) m s fun d => { d with work := { d.work with
      cal := some (c.startWork level table (s.waiter m) ((s.touched m).startLong (s.sessionNo m))) } } := takes_of_handler rfl hs heq rfl
  exact ⟨htakes.2, fun hroom => ⟨_, htakes.1 hroom, hrest⟩⟩

/-- What cal.commit leaves once it is accepted. -/
theorem Cal.commitWork_spec (w : Waiter) (n : Nat) (c : Cal) :
    (c.commitWork w ((s.touched m).startLong n)).epoch = s.dev.epoch ∧ (c.commitWork w ((s.touched m).startLong n)).fw.eff = s.dev.fw.eff ∧
    ∃ recs, (c.commitWork w ((s.touched m).startLong n)).work = { s.dev.work with
      cal := some { c with committing := true }
      rejectPending := false
      writes := s.dev.work.writes ++ [⟨0, 0, { s.dev.work.ownerLedger with label := c.label, lastInSitu := c.inSitu }, recs, [], some w, false,
        s.dev.work.rejectPending⟩] } := by
  have hwork : ((s.touched m).startLong n).work = s.dev.work := s.touched_work m
  have hclk : ((s.touched m).startLong n).clk = s.dev.clk := s.touched_clk m
  have heff : ((s.touched m).startLong n).fw.eff = s.dev.fw.eff := s.touched_eff m
  generalize (s.touched m).startLong n = d at hwork hclk heff
  rw [Cal.commitWork, hwork]
  let x : StoreWrite := ⟨0, 0, { s.dev.work.ownerLedger with label := c.label, lastInSitu := c.inSitu },
    c.points.foldl (fun t p => tinsert t p (c.record d.fw.eff p)) d.storedRecs, [], some w, false, s.dev.work.rejectPending⟩
  have hrest := Device.addWrite_grows x { d with work := { s.dev.work with cal := some { c with committing := true }, rejectPending := false } }
  refine ⟨?_, (congrArg (·.fw.eff) hrest.same).trans heff, c.points.foldl (fun t p => tinsert t p (c.record d.fw.eff p)) d.storedRecs, ?_⟩
  · have hclocks := (congrArg (·.clk) hrest.same).trans hclk
    exact congrArg (fun k : Clock => k.time / Config.epochTicks) hclocks
  · rw [Device.addWrite_work]

end calibration

/-- Settles O58: each handler accepts under its checks; the work that it adds is its own. -/
theorem longCommandsAreAccepted : Obligations.LongCommandsAreAccepted := by
  unfold Obligations.LongCommandsAreAccepted
  intro s m q l w full takes
  refine ⟨linPersist_takes, ?_, ?_, ?_, ?_, ?_, hearthEnter_takes, diagSelftest_takes, ?_, fun g hs h16 h1008 hl h4 hsize hz htype hw hfits hcap hn =>
    fwStage_takes hs h16 h1008 hl h4 hsize hz htype hw hfits hcap hn⟩
  · intro c n hs hl hn hc hlevel level high decls declared hlow hz hrho hsitu hdecls hspan
    have htable : ∀ p ∈ c.points, declared p → (tfind (c.table s.dev.fw.eff level (f64At l 8) decls) p).isSome = true := by
      intro p hp hd
      refine Cal.table_isSome ?_
      cases hi : c.inSitu with
      | false => exact .inr ⟨rfl, hp⟩
      | true => exact .inl ⟨rfl, hd.resolve_left (hi ▸ Bool.noConfusion)⟩
    refine ⟨fun h0 => ?_, fun h1 hall => ?_⟩
    · have heq := calPoint_eq hl hn hc hlevel hlow (h0.trans_le (Nat.zero_le 1)) hz hrho hsitu hdecls hspan (.inl h0)
      exact calPoint_declares hs hlevel (heq.trans (if_pos h0))
    · have heq := calPoint_eq hl hn hc hlevel hlow h1.le hz hrho hsitu hdecls hspan (.inr fun p hp => htable p hp (hall p hp))
      have hmeasure : ¬ u8 (s.body m) 1 = 0 := fun h0 => Nat.one_ne_zero (h1.symm.trans h0)
      exact calPoint_measures hs (heq.trans (if_neg hmeasure))
  · intro c hs hl hc hlevel hcomplete hw hcoef
    have htakes := calCommit_accepts hs hl hc hlevel hcomplete hw hcoef
    refine ⟨htakes.2, fun hroom => ?_⟩
    obtain ⟨hepoch, heff, recs, hwork⟩ := Cal.commitWork_spec (s := s) (m := m) w (s.sessionNo m) c
    have hans : Answers (.calCommit q) m s stAccepted [] (c.commitWork w ((s.touched m).startLong (s.sessionNo m))).epoch _ := htakes.1 hroom
    rw [hepoch] at hans
    exact ⟨_, recs, hans, congrArg (·.cal) hwork, congrArg (·.rejectPending) hwork, congrArg (·.owner) hwork, heff, congrArg (·.writes) hwork⟩
  · intro hs hl hb hf
    exact ⟨timeSet_pps_takes hs hl hb hf, fun e h8 hz hn he h48 hsrc => timeSet_step_takes hs hl hb hf h8 hz hn he h48 hsrc⟩
  · intro a hs h20 ha hlow hhigh hz hl hn hreach hroute
    subst ha
    exact fabricForward_takes hs h20 hlow hhigh hz hl hn hreach hroute
  · intro a hs hl ha hlow hhigh hz hsoon h16 hplanned hdue x put
    have htakes := bellSchedule_takes hs hl ha hlow hhigh hz hsoon h16 hplanned hdue (x := x) rfl rfl
    have hreaches : ((s.touched m).startLong (s.sessionNo m)).reaches a = s.dev.reaches a := s.touched_reaches m a
    refine ⟨fun hsome hreach => htakes.congr ((if_neg hsome).trans ((if_neg ?_).trans ?_)), fun hnone => htakes.congr ?_⟩
    · rw [hreaches]
      rintro ⟨hne, hno⟩
      rw [hreach.resolve_left hne] at hno
      exact absurd hno (by decide)
    · rw [← s.touched_bell m]
      rfl
    · rcases hnone with hnil | ⟨hne, hno⟩
      · exact if_pos hnil
      · by_cases hnil : x.dests = []
        · exact if_pos hnil
        · refine (if_neg hnil).trans (if_pos ⟨hne, ?_⟩)
          rw [hreaches, hno]
          rfl
  · intro hs hl ht hi hz hlow hhigh hn run
    have htakes := diagLoopback_takes hs hl ht hi hz hlow hhigh hn rfl
    exact ⟨fun h0 => htakes.congr (if_neg h0), fun h0 => htakes.congr (if_pos h0)⟩

end Sys2Proof.Machine
end

section
namespace Sys2Proof.Machine

/-! O51: the queries answer and change nothing. -/

/-! ### Lengths of layouts -/

@[simp] theorem leBytes_length (k n : Nat) : (leBytes k n).length = k := by
  induction k generalizing n with
  | zero => rfl
  | succ k ih => rw [leBytes, List.length_cons, ih]

@[simp] theorem byteOf_length (n : Nat) : (byteOf n).length = 1 := leBytes_length 1 n
@[simp] theorem leF32_length (x : F32) : (leF32 x).length = 4 := leBytes_length 4 _
@[simp] theorem leF64_length (x : F64) : (leF64 x).length = 8 := leBytes_length 8 _
@[simp] theorem ep32_length (e : Nat) : (ep32 e).length = 4 := leBytes_length 4 e
@[simp] theorem zeros_length (n : Nat) : (zeros n).length = n := List.length_replicate

theorem writeChan_length (n : Nat) (c : ChanCfg) : (writeChan n c).length = 12 := by simp [writeChan]
theorem writePoint_length (p : Nat) (c : PointCfg) : (writePoint p c).length = 24 := by simp [writePoint]
theorem writeStream_length (n : Nat) (c : StreamCfg) : (writeStream n c).length = 16 := by simp [writeStream]
theorem writeJob_length (j : Nat) (c : Option JobCfg) : (writeJob j c).length = 48 := by
  delta writeJob
  cases c with
  | none => simp only [List.length_append, leBytes_length, zeros_length]
  | some c => simp only [List.length_append, leBytes_length, byteOf_length, zeros_length, leF32_length]
theorem writeUnit_length (u : Nat) (c : Option UnitCfg) : (writeUnit u c).length = 64 := by
  delta writeUnit
  cases c with
  | none => simp only [List.length_append, byteOf_length, zeros_length]
  | some c => simp only [List.length_append, leBytes_length, byteOf_length, zeros_length, leF32_length]

/-! ### Answers that change nothing -/

section queries
variable {c : Instr} {m : Fin 4} {s : State} {code : Nat} {h : Handler} {P : List Byte → Prop}

theorem answersSame_of_handler (hc : exec c s = fwRow code h (.mailbox m) s) (hs : s.stands code m) {p : List Byte}
    (hh : h (s.request m) (s.touched m) = (some (Ans.ok p), s.touched m)) (hp : P p) : AnswersSame c m s P :=
  ⟨p, hp, answersOk_of_handler hc hs hh⟩

/-- With TXN 0 a query sees the live configuration (R346). -/
theorem State.touched_cfgSeen (ht : s.txnNo m = 0) : (s.touched m).cfgSeen (s.request m) = s.dev.fw.live :=
  (if_pos (c := (s.request m).txn = 0) ht).trans (s.touched_live m)

theorem sessionList_answers (hs : s.stands 0x0104 m) (hl : (s.body m).length = 0) :
    AnswersSame (.sessionList (.mailbox m)) m s fun p => p.take 4 = leBytes 4 s.dev.fw.sessions.length := by
  obtain ⟨f, -, -, hf⟩ := s.touched_sessions m
  refine answersSame_of_handler rfl hs (sizedTo_request hl) ?_
  rw [List.take_left' (leBytes_length 4 _), hf, List.length_map]

theorem chanQuery_answers (hs : s.stands 0x0302 m) (hl : (s.body m).length = 4) (ht : s.txnNo m = 0) (hn : u16 (s.body m) 0 < 128)
    (hz : u16 (s.body m) 2 = 0) : AnswersSame (.chanQuery (.mailbox m)) m s fun p =>
      p.take 12 = writeChan (u16 (s.body m) 0) (s.dev.fw.live.chan (u16 (s.body m) 0)) := by
  have hfields : (decide (u16 (s.body m) 0 < 128) && u16 (s.body m) 2 == 0) = true := by simp [hn, hz]
  refine answersSame_of_handler rfl hs ((sizedTo_request hl).trans (if_pos hfields)) ?_
  rw [State.touched_cfgSeen ht]
  simp only [List.append_assoc]
  exact List.take_left' (writeChan_length _ _)

theorem pointQuery_answers (hs : s.stands 0x0402 m) (hl : (s.body m).length = 4) (ht : s.txnNo m = 0) (hn : u16 (s.body m) 0 < 1024)
    (hz : u16 (s.body m) 2 = 0) : AnswersSame (.pointQuery (.mailbox m)) m s fun p =>
      p.take 24 = writePoint (u16 (s.body m) 0) (s.dev.fw.live.point (u16 (s.body m) 0)) := by
  have hfields : (decide (u16 (s.body m) 0 < 1024) && u16 (s.body m) 2 == 0) = true := by simp [hn, hz]
  refine answersSame_of_handler rfl hs ((sizedTo_request hl).trans (if_pos hfields)) ?_
  rw [State.touched_cfgSeen ht]
  simp only [List.append_assoc]
  exact List.take_left' (writePoint_length _ _)

theorem carrierPlanCheck_eq (hl : (s.body m).length = 4) (ht : s.txnNo m = 0) (hfit : u16 (s.body m) 0 + u16 (s.body m) 2 ≤ 128)
    (hn : 0 < u16 (s.body m) 2) : carrierPlanCheck (s.request m) (s.touched m) =
      match planClashes s.dev.fw.live (u16 (s.body m) 0) (u16 (s.body m) 2) s.dev.pw.vref with
      | [] => (some (Ans.ok []), s.touched m)
      | l => (some ⟨stPlanClash, clashReport l, none⟩, s.touched m) := by
  have hrange : planRange (u16 (s.request m).body 0) (u16 (s.request m).body 2) = (u16 (s.body m) 0, u16 (s.body m) 2) := if_neg (Nat.ne_of_gt hn)
  rw [carrierPlanCheck, sizedTo_request hl]
  dsimp only
  rw [hrange, State.touched_cfgSeen ht, State.touched_pw]
  exact if_pos (decide_eq_true hfit)

theorem linQuery_answers (hs : s.stands 0x0502 m) (hl : (s.body m).length = 4) (ht : s.txnNo m = 0) (h1 : 1 ≤ u16 (s.body m) 2)
    (h8 : u16 (s.body m) 2 ≤ 8) (hfit : u16 (s.body m) 0 + u16 (s.body m) 2 ≤ 1024) : AnswersSame (.linQuery (.mailbox m)) m s fun p =>
      p = (List.range (u16 (s.body m) 2)).flatMap fun i => writeLin (u16 (s.body m) 0 + i) (s.dev.fw.live.lin (u16 (s.body m) 0 + i)) := by
  have hfields : (decide (1 ≤ u16 (s.body m) 2) && decide (u16 (s.body m) 2 ≤ 8) && decide (u16 (s.body m) 0 + u16 (s.body m) 2 ≤ 1024)) = true := by
    simp [h1, h8, hfit]
  refine answersSame_of_handler rfl hs ((sizedTo_request hl).trans (if_pos hfields)) ?_
  rw [State.touched_cfgSeen ht]
  rfl

theorem streamQuery_answers (hs : s.stands 0x0602 m) (hl : (s.body m).length = 4) (ht : s.txnNo m = 0) (he : streamExists (u16 (s.body m) 0) = true)
    (hport : u16 (s.body m) 0 ≠ 0xFFF) (hz : u16 (s.body m) 2 = 0) : AnswersSame (.streamQuery (.mailbox m)) m s fun p =>
      p.take 16 = writeStream (u16 (s.body m) 0) (s.dev.fw.live.stream (u16 (s.body m) 0)) := by
  have hfields : ((streamExists (u16 (s.body m) 0) || u16 (s.body m) 0 == 0xFFF) && u16 (s.body m) 2 == 0) = true := by simp [he, hz]
  refine answersSame_of_handler rfl hs ((sizedTo_request hl).trans (if_pos hfields)) ?_
  rw [State.touched_cfgSeen ht, if_neg (c := u16 (s.request m).body 0 = 0xFFF) hport]
  simp only [List.append_assoc]
  exact List.take_left' (writeStream_length _ _)

theorem millQuery_answers (hs : s.stands 0x0702 m) (hl : (s.body m).length = 4) (ht : s.txnNo m = 0) (hz : (s.body m).take 2 = [0#8, 0#8])
    (hn : u16 (s.body m) 2 < 128) : AnswersSame (.millQuery (.mailbox m)) m s fun p =>
      p.take 48 = writeJob (u16 (s.body m) 2) (s.dev.fw.live.job (u16 (s.body m) 2)) := by
  obtain ⟨h0, h1⟩ : u8 (s.body m) 0 = 0 ∧ u8 (s.body m) 1 = 0 := by
    rw [← List.take_append_drop 2 (s.body m), hz]
    exact ⟨rfl, rfl⟩
  have hall : ¬ u16 (s.body m) 2 = 0xFFFF := by omega
  have heq : millQuery (s.request m) (s.touched m) = _ := (sizedTo_request hl).trans (if_neg (not_not_intro h1))
  change _ = (match u8 (s.body m) 0 with
    | 0 => _
    | 1 => _
    | _ => _) at heq
  rw [h0] at heq
  refine answersSame_of_handler rfl hs (heq.trans ((if_neg hall).trans (if_pos (decide_eq_true hn)))) ?_
  rw [State.touched_cfgSeen ht]
  simp only [List.append_assoc]
  exact List.take_left' (writeJob_length _ _)

theorem trigQuery_answers (hs : s.stands 0x0802 m) (hl : (s.body m).length = 4) (ht : s.txnNo m = 0) (hz : (s.body m).take 2 = [0#8, 0#8])
    (hn : u16 (s.body m) 2 < 32) : AnswersSame (.trigQuery (.mailbox m)) m s fun p =>
      p.take 64 = writeUnit (u16 (s.body m) 2) (s.dev.fw.live.unit (u16 (s.body m) 2)) := by
  obtain ⟨h0, h1⟩ : u8 (s.body m) 0 = 0 ∧ u8 (s.body m) 1 = 0 := by
    rw [← List.take_append_drop 2 (s.body m), hz]
    exact ⟨rfl, rfl⟩
  have heq : trigQuery (s.request m) (s.touched m) = _ := (sizedTo_request hl).trans (if_neg (not_not_intro h1))
  change _ = (match u8 (s.body m) 0 with
    | 0 => _
    | 1 => _
    | 2 => _
    | _ => _) at heq
  rw [h0] at heq
  refine answersSame_of_handler rfl hs (heq.trans (if_pos (decide_eq_true hn))) ?_
  rw [State.touched_cfgSeen ht]
  simp only [List.append_assoc]
  exact List.take_left' (writeUnit_length _ _)

theorem ledgerRead_answers (hs : s.stands 0x0905 m) (hl : (s.body m).length = 4) (hn : u16 (s.body m) 2 ≤ 28)
    (hfit : u16 (s.body m) 0 + u16 (s.body m) 2 ≤ 1024) : AnswersSame (.ledgerRead (.mailbox m)) m s fun p =>
      p.take 8 = leWord s.dev.work.ownerLedger.ownerCount ++ leWord s.dev.work.ownerLedger.rejectCount := by
  have hfields : (decide (u16 (s.body m) 2 ≤ 28) && decide (u16 (s.body m) 0 + u16 (s.body m) 2 ≤ 1024)) = true := by simp [hn, hfit]
  refine answersSame_of_handler rfl hs ((sizedTo_request hl).trans (if_pos hfields)) ?_
  rw [Device.ledgerBytes, State.touched_work]
  simp only [List.append_assoc]
  rw [← List.append_assoc]
  exact List.take_left' rfl

theorem timeQuery_answers (hs : s.stands 0x0A02 m) (hl : (s.body m).length = 0) : AnswersSame (.timeQuery (.mailbox m)) m s fun p =>
    p.length = 40 ∧ p.take 8 = leBytes 8 s.dev.clk.time := by
  refine answersSame_of_handler rfl hs (sizedTo_request hl) ⟨?_, ?_⟩
  · simp only [List.length_append, leBytes_length, byteOf_length, zeros_length, ep32_length, leF64_length]
  · rw [State.touched_clk]
    simp only [List.append_assoc]
    exact List.take_left' (leBytes_length 8 _)

theorem clockQuery_answers (hs : s.stands 0x0A04 m) (hl : (s.body m).length = 0) : AnswersSame (.clockQuery (.mailbox m)) m s fun p =>
    p.length = 44 ∧ p.take 4 = leWord s.dev.clk.stat := by
  refine answersSame_of_handler rfl hs (sizedTo_request hl) ⟨?_, ?_⟩
  · simp only [List.length_append, leBytes_length, byteOf_length, zeros_length, leWord_length, leInt]
  · rw [State.touched_clk]
    simp only [List.append_assoc]
    exact List.take_left' (leWord_length _)

theorem fabricStatus_answers (hs : s.stands 0x0B01 m) (hl : (s.body m).length = 0) : AnswersSame (.fabricStatus (.mailbox m)) m s fun p =>
    p.length = 28 ∧ p.take 2 = leBytes 2 s.dev.fab.address := by
  refine answersSame_of_handler rfl hs (sizedTo_request hl) ⟨?_, ?_⟩
  · simp only [List.length_append, leBytes_length, byteOf_length, zeros_length, leF64_length]
  · rw [State.touched_fab]
    simp only [List.append_assoc]
    exact List.take_left' (leBytes_length 2 _)

theorem supplyQuery_answers (hs : s.stands 0x0C04 m) (hl : (s.body m).length = 0) : AnswersSame (.supplyQuery (.mailbox m)) m s fun p =>
    p.length = 64 ∧ p.drop 60 = leWord s.dev.pw.supStat := by
  refine answersSame_of_handler rfl hs (sizedTo_request hl) ?_
  rw [State.touched_pw]
  refine ⟨?_, List.drop_left' ?_⟩
  · simp only [List.length_append, leF32_length, leWord_length]
    rfl
  · simp only [List.length_append, leF32_length]
    rfl

theorem fwQuery_answers (hs : s.stands 0x0E03 m) (hl : (s.body m).length = 0) : AnswersSame (.fwQuery (.mailbox m)) m s fun p => p.length = 40 := by
  refine answersSame_of_handler rfl hs (sizedTo_request hl) ?_
  simp only [bankEntry, List.length_append, leBytes_length, byteOf_length, zeros_length, leWord_length]

/-- A timer changes nothing of what txn.status speaks of. -/
theorem State.touched_reported (n id : Nat) : (s.touched m).reported n id = s.dev.reported n id := by
  obtain ⟨f, hid, hpeer, hf⟩ := s.touched_sessions m
  have hpred : ((fun x : Session => x.id == n) ∘ f) = fun x => x.id == n := funext fun x => by rw [Function.comp_apply, hid]
  have hsession : (s.touched m).session? n = (s.dev.session? n).map f := by
    rw [Device.session?, hf, List.find?_map, hpred, Device.session?]
  rw [Device.reported, Device.reported, State.touched_txns, State.touched_closed, hsession]
  cases s.dev.session? n with
  | none => rfl
  | some x =>
    obtain ⟨htransport, hp⟩ := hpeer x
    dsimp only [Option.map_some]
    rw [htransport, hp]

theorem txnStatus_answers (hs : s.stands 0x0204 m) (hl : (s.body m).length = 4) :
    (u32 (s.body m) 0 = 0 → AnswersSame (.txnStatus (.mailbox m)) m s fun p => p.length = 20 ∧ p.take 1 = byteOf 0xFF) ∧
    ∀ t, u32 (s.body m) 0 ≠ 0 → s.dev.reported (s.sessionNo m) (u32 (s.body m) 0) = some t → AnswersSame (.txnStatus (.mailbox m)) m s fun p =>
      p.take 4 = byteOf t.state.code ++ byteOf (bit01 (t.fabric || t.coord.isSome)) ++ leBytes 2 t.items.length := by
  refine ⟨fun h0 => ?_, fun t h0 ht => ?_⟩
  · refine answersSame_of_handler rfl hs ((sizedTo_request hl).trans (if_pos h0)) ⟨?_, ?_⟩
    · simp only [List.length_append, byteOf_length, zeros_length]
    · simp only [List.append_assoc]
      exact List.take_left' (byteOf_length _)
  · have heq : txnStatus (s.request m) (s.touched m) = _ := (sizedTo_request hl).trans (if_neg h0)
    have hreport : (s.touched m).reported (s.request m).session (u32 (s.request m).body 0) = some t := (State.touched_reported _ _).trans ht
    rw [hreport] at heq
    refine answersSame_of_handler rfl hs heq ?_
    rw [Device.statusReport]
    simp only [List.append_assoc]
    rw [← List.append_assoc, ← List.append_assoc]
    refine List.take_left' ?_
    simp only [List.length_append, leBytes_length, byteOf_length]

/-- The destination that fabric.route.query names. -/
def State.routeDest (m : Nat) (s : State) : Nat := if u16 (s.body m) 0 = 0xFFF then s.dev.fab.bellringer else u16 (s.body m) 0

theorem fabricRouteQuery_eq (hl : (s.body m).length = 4) (hn : u16 (s.body m) 0 ≤ 0xFFF) (ha : s.dev.fab.address ≠ 0) (hd : s.routeDest m ≠ 0) :
    fabricRouteQuery (s.request m) (s.touched m) =
      if u16 (s.body m) 2 = 0xFFFF then
        match s.dev.fab.route (s.routeDest m) with
        | some l => (some (routeAnswer l [] 0), s.touched m)
        | none => refuse stFabUnreachable (s.touched m)
      else
        match s.dev.fab.routes.find? fun x => x.stream == u16 (s.body m) 2 && x.dest == s.routeDest m with
        | some x => (some (routeAnswer x.ans.primary x.ans.backup (x.num / x.den)), s.touched m)
        | none => refuse stFabUnreachable (s.touched m) := by
  rw [fabricRouteQuery, sizedTo_request hl, State.touched_fab]
  refine (if_pos (decide_eq_true hn)).trans (if_neg ?_)
  rintro (h | h)
  · exact ha h
  · exact hd h

theorem fabricRouteQuery_answers (hs : s.stands 0x0B03 m) (hl : (s.body m).length = 4) (hn : u16 (s.body m) 0 ≤ 0xFFF) (ha : s.dev.fab.address ≠ 0)
    (hd : s.routeDest m ≠ 0) :
    (u16 (s.body m) 2 = 0xFFFF → ∀ hops, s.dev.fab.route (s.routeDest m) = some hops → AnswersSame (.fabricRouteQuery (.mailbox m)) m s fun p =>
      p = leBytes 2 hops.length ++ zeros 10 ++ hops.flatMap hopBytes) ∧
    (u16 (s.body m) 2 ≠ 0xFFFF → ∀ x, s.dev.fab.routes.find? (fun x => x.stream == u16 (s.body m) 2 && x.dest == s.routeDest m) = some x →
      AnswersSame (.fabricRouteQuery (.mailbox m)) m s fun p => p = leBytes 2 x.ans.primary.length ++ leBytes 2 x.ans.backup.length ++
        leBytes 8 (x.num / x.den) ++ x.ans.primary.flatMap hopBytes ++ x.ans.backup.flatMap hopBytes) := by
  have heq := fabricRouteQuery_eq hl hn ha hd
  refine ⟨fun hc hops hroute => ?_, fun hc x hfind => ?_⟩
  · rw [if_pos hc, hroute] at heq
    refine answersSame_of_handler rfl hs heq ?_
    have hzero : leBytes 2 0 ++ leBytes 8 0 = zeros 10 := by decide
    rw [← hzero]
    simp only [List.append_assoc, List.length_nil, List.flatMap_nil, List.append_nil]
  · rw [if_neg hc, hfind] at heq
    exact answersSame_of_handler rfl hs heq rfl

theorem Device.findErrors_nil (d : Device) : d.findErrors [] = d := by
  rw [Device.findErrors]
  split <;> rfl

theorem densityRead_answers (hs : s.stands 0x0704 m) (hl : (s.body m).length = 8) (h0 : u8 (s.body m) 0 < 16) (h1 : u8 (s.body m) 1 = 0)
    (h3 : u8 (s.body m) 3 = 0) (hlow : 1 ≤ u16 (s.body m) 6) (hhigh : u16 (s.body m) 6 ≤ 224) (hfit : u16 (s.body m) 4 + u16 (s.body m) 6 ≤ 1024)
    {e : Nat} {counts : Tbl Nat} (hsnap : (s.dev.map (u8 (s.body m) 0)).snap = some (e, counts)) :
    AnswersSame (.densityRead ⟨.mailbox m, []⟩) m s fun p =>
      p = ep32 e ++ leBytes 4 (u16 (s.body m) 6) ++ (tgetList 0 counts (1024 * u8 (s.body m) 2 + u16 (s.body m) 4) (u16 (s.body m) 6)).flatMap (leBytes 4) := by
  have hmap : ((s.touched m).map (u8 (s.body m) 0)).snap = some (e, counts) := by
    rw [Device.map, State.touched_maps]
    exact hsnap
  have hfields : (decide (u8 (s.body m) 0 < 16) && decide (u8 (s.body m) 1 ≤ 1) && u8 (s.body m) 3 == 0) = true := by simp [h0, h1, h3]
  have hsome : ((s.touched m).map (u8 (s.body m) 0)).snap.isSome = true := by rw [hmap]; rfl
  have hcounts : (u8 (s.body m) 1 != 0 || decide (1 ≤ u16 (s.body m) 6) && decide (u16 (s.body m) 6 ≤ 224) &&
      decide (u16 (s.body m) 4 + u16 (s.body m) 6 ≤ 1024)) = true := by simp [h1, hlow, hhigh, hfit]
  have heq : densityRead [] (s.request m) (s.touched m) = _ := (sizedTo_request hl).trans ((if_pos hfields).trans ((if_pos hsome).trans (if_pos hcounts)))
  rw [Device.findErrors_nil] at heq
  dsimp only at heq
  have hmap' : ((s.touched m).map (u8 (s.request m).body 0)).snap = some (e, counts) := hmap
  rw [hmap'] at heq
  exact answersSame_of_handler rfl hs (heq.trans (if_pos h1)) rfl

@[simp] theorem Device.strikeRow_inner (m c : Nat) (d : Device) : (d.strikeRow m c).inner = d.inner := by
  unfold Device.strikeRow
  split <;> rfl

@[simp] theorem Device.strikeReplay_inner (r k m a n : Nat) (d : Device) : (d.strikeReplay r k m a n).inner = d.inner := by
  refine forNat_inner 128 _ (fun j d => ?_) d
  split
  · rfl
  · split
    · exact Device.setJob_inner ..
    · rfl

/-- An unreadable word is marked in the Granary and the Mill alone. -/
theorem Device.strike_inner (r : Nat) (x : Struck) (d : Device) : (d.strike r x).inner = d.inner := by
  cases x with
  | counter m c snapshot => cases snapshot <;> simp [Device.strike]
  | _ => simp [Device.strike]

/-- What the errors that a read meets leave as it is. -/
theorem Device.foundErrors_fw (errs : List ScrubErr) (d : Device) : (d.foundErrors errs).fw = d.fw := by
  refine forList_keeps (g := Device.fw) errs (fun e d => ?_) d
  rw [Device.scrubError]
  split
  · exact Device.raise_fw ..
  · dsimp only
    split
    · rw [Device.logPut_fw, Device.raise_fw]
    · rw [Device.logPut_fw]
      exact (congrArg (·.fw) (Device.strike_inner _ _ _)).trans (Device.raise_fw ..)

theorem State.touched_takenSlot (r k : Nat) : (s.touched m).takenSlot r k = s.dev.takenSlot r k := by
  rw [Device.takenSlot, Device.region, State.touched_gran, Device.takenSlot, Device.region]

theorem captureRead_answers (hs : s.stands 0x0606 m) (hl : (s.body m).length = 28) (h0 : u8 (s.body m) 0 < 64) (h1 : u8 (s.body m) 1 = 0)
    (hz : allZero (s.body m) 24 4 = true) (htype : (s.dev.fw.eff.region (u8 (s.body m) 0)).type = 2)
    (hholds : (s.dev.fw.eff.region (u8 (s.body m) 0)).holds (u16 (s.body m) 2) = true)
    (hslot : u32 (s.body m) 4 < (s.dev.fw.eff.region (u8 (s.body m) 0)).slots) (htaken : s.dev.takenSlot (u8 (s.body m) 0) (u32 (s.body m) 4) = false)
    (errs : List ScrubErr) :
    let d := if s.dev.gran.selfRefresh ∨ errs = [] then s.touched m else (s.touched m).foundErrors errs
    AnswersOk (.captureRead ⟨.mailbox m, errs⟩) m s
      (((d.region (u8 (s.body m) 0)).slot (u32 (s.body m) 4)).header (u32 (s.body m) 4) (u16 (s.body m) 2) ++ regionCounters (u8 (s.body m) 0) d) d := by
  intro d
  have hd : (s.touched m).findErrors errs = d := by
    change _ = if s.dev.gran.selfRefresh ∨ errs = [] then s.touched m else (s.touched m).foundErrors errs
    rw [Device.findErrors, State.touched_gran]
    by_cases hr : s.dev.gran.selfRefresh = true
    · rw [if_pos hr, if_pos (.inl hr)]
    · rw [if_neg hr]
      by_cases he : errs = []
      · rw [if_pos (.inr he), he]
        rfl
      · rw [if_neg (not_or.2 ⟨hr, he⟩)]
  have hnames : (decide (u8 (s.body m) 0 < 64) && decide (u8 (s.body m) 1 ≤ 2) && allZero (s.body m) 24 4 &&
      readNames ((s.touched m).fw.eff.region (u8 (s.body m) 0)) (u16 (s.body m) 2) (u32 (s.body m) 4)) = true := by
    rw [State.touched_eff, readNames, htype]
    simp [h0, h1, hz, hholds, hslot]
  have hfree : (!(((s.touched m).fw.eff.region (u8 (s.body m) 0)).type == 2 && (s.touched m).takenSlot (u8 (s.body m) 0) (u32 (s.body m) 4))) = true := by
    rw [State.touched_takenSlot, htaken, Bool.and_false]
    rfl
  have hcapture : (d.fw.eff.region (u8 (s.request m).body 0)).type = 2 := by
    have heff : d.fw.eff = s.dev.fw.eff := by
      change (if s.dev.gran.selfRefresh ∨ errs = [] then s.touched m else (s.touched m).foundErrors errs).fw.eff = _
      split
      · exact s.touched_eff m
      · rw [Device.foundErrors_fw]
        exact s.touched_eff m
    rw [heff]
    exact htype
  have heq : captureRead errs (s.request m) (s.touched m) = _ := (sizedTo_request hl).trans ((if_pos hnames).trans (if_pos hfree))
  rw [hd] at heq
  change _ = (match u8 (s.body m) 1 with
    | 0 => _
    | 1 => _
    | _ => _) at heq
  rw [h1] at heq
  dsimp only at heq
  rw [Device.readHeader, if_pos hcapture] at heq
  exact answersOk_of_handler rfl hs heq

theorem diagLogRead_answers (hs : s.stands 0x0D03 m) (hl : (s.body m).length = 8) (h1 : 1 ≤ u32 (s.body m) 4) (h62 : u32 (s.body m) 4 ≤ 62)
    {a b : LogEntry} (ha : s.dev.nv.log.head? = some a) (hb : s.dev.nv.log.getLast? = some b) :
    let es := logSlice s.dev.nv.log (u32 (s.body m) 0) (u32 (s.body m) 4)
    AnswersOk (.diagLogRead (.mailbox m)) m s (leBytes 4 a.index ++ leBytes 4 b.index ++ leBytes 4 es.length ++ zeros 4 ++ es.flatMap LogEntry.bytes)
      { s.touched m with pw := { s.dev.pw with logRead := s.dev.pw.logRead || es.contains b } } := by
  have hfields : (decide (1 ≤ u32 (s.body m) 4) && decide (u32 (s.body m) 4 ≤ 62)) = true := by simp [h1, h62]
  have heq : diagLogRead (s.request m) (s.touched m) = _ := (sizedTo_request hl).trans (if_pos hfields)
  have hlog : (s.touched m).nv.log = s.dev.nv.log := congrArg NonVol.log (s.touched_nv m)
  rw [hlog, ha, hb, State.touched_pw] at heq
  exact answersOk_of_handler rfl hs heq

end queries

/-- Settles O51: each handler answers from the device that it finds. -/
theorem queriesAnswerAndChangeNothing : Obligations.QueriesAnswerAndChangeNothing := by
  unfold Obligations.QueriesAnswerAndChangeNothing
  intro s m q l live asks
  refine ⟨fun ⟨hs, hl, _⟩ => sessionList_answers hs hl, fun ⟨hs, hl, _⟩ => txnStatus_answers hs hl,
    fun ⟨hs, hl, ht⟩ => chanQuery_answers hs hl ht, fun ⟨hs, hl, ht⟩ => pointQuery_answers hs hl ht, ?_,
    fun ⟨hs, hl, ht⟩ => linQuery_answers hs hl ht, fun ⟨hs, hl, ht⟩ => streamQuery_answers hs hl ht,
    fun ⟨hs, hl, ht⟩ => millQuery_answers hs hl ht, fun ⟨hs, hl, ht⟩ => trigQuery_answers hs hl ht,
    fun ⟨hs, hl, _⟩ => ledgerRead_answers hs hl, fun ⟨hs, hl, _⟩ => timeQuery_answers hs hl, fun ⟨hs, hl, _⟩ => clockQuery_answers hs hl,
    fun ⟨hs, hl, _⟩ => fabricStatus_answers hs hl, ?_, ?_, fun ⟨hs, hl, _⟩ => supplyQuery_answers hs hl, fun ⟨hs, hl, _⟩ => fwQuery_answers hs hl,
    ?_, ?_, ?_⟩
  · intro ⟨hs, hl, ht⟩ hfit hn
    have heq := carrierPlanCheck_eq hl ht hfit hn
    refine ⟨fun hnone => ?_, fun hsome => ?_⟩
    · have hnone' : planClashes s.dev.fw.live (u16 (s.body m) 0) (u16 (s.body m) 2) s.dev.pw.vref = [] := hnone
      rw [hnone'] at heq
      exact answersSame_of_handler rfl hs heq rfl
    · obtain ⟨x, xs, hx⟩ := List.exists_cons_of_ne_nil hsome
      have hx' : planClashes s.dev.fw.live (u16 (s.body m) 0) (u16 (s.body m) 2) s.dev.pw.vref = x :: xs := hx
      rw [hx'] at heq
      have hans := answers_of_handler (c := .carrierPlanCheck q) rfl hs heq
      rw [Option.getD_none, State.touched_epoch] at hans
      rw [hx]
      exact hans
  · intro ⟨hs, hl, _⟩ hn ha dest
    exact ⟨fun hd => (fabricRouteQuery_answers hs hl hn ha hd).1, fun hd => (fabricRouteQuery_answers hs hl hn ha hd).2⟩
  · intro ⟨hs, hl, _⟩
    refine answersSame_of_handler rfl hs (modeQuery_answers hl _) ?_
    have hmode : (s.touched m).modeWord = s.dev.modeWord := by rw [Device.modeWord, State.touched_pw, Device.modeWord]
    rw [hmode, State.touched_pw]
  · intro ⟨hs, hl, _⟩ h0 h1 h3 hlow hhigh hfit e counts hsnap
    exact densityRead_answers hs hl h0 h1 h3 hlow hhigh hfit hsnap
  · intro ⟨hs, hl, _⟩ h0 h1 hz htype hholds hslot htaken errs
    exact captureRead_answers hs hl h0 h1 hz htype hholds hslot htaken errs
  · intro a b ⟨hs, hl, _⟩ h1 h62 ha hb
    exact diagLogRead_answers hs hl h1 h62 ha hb
end Sys2Proof.Machine
end

section
namespace Sys2Proof.Machine

/-! O52: the staging commands take good records. -/

/-! ### Staging good records -/

theorem stageItem_length_le (l : List Item) (i : Item) : (stageItem l i).length ≤ l.length + 1 := by
  unfold stageItem
  split
  · exact (List.length_map _).trans_le (Nat.le_succ _)
  · rw [List.length_append]
    exact le_rfl

section staging
variable {check : List Item → Option (BitVec 16 × Option (List Byte))}

/-- A good record is staged where its item replaces another, or fits. -/
theorem stageOne_good {l : List Item} {i : Item} (n : Nat) (hroom : l.length < itemLimit ∨ itemsHold l i = true)
    (hcheck : check (stageItem l i) = none) : stageOne check (.item i) ⟨l, n, none⟩ = ⟨stageItem l i, n + 1, none⟩ := by
  have hfits : ¬((!(itemsHold l i) && decide (itemLimit ≤ l.length)) = true) := by
    rw [Bool.and_eq_true, Bool.not_eq_true', decide_eq_true_eq, ← Bool.not_eq_true]
    rintro ⟨hnew, hfull⟩
    exact hroom.elim (Nat.not_lt.mpr hfull) hnew
  simp only [stageOne, if_neg hfits, hcheck]

/-- Good records that fit are staged one after the other. -/
theorem foldl_stageOne_good (is l : List Item) (n : Nat) (hroom : l.length + is.length ≤ itemLimit)
    (hcheck : ∀ k, k < is.length → check ((is.take (k + 1)).foldl stageItem l) = none) :
    (is.map Staged.item).foldl (fun a x => stageOne check x a) ⟨l, n, none⟩ = ⟨is.foldl stageItem l, n + is.length, none⟩ := by
  induction is generalizing l n with
  | nil => rfl
  | cons i is ih =>
    rw [List.length_cons] at hroom
    have hgrow := stageItem_length_le l i
    rw [List.map_cons, List.foldl_cons, stageOne_good n (.inl (by omega)) (hcheck 0 (Nat.succ_pos _)),
      ih _ _ (by omega) fun k hk => hcheck (k + 1) (Nat.succ_lt_succ hk), List.foldl_cons, List.length_cons]
    congr 1
    omega

/-- Good records are staged where they fit, or where one replaces its entity's earlier item. -/
theorem stage_good {is l : List Item} (hroom : l.length + is.length ≤ itemLimit ∨ ∃ i, is = [i] ∧ itemsHold l i = true)
    (hcheck : ∀ k, k < is.length → check ((is.take (k + 1)).foldl stageItem l) = none) :
    (is.map Staged.item).foldl (fun a x => stageOne check x a) ⟨l, 0, none⟩ = ⟨is.foldl stageItem l, is.length, none⟩ := by
  obtain hfits | ⟨i, rfl, hheld⟩ := hroom
  · exact (foldl_stageOne_good is l 0 hfits hcheck).trans (congrArg (StageRun.mk _ · _) (Nat.zero_add _))
  · exact stageOne_good 0 (.inr hheld) (hcheck 0 Nat.one_pos)

end staging

/-! ### The staging commands -/

section commands
variable {s : State} {m : Fin 4} {t : Txn} {is : List Item}

theorem tgetList_length {α : Type} (init : α) (l : Tbl α) (a n : Nat) : (tgetList init l a n).length = n := by
  induction n generalizing a with
  | zero => rfl
  | succ n ih => exact congrArg (· + 1) (ih (a + 1))

theorem State.body_length_le (m : Nat) (s : State) : (s.body m).length ≤ 1008 := by
  refine (List.length_take_le' _ _).trans ?_
  rw [List.length_drop]
  exact (Nat.sub_le_sub_right (tgetList_length 0#8 (s.mailbox m).request 0 1024).le 16)

/-- A handler that stages the good records of a request in the open transaction it names. -/
theorem stageAll_good {check : Device → List Item → Option (BitVec 16 × Option (List Byte))} {code : Nat} (hs : s.stands code m)
    (ht : (s.touched m).openTxn code (s.sessionNo m) (s.txnNo m) = some t)
    (hroom : t.items.length + is.length ≤ itemLimit ∨ ∃ i, is = [i] ∧ itemsHold t.items i = true)
    (hcheck : ∀ k, k < is.length → check (s.touched m) ((is.take (k + 1)).foldl stageItem t.items) = none) :
    stageAll check (is.map .item) (s.request m) (s.touched m) =
      (some (stagingAnswer stOk is.length (is.foldl stageItem t.items).length 0xFFFF),
        (s.touched m).setTxn t.coord t.id fun x => { x with items := is.foldl stageItem t.items }) := by
  have hname : (s.touched m).openTxn (s.request m).code (s.request m).session (s.request m).txn = some t := by
    rw [State.stands_code hs]
    exact ht
  simp only [stageAll, hname, stage_good hroom hcheck, StageRun.answer]

/-- Records of a fixed size that are all good: what the request holds. -/
theorem stageFixed_good {size most : Nat} {read : List Byte → Option Item}
    {check : Device → List Item → Option (BitVec 16 × Option (List Byte))} (hsize : 0 < size) (hsome : is ≠ [])
    (hl : (s.body m).length = size * is.length) (hread : (chunks size is.length (s.body m)).map read = is.map some)
    (hmost : is.length ≤ most) :
    stageFixed size read check most (s.request m) (s.touched m) = stageAll check (is.map .item) (s.request m) (s.touched m) := by
  have hlen : (s.request m).body.length = size * is.length := hl
  have hn : (s.request m).body.length / size = is.length := by rw [hlen, Nat.mul_div_cancel_left _ hsize]
  have hpos := List.length_pos_of_ne_nil hsome
  have hfits : ¬((s.request m).body.length % size ≠ 0 ∨ (s.request m).body.length / size = 0 ∨ most < (s.request m).body.length / size) := by
    rw [hn, hlen, Nat.mul_mod_right]
    omega
  have hstaged : (chunks size is.length (s.request m).body).map (fun l => staged (read l)) = is.map .item := by
    have h := congrArg (List.map staged) hread
    rw [List.map_map, List.map_map] at h
    exact h
  unfold stageFixed
  rw [if_neg hfits, hn, hstaged]

/-- A staging command whose handler stages the items of a request answers OK, and the transaction holds them. -/
theorem staging_answers {c : Instr} {code : Nat} {h : Handler} {check : Device → List Item → Option (BitVec 16 × Option (List Byte))}
    (hc : exec c s = fwRow code h (.mailbox m) s) (hs : s.stands code m)
    (ht : (s.touched m).openTxn code (s.sessionNo m) (s.txnNo m) = some t)
    (hroom : t.items.length + is.length ≤ itemLimit ∨ ∃ i, is = [i] ∧ itemsHold t.items i = true)
    (hcheck : ∀ k, k < is.length → check (s.touched m) ((is.take (k + 1)).foldl stageItem t.items) = none)
    (hh : h (s.request m) (s.touched m) = stageAll check (is.map .item) (s.request m) (s.touched m)) :
    AnswersOk c m s (leBytes 4 is.length ++ leBytes 2 (is.foldl stageItem t.items).length ++ leBytes 2 0xFFFF)
      ((s.touched m).setTxn t.coord t.id fun x => { x with items := is.foldl stageItem t.items }) :=
  answers_of_stagingAnswer hc hs (hh.trans (stageAll_good hs ht hroom hcheck))

/-- The request's records, all good: at most 252 fit, so that the bound of 1,008 is met. -/
theorem records_within {size : Nat} (hsize : 4 ≤ size) (hl : (s.body m).length = size * is.length) : is.length ≤ 1008 := by
  have hbody := s.body_length_le m
  nlinarith

end commands

/-- Settles O52: good records pass every check of staging, one after the other. -/
theorem stagingCommandsTakeTheirRecord : Obligations.StagingCommandsTakeTheirRecord := by
  unfold Obligations.StagingCommandsTakeTheirRecord
  intro s m t is hsome ht hroom l items takes records
  have takesFixed {code size : Nat} {read : List Byte → Option Item} {c : ReqSource → Instr} (hsize : 4 ≤ size)
      (hc : exec (c (.mailbox m)) s = fwRow code (stageFixed size read) (.mailbox m) s) : records size read → takes code c :=
    fun ⟨hl, hread⟩ hs => staging_answers hc hs (ht code) hroom (fun _ _ => rfl)
      (stageFixed_good (by omega) hsome hl hread (records_within hsize hl))
  refine ⟨takesFixed (by decide) rfl, takesFixed (by decide) rfl, takesFixed (by decide) rfl, takesFixed (by decide) rfl,
    takesFixed (by decide) rfl, takesFixed (by decide) rfl, takesFixed (by decide) rfl, takesFixed (by decide) rfl,
    takesFixed (by decide) rfl, takesFixed (by decide) rfl, ?_, ?_⟩
  · rintro ⟨hl, hread⟩ hmost hcheck hs
    exact staging_answers (h := linLoad) rfl hs (ht _) hroom hcheck (stageFixed_good (by decide) hsome hl hread hmost)
  · intro hitems hs
    have hmill : millConfig (s.request m) (s.touched m) = stageAll noCheck (is.map .item) (s.request m) (s.touched m) := by
      obtain ⟨i, is, rfl⟩ := List.exists_cons_of_ne_nil hsome
      have hitems' : millItems ((s.request m).body.length + 1) (s.request m).body = some ((i :: is).map .item) := hitems
      unfold millConfig
      rw [hitems']
      rfl
    exact staging_answers (h := millConfig) rfl hs (ht _) hroom (fun _ _ => rfl) hmill

end Sys2Proof.Machine
end

section
namespace Sys2Proof.Machine

/-! O25: a wideband sample and its channel. -/

/-! ### Samples on their way to the Mill -/

@[simp] theorem Device.feedJob_inner (i : Nat) (x : MillSample) (d : Device) : (d.feedJob i x).inner = d.inner := by
  unfold Device.feedJob
  dsimp only
  split
  · split <;> rfl
  · rfl

@[simp] theorem Device.toMill_inner (kind src : Nat) (x : MillSample) (d : Device) : (d.toMill kind src x).inner = d.inner := by
  unfold Device.toMill
  split
  · rfl
  · exact forList_inner _ (fun (y : Nat × JobCfg) d => d.feedJob y.1 x) (fun y d => d.feedJob_inner y.1 x) d

/-! ### One channel alone -/

/-- Outside the data path nothing differs but channel n, and of that channel not what g shows. -/
structure Device.OnChan {α : Type} (n : Nat) (g : ChanRun → α) (d e : Device) : Prop where
  wf : twf ChanRun.init e.chans = true
  own : g (e.chan n) = g (d.chan n)
  others : ∀ k, k ≠ n → e.chan k = d.chan k
  rest : { e.inner with chans := [] } = { d.inner with chans := [] }

section chan
variable {α : Type} {n : Nat} {g : ChanRun → α} {d e f : Device}

theorem Device.OnChan.trans (h : Device.OnChan n g d e) (k : Device.OnChan n g e f) : Device.OnChan n g d f :=
  ⟨k.wf, k.own.trans h.own, fun j hj => (k.others j hj).trans (h.others j hj), k.rest.trans h.rest⟩

theorem Device.OnChan.of_inner (hw : twf ChanRun.init d.chans = true) (h : e.inner = d.inner) : Device.OnChan n g d e := by
  have hchans : e.chans = d.chans := congrArg (·.chans) h
  refine ⟨hchans ▸ hw, ?_, fun k _ => ?_, by rw [h]⟩
  · rw [Device.chan, Device.chan, hchans]
  · rw [Device.chan, Device.chan, hchans]

theorem Device.OnChan.inner (h : Device.OnChan n g d e) (k : f.inner = e.inner) : Device.OnChan n g d f := h.trans (.of_inner h.wf k)

theorem Device.OnChan.setChan (h : Device.OnChan n g d e) {k : ChanRun → ChanRun} (hk : ∀ c, g (k c) = g c) :
    Device.OnChan n g d (e.setChan n k) := by
  refine h.trans ⟨Device.setChan_wf h.wf n k, ?_, fun j hj => ?_, rfl⟩
  · rw [Device.setChan_chan h.wf, if_pos rfl, hk]
  · rw [Device.setChan_chan h.wf, if_neg hj]

theorem Device.OnChan.ite (p : Prop) [Decidable p] (h : Device.OnChan n g d e) (k : Device.OnChan n g d f) :
    Device.OnChan n g d (if p then e else f) := by
  split
  · exact h
  · exact k

theorem Device.OnChan.fw (h : Device.OnChan n g d e) : e.fw = d.fw := congrArg (·.fw) h.rest
theorem Device.OnChan.points (h : Device.OnChan n g d e) : e.points = d.points := congrArg (·.points) h.rest
theorem Device.OnChan.regs (h : Device.OnChan n g d e) : e.regs = d.regs := congrArg (·.regs) h.rest
theorem Device.OnChan.pw (h : Device.OnChan n g d e) : e.pw = d.pw := congrArg (·.pw) h.rest
theorem Device.OnChan.work (h : Device.OnChan n g d e) : e.work = d.work := congrArg (·.work) h.rest

end chan

variable {n : Nat} {d e : Device}

/-- The configuration of an instant is a matter of the firmware and its corrections. -/
theorem Device.cfgAt_congr (hf : e.fw = d.fw) (hw : e.work = d.work) (t : Nat) : e.cfgAt t = d.cfgAt t := by
  unfold Device.cfgAt Device.pastAt
  rw [hf, hw]

theorem Device.tickTo_cfgAt (t k : Nat) (d : Device) : (d.tickTo t).cfgAt k = d.cfgAt k := by
  rw [Device.tickTo_eq]
  rfl

theorem Device.raiseRange_inner (bit : Nat) (d : Device) : (d.raiseRange bit).inner = d.inner := by
  unfold Device.raiseRange
  split
  · rfl
  · exact d.raise_inner _ _

theorem Device.watch_onChan (h : twf ChanRun.init d.chans = true) (n t : Nat) : Device.OnChan n (fun _ => ()) d (d.watch n t) :=
  .ite _ (.of_inner h rfl) (Device.OnChan.setChan (.of_inner h rfl) fun _ => rfl)

/-- The return of a path out of use touches its channel alone. -/
theorem Device.forceGain_onChan (h : twf ChanRun.init d.chans = true) (n t : Nat) : Device.OnChan n (fun _ => ()) d (d.forceGain n t) := by
  have hready {e : Device} (he : Device.OnChan n (fun _ => ()) d e) (t : Nat) : Device.OnChan n (fun _ => ()) d (e.gainReady n t none) :=
    have hset := he.setChan (k := _) fun _ => rfl
    (hset.trans (Device.watch_onChan hset.wf n t)).inner (Device.raiseRange_inner 2 _)
  have hd : Device.OnChan n (fun _ => ()) d d := .of_inner h rfl
  unfold Device.forceGain
  split
  · exact .ite _ (hready (.ite _ hd (hd.setChan fun _ => rfl)) _) hd
  · exact hd

/-! ### The sample -/

/-- A channel but for what a sample's news leave behind: that it may arm, and samples since a CLIP (R110, R124). -/
def ChanRun.sampled (c : ChanRun) : ChanRun := { c with armed := false, sinceClip := 0 }

theorem Device.rangeNews_onChan (h : Device.OnChan n ChanRun.sampled d e) (t since : Nat) (o : CombOut) (clip : Bool) (flags : BitVec 14) :
    Device.OnChan n ChanRun.sampled d (e.rangeNews n t since o clip flags) := by
  unfold Device.rangeNews
  extract_lets e1 e2 e3 e4
  have h1 : Device.OnChan n ChanRun.sampled d e1 := .ite _ (h.inner rfl) h
  have h2 : Device.OnChan n ChanRun.sampled d e2 := .ite _ (h1.inner rfl) h1
  have h3 : Device.OnChan n ChanRun.sampled d e3 :=
    .ite _ (h2.inner ((Device.occur_inner ..).trans (Device.raiseRange_inner 1 _))) h2
  have h4 : Device.OnChan n ChanRun.sampled d e4 := (h3.inner (Device.cnt_inner ..)).setChan fun _ => rfl
  exact .ite _ (.ite _ (h4.inner ((Device.occur_inner ..).trans (Device.raiseRange_inner 0 _))) h4) (h3.setChan fun _ => rfl)

theorem Device.wideConsume_inner (n t : Nat) (y : WideOut) (flags : BitVec 14) (d : Device) : (d.wideConsume n t y flags).inner = d.inner := by
  simp only [Device.wideConsume, Device.offer_inner, Device.toMill_inner, Device.toGranary_inner, Device.cutAfter_inner,
    Device.appendElem_inner]

/-- A sample leaves its channel as the combiner does, but for its news. -/
theorem Device.wideSample_onChan (h : twf ChanRun.init d.chans = true) (x : WideIn) (t : Nat) :
    Device.OnChan x.ch.val ChanRun.sampled
      (d.setChan x.ch.val fun _ => (((d.chan x.ch.val).intake t x.raws).combine ((d.cfgAt t).chan x.ch.val) x.sat t).out.run) (d.wideSample x t) := by
  unfold Device.wideSample
  extract_lets n c u e flags settled e'
  have he : Device.OnChan n ChanRun.sampled e e := .of_inner (Device.setChan_wf h _ _) rfl
  have he' : Device.OnChan n ChanRun.sampled e e' := .ite _ (he.setChan fun _ => rfl) he
  exact .ite _ he ((Device.rangeNews_onChan he' ..).inner (Device.wideConsume_inner ..))

/-! What the weighing leaves of a channel: the samples it holds. -/

theorem ChanRun.rise_samples (c : ChanRun) : c.rise.look = c.look ∧ c.rise.wides = c.wides := by
  unfold ChanRun.rise
  dsimp only
  split <;> exact ⟨rfl, rfl⟩

theorem ChanRun.auto_samples (c : ChanRun) (risk clean : Bool) :
    (c.auto risk clean).run.look = c.look ∧ (c.auto risk clean).run.wides = c.wides := by
  unfold ChanRun.auto
  cases c.comb with
  | high => cases risk <;> exact ⟨rfl, rfl⟩
  | toLow => exact c.rise_samples
  | low => dsimp only; split <;> exact ⟨rfl, rfl⟩
  | toHigh =>
    cases risk with
    | true => exact c.rise_samples
    | false => dsimp only; rw [if_neg Bool.false_ne_true]; split <;> exact ⟨rfl, rfl⟩

theorem ChanRun.weigh_samples (c : ChanRun) (range t : Nat) (high : Bool) :
    (c.weigh range t high).run.look = c.look ∧ (c.weigh range t high).run.wides = c.wides := by
  have hauto := c.auto_samples (c.atRisk t) (high && !(c.busyAt t))
  unfold ChanRun.weigh
  split
  · dsimp only
    split
    · exact hauto
    · exact hauto
  · exact ⟨rfl, rfl⟩
  · exact ⟨rfl, rfl⟩
  · exact ⟨rfl, rfl⟩
  · exact ⟨rfl, rfl⟩
  · exact ⟨rfl, rfl⟩

/-- What the combiner leaves of the samples that a channel holds. -/
theorem ChanRun.combine_samples (c : ChanRun) (ch : ChanCfg) (sat : Bool) (t : Nat) :
    let y := c.combine ch sat t
    y.out.run.wlast = t ∧ y.out.run.look = c.look.tail ∧
      y.out.run.wides = ⟨t, y.wide.value, y.wide.weight, y.wide.tag == tagClip⟩ :: c.wides := by
  obtain ⟨hlook, hwides⟩ := c.weigh_samples ch.range t (c.usable .high ((c.look.head?).getD ⟨0, 0, []⟩).h sat t)
  exact ⟨rfl, congrArg List.tail hlook, congrArg (List.cons _) hwides⟩

/-- Settles O25: the combiner's result is the channel's, and everything else is the data path's. -/
theorem widebandSampleMovesTheCombiner : Obligations.WidebandSampleMovesTheCombiner := by
  unfold Obligations.WidebandSampleMovesTheCombiner
  intro s x n t hw hdue
  let d := s.dev.tickTo (t + wideDelay)
  have hd : twf ChanRun.init d.chans = true := by rw [Device.tickTo_chans]; exact hw
  have hgain := Device.forceGain_onChan hd n t
  have hsample := Device.wideSample_onChan hgain.wf x t
  have hcfg : (d.forceGain n t).cfgAt t = s.dev.cfgAt t :=
    (Device.cfgAt_congr hgain.fw hgain.work t).trans (Device.tickTo_cfgAt ..)
  refine ⟨_, if_pos hdue, ?_⟩
  beta_reduce
  intro c y v
  rw [hcfg] at hsample
  have hown : v.sampled = y.out.run.sampled := hsample.own.trans (by rw [Device.setChan_chan hgain.wf, if_pos rfl])
  obtain ⟨hlast, hlook, hwides⟩ := c.combine_samples ((s.dev.cfgAt t).chan n) x.sat t
  have hclock : { d.inner with clk := s.dev.clk } = s.dev.inner := by rw [show d = _ from Device.tickTo_eq ..]; rfl
  refine ⟨⟨rfl, rfl⟩, (congrArg (·.wlast) hown).trans hlast, congrArg (·.w) hown, congrArg (·.comb) hown, congrArg (·.clean) hown,
    (congrArg (·.look) hown).trans hlook, (congrArg (·.wides) hown).trans hwides, fun k hk => ?_, ?_, ?_, ?_, ?_⟩
  · calc _ = (d.forceGain n t).chan k := (hsample.others k hk).trans (by rw [Device.setChan_chan hgain.wf, if_neg hk])
      _ = d.chan k := hgain.others k hk
      _ = s.dev.chan k := Device.tickTo_chan ..
  · exact (hsample.points.trans hgain.points).trans (congrArg (·.points) hclock)
  · exact (hsample.fw.trans hgain.fw).trans (congrArg (·.fw) hclock)
  · exact (hsample.regs.trans hgain.regs).trans (congrArg (·.regs) hclock)
  · exact (hsample.pw.trans hgain.pw).trans (congrArg (·.pw) hclock)

end Sys2Proof.Machine
end

section
namespace Sys2Proof.Machine

/-! O29: a point sample and its words. -/

/-! ### Flags of a sample -/

theorem flag_getLsbD {k : Nat} (hk : k < 14) (b : Bool) (j : Nat) : (flag k b).getLsbD j = (b && decide (j = k)) := by
  cases b with
  | false => exact BitVec.getLsbD_zero
  | true =>
    rw [flag, if_pos rfl, ← BitVec.twoPow_eq, BitVec.getLsbD_twoPow, decide_eq_true hk, Bool.true_and, Bool.true_and]
    exact decide_eq_decide.mpr eq_comm

theorem Device.instantFlags_path (t : Nat) (d : Device) :
    (d.instantFlags t).getLsbD fClip = false ∧ (d.instantFlags t).getLsbD fLow = false := by
  constructor <;>
  · simp only [Device.instantFlags, BitVec.getLsbD_or]
    rw [flag_getLsbD (by decide), flag_getLsbD (by decide), flag_getLsbD (by decide), flag_getLsbD (by decide), flag_getLsbD (by decide),
      flag_getLsbD (by decide), flag_getLsbD (by decide)]
    simp [fClip, fLow, fInvalid, fCoast, fHoldover, fSlewing, fDoubt, fSupply, fClksw]

/-- CLIP and LPF of a point's flags are those that its window gives. -/
theorem Device.pointFlags_path (c : Cfg) (p t ready lpf : Nat) (clip : Bool) (d : Device) :
    (d.pointFlags c p t ready lpf clip).getLsbD fClip = clip ∧ (d.pointFlags c p t ready lpf clip).getLsbD fLow = (lpf != 0) := by
  obtain ⟨hclip, hlow⟩ := d.instantFlags_path t
  unfold Device.pointFlags
  extract_lets n x ch a b e bad
  constructor
  · simp only [BitVec.getLsbD_or, hclip]
    rw [flag_getLsbD (by decide), flag_getLsbD (by decide), flag_getLsbD (by decide), flag_getLsbD (by decide), flag_getLsbD (by decide),
      flag_getLsbD (by decide), flag_getLsbD (by decide)]
    simp [fClip, fLow, fInvalid, fSettle, fCal, fTone, fParity]
  · simp only [BitVec.getLsbD_or, hlow]
    rw [flag_getLsbD (by decide), flag_getLsbD (by decide), flag_getLsbD (by decide), flag_getLsbD (by decide), flag_getLsbD (by decide),
      flag_getLsbD (by decide), flag_getLsbD (by decide)]
    simp [fClip, fLow, fInvalid, fSettle, fCal, fTone, fParity]

/-! ### One point alone -/

theorem Device.setPt_wf {d : Device} (h : twf PointRun.init d.points = true) (p : Nat) (f : PointRun → PointRun) :
    twf PointRun.init (d.setPt p f).points = true := twf_tmod h p f

/-- Outside the data path and the long work nothing differs but point p, and of that point not its samples for the Mill. -/
structure Device.OnPoint (p : Nat) (d e : Device) : Prop where
  wf : twf PointRun.init e.points = true
  own : { e.pt p with early := [] } = { d.pt p with early := [] }
  others : ∀ q, q ≠ p → e.pt q = d.pt q
  rest : { e.inner with points := [], work := Work.reset } = { d.inner with points := [], work := Work.reset }

section point
variable {p : Nat} {d e f : Device}

theorem Device.OnPoint.trans (h : Device.OnPoint p d e) (k : Device.OnPoint p e f) : Device.OnPoint p d f :=
  ⟨k.wf, k.own.trans h.own, fun j hj => (k.others j hj).trans (h.others j hj), k.rest.trans h.rest⟩

theorem Device.OnPoint.of_points (hw : twf PointRun.init d.points = true) (hp : e.points = d.points)
    (h : { e.inner with points := [], work := Work.reset } = { d.inner with points := [], work := Work.reset }) : Device.OnPoint p d e :=
  ⟨hp ▸ hw, by rw [Device.pt, Device.pt, hp], fun q _ => by rw [Device.pt, Device.pt, hp], h⟩

theorem Device.OnPoint.inner (h : Device.OnPoint p d e) (k : f.inner = e.inner) : Device.OnPoint p d f :=
  h.trans (.of_points h.wf (congrArg (·.points) k) (by rw [k]))

theorem Device.OnPoint.pointToMill (h : Device.OnPoint p d e) (x : MillSample) : Device.OnPoint p d (e.pointToMill p x) := by
  unfold Device.pointToMill
  extract_lets l now
  have hset : Device.OnPoint p e (e.setPt p fun y => { y with early := l.drop now.length }) := by
    refine ⟨twf_tmod h.wf p fun y => { y with early := l.drop now.length }, ?_, fun q hq => ?_, rfl⟩
    · rw [Device.setPt_pt h.wf, if_pos rfl]
    · rw [Device.setPt_pt h.wf, if_neg hq]
  exact (h.trans hset).inner (forList_inner _ (fun (y : MillSample) d => d.toMill 1 p y) (fun y d => d.toMill_inner 1 p y) _)

theorem Device.OnPoint.calSample (h : Device.OnPoint p d e) (t lpf : Nat) (z : Cplx) (flags : BitVec 14) :
    Device.OnPoint p d (e.calSample p t lpf z flags) := by
  have hsame : Device.OnPoint p e e := .of_points h.wf rfl rfl
  refine h.trans ?_
  unfold Device.calSample
  split
  · exact hsame
  · split
    · exact hsame
    · split
      · exact hsame
      · exact .of_points h.wf rfl rfl

end point

/-- What a point's sample shows: its words, and the flags of its window. -/
theorem Device.pointSample_onPoint {d : Device} (hw : twf PointRun.init d.points = true) (x : PointIn) :
    let p := x.p.val
    let c := d.cfgAt x.t
    let dm := d.demodAt p x.t
    let z := ownerApply (tfind (d.pastAt x.t).owner p) c p dm.z
    ∃ f : PointRun → PointRun, Device.OnPoint p (d.setPt p f) (d.pointSample x) ∧ ∀ y, (f y).last = x.t ∧ (f y).lastI = wordQ31 z.re ∧
      (f y).lastQ = wordQ31 z.im ∧ (f y).lastE = (d.linearise c p (wordQ31 z.re) (wordQ31 z.im) x.t).1 ∧
      (f y).lastFlags.getLsbD fClip = dm.clip ∧ (f y).lastFlags.getLsbD fLow = (lpfOf dm.lp dm.n != 0) := by
  obtain ⟨e, he⟩ : ∃ e, e = d.pointSample x := ⟨_, rfl⟩
  rw [← he]
  unfold Device.pointSample at he
  extract_lets p t c pc past dm z i q lin lpf ready flags unit status words ts run fresh settle d1 d2 d3 data d4 d5 d6 d7 at he
  have hw1 : twf PointRun.init d1.points = true := Device.setPt_wf hw p _
  have h1 : Device.OnPoint p d1 d1 := .of_points hw1 rfl rfl
  have h4 : Device.OnPoint p d1 d4 := h1.inner (by simp only [d4, d3, d2, Device.toGranary_inner, Device.cutAfter_inner, Device.appendElem_inner])
  have h7 : Device.OnPoint p d1 d7 :=
    (h4.pointToMill _).inner ((Device.aoutSample_inner ..).trans (Device.tallySample_inner ..))
  have he' : Device.OnPoint p d1 e := he ▸ (h7.inner (Device.offer_inner ..)).calSample ..
  obtain ⟨hclip, hlow⟩ := d.pointFlags_path c p t ready lpf dm.clip
  have hown (j : Nat) (h0 : j ≠ fInvalid) (h1 : j ≠ fChange) : flags.getLsbD j = (d.pointFlags c p t ready lpf dm.clip).getLsbD j := by
    rw [BitVec.getLsbD_or, BitVec.getLsbD_or, flag_getLsbD (by decide), flag_getLsbD (by decide), decide_eq_false h0, decide_eq_false h1,
      Bool.and_false, Bool.and_false, Bool.or_false, Bool.or_false]
  exact ⟨_, he', fun y => ⟨rfl, rfl, rfl, rfl, (hown fClip (by decide) (by decide)).trans hclip, (hown fLow (by decide) (by decide)).trans hlow⟩⟩

section clock
variable (k t : Nat) (d : Device)

theorem Device.tickTo_pastAt : (d.tickTo k).pastAt t = d.pastAt t := by
  rw [Device.tickTo_eq]
  rfl

theorem Device.tickTo_demodAt (p : Nat) : (d.tickTo k).demodAt p t = d.demodAt p t := by
  rw [Device.tickTo_eq]
  rfl

theorem Device.tickTo_linearise (c : Cfg) (p : Nat) (i q : Int) : (d.tickTo k).linearise c p i q t = d.linearise c p i q t := by
  rw [Device.tickTo_eq]
  rfl

end clock

/-- Settles O29: the sample's words are its point's, and the rest is the data path's. -/
theorem pointSamplesGiveTheirWords : Obligations.PointSamplesGiveTheirWords := by
  unfold Obligations.PointSamplesGiveTheirWords
  intro s x hdue hw c dm z
  let d := s.dev.tickTo (s.dev.readyAt x.p.val x.t)
  have hclock : { d with clk := s.dev.clk } = s.dev := by rw [show d = _ from Device.tickTo_eq ..]
  have hd : d.points = s.dev.points := congrArg (·.points) hclock
  have hdw : twf PointRun.init d.points = true := by rw [hd]; exact hw
  obtain ⟨f, hf, hwords⟩ := Device.pointSample_onPoint hdw x
  rw [Device.tickTo_cfgAt, Device.tickTo_pastAt, Device.tickTo_demodAt] at hwords
  obtain ⟨hlast, hi, hq, he, hclip, hlow⟩ := hwords (d.pt x.p.val)
  have hown := hf.own
  rw [Device.setPt_pt hdw, if_pos rfl] at hown
  refine ⟨_, if_pos hdue, ?_⟩
  beta_reduce
  intro y
  refine ⟨⟨rfl, rfl⟩, (congrArg (·.last) hown).trans hlast, (congrArg (·.lastI) hown).trans hi, (congrArg (·.lastQ) hown).trans hq,
    ((congrArg (·.lastE) hown).trans he).trans ?_, (congrArg (·.lastFlags.getLsbD fClip) hown).trans hclip,
    (congrArg (·.lastFlags.getLsbD fLow) hown).trans hlow, fun p hp => ?_, ?_, ?_, ?_, ?_, ?_⟩
  · rw [Device.tickTo_linearise]
  · calc _ = d.pt p := (hf.others p hp).trans (by rw [Device.setPt_pt hdw, if_neg hp])
      _ = s.dev.pt p := by rw [Device.pt, Device.pt, hd]
  · exact (congrArg (·.chans) hf.rest).trans (congrArg (·.chans) hclock)
  · exact (congrArg (·.fw) hf.rest).trans (congrArg (·.fw) hclock)
  · exact (congrArg (·.regs) hf.rest).trans (congrArg (·.regs) hclock)
  · exact (congrArg (·.pw) hf.rest).trans (congrArg (·.pw) hclock)
  · exact (congrArg (·.nv) hf.rest).trans (congrArg (·.nv) hclock)

end Sys2Proof.Machine
end

section
namespace Sys2Proof.Machine

/-! O31: the Granary's writes and its scrubber. -/

/-! ### What errors leave behind -/

theorem Device.strikeReplay_only (r k m first count : Nat) (d : Device) : ∃ j, d.strikeReplay r k m first count = { d with jobs := j } := by
  unfold Device.strikeReplay
  induction (128 : Nat) with
  | zero => exact ⟨d.jobs, rfl⟩
  | succ n ih =>
    rw [forNat_succ]
    obtain ⟨j, hj⟩ := ih
    rw [hj]
    dsimp only
    split
    · exact ⟨j, rfl⟩
    · split
      · exact ⟨_, rfl⟩
      · exact ⟨j, rfl⟩

/-- An unreadable word shows in the Granary, the runs of the Mill, the density maps and what waits at the data port, and nowhere else. -/
theorem Device.strike_only (r : Nat) (x : Struck) (d : Device) :
    ∃ g j m p, d.strike r x = { d with gran := g, jobs := j, maps := m, port := p } := by
  cases x with
  | slot k m a n =>
    obtain ⟨j, hj⟩ := Device.strikeReplay_only r k m a n
      (d.setRegion r fun y => y.setSlot k fun z => { z with members := tmod Store.init z.members m (Store.strike a n) })
    exact ⟨_, j, d.maps, d.port, hj⟩
  | slotBlock k m i =>
    obtain ⟨j, hj⟩ := Device.strikeReplay_only r k m ((((d.region r).slot k).store m).span i).1 ((((d.region r).slot k).store m).span i).2
      (d.setRegion r fun y => y.setSlot k fun z => { z with members := tmod Store.init z.members m (Store.strikeBlock i) })
    exact ⟨_, j, d.maps, d.port, hj⟩
  | counter m c snapshot =>
    cases snapshot with
    | false => exact ⟨d.gran, d.jobs, _, d.port, rfl⟩
    | true =>
      simp only [Device.strike, if_true, Device.strikeRow]
      split
      · exact ⟨d.gran, d.jobs, _, d.port, rfl⟩
      · exact ⟨d.gran, d.jobs, _, _, rfl⟩
  | nothing => exact ⟨d.gran, d.jobs, d.maps, d.port, rfl⟩
  | ring m a n => exact ⟨_, d.jobs, d.maps, d.port, rfl⟩
  | ringBlock m i => exact ⟨_, d.jobs, d.maps, d.port, rfl⟩
  | tally a n => exact ⟨_, d.jobs, d.maps, d.port, rfl⟩
  | staging w => exact ⟨_, d.jobs, d.maps, d.port, rfl⟩

/-- The inner part of a device, but for its log and whether the log has been read. -/
def Device.unlogged (d : Device) : Device :=
  { d.inner with pw := { d.pw with logRead := false }, nv := { d.nv with log := [], logNext := 0 } }

theorem Device.unlogged_of_inner {d e : Device} (h : e.inner = d.inner) : e.unlogged = d.unlogged :=
  congrArg (fun x : Device => { x with pw := { x.pw with logRead := false }, nv := { x.nv with log := [], logNext := 0 } }) h

theorem Device.logPut_unlogged (k : Nat) (l : List Nat) (d : Device) : Device.Grows Device.unlogged d (d.logPut k l) := by
  refine ⟨?_, (Device.logPut_grows k l d).bits⟩
  unfold Device.logPut
  dsimp only
  split
  · exact (Device.unlogged_of_inner (Device.raise_inner ..)).trans rfl
  · rfl

theorem Device.raise_unlogged (i : Nat) (b : BitVec 24) (d : Device) : Device.Grows Device.unlogged d (d.raise i b) :=
  ⟨Device.unlogged_of_inner (d.raise_inner i b), (Device.raise_grows i b d).bits⟩

theorem Device.strike_grows (r : Nat) (x : Struck) (d : Device) : Device.Grows Device.unlogged d (d.strike r x) := by
  obtain ⟨g, j, m, p, h⟩ := d.strike_only r x
  rw [h]
  exact .of_evts rfl rfl

/-- An error that the Granary corrects. -/
theorem Device.scrubError_single {e : ScrubErr} (h : e.double = false) (d : Device) :
    d.scrubError e = { d with cnt := { d.cnt with corrected := d.cnt.corrected + 1#32 } }.raise evGran granFixed :=
  if_pos (by rw [h]; rfl)

/-- An error that it does not, whose word becomes unreadable where a region holds it. -/
theorem Device.scrubError_double {e : ScrubErr} (h : e.double = true) (d : Device) :
    ∃ k l, d.scrubError e = Device.logPut k l
      (e.region.elim ({ d with cnt := { d.cnt with uncorrected := d.cnt.uncorrected + 1#32 } }.raise evGran granBad) fun r =>
        ({ d with cnt := { d.cnt with uncorrected := d.cnt.uncorrected + 1#32 } }.raise evGran granBad).strike r.val e.struck) := by
  unfold Device.scrubError
  rw [if_neg (by rw [h]; decide)]
  cases e.region with
  | none => exact ⟨_, _, rfl⟩
  | some r => exact ⟨_, _, rfl⟩

theorem Device.scrubError_grows (e : ScrubErr) (d : Device) : Device.Grows Device.unlogged d (d.scrubError e) := by
  have hcnt (x : Counters) : Device.Grows Device.unlogged d { d with cnt := x } := .of_evts rfl rfl
  cases hd : e.double with
  | false =>
    rw [Device.scrubError_single hd]
    exact (hcnt _).trans (Device.raise_unlogged ..)
  | true =>
    obtain ⟨k, l, h⟩ := Device.scrubError_double hd d
    rw [h]
    refine .trans ?_ (Device.logPut_unlogged ..)
    cases e.region with
    | none => exact (hcnt _).trans (Device.raise_unlogged ..)
    | some r => exact ((hcnt _).trans (Device.raise_unlogged ..)).trans (Device.strike_grows ..)

theorem Device.foundErrors_grows (errs : List ScrubErr) (d : Device) : Device.Grows Device.unlogged d (d.foundErrors errs) :=
  forList_grows errs Device.scrubError_grows d

/-- An error counts itself. -/
theorem Device.scrubError_cnt (e : ScrubErr) (d : Device) : (d.scrubError e).cnt =
    if e.double then { d.cnt with uncorrected := d.cnt.uncorrected + 1#32 } else { d.cnt with corrected := d.cnt.corrected + 1#32 } := by
  cases hd : e.double with
  | false =>
    rw [Device.scrubError_single hd, Device.raise_cnt]
    rfl
  | true =>
    obtain ⟨k, l, h⟩ := Device.scrubError_double hd d
    rw [h, Device.logPut_cnt, if_pos rfl]
    cases e.region with
    | none => exact Device.raise_cnt ..
    | some r =>
      obtain ⟨g, j, m, p, h⟩ := Device.strike_only r.val e.struck
        ({ d with cnt := { d.cnt with uncorrected := d.cnt.uncorrected + 1#32 } }.raise evGran granBad)
      exact (congrArg (·.cnt) h).trans (Device.raise_cnt ..)

/-- An error raises the bit of its kind. -/
theorem Device.scrubError_bit (e : ScrubErr) (d : Device) :
    ((d.scrubError e).evt evGran).bits.getLsbD (if e.double then 3 else 2) = true := by
  cases hd : e.double with
  | false =>
    rw [Device.scrubError_single hd]
    exact Device.raise_bit (by decide) _
  | true =>
    obtain ⟨k, l, h⟩ := Device.scrubError_double hd d
    rw [h]
    refine (Device.logPut_unlogged ..).bits _ _ ?_
    cases e.region with
    | none => exact Device.raise_bit (by decide) _
    | some r => exact (Device.strike_grows ..).bits _ _ (Device.raise_bit (by decide) _)

theorem Device.foundErrors_bit {errs : List ScrubErr} {e : ScrubErr} (he : e ∈ errs) (d : Device) :
    ((d.foundErrors errs).evt evGran).bits.getLsbD (if e.double then 3 else 2) = true := by
  induction errs generalizing d with
  | nil => exact absurd he List.not_mem_nil
  | cons a l ih =>
    obtain rfl | hmem := List.mem_cons.mp he
    · exact (Device.foundErrors_grows l _).bits _ _ (Device.scrubError_bit ..)
    · exact ih hmem _

/-- Errors that are found are counted, each by its kind. -/
theorem Device.foundErrors_cnt (errs : List ScrubErr) (d : Device) : (d.foundErrors errs).cnt =
    { d.cnt with corrected := d.cnt.corrected + BitVec.ofNat 32 (errs.filter fun e => !e.double).length,
                 uncorrected := d.cnt.uncorrected + BitVec.ofNat 32 (errs.filter fun e => e.double).length } := by
  have hsucc (a : Word) (n : Nat) : a + 1#32 + BitVec.ofNat 32 n = a + BitVec.ofNat 32 (n + 1) := by
    rw [BitVec.ofNat_add, BitVec.add_assoc, BitVec.add_comm 1#32]
  induction errs generalizing d with
  | nil =>
    have hzero (a : Word) : a + BitVec.ofNat 32 0 = a := BitVec.add_zero a
    simp only [List.filter_nil, List.length_nil, hzero]
    rfl
  | cons e l ih =>
    refine (ih (d.scrubError e)).trans ?_
    rw [Device.scrubError_cnt]
    cases he : e.double <;> simp [he, hsucc]

/-! ### Writes -/

section waiting
variable (r k s : Nat) (d : Device)

theorem Device.settleSlot_waiting : (d.settleSlot r k).gran.waiting = d.gran.waiting := by
  unfold Device.settleSlot
  dsimp only
  split
  · rfl
  · split
    · rw [Device.raise_gran]; rfl
    · split
      · rfl
      · split
        · rw [Device.raise_gran]; rfl
        · rfl

theorem Device.wrap_waiting (b : Bool) : (d.wrap r b).gran.waiting = d.gran.waiting := by
  unfold Device.wrap
  dsimp only
  split
  · rfl
  · split
    · rw [Device.raise_gran]; rfl
    · rfl

theorem Device.writeRegion_waiting (cut : Bool) (w : Waiting) : (d.writeRegion r s cut w).gran.waiting = d.gran.waiting := by
  have hfill (k : Nat) (d : Device) : (d.writeFilling r k s cut w).gran.waiting = d.gran.waiting := by
    unfold Device.writeFilling
    split
    · exact Device.settleSlot_waiting ..
    · exact Device.settleSlot_waiting ..
  have hhistory : (d.writeHistory r s cut w).gran.waiting = d.gran.waiting := by
    unfold Device.writeHistory
    dsimp only
    split
    · split <;> rfl
    · rfl
  unfold Device.writeRegion
  refine (forList_keeps (g := fun d : Device => d.gran.waiting) _ (f := fun k d => d.writeFilling r k s cut w) hfill _).trans ?_
  split
  · rfl
  · split
    · exact Device.wrap_waiting ..
    · exact hhistory

/-- A write takes the oldest waiting element of its stream, and keeps the others in their order. -/
theorem Device.granWrite_waiting : (d.granWrite s).gran.waiting = (takeWaiting s d.gran.waiting).elim d.gran.waiting (·.2) := by
  unfold Device.granWrite
  split
  · next h => rw [h]; rfl
  · next w l h =>
    rw [h]
    exact forList_keeps (g := fun d : Device => d.gran.waiting) _ (fun r d => Device.writeRegion_waiting r s d _ w) _

end waiting

/-- Settles O31: a write's frame, and what a scrub pass counts. -/
theorem granaryWritesAndScrubs : Obligations.GranaryWritesAndScrubs := by
  unfold Obligations.GranaryWritesAndScrubs
  intro s stream t errs same
  refine ⟨fun h => if_pos h, fun h => ?_, fun hr => ?_, fun hr hm => ?_⟩
  · exact if_pos (by rw [h]; rfl)
  · have hclock : { s.dev.tickTo t with clk := s.dev.clk } = s.dev := by rw [Device.tickTo_eq]
    obtain ⟨-, hpw, hregs, hfw, hchans, hpoints, -, -, hnv, -, -⟩ := Device.inner_of (Device.granWrite_inner stream (s.dev.tickTo t))
    refine ⟨_, if_neg (hr ▸ Bool.false_ne_true), ⟨⟨rfl, rfl⟩, hfw.trans (congrArg (·.fw) hclock), hregs.trans (congrArg (·.regs) hclock),
      hchans.trans (congrArg (·.chans) hclock), hpoints.trans (congrArg (·.points) hclock),
      (congrArg (·.mode) hpw).trans (congrArg (·.pw.mode) hclock)⟩, hnv.trans (congrArg (·.nv) hclock), ?_⟩
    have hgran : (s.dev.tickTo t).gran = s.dev.gran := congrArg (·.gran) hclock
    rw [← hgran]
    exact Device.granWrite_waiting ..
  · have hscrubs : s.dev.scrubs = true := by simp [Device.scrubs, hr, hm]
    have hfound := s.dev.foundErrors_grows errs
    have hcnt := s.dev.foundErrors_cnt errs
    refine ⟨_, if_neg (by rw [hscrubs]; decide), ⟨⟨rfl, rfl⟩, congrArg (·.fw) hfound.same, congrArg (·.regs) hfound.same,
      congrArg (·.chans) hfound.same, congrArg (·.points) hfound.same, congrArg (·.pw.mode) hfound.same⟩,
      congrArg (·.scrubPasses + 1#32) hcnt, congrArg (·.corrected) hcnt, congrArg (·.uncorrected) hcnt, fun h => ?_, fun h => ?_⟩
    · obtain ⟨e, he, hsingle⟩ := List.any_eq_true.mp h
      have hbit := Device.foundErrors_bit he s.dev
      rwa [Bool.not_eq_true' _ |>.mp hsingle] at hbit
    · obtain ⟨e, he, hdouble⟩ := List.any_eq_true.mp h
      have hbit := Device.foundErrors_bit he s.dev
      rwa [hdouble] at hbit

end Sys2Proof.Machine
end

section
namespace Sys2Proof.Machine

/-! O33: fast detections, their urgent checks and their releases. -/

/-! ### Urgent checks -/

theorem tget_tmod_same {α : Type} [DecidableEq α] {init : α} {l : Tbl α} (h : twf init l = true) (k : Nat) (f : α → α) :
    tget init (tmod init l k f) k = f (tget init l k) := (tget_tmod h k k f).trans (if_pos rfl)

theorem tget_tmod_of_ne {α : Type} [DecidableEq α] {init : α} {l : Tbl α} (h : twf init l = true) (k : Nat) (f : α → α) (j : Nat)
    (hj : j ≠ k) : tget init (tmod init l k f) j = tget init l j := (tget_tmod h k j f).trans (if_neg hj)

/-- What cutting off the tones of channels leaves of each: all but its tones. -/
theorem forList_cutSpans (l : List Nat) (t : Nat) {d : Device} (h : twf ChanRun.init d.chans = true) :
    ∃ x, forList l (fun n d => d.setChan n fun c => { c with tones := cutSpans t c.tones }) d = { d with chans := x } ∧
      twf ChanRun.init x = true ∧ ∀ n, ∃ a, tget ChanRun.init x n = { d.chan n with tones := a } := by
  induction l generalizing d with
  | nil => exact ⟨d.chans, rfl, h, fun n => ⟨(d.chan n).tones, rfl⟩⟩
  | cons k l ih =>
    obtain ⟨x, hx, hwf, hall⟩ := ih (Device.setChan_wf h k fun c => { c with tones := cutSpans t c.tones })
    refine ⟨x, hx, hwf, fun n => ?_⟩
    obtain ⟨a, ha⟩ := hall n
    refine ⟨a, ha.trans ?_⟩
    rw [Device.setChan_chan h]
    split
    · next hn => rw [hn]
    · rfl

/-- An urgent check is called for in its group alone; a periodic check that it ends loses its tones (R139, R140). -/
theorem Device.urgentCheck_spec {d : Device} (hc : twf ChanRun.init d.chans = true) (hg : twf GroupRun.init d.groups = true) (g td : Nat) :
    ∃ x y, d.urgentCheck g td = { d with chans := x, groups := y } ∧
      (∀ n, ∃ a, tget ChanRun.init x n = { d.chan n with tones := a }) ∧ (∀ k, k ≠ g → tget GroupRun.init y k = d.group k) ∧
      ((d.group g).check = none → (tget GroupRun.init y g).urgent = true ∧ x = d.chans) ∧
      ∀ k, (d.group g).check = some k → k.urgent = false →
        (tget GroupRun.init y g).check = none ∧ (tget GroupRun.init y g).urgent = true := by
  have hsame (n : Nat) : ∃ a, tget ChanRun.init d.chans n = { d.chan n with tones := a } := ⟨(d.chan n).tones, rfl⟩
  unfold Device.urgentCheck
  cases hcheck : (d.group g).check with
  | none => exact ⟨d.chans, _, rfl, hsame, tget_tmod_of_ne hg g _, fun _ => ⟨congrArg (·.urgent) (tget_tmod_same hg g _), rfl⟩, nofun⟩
  | some k =>
    dsimp only
    cases hk : k.urgent with
    | false =>
      let y := tmod GroupRun.init d.groups g fun x => { x with check := none }
      have hy : twf GroupRun.init y = true := twf_tmod hg g _
      obtain ⟨x, hx, -, hall⟩ := forList_cutSpans k.chans td (d := { d with groups := y }) hc
      have habandon : d.abandonCheck g td = { d with groups := y, chans := x } := by
        rw [← hx, Device.abandonCheck, hcheck]
        rfl
      have hlast : tget GroupRun.init (tmod GroupRun.init y g fun x => { x with urgent := true }) g =
          { d.group g with check := none, urgent := true } := by
        rw [tget_tmod_same hy, tget_tmod_same hg]
        rfl
      refine ⟨x, tmod GroupRun.init y g fun x => { x with urgent := true }, congrArg (Device.setGroup g _) habandon, hall, fun j hj => ?_,
        nofun, fun j _ _ => ⟨congrArg (·.check) hlast, congrArg (·.urgent) hlast⟩⟩
      exact (tget_tmod_of_ne hy g _ j hj).trans (tget_tmod_of_ne hg g _ j hj)
    | true =>
      have hnot (j : Check) (hj : some k = some j) (hu : j.urgent = false) : False := by
        rw [← Option.some.inj hj, hk] at hu
        exact Bool.noConfusion hu
      rw [if_neg (by decide)]
      split
      · exact ⟨d.chans, d.groups, rfl, hsame, fun _ _ => rfl, nofun, fun j hj hu => (hnot j hj hu).elim⟩
      · exact ⟨d.chans, _, rfl, hsame, tget_tmod_of_ne hg g _, nofun, fun j hj hu => (hnot j hj hu).elim⟩

/-- After a release an urgent check is called for in its group alone. -/
theorem Device.urgentAfter_spec {d : Device} (hg : twf GroupRun.init d.groups = true) (g t : Nat) :
    ∃ y, d.urgentAfter g t = { d with groups := y } ∧ (∀ k, k ≠ g → tget GroupRun.init y k = d.group k) ∧
      (((d.group g).check.all fun k => !k.urgent) = true → (tget GroupRun.init y g).urgent = true) := by
  have hurgent : (tget GroupRun.init (tmod GroupRun.init d.groups g fun x => { x with urgent := true }) g).urgent = true :=
    congrArg (·.urgent) (tget_tmod_same hg g _)
  unfold Device.urgentAfter
  cases hcheck : (d.group g).check with
  | none => exact ⟨_, rfl, tget_tmod_of_ne hg g _, fun _ => hurgent⟩
  | some k =>
    dsimp only
    cases hk : k.urgent with
    | false => exact ⟨_, rfl, tget_tmod_of_ne hg g _, fun _ => hurgent⟩
    | true =>
      have hnot : ¬((some k).all fun k => !k.urgent) = true := by simp [hk]
      rw [if_neg (by decide)]
      split
      · exact ⟨d.groups, rfl, fun _ _ => rfl, fun h => (hnot h).elim⟩
      · exact ⟨_, rfl, tget_tmod_of_ne hg g _, fun h => (hnot h).elim⟩

/-! ### Detections -/

theorem Device.occur_runs (ch bit t td : Nat) (flags : BitVec 14) (d : Device) : Device.Runs d (d.occur ch bit t td flags) :=
  forList_grows _ (fun (_ : Nat × UnitCfg) _ => Device.detect_runs ..) d

theorem shepBits : ∀ n : Fin 128, let i := evShep (n.val / 16)
    ((shCh n.val ||| shFast) &&& evtMask i).getLsbD 16 = true ∧ ((shCh n.val ||| shFast) &&& evtMask i).getLsbD (n.val % 16) = true ∧
      ((shCh n.val ||| shCleared) &&& evtMask i).getLsbD 19 = true := by decide

/-- The inner part of a device but for its channels and groups. -/
def Device.outerFw (d : Device) : Device := { d.inner with chans := [], groups := [] }

section detect
variable {d : Device}

/-- What a fast detection leaves: an episode of its own, the bits of its region, and an urgent check called for. -/
theorem Device.fastDetect_spec (hc : twf ChanRun.init d.chans = true) (hg : twf GroupRun.init d.groups = true) (n : Fin 128) (x : Detector)
    (td : Nat) :
    let e := d.fastDetect n.val x td
    let g := n.val / 4
    let te := td - d.lagOf x
    e.outerFw = d.outerFw ∧ (∀ k, k ≠ g → e.group k = d.group k) ∧
      (e.chan n.val).asserted = (d.chan n.val).asserted ++ [x] ∧ (e.chan n.val).cls = (d.chan n.val).cls ∧
      (∃ y, (e.chan n.val).episodes = y :: (d.chan n.val).episodes ∧
        y.from_ = te ∧ y.onset = te ∧ y.to_ = none ∧ y.det = some x ∧ y.mark = td + 96) ∧
      (e.evt (evShep (n.val / 16))).bits.getLsbD 16 = true ∧ (e.evt (evShep (n.val / 16))).bits.getLsbD (n.val % 16) = true ∧
      ((d.group g).check = none → (e.group g).urgent = true ∧ ∀ k, k ≠ n.val → e.chan k = d.chan k) ∧
      ∀ k, (d.group g).check = some k → k.urgent = false → (e.group g).check = none ∧ (e.group g).urgent = true := by
  obtain ⟨e, he⟩ : ∃ e, e = d.fastDetect n.val x td := ⟨_, rfl⟩
  rw [← he]
  unfold Device.fastDetect at he
  extract_lets te pin cause mask d1 d2 at he
  intro e' g _
  let d3 := d2.occur n.val 0 te td 0#14
  have h1 : twf ChanRun.init d1.chans = true := Device.setChan_wf hc _ _
  have hinner : d3.inner = d1.inner := (Device.occur_inner ..).trans ((Device.raise_inner ..).trans (Device.cnt_inner ..))
  have hchans : d3.chans = d1.chans := congrArg (·.chans) hinner
  have hgroups : d3.groups = d.groups := congrArg (·.groups) hinner
  have hbits := (Device.occur_runs n.val 0 te td 0#14 d2).bits (evShep (n.val / 16))
  obtain ⟨hfast, hch, -⟩ := shepBits n
  obtain ⟨l, y, hurgent, hl, hy, hnone, hperiodic⟩ := Device.urgentCheck_spec (d := d3) (hchans ▸ h1) (hgroups ▸ hg) g td
  have he' : e = { d3 with chans := l, groups := y } := he.trans hurgent
  have hgroup (k : Nat) : d3.group k = d.group k := congrArg (tget GroupRun.init · k) hgroups
  have hchan (k : Nat) : d3.chan k = d1.chan k := congrArg (tget ChanRun.init · k) hchans
  obtain ⟨a, ha⟩ := hl n.val
  have hd1 : d1.chan n.val = _ := (Device.setChan_chan hc n.val _ n.val).trans (if_pos rfl)
  have hown : e.chan n.val = { d1.chan n.val with tones := a } := by
    rw [he', ← hchan]
    exact ha
  rw [hd1] at hown
  have hgroup' (k : Nat) : e.group k = tget GroupRun.init y k := by rw [he']; rfl
  have hevt (i : Nat) : e.evt i = d3.evt i := by rw [he']; rfl
  rw [hevt, hgroup', ← hgroup]
  refine ⟨?_, fun k hk => ?_, congrArg (·.asserted) hown, congrArg (·.cls) hown, ⟨_, congrArg (·.episodes) hown, rfl, rfl, rfl, rfl, rfl⟩,
    hbits _ (Device.raise_bit hfast _), hbits _ (Device.raise_bit hch _), fun h => ?_, hperiodic⟩
  · exact (congrArg Device.outerFw he').trans (congrArg (fun d : Device => { d with chans := [], groups := [] }) hinner)
  · exact (hgroup' k).trans ((hy k hk).trans (hgroup k))
  · obtain ⟨hu, hx⟩ := hnone h
    refine ⟨hu, fun k hk => ?_⟩
    refine (congrArg (·.chan k) he').trans ?_
    exact (congrArg (tget ChanRun.init · k) (hx.trans hchans)).trans ((Device.setChan_chan hc n.val _ k).trans (if_neg hk))

/-! ### Releases -/

/-- A report changes what the channel shows of its episodes, not the episodes. -/
theorem ChanRun.reported_eq (l : List Episode) (t : Nat) (c : ChanRun) :
    ∃ a b z, c.reported l t = { c with cause := a, onset := b, endT := z } ∧ (l ≠ [] → z = t) := by
  cases l with
  | nil => exact ⟨c.cause, c.onset, c.endT, rfl, fun h => absurd rfl h⟩
  | cons e l => exact ⟨e.cause, e.onset, t, rfl, fun _ => rfl⟩

/-- The episodes of a channel once those that nothing holds are closed. -/
def ChanRun.settled (t : Nat) (c : ChanRun) : List Episode :=
  (c.episodes.map fun e => if c.loose.contains e then { e with to_ := some t, det := none } else e).filter fun e =>
    e.to_.all fun z => decide (t < z + markHorizon)

theorem Device.closeEpisodes_spec (hc : twf ChanRun.init d.chans = true) (n : Fin 128) (t : Nat) :
    let e := d.closeEpisodes n.val t
    let c := d.chan n.val
    twf ChanRun.init e.chans = true ∧ { e.inner with chans := [] } = { d.inner with chans := [] } ∧
      (∀ k, k ≠ n.val → e.chan k = d.chan k) ∧
      (∃ a b z, e.chan n.val = { c with cause := a, onset := b, endT := z, episodes := c.settled t } ∧ (c.loose ≠ [] → z = t)) ∧
      (c.loose ≠ [] → (e.evt (evShep (n.val / 16))).bits.getLsbD 19 = true) := by
  obtain ⟨e, he⟩ : ∃ e, e = d.closeEpisodes n.val t := ⟨_, rfl⟩
  intro e' c
  rw [show e' = e from he.symm]
  unfold Device.closeEpisodes at he
  extract_lets gone d1 d2 at he
  have hloose (k : Nat) (d : Device) (f : BitVec 14) : Device.Runs d (forList gone (fun _ d => d.occur n.val 3 t t f) d) :=
    forList_grows gone (fun _ _ => Device.occur_runs ..) d
  have hinner : e.inner = d2.inner := by
    rw [he]
    split
    · rfl
    · exact (forList_inner gone (fun _ d => d.occur n.val 3 t t 0#14) (fun _ _ => Device.occur_inner ..) _).trans (Device.raise_inner ..)
  have hchans : e.chans = d2.chans := congrArg (·.chans) hinner
  have h1 : twf ChanRun.init d1.chans = true := Device.setChan_wf hc _ _
  obtain ⟨a, b, z, hz, hzt⟩ := ChanRun.reported_eq gone t (d1.chan n.val)
  have hd1 : d1.chan n.val = _ := (Device.setChan_chan hc n.val _ n.val).trans (if_pos rfl)
  refine ⟨hchans ▸ Device.setChan_wf h1 _ _, congrArg (fun d : Device => { d with chans := [] }) hinner, fun k hk => ?_,
    ⟨a, b, z, ?_, hzt⟩, fun hne => ?_⟩
  · calc e.chan k = d2.chan k := congrArg (tget ChanRun.init · k) hchans
      _ = d1.chan k := tget_tmod_of_ne h1 n.val _ k hk
      _ = d.chan k := (Device.setChan_chan hc n.val _ k).trans (if_neg hk)
  · calc e.chan n.val = d2.chan n.val := congrArg (tget ChanRun.init · n.val) hchans
      _ = (d1.chan n.val).reported gone t := tget_tmod_same h1 n.val _
      _ = _ := by rw [hz, hd1]; rfl
  · have hsome : gone.isEmpty = false := List.isEmpty_eq_false_iff.mpr hne
    rw [he, if_neg (hsome ▸ Bool.false_ne_true)]
    exact (forList_grows gone (k := fun _ d => d.occur n.val 3 t t 0#14) (fun _ _ => Device.occur_runs ..) _).bits _ _
      (Device.raise_bit (shepBits n).2.2 _)

/-- With a class that does not invalidate, and no detector asserted, nothing holds an open episode. -/
theorem ChanRun.mem_loose {c : ChanRun} (hclass : badClass c.cls = false) (hnone : c.asserted = []) {e : Episode} :
    e ∈ c.loose ↔ e ∈ c.episodes ∧ e.to_.isNone = true := by
  have hfree : (e.det.any fun x => c.asserted.contains x) = false := by rw [hnone]; cases e.det <;> rfl
  have hheld : e.held c.cls c.where_ = false := by rw [Episode.held, hclass, Bool.false_and]
  rw [ChanRun.loose, List.mem_filter, hfree, hheld, Bool.not_false, Bool.and_true, Bool.and_true]

theorem ChanRun.settled_closed {c : ChanRun} (hclass : badClass c.cls = false) (hnone : c.asserted = []) (t : Nat) {e : Episode}
    (he : e ∈ c.settled t) : e.to_.isSome = true := by
  obtain ⟨hmem, -⟩ := List.mem_filter.mp he
  obtain ⟨y, hy, rfl⟩ := List.mem_map.mp hmem
  split
  · rfl
  · next hkept =>
    rw [← Option.not_isNone, Bool.not_eq_true']
    exact Bool.eq_false_iff.mpr fun hopen => hkept (List.contains_iff_mem.mpr ((ChanRun.mem_loose hclass hnone).mpr ⟨hy, hopen⟩))

/-- What a release leaves: episodes that nothing holds are closed, and an invalidating class calls for an urgent check. -/
theorem Device.releaseDetector_spec (hc : twf ChanRun.init d.chans = true) (hg : twf GroupRun.init d.groups = true) (n : Fin 128) (x : Detector)
    (t : Nat) :
    let e := d.releaseDetector n.val x t
    let c := d.chan n.val
    let v := e.chan n.val
    let g := n.val / 4
    e.outerFw = d.outerFw ∧ (∀ k, k ≠ g → e.group k = d.group k) ∧ v.asserted = c.asserted.erase x ∧ v.cls = c.cls ∧
      (∀ k, k ≠ n.val → e.chan k = d.chan k) ∧ (badClass c.cls = false → e.group g = d.group g) ∧
      (badClass c.cls = false → c.asserted = [x] → (∀ y, y ∈ v.episodes → y.to_.isSome = true) ∧
        ((c.episodes.any fun y => y.to_.isNone) = true → v.endT = t ∧ (e.evt (evShep (n.val / 16))).bits.getLsbD 19 = true)) ∧
      (badClass c.cls = true → ((d.group g).check.all fun k => !k.urgent) = true → (e.group g).urgent = true) := by
  obtain ⟨e, he⟩ : ∃ e, e = d.releaseDetector n.val x t := ⟨_, rfl⟩
  intro e' c v g
  rw [show v = e.chan n.val by rw [he], show e' = e from he.symm]
  let d1 := d.setChan n.val fun c => { c with asserted := c.asserted.erase x }
  have h1 : twf ChanRun.init d1.chans = true := Device.setChan_wf hc _ _
  have hd1 : d1.chan n.val = _ := (Device.setChan_chan hc n.val _ n.val).trans (if_pos rfl)
  obtain ⟨hw2, hinner, hothers, ⟨a, b, z, hown, hz⟩, hcleared⟩ := Device.closeEpisodes_spec h1 n t
  let d2 := d1.closeEpisodes n.val t
  have hchan (k : Nat) (hk : k ≠ n.val) : d2.chan k = d.chan k := (hothers k hk).trans ((Device.setChan_chan hc n.val _ k).trans (if_neg hk))
  have hgroups : d2.groups = d.groups := congrArg (·.groups) hinner
  have hgroup (k : Nat) : d2.group k = d.group k := congrArg (tget GroupRun.init · k) hgroups
  have houter : d2.outerFw = d.outerFw := congrArg (fun d : Device => { d with groups := [] }) hinner
  rw [hd1] at hown hz hcleared
  have hclass : (d2.chan n.val).cls = c.cls := congrArg (·.cls) hown
  have he2 : e = if badClass (d2.chan n.val).cls then d2.urgentAfter (n.val / 4) t else d2 := he
  rw [hclass] at he2
  cases hbad : badClass c.cls with
  | true =>
    obtain ⟨y, hy, hkeep, hurgent⟩ := Device.urgentAfter_spec (d := d2) (hgroups ▸ hg) g t
    rw [hbad, if_pos rfl, hy] at he2
    rw [he2]
    refine ⟨houter, fun k hk => (hkeep k hk).trans (hgroup k), congrArg (·.asserted) hown, hclass, hchan, nofun, nofun, fun _ hall => ?_⟩
    exact hurgent (by rw [hgroup]; exact hall)
  | false =>
    rw [hbad, if_neg Bool.false_ne_true] at he2
    rw [he2]
    refine ⟨houter, fun k _ => hgroup k, congrArg (·.asserted) hown, hclass, hchan, fun _ => hgroup g, fun _ hone => ?_, nofun⟩
    have hnone : c.asserted.erase x = [] := by rw [hone, List.erase_cons_head]
    refine ⟨fun y hy => ?_, fun hany => ?_⟩
    · exact ChanRun.settled_closed (c := { c with asserted := c.asserted.erase x }) hbad hnone t
        ((congrArg (y ∈ ·.episodes) hown).mp hy)
    · obtain ⟨y, hy, hopen⟩ := List.any_eq_true.mp hany
      have hne : ({ c with asserted := c.asserted.erase x } : ChanRun).loose ≠ [] :=
        List.ne_nil_of_mem ((ChanRun.mem_loose (c := { c with asserted := c.asserted.erase x }) hbad hnone).mpr ⟨hy, hopen⟩)
      exact ⟨(congrArg (·.endT) hown).trans (hz hne), hcleared hne⟩

end detect

/-- Settles O33: the detection's episode and its urgent check, and what the release ends. -/
theorem fastDetectionsOpenEpisodes : Obligations.FastDetectionsOpenEpisodes := by
  unfold Obligations.FastDetectionsOpenEpisodes
  intro s ch x t env hc hg c g same
  let d := s.dev.tickTo t
  have hclock : { d with clk := s.dev.clk } = s.dev := by rw [show d = _ from Device.tickTo_eq ..]
  have hdc : twf ChanRun.init d.chans = true := by rw [show d.chans = _ from Device.tickTo_chans ..]; exact hc
  have hdg : twf GroupRun.init d.groups = true := (congrArg (fun d : Device => twf GroupRun.init d.groups) hclock).trans hg
  have hchan (k : Nat) : d.chan k = s.dev.chan k := Device.tickTo_chan ..
  have hgroup (k : Nat) : d.group k = s.dev.group k := congrArg (tget GroupRun.init · k) (Device.tickTo_groups ..)
  have hlag : d.lagOf x = s.dev.lagOf x :=
    (show d.lagOf x = { d with clk := s.dev.clk }.lagOf x from rfl).trans (congrArg (Device.lagOf x) hclock)
  have hsame {e : Device} (h : e.outerFw = d.outerFw) (hk : ∀ k, k ≠ g → e.group k = d.group k) : same { s with dev := e } :=
    ⟨⟨rfl, rfl⟩, (congrArg (·.fw) h).trans (congrArg (·.fw) hclock), (congrArg (·.regs) h).trans (congrArg (·.regs) hclock),
      (congrArg (·.pw) h).trans (congrArg (·.pw) hclock), (congrArg (·.points) h).trans (congrArg (·.points) hclock),
      (congrArg (·.nv) h).trans (congrArg (·.nv) hclock), fun k hne => (hk k hne).trans (hgroup k)⟩
  refine ⟨fun hfire => ⟨_, if_pos hfire, ?_⟩, fun hrel => ⟨_, if_pos hrel, ?_⟩⟩
  · have h := Device.fastDetect_spec hdc hdg ch x t
    simp only [hchan, hgroup, hlag] at h
    obtain ⟨houter, hgroups, hrest⟩ := h
    exact ⟨hsame houter fun k hk => (hgroups k hk).trans (hgroup k).symm, hrest⟩
  · have h := Device.releaseDetector_spec hdc hdg ch x t
    simp only [hchan, hgroup] at h
    obtain ⟨houter, hgroups, hrest⟩ := h
    exact ⟨hsame houter fun k hk => (hgroups k hk).trans (hgroup k).symm, hrest⟩

end Sys2Proof.Machine
end

section
namespace Sys2Proof.Machine

/-! O34: two checks of a group that wait for the same phase. -/

/-- Group 0 with a check whose dwell has ended with three phases still to come in, and the next one, which waits for its first phase. -/
def overtaking : State :=
  { State.reset with
    dev := { State.reset.dev with
      groups := [(0, { GroupRun.init with check := some ⟨6000000, false, 0, [0], []⟩, ended := some ⟨0, false, 1, [0], []⟩ })] } }

/-- The measurements of the younger check's first phase. -/
def firstPhase : List PhaseMeas := [⟨0, (0#32, 0#32), (0#32, 0#32)⟩]

/-- The group once they have come in. -/
def overtaken : Device := (overtaking.dev.tickTo 7134000).checkPhase 0 ⟨6000000, false, 0, [0], []⟩ firstPhase

/-- The next measurements of the second phase are still those of the older check. -/
theorem overtaken_inPhase : (overtaken.group 0).inPhase 1 = some ⟨0, false, 1, [0], []⟩ := by decide +kernel

/-- Refutes O34: where an ended check waits for the phase that the running one comes to, it comes first. -/
theorem not_checksMeasureAndClassify : ¬ Obligations.ChecksMeasureAndClassify := by
  unfold Obligations.ChecksMeasureAndClassify
  intro h
  obtain ⟨hphase, -⟩ := h.2 overtaking 0 ⟨6000000, false, 0, [0], []⟩ (by decide) (by decide) (by decide)
  obtain ⟨u, hu, -, hnext, -⟩ := hphase 0 firstPhase (by decide) (by decide)
  have hexec : exec (.checkPhase 0 0 firstPhase) overtaking = .next { overtaking with dev := overtaken } := rfl
  obtain rfl : { overtaking with dev := overtaken } = u := Host.Outcome.next.inj (hexec.symm.trans hu)
  exact absurd (overtaken_inPhase.symm.trans hnext) (by decide)

end Sys2Proof.Machine
end

section
namespace Sys2Proof.Machine

/-! O30 and O36: in HEARTH no cart is formed of an instant since the mode began (R234, R406), so that none takes a SEQUENCE. -/

/-! ### A stream's cart -/

/-- In HEARTH since tick 0, with a cart of point 0 that is open since tick 0. -/
def cartInHearth : State :=
  { State.reset with
    dev := { State.reset.dev with
      pw := { State.reset.dev.pw with mode := .hearth, modeSince := 0 }
      port := { PortSt.reset with open_ := [(0, ⟨0, 0, 0, 0#16, 0#14, 1, leBytes 12 0⟩)] } } }

/-- The device once the cart is closed. -/
def cartShut : Device := (cartInHearth.dev.tickTo 3000000).shut 0

theorem cartShut_seqs : cartShut.port.seqs ≠ tbump cartInHearth.dev.port.seqs 0 := by decide +kernel

/-- Refutes O30: a stream's cart that FILL_TO closes in HEARTH is not formed, and takes no SEQUENCE. -/
theorem not_cartsCloseAndLeave : ¬ Obligations.CartsCloseAndLeave := by
  unfold Obligations.CartsCloseAndLeave
  intro h
  obtain ⟨hclose, -⟩ := h cartInHearth 0 3000000 []
  obtain ⟨u, hu, -, -, -, hseqs, -⟩ := hclose ⟨0, 0, 0, 0#16, 0#14, 1, leBytes 12 0⟩ (by decide) (by decide +kernel)
  have hexec : exec (.cartFillTimeout 0 3000000) cartInHearth = .next { cartInHearth with dev := cartShut } := by
    have hopen : tfind cartInHearth.dev.port.open_ 0 = some ⟨0, 0, 0, 0#16, 0#14, 1, leBytes 12 0⟩ := by decide
    change execCartFillTimeout 0 3000000 cartInHearth = _
    unfold execCartFillTimeout
    rw [hopen]
    dsimp only
    exact if_pos (by decide +kernel)
  obtain rfl : { cartInHearth with dev := cartShut } = u := Host.Outcome.next.inj (hexec.symm.trans hu)
  exact cartShut_seqs (hseqs (.inl (by decide)))

/-! ### A record's cart -/

/-- Unit 0 watches a pin, and asks for a TRIGGER cart. -/
def cartUnit : UnitCfg :=
  { enable := true, oneshot := false, skipSettle := false, type := 7, sel := 2, src := 0, word := 0, a := 0#32, b := 0#32, m := 0, p1 := 0,
    p2 := 0, holdoff := 0, seqmode := 0, seqin := 0, seqn := 0, seqt := 0, rgrp := 0, act := 1, outpins := 0, region := 0, outDelay := 0,
    outWidth := 0, bcId := 0, bcDest := 0 }

/-- A firing of unit 0 at tick 96, and the record that holds it. -/
def pinFiring : Firing := ⟨0, 7, 256 * 96, 96, 1#32, 0#14⟩
def pinRecord : OpenRec := ⟨0, 2, 96, 192, [pinFiring], false, false⟩

/-- In HEARTH since tick 0, with that record open. -/
def recordInHearth : State :=
  { State.reset with
    dev := { State.reset.dev with
      pw := { State.reset.dev.pw with mode := .hearth, modeSince := 0 }
      fw := { State.reset.dev.fw with eff := { State.reset.dev.fw.eff with units := [(0, cartUnit)] } }
      trig := { Trig.reset with recs := [pinRecord] } } }

/-- The device once the record is closed. -/
def recordClosed : Device := (recordInHearth.dev.tickTo 192).closeRecord pinRecord

theorem recordClosed_seqs : recordClosed.port.seqs ≠ tbump recordInHearth.dev.port.seqs (0x700 + pinFiring.unit) := by decide +kernel

/-- Refutes O36: the TRIGGER cart of a record that closes in HEARTH is not formed, and takes no SEQUENCE. -/
theorem not_recordsCloseOnce : ¬ Obligations.RecordsCloseOnce := by
  unfold Obligations.RecordsCloseOnce
  intro h
  obtain ⟨u, hu, -, -, -, -, -, -, hseqs, -⟩ := h recordInHearth 0 2 pinRecord pinFiring (by decide) (by decide +kernel) (by decide)
  have hexec : exec (.recordClose 0 2) recordInHearth = .next { recordInHearth with dev := recordClosed } := by
    have hfind : recordInHearth.dev.trig.recs.find? (fun r => r.grp == 0 && r.key == 2) = some pinRecord := by decide
    change execRecordClose 0 2 recordInHearth = _
    unfold execRecordClose
    rw [show ((0 : Fin 8).val) = 0 from rfl, hfind]
    dsimp only
    exact if_pos (by decide +kernel)
  obtain rfl : { recordInHearth with dev := recordClosed } = u := Host.Outcome.next.inj (hexec.symm.trans hu)
  refine recordClosed_seqs (hseqs (by decide) ⟨pinFiring, by decide, cartUnit, ?_, by decide⟩)
  decide +kernel

end Sys2Proof.Machine
end

section
namespace Sys2Proof.Machine

/-! O37: Bells. -/

/-! ### Completions -/

section complete
variable (w : Waiter) (st : BitVec 16) (p : List Byte) (d : Device) (e : Option Nat)

/-- A completion changes sessions alone, outside the data path. -/
theorem Device.complete_inner : ∃ l, (d.complete w st p e).inner = { d.inner with fw := { d.fw with sessions := l } } := by
  unfold Device.complete
  extract_lets c
  split
  · exact ⟨d.fw.sessions, rfl⟩
  · rename_i s _
    split
    · exact ⟨_, rfl⟩
    · split
      · exact ⟨_, (Device.sendMessage_inner ..).trans rfl⟩
      · exact ⟨_, rfl⟩

theorem Device.completeOpt_inner (w : Option Waiter) :
    ∃ l, (d.completeOpt w st p).inner = { d.inner with fw := { d.fw with sessions := l } } := by
  cases w with
  | none => exact ⟨d.fw.sessions, rfl⟩
  | some w => exact d.complete_inner w st p none

/-- The completion of a command of a mailbox session joins its queue (R337). -/
theorem Device.complete_queued {w : Waiter} {d : Device} {y : Session} (hy : d.session? w.session = some y) (hserial : y.serial = w.serial)
    (ht : y.transport = 0) : (d.complete w st p e).session? w.session =
      some { y with running := y.running - 1, queue := y.queue ++ [⟨st, w.tag, e.getD d.epoch, w.command, w.session, w.txn, p⟩] } := by
  have hmine : (d.session? w.session).filter (fun s => s.serial == w.serial) = some y := by
    rw [hy, Option.filter_some, if_pos (beq_iff_eq.mpr hserial)]
  unfold Device.complete
  extract_lets c
  rw [hmine]
  dsimp only
  split
  · exact Device.session?_setSession (f := fun s => { s with running := s.running - 1, queue := s.queue ++ [c] }) (fun _ => rfl) hy
  · next hne => exact (hne ht).elim

end complete

/-! ### What carts and detections leave of the Bell -/

/-- The Bell, the event registers, and the count of Bells that were dropped. -/
def Device.belfry (d : Device) : Bell × Tbl Evt × Word := (d.bell, d.evts, d.cnt.bellsDropped)

section belfry
variable (d : Device)

theorem Device.toPort_belfry (x : ReadyCart) : (d.toPort x).belfry = d.belfry := by
  unfold Device.toPort
  split <;> rfl

theorem Device.toFifo_belfry (c : Cart) : (d.toFifo c).belfry = d.belfry := by
  unfold Device.toFifo
  dsimp only
  split <;> rfl

theorem Device.formCartAt_belfry (at_ type stream time : Nat) (tag : BitVec 16) (flags : BitVec 14) (count : Nat) (words : List Word)
    (bound dests : Nat) : (d.formCartAt at_ type stream time tag flags count words bound dests).belfry = d.belfry := by
  have hite (c : Prop) [Decidable c] (f : Device → Device) (hf : ∀ d, (f d).belfry = d.belfry) (d : Device) :
      (if c then f d else d).belfry = d.belfry := by
    split
    · exact hf d
    · rfl
  unfold Device.formCartAt
  extract_lets flags' c p d1 d2 d3
  split
  · rfl
  · have h2 : d2.belfry = d1.belfry := hite _ _ (fun d => d.toPort_belfry _) d1
    have h3 : d3.belfry = d2.belfry := hite _ _ (fun d => d.toFifo_belfry _) d2
    exact (hite _ (Device.toFabric ⟨bound, c⟩) (fun _ => rfl) d3).trans (h3.trans h2)

theorem Device.formCart_belfry (type stream time : Nat) (tag : BitVec 16) (flags : BitVec 14) (count : Nat) (words : List Word)
    (bound dests : Nat) : (d.formCart type stream time tag flags count words bound dests).belfry = d.belfry := Device.formCartAt_belfry ..

theorem Device.readCart_belfry (r : Nat) (x : Readout) : (d.readCart r x).belfry = d.belfry := by
  have hcount (k : Nat) : (if k = 0 then d else d.countRegion r cntSkipped k).belfry = d.belfry := by split <;> rfl
  unfold Device.readCart
  generalize d.readRest r x = rest
  cases rest with
  | nil => exact hcount _
  | cons e l => exact (Device.formCart_belfry ..).trans (hcount _)

theorem Device.pumpRegion_belfry (r now n : Nat) : (Device.pumpRegion r now n d).belfry = d.belfry := by
  induction n generalizing d with
  | zero => rfl
  | succ n ih =>
    unfold Device.pumpRegion
    split
    · rfl
    · split
      · rfl
      · exact (ih _).trans (Device.readCart_belfry ..)

theorem Device.pumpPaced_belfry (now : Nat) (l : List Paced) : (Device.pumpPaced now l d).belfry = d.belfry := by
  induction l generalizing d with
  | nil => rfl
  | cons p l ih =>
    unfold Device.pumpPaced
    split
    · exact (ih _).trans (Device.formCart_belfry ..)
    · rfl

theorem Device.pump_belfry (now : Nat) : (d.pump now).belfry = d.belfry :=
  (Device.pumpPaced_belfry ..).trans (forList_keeps (g := Device.belfry) d.readouts (f := fun x d => Device.pumpRegion x.1 now (x.2.upto - x.2.next) d)
    (fun (x : Nat × Readout) d => Device.pumpRegion_belfry d x.1 now _) d)

theorem Device.setUnitAt_belfry (u t : Nat) (r : UnitRun) : (d.setUnitAt u t r).belfry = d.belfry := by
  unfold Device.setUnitAt
  split <;> rfl

theorem Device.fire_belfry (u : Nat) (x : UnitCfg) (late : Option Nat) (mark forced : Bool) (det : Detection) :
    (d.fire u x late mark forced det).belfry = d.belfry := by
  unfold Device.fire
  extract_lets d1 at_ r d2 c d3 f key
  have h2 : d2.belfry = d.belfry := Device.setUnitAt_belfry ..
  have h3 : d3.belfry = d2.belfry := forList_keeps (g := Device.belfry) _ (fun _ _ => Device.setUnitAt_belfry ..) d2
  refine Eq.trans ?_ (h3.trans h2)
  split <;> rfl

theorem Device.detect_belfry (u : Nat) (x : UnitCfg) (det : Detection) (late : Option Nat) (mark : Bool) :
    (d.detect u x det late mark).belfry = d.belfry := by
  unfold Device.detect
  extract_lets at_ d1 r q d2
  have h2 : d2.belfry = d.belfry := Device.setUnitAt_belfry ..
  split
  · rfl
  · split
    · rfl
    · split
      · exact (Device.fire_belfry ..).trans h2
      · exact h2

theorem Device.sendMessage_evts (v : Via) (bytes : List Byte) : (d.sendMessage v bytes).evts = d.evts := by
  unfold Device.sendMessage
  split
  · rfl
  · split
    · exact congrArg (·.2.1) (Device.formCart_belfry ..)
    · rfl
  · exact forList_keeps (g := Device.evts) (f := fun k d => d.countPort k fcTx) _ (fun _ _ => rfl) d

theorem Device.completeOpt_evts (w : Option Waiter) (st : BitVec 16) (p : List Byte) : (d.completeOpt w st p).evts = d.evts := by
  cases w with
  | none => rfl
  | some w =>
    change (d.complete w st p).evts = d.evts
    unfold Device.complete
    extract_lets c
    split
    · rfl
    · split
      · rfl
      · split
        · exact Device.sendMessage_evts ..
        · rfl

end belfry

/-! ### A Bell at its tick -/

/-- Whether a Bell is latched, in the statement's words (R318). -/
theorem Bell.latches_eq (b : Bell) (x : BellDue) :
    b.latches x = !((b.lastLatched.any fun l => decide (x.tick < l + 3000)) ||
      (decide (x.sources &&& srcFabric = 0#5) && b.due.any fun y =>
        decide (y.sources &&& srcFabric ≠ 0#5) && decide (x.tick < y.tick) && decide (y.tick < x.tick + 3000))) := by
  have hlocal (p : Prop) [Decidable p] (q : Bool) : (decide (¬p) || !q) = !(decide p && q) := by by_cases h : p <;> simp [h]
  have hother := hlocal (x.sources &&& srcFabric = 0#5) (b.due.any fun y =>
    decide (y.sources &&& srcFabric ≠ 0#5) && decide (x.tick < y.tick) && decide (y.tick < x.tick + 3000))
  unfold Bell.latches
  rw [Bool.not_or]
  cases b.lastLatched with
  | none => exact congrArg (true && ·) hother
  | some t =>
    have hlast : decide (t + bellSpacing ≤ x.tick) = !decide (x.tick < t + 3000) := by
      rw [← decide_not]
      exact decide_eq_decide.mpr Nat.not_lt.symm
    exact congrArg₂ (· && ·) hlast hother

theorem Bell.switch_some {b : Bell} {w : Snapshot} (h : b.idleHalf = some w) : b.switch = { b with window := some w, idleHalf := none } := by
  rw [Bell.switch, h]

theorem busUp_spec (t : Nat) : busUp t % 16 = 0 ∧ t ≤ busUp t ∧ busUp t < t + 16 := by
  unfold busUp
  omega

section ring
variable (x : BellDue) (d : Device)

theorem Device.fireBellUnits_belfry : (d.fireBellUnits x).belfry = d.belfry := by
  refine forList_keeps (g := Device.belfry) _ (fun (y : Nat × UnitCfg) d => ?_) d
  dsimp only
  split
  · rfl
  · exact Device.detect_belfry ..

/-- The pulse of BELL_OUT is all that a Bell's units and its pulse change of the Bell. -/
theorem Device.rung_bell : ∃ n, ((d.fireBellUnits x).pulseBell x).bell = { d.bell with outUntil := n } ∧
    ((d.fireBellUnits x).pulseBell x).cnt.bellsDropped = d.cnt.bellsDropped ∧
    ((x.sources.setWidth 4) &&& d.bell.outSrc ≠ 0#4 → x.tick + 3000 ≤ n) := by
  have hfire := Device.fireBellUnits_belfry x d
  have hbell : (d.fireBellUnits x).bell = d.bell := congrArg (·.1) hfire
  have hcnt : (d.fireBellUnits x).cnt.bellsDropped = d.cnt.bellsDropped := congrArg (·.2.2) hfire
  unfold Device.pulseBell
  rw [hbell]
  split
  · next h => exact ⟨d.bell.outUntil, hbell, hcnt, fun hne => absurd h hne⟩
  · exact ⟨_, rfl, hcnt, fun _ => Nat.le_max_right ..⟩

/-- A Bell is latched, or dropped and counted. -/
theorem Device.latchBell_spec : let e := d.latchBell x
    e.bell.count = d.bell.count ∧ e.bell.due = d.bell.due ∧ e.bell.outSrc = d.bell.outSrc ∧
      (d.bell.latches x = true → e.bell.drops = d.bell.drops ∧ e.bell.lastLatched = some x.tick ∧
        ∃ w, e.bell.idleHalf = some w ∧ w.time = x.tick ∧ w.sources = x.sources ∧ w.count = d.bell.count) ∧
      (d.bell.latches x = false → e.bell.drops = d.bell.drops + 1#8 ∧ e.cnt.bellsDropped = d.cnt.bellsDropped + 1#32 ∧
        e.bell.idleHalf = d.bell.idleHalf ∧ e.bell.lastLatched = d.bell.lastLatched) := by
  intro e
  cases h : d.bell.latches x with
  | true =>
    rw [show e = _ from if_pos h]
    unfold Bell.switch
    split
    · exact ⟨rfl, rfl, rfl, fun _ => ⟨rfl, rfl, _, rfl, rfl, rfl, rfl⟩, nofun⟩
    · exact ⟨rfl, rfl, rfl, fun _ => ⟨rfl, rfl, _, rfl, rfl, rfl, rfl⟩, nofun⟩
  | false =>
    rw [show e = _ from if_neg (h ▸ Bool.false_ne_true)]
    exact ⟨rfl, rfl, rfl, nofun, fun _ => ⟨rfl, rfl, rfl, rfl⟩⟩

/-- A Bell at its tick is counted, latched or dropped, and drives BELL_OUT. -/
theorem Device.ringAt_spec : let b := d.bell
    let near := (b.lastLatched.any fun l => decide (x.tick < l + 3000)) ||
      (decide (x.sources &&& srcFabric = 0#5) && (b.due.erase x).any fun y =>
        decide (y.sources &&& srcFabric ≠ 0#5) && decide (x.tick < y.tick) && decide (y.tick < x.tick + 3000))
    let e := d.ringAt x
    e.bell.count = b.count + 1#32 ∧ e.bell.due = b.due.erase x ∧
      (near = false → e.bell.drops = b.drops ∧ e.bell.lastLatched = some x.tick ∧
        ∃ w, e.bell.idleHalf = some w ∧ w.time = x.tick ∧ w.sources = x.sources ∧ w.count = b.count + 1#32) ∧
      (near = true → e.bell.drops = b.drops + 1#8 ∧ e.cnt.bellsDropped = d.cnt.bellsDropped + 1#32 ∧
        e.bell.idleHalf = b.idleHalf ∧ e.bell.lastLatched = b.lastLatched) ∧
      (x.sources ≠ srcSnap → (x.sources.setWidth 4) &&& b.outSrc ≠ 0#4 → x.tick + 3000 ≤ e.bell.outUntil) := by
  intro b near e
  have hpump := Device.pump_belfry d d.clk.time
  have hbell : (d.pump d.clk.time).bell = d.bell := congrArg (·.1) hpump
  have hcnt : (d.pump d.clk.time).cnt.bellsDropped = d.cnt.bellsDropped := congrArg (·.2.2) hpump
  let e2 : Device := { d.pump d.clk.time with bell := { b with due := b.due.erase x, count := b.count + 1#32 } }
  obtain ⟨n, hn, hdropped, hout⟩ : ∃ n, e.bell = { (e2.latchBell x).bell with outUntil := n } ∧
      e.cnt.bellsDropped = (e2.latchBell x).cnt.bellsDropped ∧
      (x.sources ≠ srcSnap → (x.sources.setWidth 4) &&& (e2.latchBell x).bell.outSrc ≠ 0#4 → x.tick + 3000 ≤ n) := by
    have he : e = if x.sources = srcSnap then e2.latchBell x else ((e2.latchBell x).fireBellUnits x).pulseBell x := by
      change d.ringAt x = _
      unfold Device.ringAt
      dsimp only
      rw [hbell]
    rw [he]
    split
    · next h => exact ⟨(e2.latchBell x).bell.outUntil, rfl, rfl, fun hne => absurd h hne⟩
    · obtain ⟨n, h1, h2, h3⟩ := (e2.latchBell x).rung_bell x
      exact ⟨n, h1, h2, fun _ => h3⟩
  obtain ⟨hcount, hdue, hsrc, hlatched, hnot⟩ := e2.latchBell_spec x
  have hlatches : e2.bell.latches x = !near := Bell.latches_eq e2.bell x
  rw [hlatches] at hlatched hnot
  rw [hn, hdropped]
  refine ⟨hcount, hdue, fun h => hlatched (by rw [h]; rfl), fun h => ?_, fun hs ho => hout hs (hsrc ▸ ho)⟩
  obtain ⟨hdrops, hd, hidle, hlast⟩ := hnot (by rw [h]; rfl)
  exact ⟨hdrops, hd.trans (congrArg (· + 1#32) hcnt), hidle, hlast⟩

end ring

/-! ### Acknowledgements -/

theorem Device.ctlRx_belfry (src : Nat) (d : Device) : (d.ctlRx src).bell = d.bell ∧ (d.ctlRx src).evts = d.evts ∧ (d.ctlRx src).fab = d.fab := by
  unfold Device.ctlRx Device.countAt
  split <;> exact ⟨rfl, rfl, rfl⟩

theorem Device.send_belfry (x : OutFrame) (d : Device) : (d.send x).bell = d.bell ∧ (d.send x).evts = d.evts :=
  ⟨forList_keeps (g := Device.bell) (f := fun k d => d.countPort k fcTx) _ (fun _ _ => rfl) d,
    forList_keeps (g := Device.evts) (f := fun k d => d.countPort k fcTx) _ (fun _ _ => rfl) d⟩

theorem Device.completeOpt_bell (w : Option Waiter) (st : BitVec 16) (p : List Byte) (d : Device) : (d.completeOpt w st p).bell = d.bell :=
  congrArg (·.bell) (Device.completeOpt_grows w st p d).same

/-- An acknowledgement that leaves none missing ends the Bell with OK. -/
theorem Device.endSched_spec {x : BellSched} (h : x.missing = []) (d : Device) :
    let e := d.endSched x
    e.bell = { d.bell with sched := d.bell.sched.erase x } ∧ e.evts = d.evts ∧
      (∃ l, e.inner = { d.inner with fw := { d.fw with sessions := l } }) ∧
      ∀ w y, x.waiter = some w → d.session? w.session = some y → y.serial = w.serial → y.transport = 0 →
        ∃ z c, e.session? w.session = some z ∧ z.queue = y.queue ++ [c] ∧ c.status = stOk ∧ c.tag = w.tag ∧ c.payload = [] := by
  let d1 : Device := { d with bell := { d.bell with sched := d.bell.sched.erase x } }
  have he : d.endSched x = d1.completeOpt x.waiter stOk [] := by
    unfold Device.endSched
    dsimp only
    rw [if_pos h, h, List.flatMap_nil]
  intro e
  rw [show e = _ from he]
  refine ⟨Device.completeOpt_bell .., Device.completeOpt_evts .., d1.completeOpt_inner stOk [] x.waiter, fun w y hw hy hs ht => ?_⟩
  rw [hw]
  exact ⟨_, _, Device.complete_queued stOk [] none (d := d1) hy hs ht, rfl, rfl, rfl, rfl⟩

/-- Settles O37: each Bell at its tick, and the acknowledgements of the fabric's. -/
theorem bellsAreCountedLatchedOrDropped : Obligations.BellsAreCountedLatchedOrDropped := by
  unfold Obligations.BellsAreCountedLatchedOrDropped
  refine ⟨fun s rising tick x => ?_, fun s src tick => ?_⟩
  · intro b same
    have hsame {d : Device} (h : d.inner = (s.dev.tickTo tick).inner) : same { s with dev := d } := by
      obtain ⟨-, hpw, hregs, hfw, hchans, hpoints, -, -, hnv, -, -⟩ := Device.inner_of h
      exact ⟨⟨rfl, rfl⟩, hfw.trans (Device.tickTo_fw ..), hregs.trans (Device.tickTo_regs ..), hpw.trans (Device.tickTo_pw ..),
        hchans.trans (Device.tickTo_chans ..), hpoints.trans (Device.tickTo_points ..), hnv.trans (Device.tickTo_nv ..)⟩
    refine ⟨fun hc hid hen hr => ?_, fun hfind hc hin => ?_, fun w hw => ?_⟩
    · have hedge : (s.dev.clk.counting && s.dev.pw.idReady && s.dev.bell.inEn && (rising != s.dev.bell.inEdge)) = true := by
        rw [hc, hid, show s.dev.bell.inEn = true from hen, hr]
        exact Bool.not_bne_self _
      obtain ⟨hmod, hle, hlt⟩ := busUp_spec (tick + 48)
      refine ⟨_, if_pos hedge, hsame rfl, ?_, Device.tickTo_evts .., busUp (tick + 48), hmod, hle, hlt, ?_⟩
      · exact congrArg (fun c : Counters => { c with bellInEdges := c.bellInEdges + 1#32 }) (Device.tickTo_cnt ..)
      · exact congrArg (fun b : Bell => { b with due := bellInsert ⟨busUp (tick + 48), srcBellIn⟩ b.due }) (Device.tickTo_bell ..)
    · have hx : x.tick = tick := by simpa using List.find?_some hfind
      have hexec : exec (.bellTick tick) s = .next { s with dev := (s.dev.tickTo tick).ringAt x } := by
        change execBellTick tick s = _
        unfold execBellTick
        rw [show s.dev.bell.due.find? (·.tick == tick) = some x from hfind]
        exact if_pos (by rw [hc, hin]; rfl)
      have hring := (s.dev.tickTo tick).ringAt_spec x
      simp only [Device.tickTo_bell, Device.tickTo_cnt, hx] at hring
      exact ⟨_, hexec, hsame (Device.ringAt_inner ..), hring⟩
    · change execHoldingWindowSwitch s = _
      unfold execHoldingWindowSwitch
      rw [show s.dev.bell.idleHalf = some w from hw]
      exact congrArg (fun c : Bell => Host.Outcome.next { s with dev := { s.dev with bell := c } }) (Bell.switch_some hw)
  · intro same
    obtain ⟨hbell, hevts, hfab⟩ := Device.ctlRx_belfry src s.dev
    have hrx := Device.ctlRx_inner src s.dev
    have hsame {d : Device} (l : List Session) (h : d.inner = { s.dev.inner with fw := { s.dev.fw with sessions := l } })
        (he : d.evts = s.dev.evts) : same { s with dev := d } :=
      ⟨⟨rfl, rfl⟩, congrArg (·.fw.eff) h, congrArg (·.fw.txns) h, congrArg (·.regs) h, congrArg (·.pw) h, congrArg (·.chans) h, he,
        congrArg (·.clk) h⟩
    refine ⟨fun ha ht => ?_, fun ha ht => ?_, fun x hfind => ?_⟩
    · obtain ⟨hsb, hse⟩ := Device.send_belfry (.bellAck src tick) ((s.dev.ctlRx src).ringBell tick srcFabric)
      refine ⟨_, (if_neg ha).trans (if_pos ht), hsame s.dev.fw.sessions ?_ (hse.trans hevts), hsb.trans ?_, (Device.send_out ..).trans ?_⟩
      · exact (Device.send_inner ..).trans hrx
      · exact congrArg (fun b : Bell => { b with due := bellInsert ⟨tick, srcFabric⟩ b.due }) hbell
      · exact congrArg (·.out ++ [.bellAck src tick]) hfab
    · exact ⟨_, (if_neg ha).trans (if_neg (Nat.not_lt.mpr ht)), hsame s.dev.fw.sessions hrx hevts, hbell, congrArg (·.out) hfab⟩
    · intro y l
      let d1 : Device := { s.dev.ctlRx src with bell := { (s.dev.ctlRx src).bell with
        sched := (s.dev.ctlRx src).bell.sched.map fun z => if z = x then y else z } }
      have hexec : exec (.fabricBellAck src tick) s = .next { s with dev := if y.done then d1.endSched y else d1 } := by
        change execFabricBellAck src tick s = _
        unfold execFabricBellAck
        rw [hfind]
        rfl
      have hd1 : d1.bell = { s.dev.bell with sched := l } :=
        congrArg (fun b : Bell => { b with sched := b.sched.map fun z => if z = x then y else z }) hbell
      have hfw : d1.fw = s.dev.fw := congrArg (·.fw) hrx
      refine ⟨fun hmiss => ?_, fun hmiss => ?_⟩
      · rw [if_neg (show ¬(y.done = true) from fun hd => hmiss (List.isEmpty_iff.mp hd))] at hexec
        exact ⟨_, hexec, hsame s.dev.fw.sessions hrx hevts, hd1, hfw⟩
      · rw [if_pos (show y.done = true from List.isEmpty_iff.mpr hmiss)] at hexec
        obtain ⟨hend, hee, ⟨m, hm⟩, htold⟩ := Device.endSched_spec hmiss d1
        refine ⟨_, hexec, hsame m (hm.trans ?_) (hee.trans hevts), hend.trans ?_, fun w z hw hz => ?_⟩
        · exact congrArg (fun d : Device => { d with fw := { d.fw with sessions := m } }) hrx
        · exact congrArg (fun b : Bell => { b with sched := b.sched.erase y }) hd1
        · exact htold w z hw (by rw [Device.session?, hfw]; exact hz)

end Sys2Proof.Machine
end

section
namespace Sys2Proof.Machine

/-! O38: lanes, markers and the return lane. -/

/-! ### Blocks -/

/-- The data port but for what is on its way on the lanes. -/
def PortSt.unsent (p : PortSt) : PortSt := { p with blocks := [], stripe := 0, row := [], scramble := [], carry := [], carryPtr := 0 }

section blocks
variable (p : PortSt)

theorem PortSt.dataBlock_unsent (lane : Nat) (w : BitVec 64) : (p.dataBlock lane w).unsent = p.unsent := by
  unfold PortSt.dataBlock
  split <;> rfl

theorem PortSt.controlBlock_unsent (lane : Nat) (b : List Byte) : (p.controlBlock lane b).unsent = p.unsent := by
  unfold PortSt.controlBlock
  split <;> rfl

theorem PortSt.stripeWord_unsent (w : BitVec 64) : (p.stripeWord w).unsent = p.unsent := by
  have hdata := p.dataBlock_unsent (p.physical p.row.length) w
  unfold PortSt.stripeWord
  extract_lets p1 row p2 p3
  have h2 : p2.unsent = p.unsent := hdata
  split
  · exact h2
  · have h3 : p3.unsent = p2.unsent := by
      change (if p2.parity then p2.dataBlock 8 (xorWords row) else p2).unsent = p2.unsent
      split
      · exact p2.dataBlock_unsent ..
      · rfl
    exact h3.trans h2

/-- A fold of steps that leave what a function shows shows it as it was. -/
theorem foldl_keeps {α β γ : Type} (g : α → γ) (f : α → β → α) (h : ∀ a b, g (f a b) = g a) (l : List β) (a : α) :
    g (l.foldl f a) = g a := by
  induction l generalizing a with
  | nil => rfl
  | cons b l ih => exact (ih (f a b)).trans (h a b)

theorem PortSt.sendMarker_unsent (ptr : Nat) : (p.sendMarker ptr).unsent = p.unsent := by
  unfold PortSt.sendMarker
  extract_lets lanes p1 p2
  have h1 : p1.unsent = p.unsent :=
    foldl_keeps PortSt.unsent (fun p l => p.controlBlock l (p.markerBytes l ptr)) (fun p l => p.controlBlock_unsent l _) lanes _
  split
  · exact h1
  · exact (foldl_keeps PortSt.unsent (fun p w => p.stripeWord w) (fun p w => p.stripeWord_unsent w) p1.carry p1).trans h1

end blocks

/-! ### Failures at a marker -/

section failures
variable (p : PortSt)

/-- What a failure at a marker changes: parity, the map and its generation. -/
theorem PortSt.moveLane_only (lane : Nat) : ∃ a g s, p.moveLane lane = { p with parity := a, mapGen := g, spareFor := s } := by
  unfold PortSt.moveLane
  split
  · exact ⟨_, _, _, rfl⟩
  · exact ⟨p.parity, p.mapGen, p.spareFor, rfl⟩

theorem PortSt.moveLanes_only (l : List Nat) : ∃ a g s, l.foldl PortSt.moveLane p = { p with parity := a, mapGen := g, spareFor := s } := by
  induction l generalizing p with
  | nil => exact ⟨p.parity, p.mapGen, p.spareFor, rfl⟩
  | cons x l ih =>
    obtain ⟨a, g, s, h⟩ := p.moveLane_only x
    obtain ⟨a', g', s', h'⟩ := ih (p.moveLane x)
    rw [List.foldl_cons, h', h]
    exact ⟨a', g', s', rfl⟩

/-- Once parity has stopped, a failure has no more to do. -/
theorem PortSt.moveLanes_spent (h : p.parity = false) (l : List Nat) : l.foldl PortSt.moveLane p = p := by
  induction l with
  | nil => rfl
  | cons x l ih => rw [List.foldl_cons, PortSt.moveLane, if_neg (fun hp => absurd (h.symm.trans hp.1) Bool.false_ne_true), ih]

end failures

/-! ### FORCE and reports -/

/-- A failure of a lane shows in FAILED and waits for the marker, and nothing else differs (R231). -/
theorem Device.failLane_only (lane : Nat) (d : Device) :
    ∃ a l, d.failLane lane = { d with port := { d.port with failed := a, failing := l } } := by
  unfold Device.failLane
  split
  · exact ⟨d.port.failed, d.port.failing, rfl⟩
  · exact ⟨_, _, rfl⟩

theorem Device.failLane_failed {lane : Nat} (d : Device) : (d.failLane lane).port.failed = d.port.failed ||| (1#9 <<< lane) := by
  unfold Device.failLane
  split
  · next h =>
    refine BitVec.eq_of_getLsbD_eq fun i hi => ?_
    rw [BitVec.getLsbD_or, ← BitVec.twoPow_eq, BitVec.getLsbD_twoPow]
    by_cases hl : lane = i
    · rw [← hl, h, Bool.true_or]
    · rw [decide_eq_false hl, Bool.and_false, Bool.or_false]
  · rfl

theorem Device.forcedLane_only (d : Device) :
    ∃ a l, d.forcedLane = { d with port := { d.port with failed := a, failing := l } } := by
  unfold Device.forcedLane
  split
  · exact d.failLane_only _
  · exact ⟨d.port.failed, d.port.failing, rfl⟩

/-- The lanes that a report names, of the first n, are failed (R233). -/
theorem Device.failLanes_only (n : Nat) (v : BitVec 16) (d : Device) :
    ∃ a l, forNat n (fun p d => if v.getLsbD p then d.failLane p else d) d = { d with port := { d.port with failed := a, failing := l } } ∧
      ∀ i, i < 9 → a.getLsbD i = (d.port.failed.getLsbD i || (decide (i < n) && v.getLsbD i)) := by
  induction n with
  | zero => exact ⟨d.port.failed, d.port.failing, rfl, fun i _ => by simp⟩
  | succ n ih =>
    obtain ⟨a, l, h, hbits⟩ := ih
    rw [forNat_succ, h]
    split
    · next hn =>
      have hfailed := Device.failLane_failed (lane := n) { d with port := { d.port with failed := a, failing := l } }
      obtain ⟨a', l', h'⟩ := Device.failLane_only n { d with port := { d.port with failed := a, failing := l } }
      rw [h'] at hfailed ⊢
      refine ⟨a', l', rfl, fun i hi => ?_⟩
      rw [show a' = a ||| (1#9 <<< n) from hfailed, BitVec.getLsbD_or, hbits i hi, ← BitVec.twoPow_eq, BitVec.getLsbD_twoPow, Bool.or_assoc]
      congr 1
      rcases Nat.lt_trichotomy i n with hlt | rfl | hgt
      · rw [decide_eq_false hlt.ne', Bool.and_false, Bool.or_false, decide_eq_true hlt, decide_eq_true (Nat.lt_succ_of_lt hlt)]
      · rw [decide_eq_true hi, decide_eq_true rfl, decide_eq_true (Nat.lt_succ_self i), hn, Bool.and_true, Bool.and_true, Bool.or_true]
      · rw [decide_eq_false hgt.ne, decide_eq_false (Nat.not_lt.mpr hgt.le), decide_eq_false (show ¬i < n + 1 by omega), Bool.and_false]
        rfl
    · next hn =>
      refine ⟨a, l, rfl, fun i hi => ?_⟩
      rw [hbits i hi]
      congr 1
      rcases Nat.lt_trichotomy i n with hlt | rfl | hgt
      · rw [decide_eq_true hlt, decide_eq_true (Nat.lt_succ_of_lt hlt)]
      · rw [Bool.eq_false_iff.mpr hn, Bool.and_false, Bool.and_false]
      · rw [decide_eq_false (Nat.not_lt.mpr hgt.le), decide_eq_false (show ¬i < n + 1 by omega)]

/-- What a HEALTH report does to the port (R233, R234). -/
theorem Device.health_spec (h : Health) (t : Nat) (d : Device) : ∃ q : PortSt, d.health h t = { d with port := q } ∧
    q.hostOk = (d.port.hostOk || d.healthGood h) ∧ q.hostGood = (if d.healthGood h then some t else d.port.hostGood) ∧
    (d.port.hostFailEn = false → q.failed = d.port.failed ∧ q.failing = d.port.failing) ∧
    (d.port.hostFailEn = true → q.failed = d.port.failed ||| h.fail.setWidth 9) ∧
    { q with hostOk := d.port.hostOk, hostGood := d.port.hostGood, failed := d.port.failed, failing := d.port.failing } = d.port := by
  obtain ⟨e, he, hok, hgood, hrest⟩ : ∃ e : PortSt, (if d.healthGood h then { d with port := { d.port with hostOk := true, hostGood := some t } } else d)
        = { d with port := e } ∧ e.hostOk = (d.port.hostOk || d.healthGood h) ∧
      e.hostGood = (if d.healthGood h then some t else d.port.hostGood) ∧
      { e with hostOk := d.port.hostOk, hostGood := d.port.hostGood } = d.port := by
    cases d.healthGood h with
    | true => exact ⟨_, rfl, (Bool.or_true _).symm, rfl, rfl⟩
    | false => exact ⟨d.port, rfl, (Bool.or_false _).symm, rfl, rfl⟩
  have hfailed : e.failed = d.port.failed := congrArg (·.failed) hrest
  have hfailing : e.failing = d.port.failing := congrArg (·.failing) hrest
  have hen : e.hostFailEn = d.port.hostFailEn := congrArg (·.hostFailEn) hrest
  obtain ⟨a, l, hall, hbits⟩ := Device.failLanes_only 9 h.fail { d with port := e }
  unfold Device.health
  dsimp only
  rw [he, hall, hen]
  split
  · next hon =>
    refine ⟨_, rfl, hok, hgood, fun hoff => absurd (hoff.symm.trans hon) Bool.false_ne_true, fun _ => ?_, ?_⟩
    · refine BitVec.eq_of_getLsbD_eq fun i hi => ?_
      rw [hbits i hi, BitVec.getLsbD_or, BitVec.getLsbD_setWidth, decide_eq_true hi]
      exact congrArg (fun v : BitVec 9 => v.getLsbD i || (true && h.fail.getLsbD i)) hfailed
    · exact congrArg (fun q : PortSt => { q with failed := d.port.failed, failing := d.port.failing }) hrest
  · next hoff =>
    refine ⟨e, rfl, hok, hgood, fun _ => ⟨hfailed, hfailing⟩, fun hon => absurd hon hoff, ?_⟩
    exact congrArg (fun q : PortSt => { q with failed := d.port.failed, failing := d.port.failing }) hrest

/-! ### The marker -/

theorem forList_discardCart (l : List ReadyCart) (d : Device) :
    ∃ x, forList l (fun x d => d.discardCart x.cart.stream) d = { d with port := { d.port with discarded := x } } := by
  induction l generalizing d with
  | nil => exact ⟨d.port.discarded, rfl⟩
  | cons y l ih => exact ih (d.discardCart y.cart.stream)

/-- The lanes stop: what waits is discarded and counted, with the cart that the marker cuts off (R234). -/
theorem Device.stopLanes_only (cut : Option Cart) (d : Device) :
    ∃ x, d.stopLanes cut = { d with
      port := { d.port with discarded := x, ready := [], gridAt := none, stopping := false }
      cnt := { d.cnt with cartsDiscarded := d.cnt.cartsDiscarded + BitVec.ofNat 32 d.port.ready.length + (if cut.isSome then 1#32 else 0#32) } } := by
  have hall : d.port.ready.filter (fun _ => !false) = d.port.ready := List.filter_eq_self.mpr fun _ _ => rfl
  have hnone : d.port.ready.filter (fun _ => false) = [] := List.filter_eq_nil_iff.mpr fun _ _ => Bool.false_ne_true
  obtain ⟨x, hx⟩ := forList_discardCart d.port.ready d
  have hdrop : d.dropReady (fun _ => false) = { d with
      port := { d.port with discarded := x, ready := [] }
      cnt := { d.cnt with cartsDiscarded := d.cnt.cartsDiscarded + BitVec.ofNat 32 d.port.ready.length } } := by
    unfold Device.dropReady
    dsimp only
    rw [hall, hx, hnone]
  unfold Device.stopLanes
  rw [hdrop]
  cases cut with
  | none =>
    refine ⟨x, ?_⟩
    rw [show (if (none : Option Cart).isSome then 1#32 else 0#32) = 0#32 from rfl, BitVec.add_zero]
  | some c => exact ⟨_, rfl⟩

/-- A marker: what it leaves on the port but for the words on the lanes, and what it counts (R228, R231, R234). -/
theorem Device.marker_spec (d : Device) :
    let f := d.forcedLane.port
    let moved := f.failing.foldl PortSt.moveLane f
    let e := d.marker
    ∃ x : PortSt, x.unsent = { moved with force := false, failing := [], markerCount := moved.markerCount + 1#8,
                                          lanes := moved.newLanes.getD moved.lanes, newLanes := none }.unsent ∧
      (d.port.stopping = false → e = { d with port := x }) ∧
      (d.port.stopping = true → ∃ y, e = { d with
        port := { x with discarded := y, ready := [], gridAt := none, stopping := false }
        cnt := { d.cnt with cartsDiscarded := d.cnt.cartsDiscarded + BitVec.ofNat 32 d.port.ready.length +
          (if d.port.carry ≠ [] ∧ d.port.sent.isSome = true then 1#32 else 0#32) } }) := by
  intro f moved e
  obtain ⟨a, l, hforced⟩ := d.forcedLane_only
  have hf : f = { d.port with failed := a, failing := l } := congrArg (·.port) hforced
  obtain ⟨b, g, m, hmoved⟩ := f.moveLanes_only f.failing
  let p : PortSt := { moved with force := false, failing := [], markerCount := moved.markerCount + 1#8,
                                 lanes := moved.newLanes.getD moved.lanes, newLanes := none }
  have hp : { p with force := d.port.force, failing := d.port.failing, failed := d.port.failed, markerCount := d.port.markerCount,
                     lanes := d.port.lanes, newLanes := d.port.newLanes, parity := d.port.parity, mapGen := d.port.mapGen,
                     spareFor := d.port.spareFor } = d.port := by
    change ({ moved with force := _, failing := _, failed := _, markerCount := _, lanes := _, newLanes := _, parity := _, mapGen := _,
                         spareFor := _ } : PortSt) = d.port
    rw [show moved = _ from hmoved, hf]
  have hstop : p.stopping = d.port.stopping := congrArg (·.stopping) hp
  have hcarry : p.carry = d.port.carry := congrArg (·.carry) hp
  have hsent : f.sent = d.port.sent := by rw [hf]
  let x := p.sendMarker p.ptr
  have hx : x.unsent = p.unsent := p.sendMarker_unsent p.ptr
  have hready : x.ready = d.port.ready := (congrArg (·.ready) hx).trans (congrArg (·.ready) hp)
  obtain ⟨cut, hcut⟩ : ∃ c, c = f.sent.filter fun _ => p.stopping && decide (p.carry ≠ []) := ⟨_, rfl⟩
  have he : e = if d.port.stopping then Device.stopLanes cut { d with port := x } else { d with port := x } := by
    rw [← hstop, hcut, show e = Device.marker d from rfl]
    unfold Device.marker
    dsimp only
    rw [show ({ d.forcedLane with port := x } : Device) = { d with port := x } by rw [hforced]]
  refine ⟨x, hx, fun h => he.trans (if_neg (h ▸ Bool.false_ne_true)), fun h => ?_⟩
  obtain ⟨y, hy⟩ := Device.stopLanes_only cut { d with port := x }
  have hsome : cut.isSome = true ↔ d.port.carry ≠ [] ∧ d.port.sent.isSome = true := by
    rw [hcut, hsent, hstop, h, hcarry]
    cases d.port.sent <;> simp
  refine ⟨y, (he.trans (if_pos h)).trans (hy.trans ?_)⟩
  rw [hready]
  simp only [hsome]

/-! ### The statement -/

/-- A lane's blocks go through its scrambler, and an idle lane has none. -/
theorem PortSt.dataBlock_spec (p : PortSt) (lane : Nat) (w : BitVec 64) (h : p.idle lane = false) :
    (p.dataBlock lane w).blocks = p.blocks ++ [(lane, (scrambleWord (tget 0#58 p.scramble lane) w).1 ++ 0b01#2)] ∧
    (twf 0#58 p.scramble = true → tget 0#58 (p.dataBlock lane w).scramble lane = (scrambleWord (tget 0#58 p.scramble lane) w).2 ∧
      ∀ l, l ≠ lane → tget 0#58 (p.dataBlock lane w).scramble l = tget 0#58 p.scramble l) := by
  rw [show p.dataBlock lane w = _ from if_neg (h ▸ Bool.false_ne_true)]
  refine ⟨rfl, fun hw => ⟨(tget_tput hw lane lane _).trans (if_pos rfl), fun l hl => (tget_tput hw lane l _).trans (if_neg hl)⟩⟩

/-- What FORCE does to the port is a matter of the port. -/
theorem Device.forcedLane_port {d e : Device} (h : e.port = d.port) : e.forcedLane.port = d.forcedLane.port := by
  have hfail (n : Nat) : (e.failLane n).port = (d.failLane n).port := by
    unfold Device.failLane
    rw [h]
    split
    · exact h
    · rfl
  unfold Device.forcedLane
  rw [h]
  split
  · exact hfail _
  · exact h

theorem execHostOkTimeout_some {s : State} {g : Nat} (h : s.dev.port.hostGood = some g) : exec .hostOkTimeout s =
    if s.dev.clk.reaches (g + hostOkTicks) then
      .next { s with dev := { s.dev.tickTo (g + hostOkTicks) with
        port := { (s.dev.tickTo (g + hostOkTicks)).port with hostOk := false, hostGood := none } } }
    else .next s := by
  change execHostOkTimeout s = _
  rw [execHostOkTimeout, h]
  rfl

/-- The marker of a device whose lanes run (R228, R231, R234). -/
theorem Device.marker_acts (d : Device) (t : Nat) :
    let p := d.port
    let f := d.forcedLane.port
    let e := (d.tickTo t).marker
    let q := e.port
    q.force = false ∧ q.failing = [] ∧ q.failed = f.failed ∧ q.markerCount = p.markerCount + 1#8 ∧
      q.lanes = p.newLanes.getD p.lanes ∧ q.newLanes = none ∧
      (∀ l, f.failing = [l] → p.parity = true → l < p.lanes ∨ l = 8 →
        q.parity = false ∧ q.mapGen = p.mapGen + 1#8 ∧
        (l < p.lanes → f.failed.getLsbD 8 = false → q.spareFor = BitVec.ofNat 4 l) ∧
        (p.lanes ≤ l ∨ f.failed.getLsbD 8 = true → q.spareFor = p.spareFor)) ∧
      (f.failing = [] ∨ p.parity = false → q.parity = p.parity ∧ q.spareFor = p.spareFor ∧ q.mapGen = p.mapGen) ∧
      (p.stopping = false → q.gridAt = p.gridAt ∧ q.ready = p.ready ∧ e.cnt = d.cnt) ∧
      (p.stopping = true → q.gridAt = none ∧ q.ready = [] ∧ q.stopping = false ∧
        e.cnt.cartsDiscarded = d.cnt.cartsDiscarded + BitVec.ofNat 32 p.ready.length +
          (if p.carry ≠ [] ∧ p.sent.isSome = true then 1#32 else 0#32)) ∧
      e.fw = d.fw ∧ e.regs = d.regs ∧ e.pw = d.pw ∧ e.gran = d.gran := by
  intro p f e q
  let d' := d.tickTo t
  have hport : d'.port = p := Device.tickTo_port ..
  have hforced : d'.forcedLane.port = f := Device.forcedLane_port hport
  obtain ⟨a, l, hf⟩ := d.forcedLane_only
  have hfp : f = { p with failed := a, failing := l } := congrArg (·.port) hf
  obtain ⟨x, hx, hruns, hstops⟩ := d'.marker_spec
  rw [hforced] at hx
  rw [hport] at hruns hstops
  obtain ⟨b, g, m, hmoved⟩ := f.moveLanes_only f.failing
  have hq : { q with discarded := x.discarded, ready := x.ready, gridAt := x.gridAt, stopping := x.stopping } = x := by
    cases hstop : p.stopping with
    | false => rw [show q = x from congrArg Device.port (hruns hstop)]
    | true =>
      obtain ⟨y, hy⟩ := hstops hstop
      rw [show q = _ from congrArg Device.port hy]
  have hown : { e with port := d.port, cnt := d.cnt, clk := d.clk } = d := by
    have htick : { d' with port := d.port, cnt := d.cnt, clk := d.clk } = d := by rw [show d' = _ from Device.tickTo_eq ..]
    cases hstop : p.stopping with
    | false => rw [show e = _ from hruns hstop]; exact htick
    | true =>
      obtain ⟨y, hy⟩ := hstops hstop
      rw [show e = _ from hy]
      exact htick
  have hqx : q.parity = x.parity ∧ q.mapGen = x.mapGen ∧ q.spareFor = x.spareFor :=
    ⟨congrArg (·.parity) hq, congrArg (·.mapGen) hq, congrArg (·.spareFor) hq⟩
  refine ⟨(congrArg (·.force) hq).trans (congrArg (·.force) hx), (congrArg (·.failing) hq).trans (congrArg (·.failing) hx),
    ((congrArg (·.failed) hq).trans (congrArg (·.failed) hx)).trans (congrArg (·.failed) hmoved),
    ((congrArg (·.markerCount) hq).trans (congrArg (·.markerCount) hx)).trans ?_,
    ((congrArg (·.lanes) hq).trans (congrArg (·.lanes) hx)).trans ?_, (congrArg (·.newLanes) hq).trans (congrArg (·.newLanes) hx), ?_, ?_, ?_, ?_,
    congrArg (·.fw) hown, congrArg (·.regs) hown, congrArg (·.pw) hown, congrArg (·.gran) hown⟩
  · change (f.failing.foldl PortSt.moveLane f).markerCount + 1#8 = _
    rw [hmoved, hfp]
  · change (f.failing.foldl PortSt.moveLane f).newLanes.getD (f.failing.foldl PortSt.moveLane f).lanes = _
    rw [hmoved, hfp]
  · intro n hone hparity hlane
    have hfold : f.failing.foldl PortSt.moveLane f = f.moveLane n := by rw [hone, List.foldl_cons, List.foldl_nil]
    have hcond : f.parity = true ∧ (n < f.lanes ∨ n = 8) := by
      rw [hfp]
      exact ⟨hparity, hlane⟩
    have hn : f.failing.foldl PortSt.moveLane f = { f with
        parity := false, mapGen := f.mapGen + 1#8
        spareFor := if n < f.lanes ∧ f.failed.getLsbD 8 = false then BitVec.ofNat 4 n else f.spareFor } :=
      hfold.trans (if_pos hcond)
    rw [hqx.1, hqx.2.1, hqx.2.2, show x.parity = _ from congrArg (·.parity) hx, show x.mapGen = _ from congrArg (·.mapGen) hx,
      show x.spareFor = _ from congrArg (·.spareFor) hx]
    dsimp only [PortSt.unsent]
    rw [hn]
    have hlanes : f.lanes = p.lanes := by rw [hfp]
    have hspare : f.spareFor = p.spareFor := by rw [hfp]
    refine ⟨rfl, by rw [hfp], fun hlt hok => if_pos ⟨hlanes ▸ hlt, hok⟩, fun h => (if_neg ?_).trans hspare⟩
    rintro ⟨hlt, hok⟩
    exact h.elim (fun hle => Nat.not_lt.mpr hle (hlanes ▸ hlt)) fun hbad => Bool.false_ne_true (hok.symm.trans hbad)
  · intro h
    have hn : f.failing.foldl PortSt.moveLane f = f := by
      obtain hnone | hspent := h
      · rw [hnone, List.foldl_nil]
      · exact f.moveLanes_spent (by rw [hfp]; exact hspent) _
    rw [hqx.1, hqx.2.1, hqx.2.2, show x.parity = _ from congrArg (·.parity) hx, show x.mapGen = _ from congrArg (·.mapGen) hx,
      show x.spareFor = _ from congrArg (·.spareFor) hx]
    dsimp only [PortSt.unsent]
    rw [hn, hfp]
    exact ⟨rfl, rfl, rfl⟩
  · intro h
    have he : e = { d' with port := x } := hruns h
    have hgrid : x.gridAt = p.gridAt := (congrArg (·.gridAt) hx).trans (by dsimp only [PortSt.unsent]; rw [hmoved, hfp])
    have hready : x.ready = p.ready := (congrArg (·.ready) hx).trans (by dsimp only [PortSt.unsent]; rw [hmoved, hfp])
    exact ⟨(congrArg (·.port.gridAt) he).trans hgrid, (congrArg (·.port.ready) he).trans hready,
      (congrArg (·.cnt) he).trans (Device.tickTo_cnt ..)⟩
  · intro h
    obtain ⟨y, hy⟩ := hstops h
    have he : e = _ := hy
    refine ⟨congrArg (·.port.gridAt) he, congrArg (·.port.ready) he, congrArg (·.port.stopping) he,
      (congrArg (·.cnt.cartsDiscarded) he).trans ?_⟩
    dsimp only
    rw [show d'.cnt = d.cnt from Device.tickTo_cnt ..]

/-- Settles O38: the port's blocks, its markers, and the return lane. -/
theorem lanesFailOverAndReportHealth : Obligations.LanesFailOverAndReportHealth := by
  unfold Obligations.LanesFailOverAndReportHealth
  refine ⟨⟨fun p lane w h => p.dataBlock_spec lane w h, fun p lane w b h => ⟨if_pos h, if_pos h⟩, fun s lane t hrun => ?_⟩, fun s frame t => ?_⟩
  · intro p f
    refine ⟨fun h => ?_, fun h => ?_, fun h => ?_, fun h => ?_⟩
    · refine (if_pos hrun).trans ?_
      rw [onDev_eq, Device.failLane, if_neg (show ¬(s.dev.port.failed.getLsbD lane.val = true) from h ▸ Bool.false_ne_true)]
    · refine (if_pos hrun).trans ?_
      rw [onDev_eq, Device.failLane, if_pos (show s.dev.port.failed.getLsbD lane.val = true from h)]
    · exact congrArg Device.port (if_neg (show ¬(s.dev.port.force = true) from h ▸ Bool.false_ne_true))
    · refine ⟨_, if_pos (by rw [hrun, h]; rfl), ?_⟩
      exact ⟨⟨rfl, rfl⟩, s.dev.marker_acts t⟩
  · intro p
    refine ⟨fun h => if_pos h, rfl, fun g hg => ⟨fun hr => ?_, fun hr => ?_⟩, fun hg => ?_, fun hr hl hm => ?_, fun h => ?_, fun hr hl hm x hx => ?_⟩
    · refine (execHostOkTimeout_some hg).trans ?_
      exact if_pos hr
    · refine (execHostOkTimeout_some hg).trans ?_
      exact if_neg (hr ▸ Bool.false_ne_true)
    · change execHostOkTimeout s = _
      rw [execHostOkTimeout, show s.dev.port.hostGood = none from hg]
    · intro bad
      have hreceives : s.dev.receives = true := by
        simp only [Device.receives, show s.dev.port.rxEnable = true from hr, show s.dev.port.rxLock = true from hl, Bool.true_and,
          bne_iff_ne, ne_eq]
        exact hm
      refine ⟨if_pos hreceives, fun hcrc => ?_⟩
      have hnone : healthFrame frame = none := by rw [healthFrame, laneFrame, hcrc]; rfl
      refine (if_pos hreceives).trans ?_
      rw [hnone]
      exact if_neg (hcrc ▸ Bool.false_ne_true)
    · exact ⟨if_neg (h ▸ Bool.false_ne_true), if_neg (h ▸ Bool.false_ne_true)⟩
    · have hreceives : s.dev.receives = true := by
        simp only [Device.receives, show s.dev.port.rxEnable = true from hr, show s.dev.port.rxLock = true from hl, Bool.true_and,
          bne_iff_ne, ne_eq]
        exact hm
      have hexec : exec (.healthReport frame t) s = .next { s with dev := (s.dev.tickTo t).health x t } := by
        refine (if_pos hreceives).trans ?_
        rw [hx]
        rfl
      have hport : (s.dev.tickTo t).port = p := Device.tickTo_port ..
      have hgood : (s.dev.tickTo t).healthGood x = s.dev.healthGood x := by rw [Device.healthGood, hport]; rfl
      obtain ⟨q, hq, hok, hlast, hoff, hon, hrest⟩ := (s.dev.tickTo t).health_spec x t
      rw [hport] at hok hlast hoff hon hrest
      rw [hgood] at hok hlast
      rw [hq] at hexec
      refine ⟨_, hexec, ⟨rfl, rfl⟩, ?_, hok, hlast, hoff, hon, hrest⟩
      change ({ s.dev.tickTo t with port := s.dev.port, clk := s.dev.clk } : Device) = s.dev
      rw [Device.tickTo_eq]

end Sys2Proof.Machine
end

section
namespace Sys2Proof.Machine

/-! Fabric ports (R378, R379). Whatever the Commons loses, its routes, partners and their sessions, the four ports stay as they were, and so does all of the device but its fabric, its sessions and its transactions. -/

/-- Of the Commons: the ports, this device's address, and the Bellringer whose key it has adopted. -/
def Fabric.seat (f : Fabric) : Fabric :=
  { Fabric.reset with
    ports := f.ports
    address := f.address
    lastAddress := f.lastAddress
    hasKey := f.hasKey
    keyUid := f.keyUid
    keyQual := f.keyQual
    bellringer := f.bellringer
    level := f.level }

/-- What the Commons leaves as it is when partners or links are lost: all but event registers, counters, the sessions and the transactions, and of the fabric its seat. -/
def Device.around (d : Device) : Device := { d.aside with fw := { d.aside.fw with sessions := [] }, fab := d.fab.seat }

theorem Device.around_of {d e : Device} (h : d.aside = e.aside) (hp : d.fab.seat = e.fab.seat) : d.around = e.around := by
  unfold Device.around
  rw [h, hp]

theorem Device.of_around {d e : Device} (h : d.around = e.around) :
    d.fw.eff = e.fw.eff ∧ d.regs = e.regs ∧ d.pw = e.pw ∧ d.clk = e.clk ∧ d.chans = e.chans ∧ d.fab.ports = e.fab.ports :=
  ⟨congrArg (·.fw.eff) h, congrArg (·.regs) h, congrArg (·.pw) h, congrArg (·.clk) h, congrArg (·.chans) h, congrArg (·.fab.ports) h⟩

theorem Device.setFport_around (k : Nat) (f : FPort → FPort) {d e : Device} (h : d.around = e.around) :
    (d.setFport k f).around = (e.setFport k f).around := congrArg (Device.setFport k f) h

section lost
variable (d : Device)

theorem Device.raise_around (i : Nat) (b : BitVec 24) : Device.Grows Device.around d (d.raise i b) :=
  ⟨Device.around_of (Device.aside_of_inner (Device.raise_inner ..)) (by rw [Device.raise_fab]), (Device.raise_grows i b d).bits⟩

/-- Sending a frame adds it to those that have left; of the fabric nothing else changes. -/
theorem Device.send_fab (x : OutFrame) : (d.send x).fab = { d.fab with out := d.fab.out ++ [x] } := by
  unfold Device.send
  extract_lets ports e
  have he : e.fab = d.fab := forList_keeps (f := fun k (d : Device) => d.countPort k fcTx) (g := Device.fab) ports (fun _ _ => rfl) d
  exact congrArg (fun f : Fabric => { f with out := f.out ++ [x] }) he

theorem Device.send_around (x : OutFrame) : Device.Grows Device.around d (d.send x) :=
  ⟨Device.around_of (Device.aside_of_inner (Device.send_inner ..)) (by rw [Device.send_fab]; rfl), (Device.send_grows x d).bits⟩

theorem Device.countPort_around (k i n : Nat) : Device.Grows Device.around d (d.countPort k i n) := .of_evts rfl rfl

theorem Device.sendCart_around (dest : Nat) (a : RouteAns) (c : Cart) : Device.Grows Device.around d (d.sendCart dest a c) := by
  unfold Device.sendCart
  split
  · split
    · exact .trans (Device.countPort_around ..) (Device.send_around ..)
    · exact Device.countPort_around ..
  · exact Device.send_around ..

theorem Device.toBackup_around (x : Route) : Device.Grows Device.around d (d.toBackup x) := by
  unfold Device.toBackup
  extract_lets ans a y f e
  have he : Device.Grows Device.around d e := .of_evts rfl rfl
  clear_value e
  exact he.trans (forList_grows (k := fun (c : Nat × Cart) (d : Device) => d.sendCart x.dest a c.2) x.kept (fun _ _ => Device.sendCart_around ..) e)

theorem Device.routeFailed_around (h : Hop) : Device.Grows Device.around d (d.routeFailed h) := by
  unfold Device.routeFailed
  extract_lets back hit moved drop f d1 d2
  have h2 : Device.Grows Device.around d d2 :=
    .trans (.of_evts (e := d1) rfl rfl) (forList_grows (k := Device.toBackup) moved (fun _ _ => Device.toBackup_around ..) d1)
  exact Device.ite_grows _ h2 (h2.trans (Device.raise_around ..))

theorem Device.announce_around (t : Txn) (commit closed : Bool) : Device.Grows Device.around d (d.announce t commit closed) := by
  have h : Device.Grows Device.around d (d.toParts t fun a => .decision a d.fab.address t.id commit closed) :=
    forList_grows (k := fun (p : Part) (d' : Device) => d'.send (.decision p.addr d.fab.address t.id commit closed)) t.parts
      (fun _ _ => Device.send_around ..) d
  exact h.trans (.of_evts rfl rfl)

theorem Device.abortTxn_around (t : Txn) : Device.Grows Device.around d (d.abortTxn t) := by
  unfold Device.abortTxn
  extract_lets e
  exact .trans (Device.ite_grows _ (Device.announce_around ..) (.refl d)) (.of_evts (d := e) rfl rfl)

theorem Device.closeSession_around (id : Nat) : Device.Grows Device.around d (d.closeSession id) := by
  unfold Device.closeSession
  extract_lets gone e
  exact .trans (forList_grows (k := Device.abortTxn) gone (fun _ _ => Device.abortTxn_around ..) d) (.of_evts rfl rfl)

theorem Device.closeFabricSessions_around (gone : Nat → Bool) : Device.Grows Device.around d (d.closeFabricSessions gone) :=
  forList_grows (k := fun (s : Session) (d : Device) => d.closeSession s.id) _ (fun _ _ => Device.closeSession_around ..) d

theorem Device.partnersLeft_around (gone : List Nat) : Device.Grows Device.around d (d.partnersLeft gone) := by
  unfold Device.partnersLeft
  split
  · exact .refl d
  · extract_lets f e
    have he : Device.Grows Device.around d e := .of_evts rfl rfl
    exact (he.trans (Device.raise_around ..)).trans (Device.closeFabricSessions_around ..)

end lost

/-- R378: a port that was up goes down, for 1,000 epochs, and DOWN is set. -/
theorem Device.portDown_spec {k : Nat} {d : Device} (h : (d.fport k).up = true) :
    let down := d.setFport k fun p => { p with up := false, trained := false, nbUid := none, beacon := none, crcCount := 0, crcRun := 0,
                                               holdUntil := d.epoch + holdEpochs }
    (d.portDown k).around = down.around ∧ ((d.portDown k).evt evFab).bits.getLsbD fabDown = true := by
  unfold Device.portDown
  extract_lets d1 a d2 f d3
  have hraise : Device.Grows Device.around d1 d2 := .trans (Device.countPort_around ..) (Device.raise_around ..)
  have hlinks : Device.Grows Device.around d2 d3 := .of_evts rfl rfl
  have hdrop : Device.Grows Device.around d3 d3.dropUnlinked := Device.partnersLeft_around ..
  have hbit : (d2.evt evFab).bits.getLsbD fabDown = true := Device.raise_bit (by decide) _
  rw [if_neg (by rw [h]; decide)]
  exact ⟨(hraise.trans (hlinks.trans hdrop)).same, (hlinks.trans hdrop).bits _ _ hbit⟩

theorem Device.portLost_spec {k : Nat} {d : Device} (h : (d.fport k).up = true) :
    let down := d.setFport k fun p => { p with up := false, trained := false, nbUid := none, beacon := none, crcCount := 0, crcRun := 0,
                                               holdUntil := d.epoch + holdEpochs }
    (d.portLost k).around = down.around ∧ ((d.portLost k).evt evFab).bits.getLsbD fabDown = true := by
  unfold Device.portLost
  extract_lets down a told d1 d2 f d3 d4
  have h1 : d1.around = d.around := (Device.ite_grows _ (.refl d) (Device.routeFailed_around ..)).same
  have hports : d1.fab.ports = d.fab.ports := (Device.of_around h1).2.2.2.2.2
  have hclk : d1.clk = d.clk := (Device.of_around h1).2.2.2.1
  have hup : (d1.fport k).up = true := by rw [Device.fport, hports]; exact h
  obtain ⟨hdown, hbit⟩ := Device.portDown_spec hup
  have htell : Device.Grows Device.around d2 d4 :=
    .trans (.of_evts (e := d3) rfl rfl) (forList_grows (k := fun src (d : Device) => d.send (.route src a k)) told (fun _ _ => Device.send_around ..) d3)
  have hend : Device.Grows Device.around d2 (if told = [] then d4 else d4.raise evFab (ebit fabRoute)) :=
    Device.ite_grows _ htell (htell.trans (Device.raise_around ..))
  rw [if_neg (by rw [h]; decide)]
  refine ⟨(hend.same.trans hdown).trans ?_, hend.bits _ _ hbit⟩
  have hhold : d1.epoch = d.epoch := congrArg Clock.epoch hclk
  rw [hhold]
  exact Device.setFport_around k _ h1

/-- Settles O45: the operations of the Commons change nothing of the device around it but the port they are about. -/
theorem fabricPortsComeAndGo : Obligations.FabricPortsComeAndGo := by
  unfold Obligations.FabricPortsComeAndGo
  intro s k h frame blocks hwf p same
  have hsame {e : Device} {f : FPort → FPort} (h : e.around = (s.dev.setFport k.val f).around) :
      same { s with dev := e } ∧ e.fport k.val = f p := by
    obtain ⟨heff, hregs, hpw, hclk, hchans, hports⟩ := Device.of_around h
    have hport (n : Nat) : e.fport n = (s.dev.setFport k.val f).fport n := congrArg (fun t => tget FPort.init t n) hports
    refine ⟨⟨⟨rfl, rfl⟩, heff, hregs, hpw, hclk, hchans, fun n hn => ?_⟩, ?_⟩
    · rw [hport, Device.setFport_fport hwf, if_neg hn]
    · rw [hport, Device.setFport_fport hwf, if_pos rfl]
  refine ⟨fun hl => ?_, fun hl ht hv hu => ?_, fun hu => ?_, fun hl hu hh => ?_, fun hl hs => ?_, fun hs => ?_⟩
  · let e := (s.dev.countPort k.val fcRx).setFport k.val fun p => { p with trained := true, nbUid := some h.uid, nbVersion := h.version, nbPort := h.port }
    have he : e.around = (s.dev.setFport k.val fun p => { p with trained := true, nbUid := some h.uid, nbVersion := h.version, nbPort := h.port }).around := rfl
    have hup : (e.fport k.val).up = p.up := by rw [(hsame he).2]
    have hexec : exec (.hello k h) s = .next { s with dev := if (e.fport k.val).up then e else e.sendHello k.val } := if_pos hl
    rw [hup] at hexec
    refine ⟨_, hexec, ?_⟩
    by_cases hpu : p.up = true
    · rw [if_pos hpu, if_pos hpu]
      exact ⟨(hsame he).1, (hsame he).2, rfl, (List.append_nil _).symm⟩
    · rw [if_neg hpu, if_neg hpu]
      have hsend := hsame ((Device.send_around e (.hello k.val e.fab.candidate e.fab.quality)).same.trans he)
      exact ⟨hsend.1, hsend.2, (Device.send_belfry (.hello k.val e.fab.candidate e.fab.quality) e).2, Device.send_out ..⟩
  · let e := s.dev.setFport k.val fun p => { p with up := true, crcCount := 0, crcRun := 0 }
    have hgo : (s.dev.portLives k.val && p.trained && p.nbVersion == fabVersion && !p.up) = true := by
      rw [hl, ht, hv, hu]; rfl
    have hraise : Device.Grows Device.around e ((e.countPort k.val fcUps).raise evFab (ebit fabUp)) :=
      .trans (Device.countPort_around ..) (Device.raise_around ..)
    have hbit : (((e.countPort k.val fcUps).raise evFab (ebit fabUp)).evt evFab).bits.getLsbD fabUp = true := Device.raise_bit (by decide) _
    obtain ⟨u, hu⟩ : ∃ u, u = (e.countPort k.val fcUps).raise evFab (ebit fabUp) := ⟨_, rfl⟩
    have hexec : exec (.fabricPortUp k) s = .next { s with dev := { u with fab := { u.fab with topoNew := true } } } := hu ▸ if_pos hgo
    rw [← hu] at hraise hbit
    have htopo : Device.around { u with fab := { u.fab with topoNew := true } } = e.around := hraise.same
    exact ⟨_, hexec, (hsame htopo).1, (hsame htopo).2, hbit⟩
  · obtain ⟨hlost, hbit⟩ := Device.portLost_spec hu
    exact ⟨_, rfl, (hsame hlost).1, (hsame hlost).2, hbit⟩
  · let e := s.dev.setFport k.val fun p => { p with holdUntil := 0, trained := false }
    have hgo : (s.dev.portLives k.val && !p.up && p.holdUntil != 0) = true := by
      rw [hl, hu, bne_iff_ne.2 hh]; rfl
    have hs := hsame (Device.send_around e (.hello k.val e.fab.candidate e.fab.quality)).same
    exact ⟨_, if_pos hgo, hs.1, hs.2, (Device.send_belfry ..).2, Device.send_out ..⟩
  · let e := ((s.dev.countPort k.val fcCrc).countPort k.val fcBlock blocks).setFport k.val fun p => { p with crcCount := p.crcCount + 1 }
    have hbad : Device.Grows Device.around s.dev ((s.dev.countPort k.val fcCrc).countPort k.val fcBlock blocks) :=
      .trans (Device.countPort_around ..) (Device.countPort_around ..)
    have he : e.around = (s.dev.setFport k.val fun p => { p with crcCount := p.crcCount + 1 }).around := Device.setFport_around k.val _ hbad.same
    have hcount : (e.fport k.val).crcCount = p.crcCount + 1 := by rw [(hsame he).2]
    have hgo : (s.dev.portLives k.val && !(frameSound frame)) = true := by rw [hl, hs]; rfl
    have hexec : exec (.fabricFrameBadCrc ⟨k, frame, blocks⟩) s =
      .next { s with dev := if (e.fport k.val).crcCount = 17 then e.raise evFab (ebit fabErrors) else e } := if_pos hgo
    rw [hcount] at hexec
    refine ⟨_, hexec, ?_⟩
    by_cases h16 : p.crcCount = 16
    · rw [if_pos (by omega)]
      have hs := hsame ((Device.raise_around e evFab (ebit fabErrors)).same.trans he)
      exact ⟨hs.1, hs.2, by rw [Device.raise_fab]; rfl, fun _ => Device.raise_bit (by decide) e, fun h => absurd h16 h⟩
    · rw [if_neg (by omega)]
      exact ⟨(hsame he).1, (hsame he).2, rfl, fun h => absurd h h16, fun _ => rfl⟩
  · exact if_neg (by rw [hs, Bool.not_true, Bool.and_false]; exact Bool.false_ne_true)

end Sys2Proof.Machine
end

section
namespace Sys2Proof.Machine

/-! The Commons forms (R380 to R383, R390 to R392). An election, a membership, an exchange or an assignment touches the clock's discipline and the Commons, and nothing of the channels, the configuration or the power; the ports keep what neighbours have said. -/

/-- What time across the Commons leaves as it is besides: of the clock only device time. -/
def Device.afar (d : Device) : Device := { d.around with clk := { Clock.reset with time := d.clk.time }, marks := Marks.init }

/-- The same of the fabric's ports alone. -/
def Device.ported (d : Device) : Device := { d.afar with fab := { Fabric.reset with ports := d.fab.ports } }

section adopt
variable {d e : Device}

theorem Device.Grows.toAfar (h : Device.Grows Device.around d e) : Device.Grows Device.afar d e :=
  h.map fun d : Device => { d with clk := { Clock.reset with time := d.clk.time }, marks := Marks.init }

theorem Device.Grows.toPorted (h : Device.Grows Device.afar d e) : Device.Grows Device.ported d e :=
  h.map fun d : Device => { d with fab := { Fabric.reset with ports := d.fab.ports } }

theorem Device.of_ported (h : e.ported = d.ported) : e.fw.eff = d.fw.eff ∧ e.regs = d.regs ∧ e.pw = d.pw ∧ e.chans = d.chans ∧
    e.clk.time = d.clk.time ∧ e.fab.ports = d.fab.ports :=
  ⟨congrArg (·.fw.eff) h, congrArg (·.regs) h, congrArg (·.pw) h, congrArg (·.chans) h, congrArg (·.clk.time) h, congrArg (·.fab.ports) h⟩

theorem Device.ported_of_around (h : e.around = d.around) : e.ported = d.ported :=
  congrArg (fun d : Device => { d with
    clk := { Clock.reset with time := d.clk.time }
    marks := Marks.init
    fab := { Fabric.reset with ports := d.fab.ports } }) h

variable (d)

theorem Device.refreshWith_around (known : List FabLink) : Device.Grows Device.around d (d.refreshWith known) := .of_evts rfl rfl

theorem Device.setDisc_afar (st : Disc) : Device.Grows Device.afar d (d.setDisc st) := by
  refine .of_evts ?_ rfl
  have htime : (d.setDisc st).clk.time = d.clk.time := by simp only [Device.setDisc, Device.markDisc, apply_ite Clock.time, ite_self]
  exact congrArg (fun t => { d.around with clk := { Clock.reset with time := t }, marks := Marks.init }) htime

theorem Device.holdover_afar : Device.Grows Device.afar d d.holdover := by
  unfold Device.holdover
  extract_lets c e
  have he : Device.Grows Device.afar d e := .of_evts rfl rfl
  exact (he.trans (Device.setDisc_afar ..)).trans (Device.raise_around ..).toAfar

theorem Device.leaveBellringer_afar : Device.Grows Device.afar d d.leaveBellringer := .of_evts rfl rfl

theorem Device.orphanTime_afar : Device.Grows Device.afar d d.orphanTime := by
  unfold Device.orphanTime
  split
  · refine .trans ?_ (Device.holdover_afar _)
    exact .of_evts rfl rfl
  · exact .refl d

theorem Device.takeAddress_ported (a : Nat) : Device.Grows Device.ported d (d.takeAddress a) := by
  unfold Device.takeAddress
  split
  · exact .refl d
  · extract_lets old links f e g
    have he : Device.Grows Device.ported d e := .of_evts rfl rfl
    have hg : Device.Grows Device.ported e g := Device.ite_grows _ (.refl e) (Device.closeFabricSessions_around ..).toAfar.toPorted
    exact ((he.trans hg).trans (Device.raise_around ..).toAfar.toPorted).trans (Device.refreshWith_around ..).toAfar.toPorted

theorem Device.becomeBellringer_ported : Device.Grows Device.ported d d.becomeBellringer := by
  unfold Device.becomeBellringer
  extract_lets f leases held mine e1 c e2 e3
  have h1 : Device.Grows Device.ported d e1 := .of_evts rfl rfl
  have h2 : Device.Grows Device.ported e1 e2 := .of_evts rfl rfl
  have h3 : Device.Grows Device.ported e2 e3 := Device.ite_grows _ (Device.takeAddress_ported ..) (.refl e2)
  have h4 : Device.Grows Device.ported e3 (Device.refreshOwn { e3 with fab := { e3.fab with bellringer := e3.fab.address } }) := .of_evts rfl rfl
  exact (((h1.trans h2).trans h3).trans h4).trans (Device.orphanTime_afar _).toPorted

theorem Device.elect_ported : Device.Grows Device.ported d d.elect := by
  unfold Device.elect
  extract_lets own
  split
  · exact .of_evts rfl rfl
  · extract_lets mine same level seq changed newKey e1 e2
    have h1 : Device.Grows Device.ported d e1 := .of_evts rfl rfl
    have h2 : Device.Grows Device.ported e1 e2 := Device.ite_grows _ (Device.raise_around ..).toAfar.toPorted (.refl e1)
    have h3 := Device.ite_grows (!newKey) (.refl e2) (Device.ite_grows mine (Device.becomeBellringer_ported e2) (Device.leaveBellringer_afar e2).toPorted)
    exact (h1.trans h2).trans h3

theorem Device.membership_around (b : BeaconIn) : Device.Grows Device.around d (d.membership b) := by
  unfold Device.membership
  extract_lets now l levels heard old new gone e1 heard1 e2 f2 e3 e4
  split
  · exact .of_evts rfl rfl
  · have h1 : Device.Grows Device.around d e1 := Device.partnersLeft_around ..
    have h2 : Device.Grows Device.around e1 e2 := .of_evts rfl rfl
    have h3 : Device.Grows Device.around e2 e3 := Device.ite_grows _ (.of_evts rfl rfl) (.of_evts rfl rfl)
    have h4 : Device.Grows Device.around e3 e4 := Device.ite_grows _ (.refl e3) (Device.raise_around ..)
    exact (((h1.trans h2).trans h3).trans h4).trans (.of_evts rfl rfl)

theorem Device.bellringerTime_afar (b : BeaconIn) : Device.Grows Device.afar d (d.bellringerTime b) := by
  unfold Device.bellringerTime
  extract_lets fresh f e1 c1 e2 c2
  have h1 : Device.Grows Device.afar d e1 := .of_evts rfl rfl
  have h2 : Device.Grows Device.afar e1 e2 := .of_evts rfl rfl
  exact h1.trans (Device.ite_grows _ (.of_evts rfl rfl) (h2.trans (Device.ite_grows _ (.of_evts rfl rfl) (.of_evts rfl rfl))))

end adopt

/-! ### Exchanges -/

section exchange
variable (x : Int) (d : Device)

theorem Device.applyPolicy_afar : Device.Grows Device.afar d (d.applyPolicy x) := by
  unfold Device.applyPolicy
  split
  · exact Device.setDisc_afar ..
  · split
    · exact Device.setDisc_afar ..
    · exact Device.setDisc_afar ..
    · unfold Device.startSlew
      extract_lets c
      refine Device.ite_grows _ (.of_evts rfl rfl) (.trans ?_ (Device.setDisc_afar ..))
      exact .of_evts rfl rfl

theorem Device.returnRef_afar (event : Bool) : Device.Grows Device.afar d (d.returnRef x event) := by
  unfold Device.returnRef
  extract_lets c e1 e2 e3
  have h1 : Device.Grows Device.afar d e1 := .of_evts rfl rfl
  have h2 : Device.Grows Device.afar e1 e2 := Device.ite_grows _ (Device.raise_around ..).toAfar (.refl e1)
  have h3 : Device.Grows Device.afar e2 e3 := Device.ite_grows _ (Device.raise_around ..).toAfar (.refl e2)
  exact ((h1.trans h2).trans h3).trans (Device.ite_grows _ (.refl e3) (Device.applyPolicy_afar ..))

theorem Device.acquireFabric_afar : Device.Grows Device.afar d (d.acquireFabric x) := by
  unfold Device.acquireFabric
  exact Device.ite_grows _ (.refl d) (.of_evts rfl rfl)

theorem Device.parentBack_afar : Device.Grows Device.afar d (d.parentBack x) := by
  have hlater : Device.Grows Device.afar d (if d.clk.coasting then d else d.acquireFabric x) :=
    Device.ite_grows _ (.refl d) (Device.acquireFabric_afar ..)
  unfold Device.parentBack
  refine Device.ite_grows _ (Device.returnRef_afar ..) ?_
  split
  · exact hlater
  · exact hlater
  · refine .trans ?_ (Device.returnRef_afar ..)
    exact .of_evts rfl rfl

theorem Clock.update_time (steer : Int) (c : Clock) : (c.update x steer).time = c.time := by
  have hrate : (c.setRate c.slewRate).time = c.time := by
    unfold Clock.setRate
    split <;> rfl
  unfold Clock.update
  extract_lets c1
  have h1 : c1.time = c.time := hrate
  split
  · exact h1
  · split
    · exact h1
    · exact h1

theorem Device.fabricEdge_afar (steer : Int) : Device.Grows Device.afar d (d.fabricEdge x steer) := by
  unfold Device.fabricEdge
  extract_lets c measured back
  have hmeasured : Device.Grows Device.afar d measured := .of_evts rfl rfl
  have hupdate : Device.Grows Device.afar d { measured with clk := measured.clk.update x steer } := by
    refine .of_evts ?_ rfl
    exact congrArg (fun t => { d.around with clk := { Clock.reset with time := t }, marks := Marks.init }) (Clock.update_time x steer measured.clk)
  split
  · exact .refl d
  · exact Device.ite_grows _ (.refl d) (Device.parentBack_afar ..)
  · exact hupdate
  · exact hupdate
  · exact hupdate
  · exact Device.ite_grows _ hmeasured (Device.ite_grows _ (Device.parentBack_afar ..) (.refl d))

theorem Device.exchange_afar (k : Nat) (t1 t2 t3 t4 steer : Int) : Device.Grows Device.afar
    ((d.countPort k fcRx).setFport k fun p => { p with delay512 := (t4 - t1) - (t3 - t2) }).refreshOwn (d.exchange k t1 t2 t3 t4 steer) := by
  unfold Device.exchange
  extract_lets e1 e2 x f e3
  have h3 : Device.Grows Device.afar e2 e3 := .of_evts rfl rfl
  exact Device.ite_grows _ (h3.trans (Device.ite_grows _ (Device.fabricEdge_afar ..) (.refl e3))) (.refl e2)

end exchange

/-! ### A beacon -/

/-- What a beacon says of the neighbour. -/
def neighbourOf (b : BeaconIn) : NbBeacon := ⟨b.hasKey, b.keyUid, b.keyQual, b.keySeq, b.keyAddr, b.level, b.nbAddr, b.nbUid⟩

def FPort.heard (b : BeaconIn) (p : FPort) : FPort := { p with beacon := some (neighbourOf b), nbUid := some b.nbUid }

/-- The key a beacon offers. -/
def keyOf (b : BeaconIn) : Key := ⟨b.keyQual, b.keyUid, b.keySeq, b.keyAddr, b.level⟩

/-- A beacon is counted and kept for its port, and its key is heard. -/
def Device.noteBeacon (k : Nat) (b : BeaconIn) (d : Device) : Device :=
  let d := d.countPort k fcRx
  let d := if b.hasKey then { d with fab := d.fab.hearKey d.epoch b.keyUid b.keyQual b.keySeq } else d
  d.setFport k (FPort.heard b)

section beacon
variable (k : Nat) (b : BeaconIn) (d : Device)

theorem Device.beaconIn_eq : d.beaconIn k b = let e := (d.noteBeacon k b).elect
    if b.hasKey && e.fab.hasKey && b.keyUid == e.fab.keyUid && b.keyQual == e.fab.keyQual then (e.membership b).bellringerTime b
    else e.refreshOwn := rfl

theorem Device.noteBeacon_around : (d.noteBeacon k b).around = (d.setFport k (FPort.heard b)).around := by
  unfold Device.noteBeacon
  extract_lets e1 e2
  have h1 : Device.Grows Device.around d e1 := Device.countPort_around ..
  have h2 : Device.Grows Device.around e1 e2 := Device.ite_grows _ (.of_evts rfl rfl) (.refl e1)
  exact Device.setFport_around k _ (h1.trans h2).same

theorem Device.noteBeacon_keys (h : b.hasKey = true) : (d.noteBeacon k b).fab.keys = (d.fab.hearKey d.epoch b.keyUid b.keyQual b.keySeq).keys := by
  unfold Device.noteBeacon
  dsimp only
  rw [if_pos h]
  rfl

theorem Device.noteBeacon_fport (hwf : twf FPort.init d.fab.ports = true) (n : Nat) :
    (d.noteBeacon k b).fport n = if n = k then (d.fport k).heard b else d.fport n := by
  rw [← Device.setFport_fport hwf k (FPort.heard b) n]
  exact congrArg (fun t => tget FPort.init t n) (Device.of_around (d.noteBeacon_around k b)).2.2.2.2.2

theorem Device.beaconIn_ported : Device.Grows Device.ported (d.noteBeacon k b) (d.beaconIn k b) := by
  rw [Device.beaconIn_eq]
  extract_lets e
  have he : Device.Grows Device.ported (d.noteBeacon k b) e := Device.elect_ported _
  exact he.trans (Device.ite_grows _ ((Device.membership_around e b).toAfar.trans (Device.bellringerTime_afar _ b)).toPorted
    (Device.refreshWith_around e _).toAfar.toPorted)

end beacon

/-- Of the four ports one is picked. -/
theorem filterMap_port {α : Type} {k : Nat} (hk : k < 4) (o : Option α) :
    (List.range 4).filterMap (fun j => if j = k then o else none) = o.toList := by
  cases o with
  | none => simp
  | some x => interval_cases k <;> rfl

section election
variable {d : Device}

theorem Device.noteBeacon_epoch (k : Nat) (b : BeaconIn) (d : Device) : (d.noteBeacon k b).epoch = d.epoch :=
  congrArg Clock.epoch (Device.of_around (d.noteBeacon_around k b)).2.2.2.1

/-- With no other neighbour's beacon the keys heard are that of the beacon, while it is fresh. -/
theorem Device.heardKeys_noteBeacon {k : Nat} {b : BeaconIn} (hk : k < 4) (hwf : twf FPort.init d.fab.ports = true) (hup : (d.fport k).up = true)
    (hnone : ∀ n, (d.fport n).beacon = none) (hkey : b.hasKey = true) (hown : b.keyUid ≠ ownUid) :
    (d.noteBeacon k b).heardKeys =
      if (d.fab.hearKey d.epoch b.keyUid b.keyQual b.keySeq).fresh d.epoch b.keyUid b.keyQual then [keyOf b] else [] := by
  have hfresh : (d.noteBeacon k b).fab.fresh (d.noteBeacon k b).epoch b.keyUid b.keyQual =
      (d.fab.hearKey d.epoch b.keyUid b.keyQual b.keySeq).fresh d.epoch b.keyUid b.keyQual := by
    rw [Fabric.fresh, Device.noteBeacon_keys k b d hkey, Device.noteBeacon_epoch]
    rfl
  rw [← hfresh]
  generalize hg : (d.noteBeacon k b).fab.fresh (d.noteBeacon k b).epoch b.keyUid b.keyQual = g
  have hport (j : Nat) : (d.noteBeacon k b).fport j = if j = k then (d.fport k).heard b else d.fport j := Device.noteBeacon_fport k b d hwf j
  refine (congrArg (fun f => (List.range 4).filterMap f) (funext fun j => ?_)).trans
    ((filterMap_port hk (if g then some (keyOf b) else none)).trans ?_)
  · dsimp only
    rw [hport]
    by_cases hj : j = k
    · rw [if_pos hj, if_pos hj]
      have hown' : (b.keyUid != ownUid) = true := bne_iff_ne.2 hown
      change (if ((d.fport k).up && b.hasKey && b.keyUid != ownUid && _) = true then some (keyOf b) else none) = _
      rw [hup, hkey, hown']
      exact congrArg (fun c : Bool => if c = true then some (keyOf b) else none) hg
    · rw [if_neg hj, if_neg hj, hnone]
  · cases g <;> rfl

theorem Fabric.hearKey_fresh (now : Nat) (uid : BitVec 64) (qual seq : Nat) (f : Fabric)
    (h : ∀ y ∈ f.keys, y.uid = uid → y.qual = qual → y.seq < seq) : (f.hearKey now uid qual seq).fresh now uid qual = true := by
  unfold Fabric.hearKey
  extract_lets held new
  have hnew : new = ⟨uid, qual, seq, now, now⟩ := by
    unfold new
    split
    · next y hfind =>
      have hy := List.mem_of_find?_eq_some hfind
      have his := List.find?_some hfind
      simp only [KeySeen.is, Bool.and_eq_true, beq_iff_eq] at his
      exact if_pos (h y (List.mem_filter.1 hy).1 his.1 his.2)
    · rfl
  refine List.any_eq_true.2 ⟨new, by simp, ?_⟩
  rw [hnew]
  simp [KeySeen.is, silentEpochs]

theorem Fabric.hearKey_stale {now : Nat} {uid : BitVec 64} {qual seq : Nat} {f : Fabric} {y : KeySeen} (hy : y ∈ f.keys) (hu : y.uid = uid) (hq : y.qual = qual)
    (hseq : seq ≤ y.seq) (hadv : y.advanced + 4 ≤ now) (hheard : now ≤ y.heard + 70)
    (huniq : ∀ y z, y ∈ f.keys → z ∈ f.keys → y.uid = z.uid → y.qual = z.qual → y = z) : (f.hearKey now uid qual seq).fresh now uid qual = false := by
  unfold Fabric.hearKey
  extract_lets held new
  have hheld : y ∈ held := List.mem_filter.2 ⟨hy, decide_eq_true hheard⟩
  have hnew : new = { y with heard := now } := by
    unfold new
    split
    · next z hfind =>
      have hz := (List.mem_filter.1 (List.mem_of_find?_eq_some hfind)).1
      have his := List.find?_some hfind
      simp only [KeySeen.is, Bool.and_eq_true, beq_iff_eq] at his
      obtain rfl := huniq y z hy hz (hu.trans his.1.symm) (hq.trans his.2.symm)
      exact if_neg (Nat.not_lt.2 hseq)
    · next hfind => exact absurd (List.find?_eq_none.1 hfind y hheld) (by simp [KeySeen.is, hu, hq])
  refine List.any_eq_false.2 fun z hz => ?_
  rcases List.mem_append.1 hz with hz | hz
  · have hnot := (List.mem_filter.1 hz).2
    simp only [Bool.not_eq_true'] at hnot
    simp [hnot]
  · rw [List.mem_singleton.1 hz, hnew]
    simp only [Bool.and_eq_true, not_and]
    exact fun _ hlt => absurd (of_decide_eq_true hlt) (Nat.not_lt.2 hadv)

theorem Device.own_nil (hown : d.eligible = false ∨ d.epoch < d.fab.electAfter) (l : List Key) :
    (if d.eligible ∧ d.fab.electAfter ≤ d.epoch then l else []) = [] :=
  if_neg fun h => hown.elim (fun hf => Bool.false_ne_true (hf.symm.trans h.1)) (fun hlt => Nat.not_lt.2 h.2 hlt)

/-- Without a key that is offered no Bellringer is left. -/
theorem Device.elect_none (hown : d.eligible = false ∨ d.epoch < d.fab.electAfter) (hheard : d.heardKeys = []) : d.elect.fab.hasKey = false := by
  unfold Device.elect
  rw [Device.own_nil hown, hheard]
  rfl

/-- The only key that is heard is adopted. -/
theorem Device.elect_only {x : Key} (hown : d.eligible = false ∨ d.epoch < d.fab.electAfter) (hheard : d.heardKeys = [x]) (hx : x.uid ≠ ownUid) :
    d.elect.fab.hasKey = true ∧ d.elect.fab.keyUid = x.uid ∧ d.elect.fab.keyQual = x.qual ∧ d.elect.fab.bellringer = x.addr ∧
      d.elect.fab.level = x.level + 1 ∧
      (d.fab.brUid ≠ x.uid ∨ d.fab.brQual ≠ x.qual → (d.elect.evt evFab).bits.getLsbD fabBellringer = true) := by
  unfold Device.elect
  extract_lets own
  rw [show own = [] from Device.own_nil hown _, hheard]
  dsimp -zeta only [List.nil_append, bestKey]
  extract_lets mine same level seq changed newKey e1 e2
  have hmine : mine = false := decide_eq_false hx
  have hsame : same = [x] := by simp [same]
  have hlevel : level = x.level + 1 := by simp [level, hmine, hsame]
  have hbell : (if mine then d.fab.address else x.addr) = x.addr := by rw [hmine]; rfl
  have h2 : Device.Grows Device.around e1 e2 := Device.ite_grows _ (Device.raise_around ..) (.refl e1)
  rw [show (if mine = true then e2.becomeBellringer else e2.leaveBellringer) = e2.leaveBellringer from if_neg (by simp [hmine])]
  have hend : Device.Grows Device.afar e2 (if (!newKey) = true then e2 else e2.leaveBellringer) :=
    Device.ite_grows _ (.refl e2) (Device.leaveBellringer_afar e2)
  generalize (if (!newKey) = true then e2 else e2.leaveBellringer) = u at hend ⊢
  have hseat : u.fab.seat = e1.fab.seat := congrArg (·.fab) (h2.toAfar.trans hend).same
  refine ⟨congrArg (·.hasKey) hseat, congrArg (·.keyUid) hseat, congrArg (·.keyQual) hseat, (congrArg (·.bellringer) hseat).trans hbell,
    (congrArg (·.level) hseat).trans hlevel, fun hne => hend.bits _ _ ?_⟩
  have hchanged : changed = true := decide_eq_true (hne.elim .inl fun h => .inr (.inl h))
  have he2 : e2 = e1.raise evFab (ebit fabBellringer) := if_pos hchanged
  rw [he2]
  exact Device.raise_bit (by decide) e1

end election

/-! ### Addresses -/

/-- A device gets an address and joins. -/
def Device.giveSeat (uid : BitVec 64) (a merged : Nat) (d : Device) : Device :=
  ({ d with fab := d.fab.grant uid a merged (d.fab.levelOf uid) d.epoch }.send (.addressAssign uid a)).raise evFab (ebit fabJoined)

section giveSeat
variable (uid : BitVec 64) (a merged : Nat) (d : Device)

theorem Device.giveSeat_around : Device.Grows Device.around d (d.giveSeat uid a merged) := by
  unfold Device.giveSeat
  refine .trans (.trans (e := { d with fab := d.fab.grant uid a merged (d.fab.levelOf uid) d.epoch }) ?_ (Device.send_around ..)) (Device.raise_around ..)
  exact .of_evts rfl rfl

theorem Device.giveSeat_fab : (d.giveSeat uid a merged).fab =
    { d.fab.grant uid a merged (d.fab.levelOf uid) d.epoch with out := d.fab.out ++ [.addressAssign uid a] } := by
  rw [Device.giveSeat, Device.raise_fab, Device.send_fab]
  rfl

theorem Device.giveSeat_joined : ((d.giveSeat uid a merged).evt evFab).bits.getLsbD fabJoined = true := Device.raise_bit (by decide) _

theorem Fabric.grant_member (level now : Nat) (f : Fabric) : (f.grant uid a merged level now).members.any (·.addr == a) = true :=
  List.any_eq_true.2 ⟨⟨a, now⟩, List.mem_append_right _ (List.mem_singleton_self _), beq_self_eq_true a⟩

/-- An address stays in use when another one is given. -/
theorem Fabric.grant_keeps_member {f : Fabric} {c : Nat} (level now : Nat) (h : f.members.any (·.addr == c) = true) :
    (f.grant uid a merged level now).members.any (·.addr == c) = true := by
  by_cases hc : c = a
  · subst hc
    exact Fabric.grant_member ..
  · obtain ⟨m, hm, hmc⟩ := List.any_eq_true.1 h
    refine List.any_eq_true.2 ⟨m, List.mem_append_left _ (List.mem_filter.2 ⟨hm, ?_⟩), hmc⟩
    rw [beq_iff_eq.1 hmc]
    exact bne_iff_ne.2 hc

/-- The second device of a merge gets another address, where there is one. -/
def Device.yield (r : Lease) (d : Device) : Device :=
  match d.fab.choose d.epoch r.uid 0 with
  | none => d.refreshOwn
  | some b => ({ d with fab := d.fab.grant r.uid b r.merged (d.fab.levelOf r.uid) d.epoch }.send (.addressAssign r.uid b)).refreshOwn

theorem Device.yield_spec (r : Lease) : Device.Grows Device.around d (d.yield r) ∧ (∀ x ∈ d.fab.out, x ∈ (d.yield r).fab.out) ∧
    (∀ c, d.fab.members.any (·.addr == c) = true → (d.yield r).fab.members.any (·.addr == c) = true) := by
  unfold Device.yield
  split
  · exact ⟨Device.refreshWith_around .., fun _ h => h, fun _ h => h⟩
  · next b hb =>
    let e : Device := { d with fab := d.fab.grant r.uid b r.merged (d.fab.levelOf r.uid) d.epoch }
    have he : Device.Grows Device.around d e := .of_evts rfl rfl
    have hf : (e.send (.addressAssign r.uid b)).refreshOwn.fab.out = d.fab.out ++ [.addressAssign r.uid b] := Device.send_out (.addressAssign r.uid b) e
    have hsend : (e.send (.addressAssign r.uid b)).fab.members = e.fab.members := by rw [Device.send_fab]
    have hm : (e.send (.addressAssign r.uid b)).refreshOwn.fab.members = e.fab.members := hsend
    refine ⟨(he.trans (Device.send_around ..)).trans (Device.refreshWith_around ..), fun x hx => ?_, fun c hc => ?_⟩
    · rw [hf]
      exact List.mem_append_left _ hx
    · rw [hm]
      exact Fabric.grant_keeps_member _ _ _ _ _ hc

end giveSeat

section assign
variable {uid : BitVec 64} {pref : Nat} {d : Device}

theorem Device.assign_rival {r : Lease} (hknown : (d.fab.leases.any fun l => l.uid == uid && l.inUse) = false)
    (hrival : (d.fab.leases.find? fun l => l.addr == pref && l.inUse && decide (d.epoch < l.merged) && decide (uid < l.uid)) = some r) :
    d.assign uid pref = (d.giveSeat uid pref (d.epoch + mergeEpochs)).yield r := by
  have hepoch : (d.giveSeat uid pref (d.epoch + mergeEpochs)).epoch = d.epoch :=
    congrArg Clock.epoch (Device.of_around (Device.giveSeat_around ..).same).2.2.2.1
  unfold Device.assign Device.yield
  dsimp only
  rw [hknown, hrival, hepoch]
  rfl

theorem Device.assign_none (hrival : (d.fab.leases.find? fun l => l.addr == pref && l.inUse && decide (d.epoch < l.merged) && decide (uid < l.uid)) = none)
    (hchoose : d.fab.choose d.epoch uid pref = none) : d.assign uid pref = d := by
  unfold Device.assign
  dsimp only
  rw [hrival, ite_self, hchoose]

theorem Device.assign_known {a : Nat} (hknown : (d.fab.leases.any fun l => l.uid == uid && l.inUse) = true)
    (hchoose : d.fab.choose d.epoch uid pref = some a) : d.assign uid pref = d.send (.addressAssign uid a) := by
  unfold Device.assign
  dsimp only
  rw [hknown, hchoose]
  rfl

theorem Device.assign_new {a : Nat} (hknown : (d.fab.leases.any fun l => l.uid == uid && l.inUse) = false)
    (hrival : (d.fab.leases.find? fun l => l.addr == pref && l.inUse && decide (d.epoch < l.merged) && decide (uid < l.uid)) = none)
    (hchoose : d.fab.choose d.epoch uid pref = some a) :
    d.assign uid pref = (d.giveSeat uid a (if pref != 0 && a == pref then d.epoch + mergeEpochs else 0)).refreshOwn := by
  unfold Device.assign
  dsimp only
  rw [hknown, hrival, hchoose]
  rfl

end assign

/-- Of the sessions that were closed none is left. -/
theorem mem_forList_closeSession {l : List Session} {d : Device} {x : Session}
    (h : x ∈ (forList l (fun y (d : Device) => d.closeSession y.id) d).fw.sessions) : x ∈ d.fw.sessions ∧ x ∉ l := by
  induction l generalizing d with
  | nil => exact ⟨h, List.not_mem_nil⟩
  | cons y l ih =>
    obtain ⟨hin, hnot⟩ := ih (d := d.closeSession y.id) h
    rw [Device.closeSession_sessions, List.mem_filter] at hin
    refine ⟨hin.1, fun hmem => ?_⟩
    rcases List.mem_cons.1 hmem with rfl | hl
    · simp at hin
    · exact hnot hl

theorem Device.closeFabricSessions_none (d : Device) : ∀ x ∈ (d.closeFabricSessions fun _ => true).fw.sessions, x.transport ≠ 2 := by
  intro x hx htransport
  obtain ⟨hin, hnot⟩ := mem_forList_closeSession hx
  exact hnot (List.mem_filter.2 ⟨hin, by simp [htransport]⟩)

/-- A device takes an address that is not the one it has. -/
theorem Device.takeAddress_new {a : Nat} {d : Device} (h : a ≠ d.fab.address) :
    (d.takeAddress a).fab.address = a ∧ (d.takeAddress a).fab.lastAddress = a ∧ ((d.takeAddress a).evt evFab).bits.getLsbD fabAddress = true ∧
      (d.fab.address ≠ 0 → ∀ x ∈ (d.takeAddress a).fw.sessions, x.transport ≠ 2) := by
  unfold Device.takeAddress
  rw [if_neg h]
  extract_lets old links f e g
  have hg : Device.Grows Device.around e g := Device.ite_grows _ (.refl e) (Device.closeFabricSessions_around ..)
  have hu : Device.Grows Device.around e ((g.raise evFab (ebit fabAddress)).refreshWith links) :=
    (hg.trans (Device.raise_around ..)).trans (Device.refreshWith_around ..)
  have hseat : ((g.raise evFab (ebit fabAddress)).refreshWith links).fab.seat = e.fab.seat := congrArg (·.fab) hu.same
  refine ⟨congrArg (·.address) hseat, congrArg (·.lastAddress) hseat, Device.raise_bit (b := ebit fabAddress) (by decide) g, fun h0 => ?_⟩
  have hclosed : g = e.closeFabricSessions fun _ => true := if_neg h0
  change ∀ x ∈ (g.raise evFab (ebit fabAddress)).fw.sessions, x.transport ≠ 2
  rw [Device.raise_fw, hclosed]
  exact e.closeFabricSessions_none

theorem Device.noteBeacon_candidacy (k : Nat) (b : BeaconIn) (d : Device) : (d.noteBeacon k b).fab.candidate = d.fab.candidate ∧
    (d.noteBeacon k b).fab.electAfter = d.fab.electAfter ∧ (d.noteBeacon k b).fab.brUid = d.fab.brUid ∧ (d.noteBeacon k b).fab.brQual = d.fab.brQual := by
  unfold Device.noteBeacon
  dsimp only
  split
  · exact ⟨rfl, rfl, rfl, rfl⟩
  · exact ⟨rfl, rfl, rfl, rfl⟩

/-- A device that does not elect itself does so no more on a beacon. -/
theorem Device.noteBeacon_own (k : Nat) (b : BeaconIn) {d : Device} (h : d.eligible = false ∨ d.epoch < d.fab.electAfter) :
    (d.noteBeacon k b).eligible = false ∨ (d.noteBeacon k b).epoch < (d.noteBeacon k b).fab.electAfter := by
  obtain ⟨hcand, hafter, -, -⟩ := Device.noteBeacon_candidacy k b d
  obtain ⟨-, -, hpw, hclk, -⟩ := Device.of_around (d.noteBeacon_around k b)
  have heligible : (d.noteBeacon k b).eligible = d.eligible := by
    rw [Device.eligible, hcand, hclk, hpw]
    rfl
  rw [heligible, hafter, Device.noteBeacon_epoch]
  exact h

/-- Settles O46: each command of the Commons is followed through what it notes, elects, learns and sends; of the rest of the device only the clock's discipline moves. -/
theorem theCommonsForms : Obligations.TheCommonsForms := by
  unfold Obligations.TheCommonsForms
  intro s k hup hcount hwf same
  have hkept {e : Device} (h : e.ported = s.dev.ported) : same { s with dev := e } := by
    obtain ⟨heff, hregs, hpw, hchans, htime, -⟩ := Device.of_ported h
    exact ⟨⟨rfl, rfl⟩, heff, hregs, hpw, hchans, htime⟩
  have hport {e : Device} {f : FPort → FPort} (h : e.ported = (s.dev.setFport k.val f).ported) : e.fport k.val = f (s.dev.fport k.val) := by
    have hp : e.fport k.val = (s.dev.setFport k.val f).fport k.val := congrArg (fun t => tget FPort.init t k.val) (Device.of_ported h).2.2.2.2.2
    rw [hp, Device.setFport_fport hwf, if_pos rfl]
  have hset {e : Device} {f : FPort → FPort} (h : e.ported = (s.dev.setFport k.val f).ported) : same { s with dev := e } := by
    obtain ⟨heff, hregs, hpw, hchans, htime, -⟩ := Device.of_ported h
    exact ⟨⟨rfl, rfl⟩, heff, hregs, hpw, hchans, htime⟩
  have hbeacon (b : BeaconIn) : exec (.beacon k b) s = .next { s with dev := s.dev.beaconIn k.val b } :=
    if_pos (by rw [hup, hcount]; rfl)
  have hnoted (b : BeaconIn) : (s.dev.beaconIn k.val b).ported = (s.dev.setFport k.val (FPort.heard b)).ported :=
    (Device.beaconIn_ported k.val b s.dev).same.trans
      (Device.ported_of_around (s.dev.noteBeacon_around k.val b))
  let c := s.dev.countPort k.val fcRx
  have hc : c.around = s.dev.around := (Device.countPort_around ..).same
  have hrequest (uid : BitVec 64) (pref : Nat) : exec (.addressRequest k uid pref) s =
      .next { s with dev := if s.dev.fab.isBellringer && decide (uid ≠ ownUid) then c.assign uid pref else c } := if_pos hup
  refine ⟨fun b => ?_, fun b hnone hkey hown hnew helect => ?_, fun b hnone hkey hown hold huniq helect => ?_, fun t1 t2 t3 steer => ?_,
    fun t1 t2 t3 t4 steer => ?_, fun uid pref => ⟨fun hbr => ?_, fun hbr huid => ?_⟩, fun now f uid pref hl h1 h4094 ha => ?_, fun a hadm hbr h1 h4094 => ?_⟩
  · have hp := hport (hnoted b)
    exact ⟨_, hbeacon b, hset (hnoted b), by rw [hp]; rfl, neighbourOf b, by rw [hp]; rfl, rfl, rfl, rfl, rfl, rfl, rfl⟩
  · have hheard := Device.heardKeys_noteBeacon k.isLt hwf hup hnone hkey hown
    rw [if_pos (Fabric.hearKey_fresh _ _ _ _ _ hnew)] at hheard
    obtain ⟨hhas, huid, hqual, hbell, hlevel, hbit⟩ := Device.elect_only (Device.noteBeacon_own k.val b helect) hheard hown
    have hgo : s.dev.beaconIn k.val b = ((s.dev.noteBeacon k.val b).elect.membership b).bellringerTime b := by
      rw [Device.beaconIn_eq]
      exact if_pos (by rw [hkey, hhas, huid, hqual]; simp [keyOf])
    have hrest : Device.Grows Device.afar (s.dev.noteBeacon k.val b).elect (s.dev.beaconIn k.val b) :=
      hgo ▸ (Device.membership_around _ b).toAfar.trans (Device.bellringerTime_afar _ b)
    have hseat : (s.dev.beaconIn k.val b).fab.seat = (s.dev.noteBeacon k.val b).elect.fab.seat := congrArg (·.fab) hrest.same
    obtain ⟨-, -, hbr, hbq⟩ := Device.noteBeacon_candidacy k.val b s.dev
    exact ⟨_, hbeacon b, hset (hnoted b), (congrArg (·.hasKey) hseat).trans hhas, (congrArg (·.keyUid) hseat).trans huid,
      (congrArg (·.keyQual) hseat).trans hqual, (congrArg (·.bellringer) hseat).trans hbell, (congrArg (·.level) hseat).trans hlevel,
      fun hne => hrest.bits _ _ (hbit (by rw [hbr, hbq]; exact hne))⟩
  · obtain ⟨y, hy, hu, hq, hseq, hadv, hheard⟩ := hold
    have hkeys := Device.heardKeys_noteBeacon k.isLt hwf hup hnone hkey hown
    rw [Fabric.hearKey_stale hy hu hq hseq hadv hheard huniq] at hkeys
    have hnot : (s.dev.noteBeacon k.val b).elect.fab.hasKey = false := Device.elect_none (Device.noteBeacon_own k.val b helect) hkeys
    refine ⟨_, hbeacon b, hset (hnoted b), ?_⟩
    rw [Device.beaconIn_eq]
    dsimp only
    rw [hnot, Bool.and_false]
    exact hnot
  · exact if_pos (by rw [hup, hcount]; rfl)
  · let e := ((s.dev.countPort k.val fcRx).setFport k.val fun p => { p with delay512 := (t4 - t1) - (t3 - t2) }).refreshOwn
    have he : Device.Grows Device.afar e (s.dev.exchange k.val t1 t2 t3 t4 steer) := Device.exchange_afar ..
    have hcounted : (s.dev.countPort k.val fcRx).around = s.dev.around := (Device.countPort_around ..).same
    have hstart : e.around = (s.dev.setFport k.val fun p => { p with delay512 := (t4 - t1) - (t3 - t2) }).around :=
      (Device.refreshWith_around ..).same.trans (Device.setFport_around k.val _ hcounted)
    have hall : (s.dev.exchange k.val t1 t2 t3 t4 steer).ported = (s.dev.setFport k.val fun p => { p with delay512 := (t4 - t1) - (t3 - t2) }).ported :=
      he.toPorted.same.trans (Device.ported_of_around hstart)
    refine ⟨_, if_pos (by rw [hup, hcount]; rfl), hset hall, by rw [hport hall], ?_, fun hbr => ?_, fun hparent hsource => ?_⟩
    · exact congrArg (·.fab.keyUid) he.same
    · have hnone : e.fab.parent = none := if_pos (.inl hbr)
      have hdone : s.dev.exchange k.val t1 t2 t3 t4 steer = e := if_neg (by rw [hnone]; exact Bool.false_ne_true)
      dsimp only
      rw [hdone]
      exact ⟨rfl, rfl⟩
    · have hdone : s.dev.exchange k.val t1 t2 t3 t4 steer =
          { e with fab := { e.fab with offset512 := (t1 - t2) + (t4 - t3), offsetAt := some e.epoch } } :=
        (if_pos hparent).trans (if_neg hsource)
      dsimp only
      rw [hdone]
      exact ⟨rfl, rfl, rfl⟩
  · exact (hrequest uid pref).trans (by rw [hbr]; rfl)
  · have hexec : exec (.addressRequest k uid pref) s = .next { s with dev := c.assign uid pref } :=
      (hrequest uid pref).trans (by rw [hbr, decide_eq_true huid]; rfl)
    intro known rival gets
    have hgets {a merged : Nat} {u : Device} (h : Device.Grows Device.around (c.giveSeat uid a merged) u)
        (hout : ∀ x ∈ (c.giveSeat uid a merged).fab.out, x ∈ u.fab.out)
        (hmem : (c.giveSeat uid a merged).fab.members.any (·.addr == a) = true → u.fab.members.any (·.addr == a) = true) : gets a { s with dev := u } := by
      refine ⟨hkept (Device.ported_of_around ((h.same.trans (Device.giveSeat_around ..).same).trans hc)), hout _ ?_, fun _ => ⟨hmem ?_, h.bits _ _ (Device.giveSeat_joined ..)⟩⟩
      · rw [Device.giveSeat_fab]
        exact List.mem_append_right _ (List.mem_singleton_self _)
      · rw [Device.giveSeat_fab]
        exact Fabric.grant_member uid a merged (c.fab.levelOf uid) c.epoch c.fab
    refine ⟨fun hrival a ha => ⟨_, hexec, ?_⟩, fun hrival ha => ?_, fun hrival hknown => ⟨_, hexec, ?_⟩⟩
    · cases hknown : known with
      | true =>
        rw [Device.assign_known (d := c) hknown ha]
        have hsend : (c.send (.addressAssign uid a)).fab.out = s.dev.fab.out ++ [.addressAssign uid a] := Device.send_out ..
        refine ⟨⟨hkept (Device.ported_of_around ((Device.send_around ..).same.trans hc)), ?_, fun h => absurd (hknown.symm.trans h) (by decide)⟩, hsend⟩
        rw [hsend]
        exact List.mem_append_right _ (List.mem_singleton_self _)
      | false =>
        rw [Device.assign_new (d := c) hknown hrival ha]
        exact ⟨hgets (Device.refreshWith_around ..) (fun _ h => h) id, congrArg Fabric.out (Device.giveSeat_fab ..)⟩
    · exact hexec.trans (by rw [Device.assign_none (d := c) hrival ha])
    · obtain ⟨r, hr⟩ := Option.isSome_iff_exists.1 hrival
      rw [Device.assign_rival (d := c) hknown hr]
      obtain ⟨hy, hout, hmem⟩ := Device.yield_spec (c.giveSeat uid pref (c.epoch + mergeEpochs)) r
      exact hgets hy hout (hmem pref)
  · unfold Fabric.choose
    rw [hl]
    have hfree : f.freeAddress now pref = true := by
      simp [Fabric.freeAddress, hl, h1, ha, maxAddress, h4094]
    exact if_pos hfree
  · have hgo : (ownUid = ownUid ∧ s.dev.fab.admitted ∧ !s.dev.fab.isBellringer ∧ 1 ≤ a ∧ a ≤ maxAddress) :=
      ⟨rfl, hadm, by rw [hbr]; rfl, h1, h4094⟩
    obtain ⟨-, hevts, hfab⟩ := Device.ctlRx_belfry s.dev.fab.bellringer s.dev
    let r := s.dev.ctlRx s.dev.fab.bellringer
    have hrx : r.around = s.dev.around := Device.around_of (Device.aside_of_inner (Device.ctlRx_inner ..)) (by rw [hfab])
    have hexec : exec (.addressAssignment ownUid a) s = .next { s with dev := r.takeAddress a } := if_pos hgo
    refine ⟨_, hexec, hkept ((Device.takeAddress_ported ..).same.trans (Device.ported_of_around hrx)), ?_, fun ha => ?_, fun ha => ?_⟩
    · by_cases ha : a = r.fab.address
      · dsimp only
        rw [Device.takeAddress, if_pos ha]
        exact ha.symm
      · exact (Device.takeAddress_new ha).1
    · dsimp only
      rw [Device.takeAddress, if_pos (ha.trans (congrArg Fabric.address hfab).symm)]
      exact ⟨hevts, congrArg (·.fw) (Device.ctlRx_inner s.dev.fab.bellringer s.dev)⟩
    · obtain ⟨-, hlast, hbit, hclosed⟩ := Device.takeAddress_new (d := r) (a := a) (by rw [hfab]; exact ha)
      exact ⟨hlast, hbit, fun h0 => hclosed (by rw [hfab]; exact h0)⟩

end Sys2Proof.Machine
end

section
namespace Sys2Proof.Machine

/-! Frames and carts on their way (R376, R384, R385, R388, R389). What passes through this device is counted and sent on; nothing within the device but its data port and the fabric sees it. -/

section way
variable (d : Device)

theorem Device.countAt_fab (i : Nat) (port : Option Nat) : (d.countAt i port).fab = d.fab := by
  unfold Device.countAt
  split <;> rfl

theorem Device.countAt_port (i : Nat) (port : Option Nat) : (d.countAt i port).port = d.port := by
  unfold Device.countAt
  split <;> rfl

theorem Device.send_port (x : OutFrame) : (d.send x).port = d.port := by
  unfold Device.send
  exact forList_keeps (f := fun k (d : Device) => d.countPort k fcTx) (g := Device.port) _ (fun _ _ => rfl) d

end way

/-! ### A cart that arrives -/

section arrives
variable {d : Device} {c : Cart}

theorem Device.cartHere_first {t : Nat} (hnone : d.fab.received.find? (fun x => x.1 == 4096 * c.source + c.stream) = none) (hsends : d.portSends c.type = true) :
    d.cartHere c t = { d with
      fab := { d.fab with received := (d.fab.received.filter (·.1 != 4096 * c.source + c.stream)) ++ [(4096 * c.source + c.stream, c.seq + 1#32, [])] }
      port := { d.port with ready := readyInsert ⟨t + deliveryMargin, c⟩ d.port.ready } } := by
  unfold Device.cartHere
  dsimp only
  rw [hnone]
  exact if_pos hsends

/-- The cart before the one expected next has come already. -/
theorem Device.cartHere_again {t : Nat} {later : List Word}
    (hfind : d.fab.received.find? (fun x => x.1 == 4096 * c.source + c.stream) = some (4096 * c.source + c.stream, c.seq + 1#32, later)) :
    d.cartHere c t = { d with
      fab := { d.fab with received := (d.fab.received.filter (·.1 != 4096 * c.source + c.stream)) ++ [(4096 * c.source + c.stream, c.seq + 1#32, later)] } } := by
  have hne : c.seq ≠ c.seq + 1#32 := fun h => by
    have := congrArg BitVec.toNat h
    have hlt := c.seq.isLt
    simp [BitVec.toNat_add] at this
    omega
  have hlater : seqLater (c.seq + 1#32) c.seq = true := by
    have hone : c.seq + 1#32 - c.seq = 1#32 := by rw [BitVec.add_comm, BitVec.add_sub_cancel]
    rw [seqLater, hone]
    rfl
  have htake : takeSeq c.seq (c.seq + 1#32) later = (false, c.seq + 1#32, later) :=
    (if_neg hne).trans (if_pos (by rw [hlater]; rfl))
  unfold Device.cartHere
  dsimp only
  rw [hfind]
  simp only [htake, Bool.not_false, if_true]

end arrives

/-! ### A route that fails -/

section fails
variable (d : Device)

theorem Device.sendCart_routes (dest : Nat) (a : RouteAns) (c : Cart) : (d.sendCart dest a c).fab.routes = d.fab.routes := by
  unfold Device.sendCart
  split
  · split
    · rw [Device.send_fab]
      rfl
    · rfl
  · rw [Device.send_fab]

/-- A route on its backup. -/
def Route.moved (x : Route) : Route :=
  { x with
    lost := if x.lost = [] then x.ans.primary else x.lost
    ans := { x.ans with
      primary := x.ans.backup
      backup := [] } }

theorem Device.toBackup_routes (x : Route) :
    (d.toBackup x).fab.routes = d.fab.routes.map fun z => if z.stream = x.stream then x.moved else z := by
  unfold Device.toBackup
  extract_lets ans a y f e
  exact forList_keeps (f := fun (c : Nat × Cart) (d : Device) => d.sendCart x.dest a c.2) (g := fun d => d.fab.routes) x.kept
    (fun _ _ => Device.sendCart_routes ..) e

theorem Device.toBackup_inner (x : Route) : (d.toBackup x).inner = d.inner := by
  unfold Device.toBackup
  extract_lets ans a y f e
  exact forList_inner x.kept (fun (c : Nat × Cart) (d : Device) => d.sendCart x.dest a c.2) (fun _ _ => Device.sendCart_inner ..) e

theorem Device.routeFailed_inner (h : Hop) : (d.routeFailed h).inner = d.inner := by
  unfold Device.routeFailed
  extract_lets back hit moved drop f d1 d2
  have h2 : d2.inner = d.inner := forList_inner moved Device.toBackup (fun x e => e.toBackup_inner x) d1
  split
  · exact h2
  · exact (Device.raise_inner ..).trans h2


end fails

/-- Where no two routes are of one stream, moving some of them changes those and no other. -/
theorem forList_toBackup_routes {l : List Route} (hl : (l.map (·.stream)).Nodup) (d : Device) :
    (forList l Device.toBackup d).fab.routes = d.fab.routes.map fun z => ((l.find? fun x => x.stream == z.stream).map Route.moved).getD z := by
  induction l generalizing d with
  | nil => exact (List.map_id _).symm
  | cons x l ih =>
    have hnodup := List.nodup_cons.1 hl
    refine (ih hnodup.2 (d.toBackup x)).trans ?_
    rw [Device.toBackup_routes, List.map_map]
    refine List.map_congr_left fun z _ => ?_
    dsimp only [Function.comp]
    by_cases hz : z.stream = x.stream
    · have hnone : (l.find? fun y => y.stream == x.stream) = none := List.find?_eq_none.2 fun y hy h =>
        hnodup.1 (List.mem_map.2 ⟨y, hy, beq_iff_eq.1 h⟩)
      have hmoved : x.moved.stream = x.stream := rfl
      rw [if_pos hz, hmoved, hnone, List.find?_cons_of_pos (by rw [hz]; exact beq_self_eq_true _)]
      rfl
    · rw [if_neg hz, List.find?_cons_of_neg (by rw [beq_iff_eq]; exact fun h => hz h.symm)]

/-- The links of a hop, both ways. -/
def Fabric.failing (d : Fabric) (h : Hop) (l : List Hop) : Bool := l.any (bothWays d.links [h]).contains

/-- The routes that move to their backup when a hop fails. -/
def Fabric.moves (d : Fabric) (h : Hop) (x : Route) : Bool :=
  d.failing h x.ans.primary && !x.ans.backup.isEmpty && !(d.failing h x.ans.backup)

/-- A route that does not move, without a backup that has failed. -/
def Fabric.pruned (d : Fabric) (h : Hop) (x : Route) : Route :=
  if d.failing h x.ans.backup then { x with ans := { x.ans with backup := [] } } else x

/-- Where no two routes are of one stream, finding by stream in what a filter leaves is filtering. -/
theorem find_filter_stream {p : Route → Bool} {l : List Route} (hl : (l.map (·.stream)).Nodup) {x : Route} (hx : x ∈ l) :
    ((l.filter p).find? fun y => y.stream == x.stream) = if p x then some x else none := by
  have huniq {y : Route} (hy : y ∈ l) (hs : y.stream = x.stream) : y = x := List.inj_on_of_nodup_map hl hy hx hs
  by_cases hp : p x = true
  · rw [if_pos hp]
    cases hfind : (l.filter p).find? fun y => y.stream == x.stream with
    | none => exact absurd (List.find?_eq_none.1 hfind x (List.mem_filter.2 ⟨hx, hp⟩)) (by simp)
    | some y =>
      have hs : (y.stream == x.stream) = true := List.find?_some (p := fun y : Route => y.stream == x.stream) hfind
      rw [huniq (List.mem_filter.1 (List.mem_of_find?_eq_some hfind)).1 (beq_iff_eq.1 hs)]
  · rw [if_neg hp]
    refine List.find?_eq_none.2 fun y hy hs => hp ?_
    obtain ⟨hin, hpy⟩ := List.mem_filter.1 hy
    exact huniq hin (beq_iff_eq.1 hs) ▸ hpy

theorem Device.routeFailed_routes {d : Device} (hl : (d.fab.routes.map (·.stream)).Nodup) (h : Hop) :
    (d.routeFailed h).fab.routes = d.fab.routes.map fun x => if d.fab.moves h x then x.moved else d.fab.pruned h x := by
  unfold Device.routeFailed
  extract_lets back hit moved drop f d1 d2
  have hmoved : moved = d.fab.routes.filter (d.fab.moves h) := rfl
  have hdrop : drop = d.fab.pruned h := rfl
  have hsub : (moved.map (·.stream)).Nodup := hl.sublist (List.Sublist.map _ List.filter_sublist)
  have h2 : d2.fab.routes = d.fab.routes.map fun x => if d.fab.moves h x then x.moved else d.fab.pruned h x := by
    refine (forList_toBackup_routes hsub d1).trans ?_
    change (d.fab.routes.map drop).map _ = _
    rw [List.map_map]
    refine List.map_congr_left fun x hx => ?_
    dsimp only [Function.comp]
    have hstream : (drop x).stream = x.stream := by
      rw [hdrop, Fabric.pruned]
      split <;> rfl
    rw [hstream, hmoved, find_filter_stream hl hx]
    by_cases hm : d.fab.moves h x = true
    · rw [if_pos hm, if_pos hm]
      rfl
    · rw [if_neg hm, if_neg hm]
      rfl
  split
  · exact h2
  · rw [Device.raise_fab]
    exact h2

theorem Device.routeFailed_bit {d : Device} {h : Hop} (hany : d.fab.routes.any (d.fab.moves h) = true) :
    ((d.routeFailed h).evt evFab).bits.getLsbD fabRoute = true := by
  unfold Device.routeFailed
  extract_lets back hit moved drop f d1 d2
  obtain ⟨x, hx, hm⟩ := List.any_eq_true.1 hany
  have hne : moved ≠ [] := List.ne_nil_of_mem (List.mem_filter.2 ⟨hx, hm⟩)
  rw [if_neg hne]
  exact Device.raise_bit (by decide) _

theorem Device.readEffect_fw (p : Port) (base : Nat) (d : Device) : (d.readEffect p base).fw = d.fw := by
  unfold Device.readEffect
  split
  · rfl
  · rfl
  · split <;> rfl

/-- A read changes nothing of the firmware's state. -/
theorem State.readBy_fw (p : Port) (addr : BitVec 24) (s : State) : (s.readBy p addr).dev.fw = s.dev.fw := by
  change (s.readReg p addr).2.dev.fw = s.dev.fw
  unfold State.readReg
  extract_lets base d
  split
  · rfl
  · split
    · change (s.dev.tileRead p addr).2.fw = s.dev.fw
      unfold Device.tileRead
      dsimp only
      split
      · rfl
      · split <;> rfl
    · split
      · rfl
      · refine (Device.readEffect_fw ..).trans ?_
        unfold d
        split
        · exact congrArg (·.fw) (Device.pump_inner ..)
        · rfl

/-- Settles O48: each command is followed through what it counts, sends and keeps. -/
theorem framesAndCartsTravel : Obligations.FramesAndCartsTravel := by
  unfold Obligations.FramesAndCartsTravel
  intro s a t k frame c haddr f same
  have hsame {e : Device} (h : e.inner = s.dev.inner) : same { s with dev := e } := by
    obtain ⟨-, hpw, hregs, hfw, hchans, hpoints, -, -, hnv, -⟩ := Device.inner_of h
    exact ⟨⟨rfl, rfl⟩, hfw, hregs, hpw, hchans, hpoints, hnv⟩
  have hticked {e : Device} (h : e.inner = (s.dev.tickTo t).inner) : same { s with dev := e } := by
    obtain ⟨-, hpw, hregs, hfw, hchans, hpoints, -, -, hnv, -⟩ := Device.inner_of h
    exact ⟨⟨rfl, rfl⟩, by simp [hfw], by simp [hregs], by simp [hpw], by simp [hchans], by simp [hpoints], by simp [hnv]⟩
  refine ⟨fun hup hsound hvc h0 hown => ?_, fun addr v write hno => ?_, fun addr v hpartner => ?_, fun hnone hsends => ?_,
    fun later hfind => ?_, fun dest hops h hdest hhop => ⟨fun hdown => ?_, fun hup => ?_⟩, fun stream seq hroute => ?_, fun addr port hnodup => ?_⟩
  · have hgo : ((s.dev.fport k.val).up && frameSound frame && decide (f.vc ≤ 1) && f.dest != 0 && f.dest != s.dev.fab.address) = true := by
      rw [hup, hsound, decide_eq_true hvc, bne_iff_ne.2 h0, bne_iff_ne.2 hown]
      rfl
    have hexec : exec (.controlFrameForward k frame) s = .next { s with dev := s.dev.forwardFrame k.val frame } := if_pos hgo
    have hcount (n i : Nat) : ((s.dev.countPort k.val fcRx).countPort n i).inner = s.dev.inner :=
      (Device.countPort_inner ..).trans (Device.countPort_inner ..)
    refine ⟨fun hadm => ⟨_, hexec, ?_⟩, fun hadm hall => ⟨_, hexec, ?_⟩⟩
    · have hdone : s.dev.forwardFrame k.val frame = (s.dev.countPort k.val fcRx).countPort k.val fcDropped := if_pos (.inl (by
        change (!s.dev.fab.admitted) = true
        rw [hadm]
        rfl))
      dsimp only
      rw [hdone]
      exact ⟨hsame (hcount _ _), rfl⟩
    · have hdone : s.dev.forwardFrame k.val frame = match s.dev.fab.onward k.val f.dest with
          | some n => (s.dev.countPort k.val fcRx).passOn frame n
          | none => (s.dev.countPort k.val fcRx).countPort k.val fcDropped :=
        (if_neg (by
          change ¬((!s.dev.fab.admitted) = true ∨ s.dev.fab.address = 0)
          rw [hadm]
          exact fun h => h.elim Bool.false_ne_true haddr)).trans (if_neg hall)
      dsimp only
      rw [hdone]
      cases s.dev.fab.onward k.val f.dest with
      | none => exact ⟨hsame (hcount _ _), by rw [Option.map_none, Option.toList_none, List.append_nil]; rfl⟩
      | some n => exact ⟨hsame ((Device.send_inner ..).trans (hcount _ _)), Device.send_fab ((s.dev.countPort k.val fcRx).countPort n fcTx) (.forwarded n (frameOn frame))⟩
  · have hexec : exec (.remoteRegisterAccess a write addr v) s = .next { s with dev := s.dev.countAt fcDropped (s.dev.fab.arrival a) } :=
      (if_neg haddr).trans (if_pos (by rw [hno]; rfl))
    exact ⟨_, hexec, hsame (Device.countAt_inner ..), Device.countAt_fab ..⟩
  · have hdo (write : Bool) : exec (.remoteRegisterAccess a write addr v) s =
        if write then .next { s.writeReg ⟨.fabric, 0#8, addr, v⟩ with dev := (s.writeReg ⟨.fabric, 0#8, addr, v⟩).dev.send (.register a 0#32) }
        else .next { s.readBy .fabric addr with dev := (s.readBy .fabric addr).dev.send (.register a (s.readReg .fabric addr).1) } :=
      (if_neg haddr).trans (if_neg (by rw [hpartner]; exact Bool.false_ne_true))
    refine ⟨hdo true, _, hdo false, ⟨State.readBy_pending .., State.readBy_mbx ..⟩, ?_, ?_⟩
    · dsimp only
      rw [Device.send_out]
      exact List.mem_append_right _ (List.mem_singleton_self _)
    · exact (congrArg (·.fw) (Device.send_inner (.register a (s.readReg .fabric addr).1) (s.readBy .fabric addr).dev)).trans (s.readBy_fw .fabric addr)
  · have hexec : exec (.fabricCart c s.dev.fab.address a [] t) s = .next { s with dev := (s.dev.tickTo t).cartHere c t } :=
      (if_neg haddr).trans (if_pos rfl)
    have hnew : (s.dev.tickTo t).fab.received.find? (fun x => x.1 == 4096 * c.source + c.stream) = none := by
      rw [Device.tickTo_fab]
      exact hnone
    have hport : (s.dev.tickTo t).portSends c.type = true := by
      rw [Device.portSends, Device.tickTo_port, Device.tickTo_pw]
      exact hsends
    rw [Device.cartHere_first hnew hport] at hexec
    refine ⟨_, hexec, hticked rfl, ?_, ?_⟩
    · rw [Device.tickTo_port]
      rfl
    · simp
  · have hexec : exec (.fabricCart c s.dev.fab.address a [] t) s = .next { s with dev := (s.dev.tickTo t).cartHere c t } :=
      (if_neg haddr).trans (if_pos rfl)
    have hold : (s.dev.tickTo t).fab.received.find? (fun x => x.1 == 4096 * c.source + c.stream) = some (4096 * c.source + c.stream, c.seq + 1#32, later) := by
      rw [Device.tickTo_fab]
      exact hfind
    rw [Device.cartHere_again hold] at hexec
    exact ⟨_, hexec, hticked rfl, Device.tickTo_port .., Device.tickTo_cnt ..⟩
  · have hon : (s.dev.tickTo t).cartOn c dest a hops = (s.dev.tickTo t).countPort h.port fcDropped := by
      unfold Device.cartOn
      rw [Device.tickTo_fab, hhop]
      exact if_pos (by rw [Device.fport, Device.tickTo_fab]; change (!(s.dev.fport h.port).up) = true; rw [hdown]; rfl)
    have hexec : exec (.fabricCart c dest a hops t) s = .next { s with dev := (s.dev.tickTo t).countPort h.port fcDropped } :=
      hon ▸ (if_neg haddr).trans (if_neg hdest)
    exact ⟨_, hexec, hticked rfl, Device.tickTo_port .., Device.tickTo_fab ..⟩
  · let e := ((s.dev.tickTo t).countPort h.port fcRes (cartFlits c)).send (.cart dest a c)
    let x := (c.source, c.stream, h.port)
    let u : Device := { e with fab := { e.fab with transit := (e.fab.transit.filter fun y => !(y.1 == x.1 && y.2.1 == x.2.1)) ++ [x] } }
    have hon : (s.dev.tickTo t).cartOn c dest a hops = u := by
      unfold Device.cartOn
      rw [Device.tickTo_fab, hhop]
      exact if_neg (by rw [Device.fport, Device.tickTo_fab]; change ¬(!(s.dev.fport h.port).up) = true; rw [hup]; exact Bool.false_ne_true)
    have hexec : exec (.fabricCart c dest a hops t) s = .next { s with dev := u } := hon ▸ (if_neg haddr).trans (if_neg hdest)
    have hinner : e.inner = (s.dev.tickTo t).inner := (Device.send_inner ..).trans (Device.countPort_inner ..)
    have hport : e.port = s.dev.port := (Device.send_port ..).trans (Device.tickTo_port t s.dev)
    have hout : e.fab.out = s.dev.fab.out ++ [.cart dest a c] :=
      (Device.send_out ..).trans (congrArg (fun f : Fabric => f.out ++ [.cart dest a c]) (Device.tickTo_fab t s.dev))
    exact ⟨_, hexec, hticked hinner, hport, hout, List.mem_append_right _ (List.mem_singleton_self _)⟩
  · refine ⟨_, if_pos hroute, hsame (Device.ctlRx_inner ..), ?_⟩
    exact congrArg (fun f : Fabric => { f with routes := f.routes.map fun (x : Route) => if x.stream = stream then x.ack seq else x }) (Device.countAt_fab ..)
  · intro hit moves
    let r := s.dev.ctlRx addr
    have hr : r.fab = s.dev.fab := Device.countAt_fab ..
    have hexec : exec (.routeFailure addr port) s = .next { s with dev := r.routeFailed ⟨addr, port⟩ } := if_neg haddr
    refine ⟨_, hexec, hsame ((Device.routeFailed_inner ..).trans (Device.ctlRx_inner ..)), ?_⟩
    refine ⟨fun hany => Device.routeFailed_bit (by rw [hr]; exact hany), ?_⟩
    refine (Device.routeFailed_routes (by rw [hr]; exact hnodup) ⟨addr, port⟩).trans ?_
    rw [hr]
    rfl

end Sys2Proof.Machine
end

section
namespace Sys2Proof.Machine

/-! O47: a part in doubt that has routes to come. -/

/-- A part of device 2's transaction 5, in doubt. -/
def doubtedPart : Txn :=
  { id := 5, session := 0, coord := some 2, ticket := 1, fabric := true, items := [], state := .inDoubt, effect := 0, tag := 0#16, parts := [],
    target := 0, decision := none, prepared := true, waiter := none, arrived := 0, doubtEnd := none, closing := false }

/-- Device 1 holds the part, and the answer to the question of its routes. -/
def routesInDoubt : State :=
  { State.reset with
    dev := { State.reset.dev with
      fw := { State.reset.dev.fw with txns := [doubtedPart] }
      fab := { State.reset.dev.fab with
        address := 1
        coming := [⟨7, 0, some 2, 5, [], []⟩] } } }

/-- The device once COMMIT has come. -/
def doubtResolved : Device := (routesInDoubt.dev.ctlRx 2).takeDecision 2 5 true false

/-- The Bellringer is told of the later boundary, besides the acknowledgement. -/
theorem doubtResolved_out : doubtResolved.fab.out = [.decisionAck 2 5, .reserve (.due 7 (some 2))] := by decide +kernel

/-- Refutes O47: COMMIT to a part in doubt that has routes to come sends two frames, the second to the Bellringer. -/
theorem not_fabricTransactionsAreDecidedOnce : ¬ Obligations.FabricTransactionsAreDecidedOnce := by
  unfold Obligations.FabricTransactionsAreDecidedOnce
  intro h
  obtain ⟨-, hpart, -⟩ := h routesInDoubt 2 5 0 [] false (by decide) (by decide)
  obtain ⟨-, -, -, -, hdoubt⟩ := hpart doubtedPart (by decide)
  obtain ⟨u, hu, -, hsent, -⟩ := hdoubt rfl rfl
  have hexec : exec (.fabricDecision 2 5 true false) routesInDoubt = .next { routesInDoubt with dev := doubtResolved } := rfl
  obtain rfl : { routesInDoubt with dev := doubtResolved } = u := Host.Outcome.next.inj (hexec.symm.trans hu)
  exact absurd (doubtResolved_out.symm.trans hsent) (by decide)

end Sys2Proof.Machine
end

section
namespace Sys2Proof.Machine

/-! Requests of the fabric that something waits for (R370, R386, R387). What the Commons sends and learns of routes stays outside the firmware's state; what a batch of commits decides stays away from the configuration in force until its boundary. -/

/-! ### What a completion leaves of the fabric -/

section completes
variable (d : Device)

theorem Device.toPort_fab (x : ReadyCart) : (d.toPort x).fab = d.fab := by
  unfold Device.toPort
  split <;> rfl

theorem Device.toFifo_fab (c : Cart) : (d.toFifo c).fab = d.fab := by
  unfold Device.toFifo
  dsimp only
  split <;> rfl

theorem Device.formCartAt_fab (at_ type stream time : Nat) (tag : BitVec 16) (flags : BitVec 14) (count : Nat) (words : List Word)
    (bound dests : Nat) : (d.formCartAt at_ type stream time tag flags count words bound dests).fab = d.fab := by
  have hite (c : Prop) [Decidable c] (f : Device → Device) (hf : ∀ d, (f d).fab = d.fab) (d : Device) : (if c then f d else d).fab = d.fab := by
    split
    · exact hf d
    · rfl
  unfold Device.formCartAt
  extract_lets flags' c p d1 d2 d3
  split
  · rfl
  · have h2 : d2.fab = d1.fab := hite _ _ (fun d => d.toPort_fab _) d1
    have h3 : d3.fab = d2.fab := hite _ _ (fun d => d.toFifo_fab _) d2
    exact (hite _ (Device.toFabric ⟨bound, c⟩) (fun _ => rfl) d3).trans (h3.trans h2)

theorem Device.sendMessage_forwards (v : Via) (bytes : List Byte) : (d.sendMessage v bytes).fab.forwards = d.fab.forwards := by
  unfold Device.sendMessage
  split
  · rfl
  · split
    · exact congrArg Fabric.forwards (Device.formCartAt_fab ..)
    · rfl
  · rw [Device.send_fab]

theorem Device.complete_forwards (w : Waiter) (st : BitVec 16) (p : List Byte) (e : Option Nat) : (d.complete w st p e).fab.forwards = d.fab.forwards := by
  unfold Device.complete
  extract_lets c
  split
  · rfl
  · split
    · rfl
    · split
      · exact Device.sendMessage_forwards ..
      · rfl

end completes

/-! ### What a batch of commits leaves as it is -/

/-- The configuration in force and the rest of the device that no decision of commits touches. -/
def Device.standing (d : Device) : Cfg × BitVec 16 × Regs × Power × Clock × Tbl ChanRun :=
  (d.fw.eff, d.fw.effective, d.regs, d.pw, d.clk, d.chans)

section standing
variable (d : Device)

omit d in
theorem Device.standing_of_inner {d e : Device} (h : e.inner = d.inner) : e.standing = d.standing := (congrArg Device.standing h :)

theorem Device.setReservations_inner (rs : List Reservation) : (d.setReservations rs).inner = d.inner := by
  unfold Device.setReservations
  extract_lets old news stale f e
  exact forList_inner news (fun a d => d.tell (.reserveReply a (.ending (endingAt a rs)))) (fun _ _ => Device.tell_inner ..) e

theorem Device.cancelAsk_inner (key : Nat) : (d.cancelAsk key).inner = d.inner := by
  unfold Device.cancelAsk
  split
  · exact Device.setReservations_inner ..
  · exact Device.tell_inner ..

theorem Device.dropComing_inner (coord : Option Nat) (id : Nat) : (d.dropComing coord id).inner = d.inner := by
  unfold Device.dropComing
  exact forList_inner _ Device.cancelAsk (fun k d => d.cancelAsk_inner k) _

theorem Device.complete_standing (w : Waiter) (st : BitVec 16) (p : List Byte) (e : Option Nat) : (d.complete w st p e).standing = d.standing := by
  obtain ⟨l, hl⟩ := d.complete_inner w st p e
  exact (congrArg Device.standing hl :)

theorem Device.announce_standing (t : Txn) (commit closed : Bool) : (d.announce t commit closed).standing = d.standing :=
  (congrArg Device.standing (Device.announce_aside t d commit closed) :)

theorem Device.refuseCommit_standing (t : Txn) (r : Refused) (x : Deciding) : (d.refuseCommit t r x).standing = d.standing := by
  unfold Device.refuseCommit
  extract_lets e
  split
  · exact (Device.standing_of_inner (Device.send_inner (.vote _ t.id r.status) e) :)
  · rfl

theorem Device.abortCommit_standing (t : Txn) (st : BitVec 16) (missing : Part → BitVec 16) : (d.abortCommit t st missing).standing = d.standing := by
  unfold Device.abortCommit
  extract_lets e1 back0 back lives e2
  have h1 : e1.standing = d.standing := (Device.standing_of_inner (Device.dropComing_inner ..)).trans (Device.announce_standing ..)
  have h2 : e2.standing = e1.standing := by
    unfold e2
    split <;> rfl
  split
  · exact (Device.complete_standing ..).trans (h2.trans h1)
  · exact h2.trans h1

theorem Device.acceptCommit_standing (t : Txn) (cfg : Cfg) (x : Deciding) : (d.acceptCommit t cfg x).standing = d.standing := by
  unfold Device.acceptCommit
  extract_lets y part e
  split
  · exact (Device.standing_of_inner (Device.send_inner (.vote _ t.id stOk) (d.setTxn t.coord t.id fun t => { t with prepared := true })) :)
  · split
    · have he : e.standing = d.standing := by
        unfold e
        cases t.waiter <;> rfl
      split
      · exact (Device.standing_of_inner (Device.toParts_inner t (e.setTxn none t.id Txn.unvoted) fun a => .prepare a t.id t.target) :).trans he
      · exact (Device.abortCommit_standing ..).trans he
    · rfl

theorem Device.decideHead_standing (x : Deciding) (key : Option Nat × Nat) (rest : List (Option Nat × Nat)) :
    (d.decideHead x key rest).standing = d.standing := by
  unfold Device.decideHead
  split
  · rfl
  · split
    · rfl
    · split
      · rfl
      · split
        · exact Device.refuseCommit_standing ..
        · split
          · exact Device.acceptCommit_standing ..
          · exact (Device.standing_of_inner (Device.send_inner ..) :)

theorem Device.decideOn_standing (n : Nat) : (d.decideOn n).standing = d.standing := by
  induction n generalizing d with
  | zero => rfl
  | succ n ih =>
    unfold Device.decideOn
    split
    · rfl
    · split
      · exact (ih _).trans (Device.decideHead_standing ..)
      · rfl

theorem Device.recordClosed_standing (l : List Txn) : (d.recordClosed l).standing = d.standing :=
  forList_keeps (g := Device.standing)
    (f := fun (t : Txn) (d : Device) => { d with fw := { d.fw with closed := trimClosed t.session t.coord (d.fw.closed ++ [{ t with waiter := none }]) } })
    l (fun _ _ => rfl) d

theorem Device.endDeciding_standing (x : Deciding) : (d.endDeciding x).standing = d.standing := by
  unfold Device.endDeciding
  extract_lets e
  have he : e.standing = d.standing := by
    unfold e
    split
    · rfl
    · exact Device.recordClosed_standing ..
  exact he

end standing

section answers
variable (s : State)

/-- An answer changes sessions alone, outside the data path. -/
theorem State.respond_inner (v : Via) (session : Nat) (tag : Word) (a : Ans) :
    ∃ l, (s.respond v session tag a).dev.inner = { s.dev.inner with fw := { s.dev.fw with sessions := l } } := by
  unfold State.respond
  extract_lets bytes
  split
  · split
    · exact ⟨s.dev.fw.sessions, Device.raise_inner ..⟩
    · exact ⟨s.dev.fw.sessions, rfl⟩
  · exact ⟨_, (Device.sendMessage_inner ..).trans rfl⟩

theorem State.writeAnswers_inner (l : List (Waiter × BitVec 16 × List Byte × Nat)) :
    ∃ m, (s.writeAnswers l).dev.inner = { s.dev.inner with fw := { s.dev.fw with sessions := m } } := by
  have hall : ∃ m, (forList l (fun (w, st, payload, e) s => State.respond w.via w.session w.tag ⟨st, payload, some e⟩ s) s).dev.inner =
      { s.dev.inner with fw := { s.dev.fw with sessions := m } } := by
    induction l generalizing s with
    | nil => exact ⟨s.dev.fw.sessions, rfl⟩
    | cons x l ih =>
      obtain ⟨w, st, payload, e⟩ := x
      obtain ⟨m, hm⟩ := s.respond_inner w.via w.session w.tag ⟨st, payload, some e⟩
      obtain ⟨k, hk⟩ := ih (s.respond w.via w.session w.tag ⟨st, payload, some e⟩)
      exact ⟨k, hk.trans (congrArg (fun d : Device => { d with fw := { d.fw with sessions := k } }) hm)⟩
  obtain ⟨m, hm⟩ := hall
  exact ⟨m, (congrArg Device.inner (State.settleMailboxes_outside _).1).trans hm⟩

/-- The device once all has been decided that can be. -/
def Device.decided (d : Device) : Device := d.decideOn (((d.fw.deciding.map (·.todo.length)).getD 0) + 1)

theorem State.decideBatch_cases : s.decideBatch = { s with dev := s.dev.decided } ∨
    ∃ x, s.dev.decided.fw.deciding = some x ∧ s.decideBatch = ({ s with dev := s.dev.decided.endDeciding x } : State).writeAnswers x.answers := by
  unfold State.decideBatch
  extract_lets d
  split
  · exact .inl rfl
  · next x hx =>
    split
    · exact .inr ⟨x, hx, rfl⟩
    · exact .inl rfl

theorem State.decideBatch_standing : s.decideBatch.dev.standing = s.dev.standing := by
  have hd : s.dev.decided.standing = s.dev.standing := Device.decideOn_standing ..
  obtain h | ⟨x, -, h⟩ := s.decideBatch_cases
  · exact (congrArg (fun s : State => s.dev.standing) h).trans hd
  · obtain ⟨m, hm⟩ := State.writeAnswers_inner { s with dev := s.dev.decided.endDeciding x } x.answers
    have hend : (State.writeAnswers x.answers { s with dev := s.dev.decided.endDeciding x }).dev.standing = (s.dev.decided.endDeciding x).standing :=
      (congrArg Device.standing hm :)
    exact (congrArg (fun s : State => s.dev.standing) h).trans (hend.trans ((Device.endDeciding_standing ..).trans hd))

end answers

/-! ### The transactions of a batch -/

/-- A transaction by its key. -/
def Device.entry (k : Option Nat × Nat) (d : Device) : Option Txn := d.txn? k.1 k.2

section entries
variable {d : Device} {k : Option Nat × Nat}

theorem Device.entry_of_txns {d e : Device} (h : e.fw.txns = d.fw.txns) : e.entry k = d.entry k := by
  rw [Device.entry, Device.txn?, h]
  rfl

theorem Device.entry_of_inner {d e : Device} (h : e.inner = d.inner) : e.entry k = d.entry k := Device.entry_of_txns (congrArg (·.fw.txns) h)

theorem Device.entry_key {t : Txn} (h : d.entry k = some t) : t.coord = k.1 ∧ t.id = k.2 := by
  have hkey := List.find?_some h
  simp only [Bool.and_eq_true, decide_eq_true_eq, beq_iff_eq] at hkey
  exact hkey

/-- A change of transactions that keeps their keys changes the one that is found. -/
theorem Device.entry_map {g : Txn → Txn} (hg : ∀ t, (g t).coord = t.coord ∧ (g t).id = t.id) {e : Device} (he : e.fw.txns = d.fw.txns.map g) :
    e.entry k = (d.entry k).map g := by
  have hpred : ((fun t : Txn => decide (t.coord = k.1) && t.id == k.2) ∘ g) = fun t => decide (t.coord = k.1) && t.id == k.2 := by
    funext t
    dsimp only [Function.comp]
    rw [(hg t).1, (hg t).2]
  rw [Device.entry, Device.txn?, he, List.find?_map, hpred]
  rfl

/-- Changing one transaction, and not its key, leaves the others. -/
theorem Device.entry_setTxn {coord : Option Nat} {id : Nat} {f : Txn → Txn} (hf : ∀ t, (f t).coord = t.coord ∧ (f t).id = t.id) :
    (d.setTxn coord id f).entry k = if (coord, id) = k then (d.entry k).map f else d.entry k := by
  have hall := Device.entry_map (d := d) (k := k) (g := fun t => if t.coord = coord ∧ t.id = id then f t else t) (e := d.setTxn coord id f)
    (fun t => by split; exacts [hf t, ⟨rfl, rfl⟩]) rfl
  refine hall.trans ?_
  cases ht : d.entry k with
  | none => exact (ite_self _).symm
  | some t =>
    obtain ⟨hc, hi⟩ := Device.entry_key ht
    by_cases hk : (coord, id) = k
    · subst hk
      rw [if_pos rfl]
      exact congrArg some (if_pos ⟨hc, hi⟩)
    · rw [if_neg hk]
      exact congrArg some (if_neg fun ⟨h1, h2⟩ => hk (Prod.ext (h1.symm.trans hc) (h2.symm.trans hi)))

theorem Device.entry_setTxn_ne {coord : Option Nat} {id : Nat} {f : Txn → Txn} (hf : ∀ t, (f t).coord = t.coord ∧ (f t).id = t.id)
    (hne : (coord, id) ≠ k) : (d.setTxn coord id f).entry k = d.entry k := (Device.entry_setTxn hf).trans (if_neg hne)

theorem Device.entry_retire {t : Txn} (hne : (t.coord, t.id) ≠ k) : (d.retire t).entry k = d.entry k := by
  change (d.fw.txns.filter fun u => !(decide (u.coord = t.coord) && u.id == t.id)).find? _ = _
  rw [List.find?_filter]
  refine List.find?_congr fun u _ => ?_
  by_cases hu : u.coord = k.1 ∧ u.id = k.2
  · have hnot : ¬(u.coord = t.coord ∧ u.id = t.id) := fun h => hne (Prod.ext (h.1.symm.trans hu.1) (h.2.symm.trans hu.2))
    simp only [hu.1, hu.2, decide_true, beq_self_eq_true, Bool.and_true]
    rw [hu.1, hu.2] at hnot
    rw [not_and_or] at hnot
    simpa using hnot
  · have hfalse : (decide (u.coord = k.1) && u.id == k.2) = false := by
      simpa using hu
    simp [hfalse]

theorem Device.recordClosed_txns (l : List Txn) (d : Device) : (d.recordClosed l).fw.txns = d.fw.txns :=
  forList_keeps (g := fun d : Device => d.fw.txns)
    (f := fun (t : Txn) (d : Device) => { d with fw := { d.fw with closed := trimClosed t.session t.coord (d.fw.closed ++ [{ t with waiter := none }]) } })
    l (fun _ _ => rfl) d

theorem Device.entry_addBatch {e : Nat} {cfg : Cfg} {items : List Item} {txns : List (Option Nat × Nat)} {cal : Bool} (hk : k ∉ txns) :
    (d.addBatch e cfg items txns cal).entry k = d.entry k := by
  unfold Device.addBatch
  extract_lets tag effect hit mark y fw f
  have hkeys (t : Txn) : (mark t).coord = t.coord ∧ (mark t).id = t.id := by
    unfold mark
    split <;> exact ⟨rfl, rfl⟩
  refine (Device.entry_map hkeys (Device.recordClosed_txns ..)).trans ?_
  cases ht : d.entry k with
  | none => rfl
  | some t =>
    obtain ⟨hc, hi⟩ := Device.entry_key ht
    refine congrArg some (if_neg fun hh => ?_)
    obtain ⟨x, hx, hxk⟩ := List.any_eq_true.1 hh
    simp only [Bool.and_eq_true, decide_eq_true_eq, beq_iff_eq] at hxk
    exact hk (Prod.ext (hxk.1.trans hc) (hxk.2.trans hi) ▸ hx)

end entries

/-! ### A transaction that a batch does not reach -/

/-- The batch at hand neither decides a transaction still nor takes it into its configuration. -/
def Device.spares (k : Option Nat × Nat) (d : Device) : Prop := ∀ x, d.fw.deciding = some x → k ∉ x.todo ∧ ∀ i ∈ x.txns, (none, i) ≠ k

section spares
variable {k : Option Nat × Nat} {d : Device}

theorem Deciding.answer_todo (t : Txn) (st : BitVec 16) (p : List Byte) (e : Nat) (x : Deciding) :
    (x.answer t st p e).todo = x.todo ∧ (x.answer t st p e).txns = x.txns ∧ (x.answer t st p e).waits = x.waits ∧ (x.answer t st p e).join = x.join := by
  unfold Deciding.answer
  split <;> exact ⟨rfl, rfl, rfl, rfl⟩

theorem Device.spares_setDeciding {e : Device} {x : Deciding} (h1 : k ∉ x.todo) (h2 : ∀ i ∈ x.txns, (none, i) ≠ k) : (e.setDeciding (some x)).spares k := by
  rintro y ⟨⟩
  exact ⟨h1, h2⟩

theorem Device.entry_setDeciding (x : Option Deciding) (e : Device) : (e.setDeciding x).entry k = e.entry k := rfl

theorem Device.refuseCommit_spares {t : Txn} {r : Refused} {x : Deciding} (hne : (t.coord, t.id) ≠ k) (h1 : k ∉ x.todo) (h2 : ∀ i ∈ x.txns, (none, i) ≠ k) :
    (d.refuseCommit t r x).entry k = d.entry k ∧ (d.refuseCommit t r x).spares k := by
  unfold Device.refuseCommit
  extract_lets e
  have he : e.entry k = d.entry k := Device.entry_setTxn_ne (fun _ => ⟨rfl, rfl⟩) hne
  split
  · next c hc => exact ⟨(Device.entry_of_inner (Device.send_inner (.vote c t.id r.status) e)).trans he, Device.spares_setDeciding h1 h2⟩
  · obtain ⟨ht, hx, -, -⟩ := Deciding.answer_todo t r.status r.report x.epoch x
    exact ⟨he, Device.spares_setDeciding (by rw [ht]; exact h1) (by rw [hx]; exact h2)⟩

theorem Device.complete_entry (w : Waiter) (st : BitVec 16) (p : List Byte) (d : Device) (e : Option Nat) : (d.complete w st p e).entry k = d.entry k := by
  obtain ⟨l, hl⟩ := d.complete_inner w st p e
  exact Device.entry_of_txns (congrArg (·.fw.txns) hl)

theorem Device.abortCommit_entry {t : Txn} {st : BitVec 16} {missing : Part → BitVec 16} (hc : t.coord = none) (hne : (t.coord, t.id) ≠ k) :
    (d.abortCommit t st missing).entry k = d.entry k := by
  unfold Device.abortCommit
  extract_lets e1 back0 back lives e2
  have h1 : e1.entry k = d.entry k :=
    (Device.entry_of_inner (Device.dropComing_inner ..)).trans (Device.entry_of_txns (Device.announce_txns ..))
  have h2 : e2.entry k = e1.entry k := by
    unfold e2
    split
    · exact Device.entry_setTxn_ne (fun _ => ⟨rfl, rfl⟩) (hc ▸ hne)
    · exact Device.entry_retire hne
  split
  · exact (Device.complete_entry ..).trans (h2.trans h1)
  · exact h2.trans h1

theorem Device.acceptCommit_spares {t : Txn} {cfg : Cfg} {x : Deciding} (hne : (t.coord, t.id) ≠ k) (h1 : k ∉ x.todo) (h2 : ∀ i ∈ x.txns, (none, i) ≠ k) :
    (d.acceptCommit t cfg x).entry k = d.entry k ∧ (d.acceptCommit t cfg x).spares k := by
  have hanswer {z : Deciding} {st : BitVec 16} {p : List Byte} {n : Nat} {e : Device} (hz1 : k ∉ z.todo) (hz2 : ∀ i ∈ z.txns, (none, i) ≠ k) :
      (e.setDeciding (some (z.answer t st p n))).spares k := by
    obtain ⟨ht, hx, -, -⟩ := Deciding.answer_todo t st p n z
    exact Device.spares_setDeciding (by rw [ht]; exact hz1) (by rw [hx]; exact hz2)
  unfold Device.acceptCommit
  extract_lets y part e
  split
  · next c hc =>
    have he : (d.setTxn t.coord t.id fun t => { t with prepared := true }).entry k = d.entry k :=
      Device.entry_setTxn_ne (fun _ => ⟨rfl, rfl⟩) hne
    exact ⟨(Device.entry_of_inner (Device.send_inner (.vote c t.id stOk) _)).trans he, Device.spares_setDeciding h1 h2⟩
  · next hc =>
    split
    · have he : e.entry k = d.entry k := by
        unfold e
        cases t.waiter <;> rfl
      split
      · have hset : (e.setTxn none t.id Txn.unvoted).entry k = e.entry k :=
          Device.entry_setTxn_ne (fun _ => ⟨rfl, rfl⟩) (hc ▸ hne)
        exact ⟨(Device.entry_of_inner (Device.toParts_inner t (e.setTxn none t.id Txn.unvoted) _)).trans (hset.trans he), hanswer h1 h2⟩
      · exact ⟨(Device.abortCommit_entry (t := t.unvoted) hc hne).trans he, hanswer h1 h2⟩
    · refine ⟨Device.entry_setTxn_ne (fun _ => ⟨rfl, rfl⟩) (hc ▸ hne), ?_⟩
      obtain ⟨ht, hx, -, -⟩ := Deciding.answer_todo t stOk [] (x.epoch + 1) y
      refine Device.spares_setDeciding (by change k ∉ (y.answer t stOk [] (x.epoch + 1)).todo; rw [ht]; exact h1) fun i hi => ?_
      rcases List.mem_append.1 hi with hi | hi
      · exact h2 i hi
      · rw [List.mem_singleton.1 hi]
        exact hc ▸ hne

theorem Device.decideHead_spares {x : Deciding} {key : Option Nat × Nat} {rest : List (Option Nat × Nat)} (hx : x.todo = key :: rest)
    (h1 : k ∉ x.todo) (h2 : ∀ i ∈ x.txns, (none, i) ≠ k) : (d.decideHead x key rest).entry k = d.entry k ∧ (d.decideHead x key rest).spares k := by
  have hkey : key ≠ k := fun h => h1 (by rw [hx, h]; exact List.mem_cons_self)
  have hrest : k ∉ rest := fun h => h1 (by rw [hx]; exact List.mem_cons_of_mem _ h)
  unfold Device.decideHead
  split
  · exact ⟨rfl, Device.spares_setDeciding hrest h2⟩
  · next t ht =>
    have hne : (t.coord, t.id) ≠ k := by
      obtain ⟨hc, hi⟩ := Device.entry_key (k := key) ht
      rw [hc, hi]
      exact hkey
    split
    · obtain ⟨-, hx', -, -⟩ := Deciding.answer_todo t stTxnStale [] x.epoch x
      exact ⟨Device.entry_retire (t := { t with waiter := none }) hne,
        Device.spares_setDeciding hrest (fun i hi => h2 i (hx' ▸ hi))⟩
    · split
      · exact ⟨rfl, Device.spares_setDeciding hrest h2⟩
      · split
        · exact Device.refuseCommit_spares hne hrest h2
        · split
          · exact Device.acceptCommit_spares hne hrest h2
          · exact ⟨(Device.entry_of_inner (k := k) (Device.send_inner (.reserve (.ask d.nextAsk.1 (t.effectAt x.epoch) _)) d.nextAsk.2) :), Device.spares_setDeciding h1 h2⟩

theorem Device.decideOn_spares (n : Nat) (h : d.spares k) : (d.decideOn n).entry k = d.entry k ∧ (d.decideOn n).spares k := by
  induction n generalizing d with
  | zero => exact ⟨rfl, h⟩
  | succ n ih =>
    unfold Device.decideOn
    split
    · exact ⟨rfl, h⟩
    · next x hx =>
      split
      · next key rest _ htodo =>
        obtain ⟨h1, h2⟩ := h x hx
        obtain ⟨hentry, hspares⟩ := Device.decideHead_spares (d := d) htodo h1 h2
        obtain ⟨hentry', hspares'⟩ := ih hspares
        exact ⟨hentry'.trans hentry, hspares'⟩
      · exact ⟨rfl, h⟩

theorem State.decideBatch_entry {s : State} (h : s.dev.spares k) : s.decideBatch.dev.entry k = s.dev.entry k := by
  obtain ⟨hentry, hspares⟩ := Device.decideOn_spares (((s.dev.fw.deciding.map (·.todo.length)).getD 0) + 1) h
  obtain hb | ⟨x, hx, hb⟩ := s.decideBatch_cases
  · exact (congrArg (fun s : State => s.dev.entry k) hb).trans hentry
  · obtain ⟨-, h2⟩ := hspares x hx
    obtain ⟨m, hm⟩ := State.writeAnswers_inner { s with dev := s.dev.decided.endDeciding x } x.answers
    have hanswers : (State.writeAnswers x.answers { s with dev := s.dev.decided.endDeciding x }).dev.entry k = (s.dev.decided.endDeciding x).entry k :=
      Device.entry_of_txns (congrArg (·.fw.txns) hm)
    have hend : (s.dev.decided.endDeciding x).entry k = s.dev.decided.entry k := by
      unfold Device.endDeciding
      extract_lets e
      have he : e.entry k = s.dev.decided.entry k := by
        unfold e
        split
        · rfl
        · refine Device.entry_addBatch fun hin => ?_
          obtain ⟨i, hi, hik⟩ := List.mem_map.1 hin
          exact h2 i hi hik
      exact he
    exact (congrArg (fun s : State => s.dev.entry k) hb).trans (hanswers.trans (hend.trans hentry))

end spares

/-! ### A batch whose last commit has its outcome -/

section outcome
variable {d : Device} {t : Txn} {x : Deciding}

theorem Device.refuseCommit_spec (r : Refused) : ∃ z, (d.refuseCommit t r x).fw.deciding = some z ∧ z.todo = x.todo ∧ z.waits = x.waits ∧ z.txns = x.txns ∧
    z.join = x.join ∧ (d.refuseCommit t r x).fw.live = d.fw.live ∧ (d.refuseCommit t r x).fw.committed = d.fw.committed ∧
    (d.refuseCommit t r x).entry (t.coord, t.id) =
      (d.entry (t.coord, t.id)).map fun t => { t with state := .open_, prepared := false, waiter := none } := by
  unfold Device.refuseCommit
  extract_lets e
  have he : e.entry (t.coord, t.id) = (d.entry (t.coord, t.id)).map fun t => { t with state := .open_, prepared := false, waiter := none } :=
    (Device.entry_setTxn (f := fun t => { t with state := .open_, prepared := false, waiter := none }) fun _ => ⟨rfl, rfl⟩).trans (if_pos rfl)
  split
  · next c hc =>
    have hsend := Device.send_inner (.vote c t.id r.status) e
    exact ⟨x, rfl, rfl, rfl, rfl, rfl, congrArg (·.fw.live) hsend, congrArg (·.fw.committed) hsend, (Device.entry_of_inner hsend).trans he⟩
  · obtain ⟨ht, hx, hw, hj⟩ := Deciding.answer_todo t r.status r.report x.epoch x
    exact ⟨_, rfl, ht, hw, hx, hj, rfl, rfl, he⟩

theorem Device.acceptCommit_deciding (cfg : Cfg) : ∃ z, (d.acceptCommit t cfg x).fw.deciding = some z ∧ z.todo = x.todo ∧ z.waits = x.waits := by
  unfold Device.acceptCommit
  extract_lets y part e
  split
  · exact ⟨part, rfl, rfl, rfl⟩
  · split
    · split
      · obtain ⟨ht, -, hw, -⟩ := Deciding.answer_todo t stAccepted [] t.target part
        exact ⟨_, rfl, ht, hw⟩
      · obtain ⟨ht, -, hw, -⟩ := Deciding.answer_todo t stAccepted [] t.target x
        exact ⟨_, rfl, ht, hw⟩
    · obtain ⟨ht, -, hw, -⟩ := Deciding.answer_todo t stOk [] (x.epoch + 1) y
      exact ⟨_, rfl, ht, hw⟩

/-- With nothing left to decide the batch ends, and its answers are written. -/
theorem State.decideBatch_done {s : State} {z : Deciding} (h : s.dev.fw.deciding = some z) (ht : z.todo = []) (hw : z.waits = none) :
    s.decideBatch = ({ s with dev := s.dev.endDeciding z } : State).writeAnswers z.answers := by
  have hon (n : Nat) : s.dev.decideOn n = s.dev := by
    cases n with
    | zero => rfl
    | succ n => simp [Device.decideOn, h, ht, hw]
  unfold State.decideBatch
  dsimp only
  rw [hon, h]
  exact if_pos ⟨ht, hw⟩

theorem State.decideBatch_ended {s : State} {z : Deciding} (h : s.dev.fw.deciding = some z) (ht : z.todo = []) (hw : z.waits = none) :
    s.decideBatch.dev.fw.deciding = none := by
  obtain ⟨m, hm⟩ := State.writeAnswers_inner { s with dev := s.dev.endDeciding z } z.answers
  exact (congrArg (fun s : State => s.dev.fw.deciding) (State.decideBatch_done h ht hw)).trans (congrArg (·.fw.deciding) hm)

/-- A batch that takes no commit in leaves the live configuration and its tag. -/
theorem State.decideBatch_empty {s : State} {z : Deciding} (h : s.dev.fw.deciding = some z) (ht : z.todo = []) (hw : z.waits = none) (hx : z.txns = [])
    (hj : z.join = false) : s.decideBatch.dev.fw.live = s.dev.fw.live ∧ s.decideBatch.dev.fw.committed = s.dev.fw.committed ∧
      ∀ k, s.decideBatch.dev.entry k = s.dev.entry k := by
  obtain ⟨m, hm⟩ := State.writeAnswers_inner { s with dev := s.dev.endDeciding z } z.answers
  have hend : s.dev.endDeciding z = s.dev.setDeciding none := by
    unfold Device.endDeciding
    rw [if_pos ⟨hx, by rw [hj]; rfl⟩]
  rw [State.decideBatch_done h ht hw]
  rw [hend] at hm ⊢
  exact ⟨congrArg (·.fw.live) hm, congrArg (·.fw.committed) hm, fun k => Device.entry_of_txns (congrArg (·.fw.txns) hm)⟩

end outcome

/-! ### Routes asked for -/

section refused
variable {s : State} {d : Device} {t : Txn} {x : Deciding} {k : Option Nat × Nat} {keys : List (Option Nat × Nat)}

/-- The commit at the head of a batch is refused once its routes are answered, and the batch goes on. -/
def State.refused (s : State) (d : Device) (t : Txn) (r : Refused) (x : Deciding) (keys : List (Option Nat × Nat)) : State :=
  ({ s with dev := d.refuseCommit t r { x with todo := keys, waits := none } } : State).decideBatch

theorem State.refused_standing (r : Refused) : (s.refused d t r x keys).dev.standing = d.standing :=
  (State.decideBatch_standing _).trans (Device.refuseCommit_standing ..)

theorem State.refused_ended (r : Refused) (hk : keys = []) : (s.refused d t r x keys).dev.fw.deciding = none := by
  obtain ⟨z, hz, ht, hw, -⟩ := Device.refuseCommit_spec (d := d) (t := t) (x := { x with todo := keys, waits := none }) r
  exact State.decideBatch_ended hz (ht.trans hk) hw

/-- The refused transaction stays open, as long as the batch does not meet it again. -/
theorem State.refused_open (r : Refused) (ht : d.entry k = some t) (hkeys : k ∉ keys) (hin : ∀ i ∈ x.txns, (none, i) ≠ k) :
    ∃ y, (s.refused d t r x keys).dev.entry k = some y ∧ y.state = .open_ ∧ y.items = t.items := by
  obtain ⟨hc, hi⟩ := Device.entry_key ht
  have hk : k = (t.coord, t.id) := Prod.ext hc.symm hi.symm
  obtain ⟨z, hz, htodo, -, htxns, -, -, -, hentry⟩ := Device.refuseCommit_spec (d := d) (t := t) (x := { x with todo := keys, waits := none }) r
  have hspares : (d.refuseCommit t r { x with todo := keys, waits := none }).spares k := by
    intro y hy
    obtain rfl := Option.some.inj (hz.symm.trans hy)
    exact ⟨by rw [htodo]; exact hkeys, by rw [htxns]; exact hin⟩
  refine ⟨{ t with state := .open_, prepared := false, waiter := none }, ?_, rfl, rfl⟩
  refine (State.decideBatch_entry (s := { s with dev := d.refuseCommit t r { x with todo := keys, waits := none } }) hspares).trans ?_
  rw [hk] at ht ⊢
  rw [hentry, ht]
  rfl

theorem State.refused_last (r : Refused) (hk : keys = []) (hx : x.txns = []) (hj : x.join = false) :
    (s.refused d t r x keys).dev.fw.live = d.fw.live ∧ (s.refused d t r x keys).dev.fw.committed = d.fw.committed := by
  obtain ⟨z, hz, htodo, hw, htxns, hjoin, hlive, hcommitted, -⟩ :=
    Device.refuseCommit_spec (d := d) (t := t) (x := { x with todo := keys, waits := none }) r
  obtain ⟨h1, h2, -⟩ := State.decideBatch_empty (s := { s with dev := d.refuseCommit t r { x with todo := keys, waits := none } }) hz (htodo.trans hk) hw
    (htxns.trans hx) (hjoin.trans hj)
  exact ⟨h1.trans hlive, h2.trans hcommitted⟩

end refused

/-! ### What the Bellringer and its devices say of routes -/

/-- Device time goes on whatever the Commons does. -/
theorem Device.tickTo_clk_fab (t : Nat) (f : Fabric) (d : Device) : (Device.tickTo t { d with fab := f }).clk = (d.tickTo t).clk := by
  unfold Device.tickTo
  split <;> rfl

/-- The Commons but for what is sent and has still to be acknowledged. -/
def Fabric.quiet (f : Fabric) : Fabric :=
  { f with
    out := []
    telling := [] }

theorem Device.tell_quiet (x : OutFrame) (d : Device) : (d.tell x).fab.quiet = d.fab.quiet := by
  have h : (d.tell x).fab.quiet = (d.send x).fab.quiet := rfl
  rw [h, Device.send_fab]
  rfl

theorem Device.setReservations_quiet (rs : List Reservation) (d : Device) :
    (d.setReservations rs).fab.quiet = { d.fab with reservations := rs }.quiet := by
  unfold Device.setReservations
  extract_lets old news stale f e
  exact forList_keeps (g := fun d : Device => d.fab.quiet) (f := fun a (d : Device) => d.tell (.reserveReply a (.ending (endingAt a rs)))) news
    (fun _ _ => Device.tell_quiet ..) e

/-- Settles O49: what waits for an answer is found in the Commons or in the batch, and each answer or its absence is followed to the end of its step. -/
theorem fabricRequestsAreAnswered : Obligations.FabricRequestsAreAnswered := by
  unfold Obligations.FabricRequestsAreAnswered
  intro s a tag bytes r sameAt same kept told
  have hsame {d : Device} (h : d.standing = s.dev.standing) : same { s with dev := d } :=
    ⟨rfl, congrArg (·.1) h, congrArg (·.2.1) h, congrArg (·.2.2.1) h, congrArg (·.2.2.2.1) h, congrArg (·.2.2.2.2.1) h, congrArg (·.2.2.2.2.2) h⟩
  have hkept {d : Device} (h : d.inner = s.dev.inner) : kept { s with dev := d } := ⟨hsame (Device.standing_of_inner h), rfl, congrArg (·.fw) h⟩
  have htold {d : Device} {w : Waiter} {st : BitVec 16} {l : List Byte} (h : d.fw.sessions = s.dev.fw.sessions) :
      told { s with dev := d.complete w st l } w st l := by
    intro y hy hserial htransport
    refine ⟨_, _, Device.complete_queued st l none ?_ hserial htransport, rfl, rfl, rfl, rfl, rfl, rfl⟩
    rw [Device.session?, h]
    exact hy
  have hcounted (n : Nat) : (s.dev.ctlRx n).inner = s.dev.inner ∧ (s.dev.ctlRx n).fab = s.dev.fab := ⟨Device.ctlRx_inner .., Device.countAt_fab ..⟩
  have htaken (tag : Word) {f : Forward} (hf : s.dev.fab.forwards.find? (fun f => f.peer == a && f.tag == tag) = some f) :
      s.dev.takeForward a tag = some (f, { s.dev with fab := { s.dev.fab with forwards := s.dev.fab.forwards.erase f } }) := by
    rw [Device.takeForward, hf]
    rfl
  refine ⟨fun f hf => ⟨fun hle => ?_, fun hlt => ?_⟩, fun f hf => ⟨fun hreach => ?_, fun hreach => ?_⟩, fun key e items lanes hbr ha => ?_,
    fun haddr => ?_, fun x key items k keys t hx hw htodo ht hwait => ?_⟩
  · let d : Device := { s.dev with fab := { s.dev.fab with forwards := s.dev.fab.forwards.erase f } }
    have hd : (d.ctlRx a).inner = s.dev.inner := Device.ctlRx_inner ..
    have hexec : exec (.fabricMessageResponse a bytes) s =
        .next { s with dev := (d.ctlRx a).complete f.waiter stOk (bytes.take (16 + u16 bytes 0)) } := by
      change execFabricMessageResponse a bytes s = _
      unfold execFabricMessageResponse
      rw [htaken _ hf, Option.filter_some, if_pos (decide_eq_true hle)]
    exact ⟨_, hexec, hsame ((Device.complete_standing ..).trans (Device.standing_of_inner hd)), rfl,
      (Device.complete_forwards ..).trans (congrArg Fabric.forwards (Device.countAt_fab ..)), htold (congrArg (·.fw.sessions) hd)⟩
  · have hexec : exec (.fabricMessageResponse a bytes) s = if s.dev.fab.address = 0 then .next s else onDev (Device.ctlRx a) s := by
      change execFabricMessageResponse a bytes s = _
      unfold execFabricMessageResponse
      rw [htaken _ hf, Option.filter_some, if_neg (by simpa using hlt)]
    by_cases h0 : s.dev.fab.address = 0
    · rw [if_pos h0] at hexec
      exact ⟨_, hexec, hkept rfl, rfl⟩
    · rw [if_neg h0] at hexec
      exact ⟨_, hexec, hkept (hcounted a).1, (hcounted a).2⟩
  · let d : Device := { s.dev with fab := { s.dev.fab with forwards := s.dev.fab.forwards.erase f } }
    have hexec : exec (.fabricForwardTimeout a tag) s = .next { s with dev := (d.tickTo f.ends).complete f.waiter stFabTimeout [] } := by
      change execFabricForwardTimeout a tag s = _
      unfold execFabricForwardTimeout
      rw [htaken _ hf]
      exact if_pos hreach
    have hd : ((d.tickTo f.ends).complete f.waiter stFabTimeout []).standing = (d.tickTo f.ends).standing := Device.complete_standing ..
    refine ⟨_, hexec, ⟨rfl, (congrArg (·.1) hd).trans ?_, (congrArg (·.2.1) hd).trans ?_, (congrArg (·.2.2.1) hd).trans (Device.tickTo_regs ..),
      (congrArg (·.2.2.2.1) hd).trans (Device.tickTo_pw ..), (congrArg (·.2.2.2.2.1) hd).trans (Device.tickTo_clk_fab ..), (congrArg (·.2.2.2.2.2) hd).trans (Device.tickTo_chans ..)⟩, rfl,
      (Device.complete_forwards ..).trans (congrArg Fabric.forwards (Device.tickTo_fab f.ends d)), htold (congrArg Fw.sessions (Device.tickTo_fw f.ends d))⟩
    · exact congrArg Fw.eff (Device.tickTo_fw f.ends d)
    · exact congrArg Fw.effective (Device.tickTo_fw f.ends d)
  · change execFabricForwardTimeout a tag s = _
    unfold execFabricForwardTimeout
    rw [htaken _ hf]
    exact if_neg (hreach ▸ Bool.false_ne_true)
  · let c := s.dev.ctlRx a
    obtain ⟨hci, hcf⟩ := hcounted a
    have hexec (ask : ReserveAsk) : exec (.reserveRequest a ask lanes) s = .next (({ s with dev := c } : State).takeAsk a ask lanes) :=
      (if_pos hbr).trans (if_neg ha)
    intro f noted
    have hnoted {d : Device} (h : d.inner = s.dev.inner) : noted { s with dev := d.send (.reserveReply a (.noted key)) } := by
      refine ⟨hkept ((Device.send_inner ..).trans h), ?_⟩
      dsimp only
      rw [Device.send_out]
      exact List.mem_append_right _ (List.mem_singleton_self _)
    have hset {rs : List Reservation} : ((c.setReservations rs).send (.reserveReply a (.noted key))).fab.reservations = rs := by
      rw [Device.send_fab]
      exact congrArg Fabric.reservations (Device.setReservations_quiet rs c)
    refine ⟨fun hnone => ?_, fun hsome => ?_, fun o => ?_, ?_, fun rs hother => ?_, ?_⟩
    · let x := f.reserve a key e items lanes
      let d := Device.setReservations x.2.reservations { c with fab := { c.fab with nextRoute := x.2.nextRoute } }
      have hd : d.inner = s.dev.inner := (Device.setReservations_inner ..).trans hci
      have hquiet : d.fab.quiet = { c.fab with nextRoute := x.2.nextRoute, reservations := x.2.reservations }.quiet := Device.setReservations_quiet ..
      have haddr : d.fab.address = f.address := (congrArg Fabric.address hquiet : _).trans (congrArg Fabric.address hcf : c.fab.address = f.address)
      have hdone : ({ s with dev := c } : State).takeAsk a (.ask key e items) lanes = { s with dev := d.send (.reserveReply a x.1) } := by
        have hx : x = c.fab.reserve a key e items lanes := by rw [hcf]
        refine (if_pos ((congrArg Fabric.unreported hcf).trans hnone)).trans ?_
        unfold State.answerAsk
        dsimp only
        rw [← hx]
        exact if_neg (haddr ▸ ha)
      refine ⟨_, (hexec _).trans (congrArg _ hdone), hkept ((Device.send_inner ..).trans hd), ?_, ?_⟩
      · dsimp only
        rw [Device.send_out]
        exact List.mem_append_right _ (List.mem_singleton_self _)
      · dsimp only
        rw [Device.send_fab]
        exact (congrArg Fabric.reservations hquiet :)
    · have hdone : ({ s with dev := c } : State).takeAsk a (.ask key e items) lanes =
          { s with dev := { c with fab := { c.fab with asked := c.fab.asked ++ [(a, .ask key e items, lanes)] } } } :=
        if_neg fun h => hsome ((congrArg Fabric.unreported hcf).symm.trans h)
      exact ⟨_, (hexec _).trans (congrArg _ hdone), hkept hci,
        congrArg (fun f : Fabric => { f with asked := f.asked ++ [(a, ReserveAsk.ask key e items, lanes)] }) hcf⟩
    · exact ⟨_, hexec _, hnoted ((Device.setReservations_inner ..).trans hci), hset.trans (by rw [hcf])⟩
    · exact ⟨_, hexec _, hnoted ((Device.setReservations_inner ..).trans hci), hset.trans (by rw [hcf])⟩
    · have hd : (c.takeReport a rs).inner = s.dev.inner := (Device.setReservations_inner ..).trans hci
      have hquiet : ((c.takeReport a rs).send (.reserveReply a (.noted key))).fab.quiet =
          { c.fab with
            unreported := c.fab.unreported.filter (· != a)
            nextRoute := (rs.map fun r : Reservation => { r with src := a }).foldl (fun (n : Nat) (r : Reservation) => Max.max n (r.ans.routeId + 1)) c.fab.nextRoute
            reservations := (c.fab.reservations.filter fun r : Reservation => r.src != a) ++ rs.map fun r : Reservation => { r with src := a } }.quiet := by
        rw [Device.send_fab]
        exact Device.setReservations_quiet ..
      obtain ⟨y, hy, hya⟩ := hother
      have hunreported : ((c.takeReport a rs).send (.reserveReply a (.noted key))).fab.unreported = f.unreported.filter (· != a) :=
        Eq.trans (b := c.fab.unreported.filter (· != a)) (congrArg Fabric.unreported hquiet :)
          (congrArg (fun f : Fabric => f.unreported.filter (· != a)) hcf :)
      have hleft : y ∈ ((c.takeReport a rs).send (.reserveReply a (.noted key))).fab.unreported :=
        hunreported ▸ List.mem_filter.2 ⟨hy, bne_iff_ne.2 hya⟩
      have hdone : ({ s with dev := c } : State).takeAsk a (.report key rs) lanes =
          { s with dev := (c.takeReport a rs).send (.reserveReply a (.noted key)) } :=
        if_pos (List.ne_nil_of_mem hleft)
      refine ⟨_, (hexec _).trans (congrArg _ hdone), hnoted hd, ?_, ?_, ?_⟩
      · exact hunreported
      · exact Eq.trans (b := c.fab.asked) (congrArg Fabric.asked hquiet :) (congrArg Fabric.asked hcf :)
      · have hset : ((c.takeReport a rs).send (.reserveReply a (.noted key))).fab.reservations =
            (c.fab.reservations.filter fun x : Reservation => x.src != a) ++ rs.map fun x : Reservation => { x with src := a } :=
          (congrArg Fabric.reservations hquiet :)
        exact hset.trans (by rw [hcf])
    · refine ⟨_, hexec _, hkept hci, (congrArg Fabric.out hcf :), (congrArg Fabric.reservations hcf :), fun y => ?_⟩
      change y ∈ c.fab.telling.filter _ ↔ _
      rw [hcf, List.mem_filter]
      refine and_congr_right fun hmem => ?_
      constructor
      · rintro hnot l rfl
        simp at hnot
      · intro hne
        dsimp only
        split
        · next b l =>
          have hb : b ≠ a := fun h => hne l (by rw [h])
          simpa using hb
        · rfl
  · let c := s.dev.ctlRx s.dev.fab.bellringer
    obtain ⟨hci, hcf⟩ := hcounted s.dev.fab.bellringer
    have hexec (r : ReserveReply) : exec (.reserveAnswer r) s = .next (({ s with dev := c } : State).reserveAnswer r) := if_neg haddr
    refine ⟨fun rs => ⟨_, hexec _, hkept hci, ?_⟩, fun l => ⟨_, hexec _, hkept ((Device.send_inner ..).trans hci), ?_⟩,
      fun k => ⟨_, hexec _, hkept hci, (congrArg Fabric.out hcf :), ?_⟩, fun hnone rs => ?_⟩
    · exact congrArg (fun f : Fabric => { f with routes := f.routes.map (Route.offer rs) }) hcf
    · exact (Device.send_fab ..).trans (congrArg (fun f : Fabric => { f with ending := l, out := f.out ++ [OutFrame.reserve .noted] }) hcf)
    · intro y
      change y ∈ c.fab.telling.filter _ ↔ _
      rw [hcf, List.mem_filter]
      refine and_congr_right fun hmem => ?_
      constructor
      · rintro hnot b rfl
        simpa using hnot
      · intro hne
        dsimp only
        split
        · next b => simpa using hne b rfl
        · rfl
    · have hdec : c.fw.deciding = none := (congrArg (·.fw.deciding) hci : c.fw.deciding = _).trans hnone
      have hdone : ({ s with dev := c } : State).reserveAnswer (.routes rs) = { s with dev := c } := by
        change ({ s with dev := c } : State).routeAnswer (.routes rs) = _
        unfold State.routeAnswer
        rw [hdec]
      exact ⟨_, (hexec _).trans (congrArg _ hdone), hkept hci, hcf⟩
  · let c := s.dev.ctlRx s.dev.fab.bellringer
    obtain ⟨hci, hcf⟩ := hcounted s.dev.fab.bellringer
    have hentry : c.entry k = some t := (Device.entry_of_inner hci).trans ht
    have hwaits : (s.dev.txn? k.1 k.2).filter (fun t => decide (t.state = .waiting)) = some t := by
      rw [ht, Option.filter_some, if_pos (decide_eq_true hwait)]
    have hwaits' : (c.txn? k.1 k.2).filter (fun t => decide (t.state = .waiting)) = some t := by
      rw [show c.txn? k.1 k.2 = some t from hentry, Option.filter_some, if_pos (decide_eq_true hwait)]
    have hdec : c.fw.deciding = some x := (congrArg (·.fw.deciding) hci : c.fw.deciding = _).trans hx
    have hanswer (haddr : s.dev.fab.address ≠ 0) (r : ReserveReply) : exec (.reserveAnswer r) s = .next (({ s with dev := c } : State).reserveAnswer r) :=
      if_neg haddr
    have hrefused (r : ReserveReply) (e : Refused) (hr : reserveReport (applyItems t.items x.cfg) r = some e) :
        ({ s with dev := c } : State).routeAnswer r = State.refused { s with dev := c } c t e x keys := by
      unfold State.routeAnswer
      rw [hdec]
      dsimp only
      rw [hw, htodo]
      dsimp only
      rw [hwaits']
      dsimp only
      rw [hr]
      rfl
    have htimeout : exec .reserveTimeout s = .next (State.refused s (s.dev.cancelAsk key) t ⟨stDenied, []⟩ x keys) := by
      change Host.Outcome.next s.reserveTimeout = _
      unfold State.reserveTimeout
      rw [hx]
      dsimp only
      rw [hw, htodo]
      dsimp only
      rw [hwaits]
      rfl
    have hcancel : (s.dev.cancelAsk key).inner = s.dev.inner := Device.cancelAsk_inner ..
    have hgiven {d : Device} (h : d.inner = s.dev.inner) (u : State) (e : Refused) (hu : u.pending = s.pending) : same (u.refused d t e x keys) := by
      obtain ⟨-, h1, h2, h3, h4, h5, h6⟩ := hsame ((State.refused_standing e).trans (Device.standing_of_inner h))
      exact ⟨(State.decideBatch_pending _).trans hu, h1, h2, h3, h4, h5, h6⟩
    have hspared (hin : k.2 ∉ x.txns) : ∀ i ∈ x.txns, (none, i) ≠ k := fun i hi h => hin (h ▸ hi)
    have hmember (haddr : s.dev.fab.address ≠ 0) : exec (.reserveAnswer .noMember) s =
        .next (State.refused { s with dev := c } c t ⟨stBadField, []⟩ x keys) :=
      (hanswer haddr _).trans (congrArg _ (hrefused .noMember _ rfl))
    refine ⟨fun hr haddr => ?_, fun hk hin => ⟨fun haddr => ?_, ?_⟩, fun hk hxs hjoin => ⟨fun haddr => ?_, ?_⟩⟩
    · have hroute : ({ s with dev := c } : State).reserveAnswer r = ({ s with dev := c } : State).routeAnswer r := by
        obtain ⟨h1, h2, h3⟩ := hr (match r with | .noted k => k | _ => 0) (match r with | .ending l => l | _ => []) (match r with | .changed rs => rs | _ => [])
        cases r with
        | noted k => exact absurd rfl h1
        | ending l => exact absurd rfl h2
        | changed rs => exact absurd rfl h3
        | _ => rfl
      refine ⟨_, (hanswer haddr r).trans (congrArg _ hroute), ?_⟩
      cases hreport : reserveReport (applyItems t.items x.cfg) r with
      | some e =>
        rw [hrefused r e hreport]
        exact ⟨hgiven hci _ _ rfl, State.refused_ended e⟩
      | none =>
        let y : Deciding := { x with todo := keys, waits := none }
        obtain ⟨d, hd, hpassed⟩ : ∃ d : Device, d.inner = s.dev.inner ∧ ({ s with dev := c } : State).routeAnswer r =
            ({ s with dev := d.acceptCommit t (applyItems t.items x.cfg) y } : State).decideBatch := by
          unfold State.routeAnswer
          rw [hdec]
          dsimp only
          rw [hw, htodo]
          dsimp only
          rw [hwaits']
          dsimp only
          rw [hreport]
          refine ⟨_, ?_, rfl⟩
          exact hci
        rw [hpassed]
        obtain ⟨-, h1, h2, h3, h4, h5, h6⟩ := hsame
          ((State.decideBatch_standing { s with dev := d.acceptCommit t (applyItems t.items x.cfg) y }).trans
            ((Device.acceptCommit_standing d t (applyItems t.items x.cfg) y).trans (Device.standing_of_inner hd)))
        obtain ⟨z, hz, htodo', hwaits''⟩ := Device.acceptCommit_deciding (d := d) (t := t) (x := y) (applyItems t.items x.cfg)
        exact ⟨⟨State.decideBatch_pending _, h1, h2, h3, h4, h5, h6⟩, fun hk => State.decideBatch_ended hz (htodo'.trans hk) hwaits''⟩
    · exact ⟨_, hmember haddr, hgiven hci _ _ rfl, State.refused_open _ hentry hk (hspared hin)⟩
    · exact ⟨_, htimeout, hgiven hcancel _ _ rfl, State.refused_open _ ((Device.entry_of_inner hcancel).trans ht) hk (hspared hin)⟩
    · obtain ⟨hlive, hcommitted⟩ := State.refused_last (s := { s with dev := c }) (d := c) (t := t) ⟨stBadField, []⟩ hk hxs hjoin
      exact ⟨_, hmember haddr, hgiven hci _ _ rfl, State.refused_ended _ hk, hlive.trans (congrArg (·.fw.live) hci), hcommitted.trans (congrArg (·.fw.committed) hci),
        State.refused_open _ hentry (by rw [hk]; exact List.not_mem_nil) (hspared (by rw [hxs]; exact List.not_mem_nil))⟩
    · obtain ⟨hlive, hcommitted⟩ := State.refused_last (s := s) (d := s.dev.cancelAsk key) (t := t) ⟨stDenied, []⟩ hk hxs hjoin
      exact ⟨_, htimeout, hgiven hcancel _ _ rfl, State.refused_ended _ hk, hlive.trans (congrArg (·.fw.live) hcancel),
        hcommitted.trans (congrArg (·.fw.committed) hcancel),
        State.refused_open _ ((Device.entry_of_inner hcancel).trans ht) (by rw [hk]; exact List.not_mem_nil) (hspared (by rw [hxs]; exact List.not_mem_nil))⟩

end Sys2Proof.Machine
end

section
namespace Sys2Proof.Machine

/-! O50: a verification that a supply warning has met. -/

/-- Who waits for the verification. -/
def verifier : Waiter := ⟨.mailbox 0, 1, 0#32, 0x0D01, 0, 0⟩

/-- An image is being verified whose bank write a warning has found begun. -/
def begunImage : State :=
  { State.reset with
    dev := { State.reset.dev with
      work := { State.reset.dev.work with
        verify := some (0, 0, verifier)
        imageBegun := true } } }

/-- With the verification the mark that its write had begun is gone too. -/
theorem verified_forgets : (begunImage.dev.verified 0 0 verifier).work.imageBegun = false := by decide +kernel

/-- Refutes O50: the end of a verification clears more of the firmware's work than the verification itself. -/
theorem not_longWorkCompletes : ¬ Obligations.LongWorkCompletes := by
  unfold Obligations.LongWorkCompletes
  intro h
  obtain ⟨-, -, -, hverify⟩ := h.2 begunImage
  obtain ⟨u, hu, -, hwork, -⟩ := hverify 0 0 verifier rfl
  have hexec : exec .fwVerifyDone begunImage = .next { begunImage with dev := begunImage.dev.verified 0 0 verifier } := rfl
  obtain rfl : { begunImage with dev := begunImage.dev.verified 0 0 verifier } = u := Host.Outcome.next.inj (hexec.symm.trans hu)
  exact absurd (verified_forgets.symm.trans (congrArg (·.imageBegun) hwork)) (by decide)

end Sys2Proof.Machine
end

section
namespace Sys2Proof.Machine

/-! O35: a trigger message that comes late, to a one-shot unit whose record has changed since the message's decision instant. -/

/-- A one-shot FABRIC unit that takes message 5 of any device. -/
def listener : UnitCfg :=
  { enable := true, oneshot := true, skipSettle := false, type := 8, sel := 0, src := 0, word := 0, a := 0#32, b := 0#32, m := 5, p1 := 0xFFF, p2 := 0,
    holdoff := 0, seqmode := 0, seqin := 0, seqn := 0, seqt := 0, rgrp := 0, act := 0, outpins := 0, region := 0, outDelay := 0, outWidth := 0,
    bcId := 0, bcDest := 0 }

/-- A message whose record closed at instant 0. -/
def lateMessage : TrigMsg := ⟨2, 5, 0, 0, 0, 0#14⟩

/-- In RUN throughout; unit 0 had fired before its record changed at instant 10, and has not since. -/
def rearmed : State :=
  { State.reset with
    dev := { State.reset.dev with
      fw := { State.reset.dev.fw with eff := { State.reset.dev.fw.eff with units := [(0, listener)] } }
      fab := { State.reset.dev.fab with address := 1 }
      marks := { State.reset.dev.marks with runs := [(0, none)] }
      trig := { State.reset.dev.trig with olds := [(0, 10, { UnitRun.init with shot := true })] } } }

/-- The device once the message has come, later than 48,096 ticks after its close. -/
def fired : Device := ((rearmed.dev.tickTo 48097).ctlRx 2).trigMessage lateMessage 48097

/-- The unit fires: it is looked at as it stands when the message comes. -/
theorem fired_recs : fired.trig.recs ≠ rearmed.dev.trig.recs := by decide +kernel

/-- Refutes O35: a late message meets the unit of its arrival, and not the one of its decision instant, which was held. -/
theorem not_triggersFireAndLeave : ¬ Obligations.TriggersFireAndLeave := by
  unfold Obligations.TriggersFireAndLeave
  intro h
  obtain ⟨-, hmessage⟩ := h.2.1 rearmed 0 listener 48097
  obtain ⟨v, hv, -, -, hdetected⟩ := hmessage lateMessage (by decide)
  obtain ⟨-, hheld, -⟩ := hdetected (by decide) rfl (by decide)
  obtain ⟨-, htrig⟩ := hheld (by decide)
  have hexec : exec (.fabricTriggerMessage lateMessage 48097) rearmed = .next { rearmed with dev := fired } := rfl
  obtain rfl : { rearmed with dev := fired } = v := Host.Outcome.next.inj (hexec.symm.trans hv)
  exact fired_recs (congrArg (·.recs) htrig)

end Sys2Proof.Machine
end

section
namespace Sys2Proof.Machine

/-! O32: a density map whose oldest gathered boundary is complete while a result of the next epoch waits behind it. -/

/-- A result of epoch 1, and the boundary of epoch 1 before which it may not enter the map; no halving and no clearing is asked for. -/
def waitingMap : MapRun :=
  { MapRun.init with
    due := [⟨1, false, false, false⟩]
    held := [⟨boundary 1, [5], false⟩] }

/-- No job feeds the map any more, so every result before the boundary has been added. -/
def mapWaits : State := { State.reset with dev := { State.reset.dev with maps := [(0, waitingMap)] } }

/-- The device once the snapshot is complete. -/
def mapSnapped : Device := Device.mapSettle (mapWaits.dev.map 0).due.length 0 (mapWaits.dev.mapBoundary 0 ⟨1, false, false, false⟩)

/-- The snapshot makes way for the result that waited, which counts at once. -/
theorem mapSnapped_counts : (mapSnapped.map 0).counts ≠ (mapWaits.dev.map 0).counts := by decide +kernel

/-- Refutes O32: the counts do not stand after a snapshot without halving or clearing, since the results held back by its boundary are added in the same command. -/
theorem not_millResultsSnapshotsAndReadoutsComplete : ¬ Obligations.MillResultsSnapshotsAndReadoutsComplete := by
  unfold Obligations.MillResultsSnapshotsAndReadoutsComplete
  intro h
  obtain ⟨-, -, hsnapshot⟩ := h.1 mapWaits ⟨0, [], false, [], false, false, []⟩ 0
  obtain ⟨u, hu, -, -, -, -, hcounts, -⟩ := hsnapshot ⟨1, false, false, false⟩ [] rfl (by decide +kernel) (by decide +kernel)
  have hexec : exec (.densitySnapshotComplete 0) mapWaits = .next { mapWaits with dev := mapSnapped } := rfl
  obtain rfl : { mapWaits with dev := mapSnapped } = u := Host.Outcome.next.inj (hexec.symm.trans hu)
  exact mapSnapped_counts (hcounts rfl rfl)

end Sys2Proof.Machine
end

section
namespace Sys2Proof.Machine

/-! O14: a batch that is still being decided at the boundary after its own. -/

/-- Nothing but zeros is measured of the epoch that ends. -/
def quietEpoch : EpochInput := ⟨0#64, 0#64, 0#64, [0#32, 0#32, 0#32, 0#32, 0#32, 0#32], 0#64, List.replicate 16 0, [], [], [], none, [], [], [0, 0, 0, 0], [0, 0, 0, 0]⟩

/-- The batch of boundary 0: one commit has been accepted, and the next one waits for its routes. -/
def lateBatch : Deciding := ⟨0, [(none, 2)], Cfg.boot, [], [1], [], 0#64, some (1, []), [], [], false⟩

/-- Up for one epoch in IDLE, with a batch that is due at boundary 1. -/
def undecided : State :=
  { State.reset with
    dev := { State.reset.dev with
      clk := { State.reset.dev.clk with counting := true }
      pw := { State.reset.dev.pw with mode := .idle }
      fw := { State.reset.dev.fw with
        batches := [⟨1, 1#16, Cfg.boot, [], [], false⟩]
        deciding := some lateBatch }
      -- the Commons stays out of the picture: no election is held yet
      fab := { State.reset.dev.fab with electAfter := 2 } } }

/-- What was taken at boundary 0 gets its tag at boundary 1, and the effect boundary it would have had, which is past. -/
theorem undecided_late : ((undecided.boundaryStep quietEpoch).dev.fw.batches.any fun y => y.effect == 1) = true := by decide +kernel

/-- The boundary's work on that state, in which nothing stops the count and no activation is due. -/
theorem undecided_exec : exec (.epochBoundary quietEpoch) undecided = .next (undecided.boundaryStep quietEpoch) := by
  have hwrap : undecided.dev.wrapTime = undecided.dev := if_pos (by decide +kernel)
  change execEpochBoundary quietEpoch undecided = _
  rw [execEpochBoundary, if_neg (by decide +kernel), if_neg (by decide +kernel), hwrap]

/-- Refutes O14: the reservation that a batch waited for times out at the next boundary, after its swaps; the batch ends under its own epoch, and so is left behind with an effect boundary that is not to come. -/
theorem not_boundaryTakesBatchesAndModes : ¬ Obligations.BoundaryTakesBatchesAndModes := by
  unfold Obligations.BoundaryTakesBatchesAndModes
  intro h
  obtain ⟨-, -, -, hboundary⟩ := h
  obtain ⟨-, hquiet⟩ := hboundary undecided quietEpoch rfl rfl (by decide) (by decide +kernel)
  obtain ⟨-, hswap, -⟩ := hquiet rfl (by decide) (by decide) rfl rfl
  obtain ⟨u, hu, -, -, hleft⟩ := hswap ⟨1, 1#16, Cfg.boot, [], [], false⟩ (by decide +kernel) (by decide +kernel) (by decide +kernel) rfl rfl
  obtain rfl : undecided.boundaryStep quietEpoch = u := Host.Outcome.next.inj (undecided_exec.symm.trans hu)
  obtain ⟨y, hy, heffect⟩ := List.any_eq_true.1 undecided_late
  have hepoch : undecided.dev.clk.boundaryEpoch = 1 := by decide +kernel
  have hpast : y.effect = 1 := by simpa using heffect
  exact absurd (hleft y hy) (by rw [hepoch, hpast]; decide)

end Sys2Proof.Machine
end

section
namespace Sys2Proof.Machine

/-! What an epoch boundary does to the time counter and to the rails. Once `reach` has set the counter and `measure` has taken the rails over, nothing else of the boundary touches either: a lemma for each operation that a boundary is made of, in the order of their definitions. -/

/-- The time counter: its count, whether it counts, and whether a step has landed on a boundary. -/
def Clock.hand (c : Clock) : Nat × Bool × Bool := (c.time, c.counting, c.landed)

/-- The measured rails. -/
def Power.supply (p : Power) : List F32 × F64 := (p.rails, p.vhv)

/-- The time counter and the measured rails of a device. -/
def Device.gauge (d : Device) : (Nat × Bool × Bool) × List F32 × F64 := (d.clk.hand, d.pw.supply)

@[simp] theorem Device.clk_hand (d : Device) : d.clk.hand = d.gauge.1 := rfl
@[simp] theorem Device.pw_supply (d : Device) : d.pw.supply = d.gauge.2 := rfl

@[simp] theorem Device.gauge_mk (clk : Clock) (pw : Power) (regs : Regs) (evts : Tbl Evt) (bell : Bell) (cnt : Counters) (fw : Fw) (chans : Tbl ChanRun)
    (points : Tbl PointRun) (groups : Tbl GroupRun) (tiles : Tbl Tile) (trig : Trig) (gran : Granary) (jobs : Tbl JobRun)
    (ended : Tbl (List JobRun)) (maps : Tbl MapRun) (port : PortSt) (nv : NonVol) (work : Work) (fab : Fabric) (marks : Marks) (free : Nat) :
    Device.gauge ⟨clk, pw, regs, evts, bell, cnt, fw, chans, points, groups, tiles, trig, gran, jobs, ended, maps, port, nv, work, fab, marks, free⟩ =
      (clk.hand, pw.supply) := rfl

@[simp] theorem Device.ite_gauge (p : Prop) [Decidable p] (a b : Device) : (if p then a else b).gauge = if p then a.gauge else b.gauge :=
  apply_ite Device.gauge p a b

/-- What the data path leaves alone, the counter and the rails among it. -/
theorem Device.gauge_of_inner {d e : Device} (h : d.inner = e.inner) : d.gauge = e.gauge := (congrArg Device.gauge h :)

section loops
variable {β : Type} (l : List β) (n : Nat)

@[simp] theorem forList_gauge {f : β → Device → Device} (h : Keeps Device.gauge f) (d : Device) : (forList l f d).gauge = d.gauge :=
  forList_keeps l h d

@[simp] theorem forNat_gauge {f : Nat → Device → Device} (h : Keeps Device.gauge f) (d : Device) : (forNat n f d).gauge = d.gauge :=
  forNat_keeps n h d

@[simp] theorem forList_dev_gauge {f : β → State → State} (h : Keeps (fun s => s.dev.gauge) f) (s : State) :
    (forList l f s).dev.gauge = s.dev.gauge := forList_keeps l h s

@[simp] theorem forNat_dev_gauge {f : Nat → State → State} (h : Keeps (fun s => s.dev.gauge) f) (s : State) :
    (forNat n f s).dev.gauge = s.dev.gauge := forNat_keeps n h s

end loops

@[simp] theorem Device.raise_gauge (i : Nat) (b : BitVec 24) (d : Device) : (d.raise i b).gauge = d.gauge := Device.gauge_of_inner (by simp)
@[simp] theorem Device.setChan_gauge (n : Nat) (f : ChanRun → ChanRun) (d : Device) : (d.setChan n f).gauge = d.gauge := rfl
@[simp] theorem Device.setPt_gauge (n : Nat) (f : PointRun → PointRun) (d : Device) : (d.setPt n f).gauge = d.gauge := rfl
@[simp] theorem Device.setGroup_gauge (n : Nat) (f : GroupRun → GroupRun) (d : Device) : (d.setGroup n f).gauge = d.gauge := rfl
@[simp] theorem Device.setJob_gauge (n : Nat) (f : JobRun → JobRun) (d : Device) : (d.setJob n f).gauge = d.gauge := rfl
@[simp] theorem Device.setMap_gauge (n : Nat) (f : MapRun → MapRun) (d : Device) : (d.setMap n f).gauge = d.gauge := rfl

@[simp] theorem Device.setRegion_gauge (n : Nat) (f : RegionRun → RegionRun) (d : Device) : (d.setRegion n f).gauge = d.gauge := rfl
@[simp] theorem Device.setTile_gauge (n : Nat) (f : Tile → Tile) (d : Device) : (d.setTile n f).gauge = d.gauge := rfl
@[simp] theorem Device.setFport_gauge (n : Nat) (f : FPort → FPort) (d : Device) : (d.setFport n f).gauge = d.gauge := rfl
@[simp] theorem Device.setSession_gauge (n : Nat) (f : Session → Session) (d : Device) : (d.setSession n f).gauge = d.gauge := rfl

@[simp] theorem Device.raiseRange_gauge (i : Nat) (d : Device) : (d.raiseRange i).gauge = d.gauge := by simp [Device.raiseRange]
@[simp] theorem Device.logPut_gauge (k : Nat) (l : List Nat) (d : Device) : (d.logPut k l).gauge = d.gauge := by
  unfold Device.logPut
  dsimp only
  split
  · exact Device.raise_gauge ..
  · rfl
@[simp] theorem Device.setSyn_gauge (x : SynId) (f : Syn → Syn) (d : Device) : (d.setSyn x f).gauge = d.gauge := by cases x <;> rfl
@[simp] theorem Device.synState_gauge (x : SynId) (st : SynState) (d : Device) : (d.synState x st).gauge = d.gauge := Device.setSyn_gauge ..
@[simp] theorem Device.enterMode_gauge (m : Mode) (d : Device) : (d.enterMode m).gauge = d.gauge := rfl

/-- Whatever request it is given, a handler leaves the counter and the rails alone. -/
def LeavesGauge (h : Handler) : Prop := ∀ r d, (h r d).2.gauge = d.gauge

@[simp] theorem Device.leaveMaintain_gauge (m : Mode) (d : Device) : (d.leaveMaintain m).gauge = d.gauge := by simp [Device.leaveMaintain]

@[simp] theorem Device.toSafe_gauge (cause : Nat) (d : Device) : (d.toSafe cause).gauge = d.gauge :=
  (Device.raise_gauge ..).trans (Device.logPut_gauge ..)

@[simp] theorem Device.declareSafe_gauge (cause : Nat) (d : Device) : (d.declareSafe cause).gauge = d.gauge := by
  unfold Device.declareSafe
  split
  · exact Device.logPut_gauge ..
  · split
    · exact Device.toSafe_gauge ..
    · rfl

/-! ### Counters, frames and carts on their way -/

@[simp] theorem Device.countPort_gauge (k i : Nat) (d : Device) (n : Nat) : (d.countPort k i n).gauge = d.gauge :=
  Device.gauge_of_inner (by simp)

@[simp] theorem Device.send_gauge (x : OutFrame) (d : Device) : (d.send x).gauge = d.gauge := Device.gauge_of_inner (by simp)

@[simp] theorem Device.formCart_gauge (type stream time : Nat) (tag : BitVec 16) (flags : BitVec 14) (count : Nat)
    (words : List Word) (bound dests : Nat) (d : Device) :
    (d.formCart type stream time tag flags count words bound dests).gauge = d.gauge := Device.gauge_of_inner (by simp)

/-! ### Answers and mailboxes -/

@[simp] theorem Device.messageCart_gauge (bytes : List Byte) (d : Device) : (d.messageCart bytes).gauge = d.gauge := by
  simp [Device.messageCart]

@[simp] theorem Device.sendMessage_gauge (v : Via) (bytes : List Byte) (d : Device) : (d.sendMessage v bytes).gauge = d.gauge := by
  unfold Device.sendMessage
  split <;> simp

@[simp] theorem Device.sendReplies_gauge (n : Nat) (d : Device) : (d.sendReplies n).gauge = d.gauge := by
  induction n generalizing d with
  | zero => rfl
  | succ n ih =>
    unfold Device.sendReplies
    split
    · rfl
    · split
      · simp [ih]
      · rfl

@[simp] theorem Device.rememberAnswer_gauge (session : Nat) (tag : Word) (bytes : List Byte) (d : Device) :
    (d.rememberAnswer session tag bytes).gauge = d.gauge := rfl

@[simp] theorem Device.complete_gauge (w : Waiter) (status : BitVec 16) (payload : List Byte) (d : Device) (epoch : Option Nat) :
    (d.complete w status payload epoch).gauge = d.gauge := by
  unfold Device.complete
  repeat' split
  all_goals simp

@[simp] theorem Device.completeOpt_gauge (w : Option Waiter) (status : BitVec 16) (payload : List Byte) (d : Device) :
    (d.completeOpt w status payload).gauge = d.gauge := by
  unfold Device.completeOpt
  split <;> simp

@[simp] theorem Device.startLong_gauge (session : Nat) (d : Device) : (d.startLong session).gauge = d.gauge := rfl

@[simp] theorem State.respond_gauge (via : Via) (session : Nat) (tag : Word) (a : Ans) (s : State) :
    (s.respond via session tag a).dev.gauge = s.dev.gauge := by
  unfold State.respond
  split <;> simp

/-! ### Requests and their handlers -/

@[simp] theorem Device.touchSession_gauge (r : Raw) (d : Device) : (d.touchSession r).gauge = d.gauge := by
  unfold Device.touchSession
  split <;> rfl

@[simp] theorem refuse_gauge (st : BitVec 16) (d : Device) : (refuse st d).2.gauge = d.gauge := rfl

@[simp] theorem State.deliver_gauge (r : Req) (a : Option Ans × Device) (s : State) : (s.deliver r a).dev.gauge = a.2.gauge := by
  unfold State.deliver
  split
  · simp
  · split <;> rfl

@[simp] theorem State.settleMailboxes_gauge (s : State) : s.settleMailboxes.dev.gauge = s.dev.gauge := by simp [State.settleMailboxes]

theorem LeavesGauge.sizedTo {h : Handler} {n : Nat} (hh : LeavesGauge h) : LeavesGauge (sizedTo n h) := fun r d => by
  unfold Machine.sizedTo
  split
  · exact hh r d
  · rfl

theorem State.execute_gauge {h : Handler} (hh : LeavesGauge h) (r : Raw) (s : State) : (s.execute h r).dev.gauge = s.dev.gauge := by
  unfold State.execute
  dsimp only
  split
  · simp
  · rw [State.settleMailboxes_gauge, State.deliver_gauge, hh, Device.touchSession_gauge]

@[simp] theorem Device.rememberTag_gauge (r : Raw) (d : Device) : (d.rememberTag r).gauge = d.gauge := by
  unfold Device.rememberTag
  split <;> rfl

theorem State.executeFrame_gauge {h : Handler} (hh : LeavesGauge h) (r : Raw) (s : State) :
    (s.executeFrame h r).dev.gauge = s.dev.gauge := by
  unfold State.executeFrame
  split
  · simp
  · simp
  · simp [State.execute_gauge hh]

@[simp] theorem State.dropFrame_gauge (f : FrameWait) (s : State) : (s.dropFrame f).dev.gauge = s.dev.gauge := rfl

/-! ### Sessions and transactions -/

@[simp] theorem Device.setTxn_gauge (coord : Option Nat) (id : Nat) (f : Txn → Txn) (d : Device) : (d.setTxn coord id f).gauge = d.gauge := rfl

@[simp] theorem Device.retire_gauge (t : Txn) (d : Device) : (d.retire t).gauge = d.gauge := rfl

@[simp] theorem Device.settleTxn_gauge (st : TxnState) (t : Txn) (d : Device) : (d.settleTxn st t).gauge = d.gauge := rfl

@[simp] theorem Device.toParts_gauge (t : Txn) (f : Nat → OutFrame) (d : Device) : (d.toParts t f).gauge = d.gauge := by simp [Device.toParts]

@[simp] theorem Device.announce_gauge (t : Txn) (commit closed : Bool) (d : Device) : (d.announce t commit closed).gauge = d.gauge := by
  simp [Device.announce]

@[simp] theorem Device.abortTxn_gauge (t : Txn) (d : Device) : (d.abortTxn t).gauge = d.gauge := by simp [Device.abortTxn]

@[simp] theorem Device.closeSession_gauge (id : Nat) (d : Device) : (d.closeSession id).gauge = d.gauge := by simp [Device.closeSession]

@[simp] theorem txnCommit_gauge : LeavesGauge txnCommit := .sizedTo fun r d => by
  dsimp only [require]
  repeat' split
  all_goals simp

/-! ### The Granary -/

@[simp] theorem Device.settleSlot_gauge (r k : Nat) (d : Device) : (d.settleSlot r k).gauge = d.gauge := Device.gauge_of_inner (by simp)

@[simp] theorem Device.settleRegion_gauge (r : Nat) (d : Device) : (d.settleRegion r).gauge = d.gauge := by simp [Device.settleRegion]

@[simp] theorem Device.promote_gauge (r from_ : Nat) (d : Device) : (d.promote r from_).gauge = d.gauge := Device.gauge_of_inner (by simp)

@[simp] theorem Device.pump_gauge (now : Nat) (d : Device) : (d.pump now).gauge = d.gauge := Device.gauge_of_inner (by simp)

@[simp] theorem Device.endSending_gauge (keep : Paced → Bool) (d : Device) : (d.endSending keep).gauge = d.gauge := by
  dsimp only [Device.endSending]
  refine (forList_gauge _ (fun x d => ?_) _).trans (by simp)
  split <;> simp

/-! ### Triggers -/

@[simp] theorem Device.resetUnit_gauge (changed : Bool) (b u : Nat) (d : Device) : (d.resetUnit changed b u).gauge = d.gauge := rfl

@[simp] theorem Device.fire_gauge (u : Nat) (x : UnitCfg) (late : Option Nat) (lateMark forced : Bool) (det : Detection) (d : Device) :
    (d.fire u x late lateMark forced det).gauge = d.gauge := Device.gauge_of_inner (by simp)

@[simp] theorem Device.detect_gauge (u : Nat) (x : UnitCfg) (det : Detection) (d : Device) (late : Option Nat) (lateMark : Bool) :
    (d.detect u x det late lateMark).gauge = d.gauge := Device.gauge_of_inner (by simp)

@[simp] theorem Device.occur_gauge (ch bit : Nat) (t td : Nat) (flags : BitVec 14) (d : Device) :
    (d.occur ch bit t td flags).gauge = d.gauge :=
  Device.gauge_of_inner (by simp)

@[simp] theorem Device.forceAt_gauge (u : Nat) (x : UnitCfg) (t : Nat) (d : Device) : (d.forceAt u x t).gauge = d.gauge := by
  simp [Device.forceAt]

/-! ### The Bell -/

@[simp] theorem Device.ringAt_gauge (x : BellDue) (d : Device) : (d.ringAt x).gauge = d.gauge := Device.gauge_of_inner (by simp)

@[simp] theorem Device.endSched_gauge (x : BellSched) (d : Device) : (d.endSched x).gauge = d.gauge := by simp [Device.endSched]

@[simp] theorem Device.boundaryScheds_gauge (b : Nat) (d : Device) : (d.boundaryScheds b).gauge = d.gauge := by simp [Device.boundaryScheds]

/-! ### Points and their streams -/

@[simp] theorem Device.holdNulls_gauge (n b : Nat) (d : Device) : (d.holdNulls n b).gauge = d.gauge := by simp [Device.holdNulls]

@[simp] theorem Device.shut_gauge (s : Nat) (d : Device) : (d.shut s).gauge = d.gauge := Device.gauge_of_inner (by simp)

@[simp] theorem Device.aoutReach_gauge (t : Nat) (d : Device) : (d.aoutReach t).gauge = d.gauge := Device.gauge_of_inner (by simp)

@[simp] theorem Device.aoutSafe_gauge (a code : Nat) (d : Device) : (d.aoutSafe a code).gauge = d.gauge := rfl

@[simp] theorem Device.settleAouts_gauge (d : Device) : d.settleAouts.gauge = d.gauge := by simp [Device.settleAouts]

/-! ### Mill jobs -/

@[simp] theorem Device.endRun_gauge (i stop : Nat) (d : Device) : (d.endRun i stop).gauge = d.gauge := by simp [Device.endRun]

@[simp] theorem Device.beginRun_gauge (i b : Nat) (j : JobCfg) (d : Device) : (d.beginRun i b j).gauge = d.gauge := by simp [Device.beginRun]

/-! ### Samples -/

@[simp] theorem Device.watch_gauge (n t : Nat) (d : Device) : (d.watch n t).gauge = d.gauge := by simp [Device.watch]

@[simp] theorem Device.watchAll_gauge (l : List Nat) (t : Nat) (d : Device) : (d.watchAll l t).gauge = d.gauge := by simp [Device.watchAll]

@[simp] theorem Device.gainChange_gauge (n : Nat) (x : PathId) (b old : Nat) (d : Device) : (d.gainChange n x b old).gauge = d.gauge := rfl

@[simp] theorem Device.gainSwitch_gauge (n : Nat) (d : Device) : (d.gainSwitch n).gauge = d.gauge := rfl

@[simp] theorem Device.gainReady_gauge (n t : Nat) (found : Option (F64 × F64)) (d : Device) : (d.gainReady n t found).gauge = d.gauge := by
  simp [Device.gainReady]

@[simp] theorem Device.forceGain_gauge (n now : Nat) (d : Device) : (d.forceGain n now).gauge = d.gauge := by
  unfold Device.forceGain
  split <;> simp

@[simp] theorem Device.forceGains_gauge (now : Nat) (d : Device) : (d.forceGains now).gauge = d.gauge := by simp [Device.forceGains]

/-! ### Gain, starts and stops -/

@[simp] theorem Device.setPoints_gauge (l : List Nat) (f : Nat → PointRun → PointRun) (d : Device) : (d.setPoints l f).gauge = d.gauge := by
  simp [Device.setPoints]

@[simp] theorem Device.startChan_gauge (n b : Nat) (d : Device) : (d.startChan n b).gauge = d.gauge := by simp [Device.startChan]

@[simp] theorem Device.restartChan_gauge (n b : Nat) (old : Cfg) (d : Device) : (d.restartChan n b old).gauge = d.gauge := by
  simp [Device.restartChan]

@[simp] theorem Device.stopChan_gauge (n b : Nat) (old : Cfg) (d : Device) : (d.stopChan n b old).gauge = d.gauge := by simp [Device.stopChan]

@[simp] theorem Device.movePoints_gauge (n b : Nat) (old : Cfg) (d : Device) : (d.movePoints n b old).gauge = d.gauge := by
  simp [Device.movePoints]

@[simp] theorem Device.changeNswap_gauge (n b : Nat) (d : Device) : (d.changeNswap n b).gauge = d.gauge := by
  unfold Device.changeNswap
  dsimp only
  repeat' split
  all_goals simp

/-! ### The Shepherd -/

@[simp] theorem Device.abandonCheck_gauge (g t : Nat) (d : Device) : (d.abandonCheck g t).gauge = d.gauge := by
  unfold Device.abandonCheck
  split <;> simp

@[simp] theorem Device.beginCheck_gauge (g b : Nat) (urgent : Bool) (d : Device) : (d.beginCheck g b urgent).gauge = d.gauge := by
  simp [Device.beginCheck]

@[simp] theorem Device.startChecks_gauge (b : Nat) (d : Device) : (d.startChecks b).gauge = d.gauge := by simp [Device.startChecks]

@[simp] theorem Device.stopChecks_gauge (b : Nat) (d : Device) : (d.stopChecks b).gauge = d.gauge := by simp [Device.stopChecks]

@[simp] theorem Device.disturbGroup_gauge (g b : Nat) (d : Device) : (d.disturbGroup g b).gauge = d.gauge := by
  unfold Device.disturbGroup
  split <;> simp

@[simp] theorem Device.baselineAction_gauge (n action b : Nat) (base : List F32) (d : Device) :
    (d.baselineAction n action b base).gauge = d.gauge := rfl

/-! ### The store and calibration -/

@[simp] theorem Device.startWrite_gauge (d : Device) : d.startWrite.gauge = d.gauge := by
  unfold Device.startWrite
  split <;> simp

@[simp] theorem Device.addWrite_gauge (w : StoreWrite) (d : Device) : (d.addWrite w).gauge = d.gauge := by simp [Device.addWrite]

@[simp] theorem Device.persistReject_gauge (d : Device) : d.persistReject.gauge = d.gauge := by simp [Device.persistReject]

@[simp] theorem Device.abortCal_gauge (d : Device) : d.abortCal.gauge = d.gauge := by
  unfold Device.abortCal
  split <;> simp

@[simp] theorem Device.dropCal_gauge (d : Device) : d.dropCal.gauge = d.gauge := by simp [Device.dropCal]

/-! ### The data port -/

@[simp] theorem Device.dropReady_gauge (keep : ReadyCart → Bool) (d : Device) : (d.dropReady keep).gauge = d.gauge :=
  Device.gauge_of_inner (by simp)

@[simp] theorem Device.sendCart_gauge (dest : Nat) (a : RouteAns) (c : Cart) (d : Device) : (d.sendCart dest a c).gauge = d.gauge :=
  Device.gauge_of_inner (by simp)

/-! ### Time, clock and synthesizers -/

@[simp] theorem Device.setDisc_gauge (st : Disc) (d : Device) : (d.setDisc st).gauge = d.gauge := by
  unfold Device.setDisc
  dsimp only
  split <;> rfl

@[simp] theorem Device.holdover_gauge (d : Device) : d.holdover.gauge = d.gauge := (Device.raise_gauge ..).trans (Device.setDisc_gauge ..)

@[simp] theorem Device.switchTo_gauge (x : SynId) (t : Nat) (d : Device) : (d.switchTo x t).gauge = d.gauge :=
  (Device.raise_gauge ..).trans (Device.setSyn_gauge x _ d)

@[simp] theorem Device.abandonChange_gauge (d : Device) : d.abandonChange.gauge = d.gauge := by
  unfold Device.abandonChange
  split
  · dsimp only
    split
    · rfl
    · exact Device.synState_gauge ..
  · rfl

@[simp] theorem Device.coast_gauge (t : Nat) (d : Device) : (d.coast t).gauge = d.gauge := by
  unfold Device.coast
  extract_lets d1 d2 d3 c m d4 d5 d6
  have h4 : d4.gauge = d.gauge := by
    calc d4.gauge
      _ = d3.gauge := rfl
      _ = d2.gauge := by simp [d3]
      _ = d.gauge := by simp [d2, d1]
  have h6 : d6.gauge = d.gauge := by simp [d6, d5, h4]
  split
  · exact h6
  · exact (Device.declareSafe_gauge ..).trans h6

@[simp] theorem Device.shutAll_gauge (d : Device) : d.shutAll.gauge = d.gauge := by simp [Device.shutAll]

@[simp] theorem Device.takeSource_gauge (d : Device) : d.takeSource.gauge = d.gauge := by
  unfold Device.takeSource
  split
  · rfl
  · exact Device.setDisc_gauge ..

/-! ### The fabric -/

@[simp] theorem Device.refreshWith_gauge (known : List FabLink) (d : Device) : (d.refreshWith known).gauge = d.gauge := by
  simp [Device.refreshWith]

@[simp] theorem Device.refreshOwn_gauge (d : Device) : d.refreshOwn.gauge = d.gauge := rfl

@[simp] theorem Device.closeFabricSessions_gauge (gone : Nat → Bool) (d : Device) : (d.closeFabricSessions gone).gauge = d.gauge := by
  simp [Device.closeFabricSessions]

@[simp] theorem Device.partnersLeft_gauge (gone : List Nat) (d : Device) : (d.partnersLeft gone).gauge = d.gauge := by
  simp [Device.partnersLeft]

@[simp] theorem Device.dropSilent_gauge (d : Device) : d.dropSilent.gauge = d.gauge := by simp [Device.dropSilent]

@[simp] theorem Device.dropUnlinked_gauge (d : Device) : d.dropUnlinked.gauge = d.gauge := by simp [Device.dropUnlinked]

@[simp] theorem Device.takeAddress_gauge (a : Nat) (d : Device) : (d.takeAddress a).gauge = d.gauge := by simp [Device.takeAddress]

@[simp] theorem Device.orphanTime_gauge (d : Device) : d.orphanTime.gauge = d.gauge := by
  unfold Device.orphanTime
  split
  · exact Device.holdover_gauge ..
  · rfl

@[simp] theorem Device.leaveBellringer_gauge (d : Device) : d.leaveBellringer.gauge = d.gauge := rfl

@[simp] theorem Device.becomeBellringer_gauge (d : Device) : d.becomeBellringer.gauge = d.gauge := by
  unfold Device.becomeBellringer
  extract_lets f leases held e d1 c d2 d3
  have h2 : d2.gauge = d.gauge := rfl
  have h3 : d3.gauge = d.gauge := by
    unfold d3
    split
    · exact (Device.takeAddress_gauge 1 d2).trans h2
    · exact h2
  simp [h3]

@[simp] theorem Device.elect_gauge (d : Device) : d.elect.gauge = d.gauge := by
  unfold Device.elect
  dsimp only
  split <;> simp

@[simp] theorem Device.portDown_gauge (k : Nat) (d : Device) : (d.portDown k).gauge = d.gauge := by simp [Device.portDown]

@[simp] theorem Device.fabricTimeEnd_gauge (e : Nat) (d : Device) : (d.fabricTimeEnd e).gauge = d.gauge := by simp [Device.fabricTimeEnd]

@[simp] theorem Device.sendBeacons_gauge (d : Device) : d.sendBeacons.gauge = d.gauge := by simp [Device.sendBeacons]

@[simp] theorem Device.askAddress_gauge (d : Device) : d.askAddress.gauge = d.gauge := by simp [Device.askAddress]

@[simp] theorem Device.tell_gauge (x : OutFrame) (d : Device) : (d.tell x).gauge = d.gauge := Device.gauge_of_inner (by simp)

@[simp] theorem Device.nextAsk_gauge (d : Device) : d.nextAsk.2.gauge = d.gauge := Device.gauge_of_inner (by simp)

@[simp] theorem Device.tellAgain_gauge (d : Device) : d.tellAgain.gauge = d.gauge := Device.gauge_of_inner (by simp)

/-! ### Traffic of the Commons -/

@[simp] theorem Device.setReservations_gauge (rs : List Reservation) (d : Device) : (d.setReservations rs).gauge = d.gauge := by
  simp [Device.setReservations]

@[simp] theorem Device.toBackup_gauge (x : Route) (d : Device) : (d.toBackup x).gauge = d.gauge := by simp [Device.toBackup]

@[simp] theorem Device.routeFailed_gauge (h : Hop) (d : Device) : (d.routeFailed h).gauge = d.gauge := by simp [Device.routeFailed]

@[simp] theorem Device.portLost_gauge (k : Nat) (d : Device) : (d.portLost k).gauge = d.gauge := by simp [Device.portLost]

@[simp] theorem Device.reroute_gauge (d : Device) : d.reroute.gauge = d.gauge := by simp [Device.reroute]

@[simp] theorem Device.routesBoundary_gauge (d : Device) : d.routesBoundary.gauge = d.gauge := by simp [Device.routesBoundary]

@[simp] theorem Device.crcEnd_gauge (k : Nat) (d : Device) : (d.crcEnd k).gauge = d.gauge := by simp [Device.crcEnd]

@[simp] theorem Device.takePolicy_gauge (d : Device) : d.takePolicy.gauge = d.gauge := by
  unfold Device.takePolicy
  split <;> simp

@[simp] theorem Device.fabricBoundary_gauge (e : Nat) (d : Device) : (d.fabricBoundary e).gauge = d.gauge := by simp [Device.fabricBoundary]

/-! ### Commits -/

@[simp] theorem Device.setDeciding_gauge (x : Option Deciding) (d : Device) : (d.setDeciding x).gauge = d.gauge := rfl

@[simp] theorem Device.refuseCommit_gauge (t : Txn) (r : Refused) (x : Deciding) (d : Device) : (d.refuseCommit t r x).gauge = d.gauge := by
  unfold Device.refuseCommit
  split <;> simp

@[simp] theorem Device.cancelAsk_gauge (key : Nat) (d : Device) : (d.cancelAsk key).gauge = d.gauge := by simp [Device.cancelAsk]

@[simp] theorem Device.moveAsk_gauge (key : Nat) (effect : Option Nat) (d : Device) : (d.moveAsk key effect).gauge = d.gauge := by
  simp [Device.moveAsk]

@[simp] theorem Device.dropComing_gauge (coord : Option Nat) (id : Nat) (d : Device) : (d.dropComing coord id).gauge = d.gauge := by
  simp [Device.dropComing]

@[simp] theorem Device.moveComing_gauge (coord : Option Nat) (id : Nat) (effect : Option Nat) (d : Device) :
    (d.moveComing coord id effect).gauge = d.gauge := by simp [Device.moveComing]

@[simp] theorem Device.abortCommit_gauge (t : Txn) (st : BitVec 16) (missing : Part → BitVec 16) (d : Device) :
    (d.abortCommit t st missing).gauge = d.gauge := by
  unfold Device.abortCommit
  split <;> simp

@[simp] theorem Device.acceptCommit_gauge (t : Txn) (cfg : Cfg) (x : Deciding) (d : Device) : (d.acceptCommit t cfg x).gauge = d.gauge := by
  unfold Device.acceptCommit
  cases t.coord with
  | some c => simp
  | none => cases t.waiter <;> simp

@[simp] theorem Device.decideHead_gauge (x : Deciding) (key : Option Nat × Nat) (rest : List (Option Nat × Nat)) (d : Device) :
    (d.decideHead x key rest).gauge = d.gauge := by
  unfold Device.decideHead
  dsimp only
  repeat' split
  all_goals simp

@[simp] theorem Device.decideOn_gauge (n : Nat) (d : Device) : (d.decideOn n).gauge = d.gauge := by
  induction n generalizing d with
  | zero => rfl
  | succ n ih =>
    unfold Device.decideOn
    split
    · rfl
    · split
      · rw [ih, Device.decideHead_gauge]
      · rfl

@[simp] theorem Device.recordClosed_gauge (l : List Txn) (d : Device) : (d.recordClosed l).gauge = d.gauge := by simp [Device.recordClosed]

@[simp] theorem Device.addBatch_gauge (e : Nat) (cfg : Cfg) (items : List Item) (txns : List (Option Nat × Nat)) (cal : Bool) (d : Device) :
    (d.addBatch e cfg items txns cal).gauge = d.gauge := by simp [Device.addBatch]

@[simp] theorem Device.endDeciding_gauge (x : Deciding) (d : Device) : (d.endDeciding x).gauge = d.gauge := by simp [Device.endDeciding]

@[simp] theorem State.writeAnswers_gauge (l : List (Waiter × BitVec 16 × List Byte × Nat)) (s : State) :
    (s.writeAnswers l).dev.gauge = s.dev.gauge := by simp [State.writeAnswers]

@[simp] theorem State.decideBatch_gauge (s : State) : s.decideBatch.dev.gauge = s.dev.gauge := by
  unfold State.decideBatch
  dsimp only
  split <;> simp

@[simp] theorem State.reserveTimeout_gauge (s : State) : s.reserveTimeout.dev.gauge = s.dev.gauge := by
  unfold State.reserveTimeout
  repeat' split
  all_goals simp

@[simp] theorem State.takeCommit_gauge (s : State) : s.takeCommit.dev.gauge = s.dev.gauge := by
  unfold State.takeCommit
  dsimp only
  split
  · exact State.execute_gauge txnCommit_gauge _ s
  · split
    · simp [State.executeFrame_gauge txnCommit_gauge]
    · rfl

@[simp] theorem State.takeCommits_gauge (s : State) : s.takeCommits.dev.gauge = s.dev.gauge := by
  simp [State.takeCommits]

@[simp] theorem State.boundaryBatch_gauge (s : State) : s.boundaryBatch.dev.gauge = s.dev.gauge := by
  simp [State.boundaryBatch]

@[simp] theorem State.answerTo_gauge (t : Txn) (a : Ans) (s : State) : (s.answerTo t a).dev.gauge = s.dev.gauge := by
  unfold State.answerTo
  split <;> simp

@[simp] theorem State.beginFails_gauge (t : Txn) (st : BitVec 16) (s : State) : (s.beginFails t st).dev.gauge = s.dev.gauge := by
  simp [State.beginFails]

@[simp] theorem State.coordinate_gauge (e : Nat) (t : Txn) (s : State) : (s.coordinate e t).dev.gauge = s.dev.gauge := by
  simp [State.coordinate]

@[simp] theorem Device.repeatDecisions_gauge (e : Nat) (d : Device) : (d.repeatDecisions e).gauge = d.gauge := by simp [Device.repeatDecisions]

@[simp] theorem Device.takeTags_gauge (e : Nat) (d : Device) : (d.takeTags e).gauge = d.gauge := by simp [Device.takeTags]

@[simp] theorem Device.finishCommit_gauge (e : Nat) (t : Txn) (d : Device) : (d.finishCommit e t).gauge = d.gauge := by
  unfold Device.finishCommit
  split <;> simp

@[simp] theorem Device.enterDoubt_gauge (e : Nat) (d : Device) : (d.enterDoubt e).gauge = d.gauge := by simp [Device.enterDoubt]

@[simp] theorem Device.endDoubts_gauge (e : Nat) (d : Device) : (d.endDoubts e).gauge = d.gauge := by simp [Device.endDoubts]

@[simp] theorem Device.markDoubt_gauge (e : Nat) (d : Device) : (d.markDoubt e).gauge = d.gauge := rfl

@[simp] theorem Device.askDecisions_gauge (d : Device) : d.askDecisions.gauge = d.gauge := by
  unfold Device.askDecisions
  refine forList_gauge _ (fun x d => ?_) d
  split <;> simp

@[simp] theorem Device.postFinished_gauge (e : Nat) (d : Device) : (d.postFinished e).gauge = d.gauge := by simp [Device.postFinished]

@[simp] theorem State.fabricTxns_gauge (e : Nat) (s : State) : (s.fabricTxns e).dev.gauge = s.dev.gauge := by simp [State.fabricTxns]

/-! ### Mill results and density maps -/

@[simp] theorem Device.emit_gauge (i : Nat) (r : JobRun) (k : Taken) (c : Cfg) (j : JobCfg) (d : Device) :
    (d.emit i r k c j).gauge = d.gauge :=
  Device.gauge_of_inner (by simp)

@[simp] theorem Device.setRun_gauge (i : Nat) (place : Option Nat) (r : JobRun) (d : Device) : (d.setRun i place r).gauge = d.gauge :=
  Device.gauge_of_inner (by simp)

@[simp] theorem Device.flushRun_gauge (i : Nat) (place : Option Nat) (r : JobRun) (d : Device) : (d.flushRun i place r).gauge = d.gauge := by
  unfold Device.flushRun
  dsimp only
  repeat' split
  all_goals simp

@[simp] theorem Device.flushJob_gauge (b i : Nat) (d : Device) : (d.flushJob b i).gauge = d.gauge := by
  refine (Device.flushRun_gauge ..).trans (forNat_gauge _ (fun k d => ?_) d)
  split <;> simp

@[simp] theorem Device.stopRun_gauge (b i : Nat) (d : Device) : (d.stopRun b i).gauge = d.gauge := by simp [Device.stopRun]

@[simp] theorem Device.flushJobs_gauge (b : Nat) (d : Device) : (d.flushJobs b).gauge = d.gauge := by simp [Device.flushJobs]

/-! ### Supplies, boot and resets -/

@[simp] theorem Device.raiseRollback_gauge (d : Device) : d.raiseRollback.gauge = d.gauge := by
  unfold Device.raiseRollback
  split <;> rfl

/-! ### What an epoch boundary changes -/

@[simp] theorem Device.shutEnded_gauge (b : Nat) (l : List Nat) (d : Device) : (d.shutEnded b l).gauge = d.gauge := by
  unfold Device.shutEnded
  refine forList_gauge _ (fun x d => ?_) d
  split <;> simp

@[simp] theorem Device.cutStreams_gauge (x : Swap) (d : Device) : (d.cutStreams x).gauge = d.gauge := by simp [Device.cutStreams]

@[simp] theorem Device.runOn_gauge (n : Nat) (x : Swap) (d : Device) : (d.runOn n x).gauge = d.gauge := by
  unfold Device.runOn
  dsimp only
  repeat' split
  all_goals simp

@[simp] theorem Device.swapChan_gauge (n : Nat) (x : Swap) (d : Device) : (d.swapChan n x).gauge = d.gauge := by simp [Device.swapChan]

@[simp] theorem Device.swapChans_gauge (x : Swap) (d : Device) : (d.swapChans x).gauge = d.gauge := by simp [Device.swapChans]

@[simp] theorem Device.swapBaselines_gauge (x : Swap) (d : Device) : (d.swapBaselines x).gauge = d.gauge := by
  unfold Device.swapBaselines
  refine forList_gauge _ (fun x d => ?_) d
  split <;> simp

@[simp] theorem Device.swapUnits_gauge (x : Swap) (d : Device) : (d.swapUnits x).gauge = d.gauge := by simp [Device.swapUnits]

@[simp] theorem Device.swapRegions_gauge (x : Swap) (d : Device) : (d.swapRegions x).gauge = d.gauge := by simp [Device.swapRegions]

@[simp] theorem Device.swapTallies_gauge (x : Swap) (d : Device) : (d.swapTallies x).gauge = d.gauge := by simp [Device.swapTallies]

@[simp] theorem Device.swapJob_gauge (i : Nat) (x : Swap) (d : Device) : (d.swapJob i x).gauge = d.gauge := by
  unfold Device.swapJob
  dsimp only
  split <;> simp

@[simp] theorem Device.swapJobs_gauge (x : Swap) (d : Device) : (d.swapJobs x).gauge = d.gauge := by simp [Device.swapJobs]

@[simp] theorem Device.swapMaps_gauge (e : Nat) (ran : Bool) (x : Swap) (d : Device) : (d.swapMaps e ran x).gauge = d.gauge := by
  simp [Device.swapMaps]

@[simp] theorem Device.keepPast_gauge (x : Swap) (tag : BitVec 16) (d : Device) : (d.keepPast x tag).gauge = d.gauge := rfl

@[simp] theorem Device.swapBlocks_gauge (x : Swap) (tag : BitVec 16) (d : Device) : (d.swapBlocks x tag).gauge = d.gauge := by
  simp [Device.swapBlocks]

@[simp] theorem Device.installRoutes_gauge (e : Nat) (d : Device) : (d.installRoutes e).gauge = d.gauge := rfl

@[simp] theorem Device.effectTxns_gauge (tags : List (BitVec 16)) (d : Device) : (d.effectTxns tags).gauge = d.gauge := by
  simp [Device.effectTxns]

@[simp] theorem Device.calDone_gauge (bs : List Batch) (d : Device) : (d.calDone bs).gauge = d.gauge := by simp [Device.calDone]

@[simp] theorem Device.applyBatches_gauge (b e : Nat) (bs : List Batch) (d : Device) : (d.applyBatches b e bs).gauge = d.gauge := by
  unfold Device.applyBatches
  split <;> simp

@[simp] theorem Device.mapsRunOn_gauge (e : Nat) (d : Device) : (d.mapsRunOn e).gauge = d.gauge := by simp [Device.mapsRunOn]

@[simp] theorem Device.haltRegion_gauge (b r : Nat) (d : Device) : (d.haltRegion b r).gauge = d.gauge := by simp [Device.haltRegion]

@[simp] theorem Device.leaveRun_gauge (b : Nat) (d : Device) : (d.leaveRun b).gauge = d.gauge := by simp [Device.leaveRun]

@[simp] theorem Device.enterJob_gauge (b : Nat) (x : Nat × JobCfg) (d : Device) : (d.enterJob b x).gauge = d.gauge := by simp [Device.enterJob]

@[simp] theorem Device.enterRun_gauge (b : Nat) (d : Device) : (d.enterRun b).gauge = d.gauge := by simp [Device.enterRun]

@[simp] theorem Device.changeMode_gauge (m : Mode) (b : Nat) (d : Device) : (d.changeMode m b).gauge = d.gauge := by simp [Device.changeMode]

@[simp] theorem Device.discardBatches_gauge (d : Device) : d.discardBatches.gauge = d.gauge := by simp [Device.discardBatches]

@[simp] theorem Device.cancelChanges_gauge (d : Device) : d.cancelChanges.gauge = d.gauge := by
  refine (Device.completeOpt_gauge ..).trans ((Device.completeOpt_gauge ..).trans ((Device.completeOpt_gauge ..).trans ?_))
  exact (Device.completeOpt_gauge ..).trans rfl

@[simp] theorem Device.enterSafe_gauge (b cause : Nat) (d : Device) : (d.enterSafe b cause).gauge = d.gauge := by
  unfold Device.enterSafe
  extract_lets asleep d1 d2 p d3
  have h2 : d2.gauge = d.gauge := by simp [d2, d1]
  have h3 : d3.gauge = d.gauge := by
    clear_value d2
    exact (Device.toSafe_gauge ..).trans h2
  simp [h3]

@[simp] theorem Device.safeAtOnce_gauge (was : Power) (d : Device) : (d.safeAtOnce was).gauge = d.gauge := by simp [Device.safeAtOnce]

@[simp] theorem Device.restoreBoot_gauge (b e : Nat) (d : Device) : (d.restoreBoot b e).gauge = d.gauge := by simp [Device.restoreBoot]

@[simp] theorem Device.leaveSafe_gauge (b e : Nat) (d : Device) : (d.leaveSafe b e).gauge = d.gauge := by
  unfold Device.leaveSafe
  extract_lets d1 d2 p d3
  have h1 : d1.gauge = d.gauge := by simp [d1]
  have h3 : d3.gauge = d.gauge := h1
  split <;> simp [h3]

@[simp] theorem Device.takeMode_gauge (b e : Nat) (d : Device) : (d.takeMode b e).gauge = d.gauge := by
  unfold Device.takeMode
  split
  · rfl
  · next m at_ w _ =>
    split
    · rfl
    · extract_lets p d1 d2
      have h1 : d1.gauge = d.gauge := rfl
      simp [d2, h1]

@[simp] theorem Device.sleepClocks_gauge (b : Nat) (d : Device) : (d.sleepClocks b).gauge = d.gauge := by simp [Device.sleepClocks]

@[simp] theorem Device.enterHearth_gauge (b : Nat) (w : Option Waiter) (d : Device) : (d.enterHearth b w).gauge = d.gauge := by
  unfold Device.enterHearth
  extract_lets d1 d2 d3 p d4
  have h3 : d3.gauge = d.gauge := by simp [d3, d2, d1]
  have h4 : d4.gauge = d.gauge := (Device.endSending_gauge ..).trans h3
  simp [h4]

@[simp] theorem Device.takeHearth_gauge (b e : Nat) (d : Device) : (d.takeHearth b e).gauge = d.gauge := by
  unfold Device.takeHearth
  split <;> simp

@[simp] theorem Device.beginWake_gauge (d : Device) : d.beginWake.gauge = d.gauge := by
  unfold Device.beginWake
  extract_lets w d1 g p d2
  have h2 : d2.gauge = d1.gauge := rfl
  simp [h2, d1]

@[simp] theorem Device.endWake_gauge (b e : Nat) (m : Mode) (w : Option Waiter) (d : Device) : (d.endWake b e m w).gauge = d.gauge := by
  unfold Device.endWake
  extract_lets p d1 d2
  have h1 : d1.gauge = d.gauge := rfl
  simp [d2, h1]

@[simp] theorem Device.takeWake_gauge (b e : Nat) (d : Device) : (d.takeWake b e).gauge = d.gauge := by
  unfold Device.takeWake
  split <;> simp

@[simp] theorem Device.eventReport_gauge (e : Nat) (d : Device) : (d.eventReport e).gauge = d.gauge := by simp [Device.eventReport]

@[simp] theorem Device.blocksTake_gauge (lag : List Nat) (tag : BitVec 16) (d : Device) : (d.blocksTake lag tag).gauge = d.gauge := rfl

@[simp] theorem Device.swapStage_gauge (b e : Nat) (lag : List Nat) (d : Device) : (d.swapStage b e lag).gauge = d.gauge := by
  unfold Device.swapStage
  dsimp only
  repeat' split
  all_goals simp

@[simp] theorem Device.compareTags_gauge (e : Nat) (d : Device) : (d.compareTags e).gauge = d.gauge := by
  unfold Device.compareTags
  dsimp only
  repeat' split
  all_goals simp

@[simp] theorem Device.ringDue_gauge (b : Nat) (d : Device) : (d.ringDue b).gauge = d.gauge := by simp [Device.ringDue]

@[simp] theorem Device.fireHeld_gauge (b e : Nat) (d : Device) : (d.fireHeld b e).gauge = d.gauge := by simp [Device.fireHeld]

@[simp] theorem Device.fireTimers_gauge (b e : Nat) (d : Device) : (d.fireTimers b e).gauge = d.gauge := by simp [Device.fireTimers]

@[simp] theorem Device.openCals_gauge (b : Nat) (c : Cal) (d : Device) : (d.openCals b c).gauge = d.gauge := by simp [Device.openCals]

@[simp] theorem Device.closeCals_gauge (b : Nat) (c : Cal) (d : Device) : (d.closeCals b c).gauge = d.gauge := by simp [Device.closeCals]

@[simp] theorem Device.calStage_gauge (b e : Nat) (d : Device) : (d.calStage b e).gauge = d.gauge := by
  unfold Device.calStage
  split <;> simp

@[simp] theorem Device.checkIsolation_gauge (e : Nat) (d : Device) : (d.checkIsolation e).gauge = d.gauge := by
  unfold Device.checkIsolation
  split <;> simp

@[simp] theorem Device.measureRef_gauge (e : Nat) (x : EpochInput) (d : Device) : (d.measureRef e x).gauge = d.gauge := by
  unfold Device.measureRef
  dsimp only
  split
  · exact (Device.raise_gauge ..).trans rfl
  · rfl

@[simp] theorem Device.measureDrive_gauge (e : Nat) (was : Cfg) (d : Device) : (d.measureDrive e was).gauge = d.gauge := by
  simp [Device.measureDrive]

@[simp] theorem Device.measurePins_gauge (l : List (Nat × Nat × Nat)) (d : Device) : (d.measurePins l).gauge = d.gauge := by
  simp [Device.measurePins]

@[simp] theorem Device.slewChan_gauge (n : Nat) (first : Bool) (temp : Int) (d : Device) : (d.slewChan n first temp).gauge = d.gauge := rfl

@[simp] theorem Device.measureTemps_gauge (b : Nat) (temps : List Int) (d : Device) : (d.measureTemps b temps).gauge = d.gauge := by
  unfold Device.measureTemps
  dsimp only
  split
  · rfl
  · refine forList_gauge _ (fun t d => ?_) d
    -- a named step, for the kernel would run the loop over the channels to compare the two sides
    rw [Device.setTile_gauge]
    exact forNat_gauge _ (fun k d => Device.slewChan_gauge _ _ _ d) d

@[simp] theorem Device.estimate_gauge (n : Nat) (l : List EstimIn) (d : Device) : (d.estimate n l).gauge = d.gauge := by simp [Device.estimate]

@[simp] theorem Device.trackPilot_gauge (n : Nat) (l : List PilotIn) (d : Device) : (d.trackPilot n l).gauge = d.gauge := by
  unfold Device.trackPilot
  split <;> simp

@[simp] theorem Device.estimateAll_gauge (b : Nat) (x : EpochInput) (d : Device) : (d.estimateAll b x).gauge = d.gauge := by
  simp [Device.estimateAll]

@[simp] theorem Device.countBlocks_gauge (l : List Nat) (d : Device) : (d.countBlocks l).gauge = d.gauge := by simp [Device.countBlocks]

@[simp] theorem Device.countLinkCrc_gauge (l : List Nat) (d : Device) : (d.countLinkCrc l).gauge = d.gauge := by simp [Device.countLinkCrc]

/-- The rails of the ended epoch are taken over, whether or not anything else is measured. -/
theorem Device.measure_gauge (b e : Nat) (was : Cfg) (x : EpochInput) (d : Device) :
    (d.measure b e was x).gauge = (d.clk.hand, fillTo 6 0#32 x.rails, x.vhv) := by
  unfold Device.measure
  extract_lets p d1 d2
  have h1 : d1.gauge = (d.clk.hand, fillTo 6 0#32 x.rails, x.vhv) := rfl
  split
  · exact h1
  · rw [Device.estimateAll_gauge, Device.measureTemps_gauge, Device.measurePins_gauge, Device.measureDrive_gauge, Device.measureRef_gauge, h1]

@[simp] theorem Device.closeExpired_gauge (b : Nat) (d : Device) : (d.closeExpired b).gauge = d.gauge := by simp [Device.closeExpired]

@[simp] theorem Device.deferredWork_gauge (d : Device) : d.deferredWork.gauge = d.gauge := by simp [Device.deferredWork]

@[simp] theorem Device.prune_gauge (b : Nat) (d : Device) : (d.prune b).gauge = d.gauge := by simp [Device.prune]

@[simp] theorem Device.restoreWord_gauge (x : BadWord) (d : Device) : (d.restoreWord x).gauge = d.gauge := by
  simp [Device.restoreWord]

@[simp] theorem Device.scrubParity_gauge (l : List ParityIn) (d : Device) : (d.scrubParity l).gauge = d.gauge := rfl

theorem Device.reach_gauge (e : Nat) (d : Device) : (d.reach e).gauge = ((boundary e, d.clk.counting, false), d.pw.supply) := by
  unfold Device.reach
  extract_lets d1 d2 c f d3
  have h2 : d2.gauge = d.gauge := by simp [d2, d1]
  have hcounting : d2.clk.counting = d.clk.counting := (congrArg (·.1.2.1) h2 :)
  have hsupply : d2.pw.supply = d.pw.supply := (congrArg (·.2) h2 :)
  have h3 : d3.gauge = ((boundary e, d.clk.counting, false), d.pw.supply) := by
    rw [← hcounting, ← hsupply]
    rfl
  rw [Device.endDoubts_gauge, Device.eventReport_gauge, h3]

@[simp] theorem Device.boundaryConfig_gauge (e : Nat) (x : EpochInput) (d : Device) :
    (d.boundaryConfig e x).gauge = d.gauge := by
  simp [Device.boundaryConfig]

@[simp] theorem Device.boundarySafe_gauge (e : Nat) (declared : Option Nat) (d : Device) : (d.boundarySafe e declared).gauge = d.gauge := by
  unfold Device.boundarySafe
  split <;> simp

@[simp] theorem Device.boundaryModes_gauge (e : Nat) (d : Device) : (d.boundaryModes e).gauge = d.gauge := by simp [Device.boundaryModes]

theorem Device.boundaryRest_gauge (e : Nat) (was : Cfg) (x : EpochInput) (d : Device) :
    (d.boundaryRest e was x).gauge = (d.clk.hand, fillTo 6 0#32 x.rails, x.vhv) := by
  unfold Device.boundaryRest
  extract_lets b d1 good bad c d2 d3 d4 d5
  have h1 : d1.gauge = (d.clk.hand, fillTo 6 0#32 x.rails, x.vhv) := by simp [d1, Device.measure_gauge]
  have h2 : d2.gauge = d1.gauge := rfl
  simp [d5, d4, d3, h2, h1]

theorem State.boundaryFront_gauge (x : EpochInput) (s : State) :
    (s.boundaryFront x).dev.gauge = ((boundary s.dev.clk.boundaryEpoch, s.dev.clk.counting, false), s.dev.pw.supply) := by
  simp [State.boundaryFront, Device.reach_gauge]

/-- What a boundary leaves of the counter and of the rails. -/
theorem State.boundaryStep_gauge (x : EpochInput) (s : State) :
    (s.boundaryStep x).dev.gauge = ((boundary s.dev.clk.boundaryEpoch, s.dev.clk.counting, false), fillTo 6 0#32 x.rails, x.vhv) := by
  have hfront := congrArg (·.1) (State.boundaryFront_gauge x s)
  unfold State.boundaryStep
  extract_lets e t
  have ht : t.dev.gauge.1 = (boundary e, s.dev.clk.counting, false) := (congrArg (·.1) (State.boundaryBatch_gauge _)).trans hfront
  rw [Device.boundaryRest_gauge, Device.clk_hand, Device.boundaryModes_gauge, ht]

end Sys2Proof.Machine
end

section
namespace Sys2Proof.Machine

/-! O13: the boundary of an epoch, the count's return to 0, and the boundary at which an activation resets the device. -/

theorem epoch_of_boundary {c : Clock} {e : Nat} (h : c.time = boundary e) : c.epoch = e := by
  rw [Clock.epoch, h, boundary, Nat.mul_div_cancel e (by decide)]

theorem Device.of_gauge {d : Device} {time : Nat} {counting landed : Bool} {rails : List F32} {vhv : F64}
    (h : d.gauge = ((time, counting, landed), rails, vhv)) :
    d.clk.time = time ∧ d.clk.counting = counting ∧ d.clk.landed = landed ∧ d.pw.rails = rails ∧ d.pw.vhv = vhv := by
  obtain ⟨hhand, hsupply⟩ := Prod.mk.inj h
  exact ⟨congrArg (·.1) hhand, congrArg (·.2.1) hhand, congrArg (·.2.2) hhand, congrArg (·.1) hsupply, congrArg (·.2) hsupply⟩

/-- A count with room for another boundary does not wrap. -/
theorem Device.wrapTime_eq {d : Device} (h : d.clk.landed = true ∨ boundary (d.epoch + 1) < 2 ^ 64) : d.wrapTime = d :=
  if_pos (by rwa [Bool.or_eq_true, decide_eq_true_eq])

/-- One without stands at 0, a boundary whose work is still to come. -/
theorem Device.wrapTime_hand {d : Device} (h : ¬(d.clk.landed = true ∨ boundary (d.epoch + 1) < 2 ^ 64)) :
    d.wrapTime.clk.hand = (0, d.clk.counting, true) := by
  have hcounting : (d.pump Config.timeSpan).clk.counting = d.clk.counting := congrArg (·.1.2.1) (Device.pump_gauge Config.timeSpan d)
  rw [Device.wrapTime, if_neg (by rwa [Bool.or_eq_true, decide_eq_true_eq]), ← hcounting]
  rfl

theorem Device.wrapTime_counting (d : Device) : d.wrapTime.clk.counting = d.clk.counting := by
  by_cases h : d.clk.landed = true ∨ boundary (d.epoch + 1) < 2 ^ 64
  · rw [Device.wrapTime_eq h]
  · exact congrArg (·.2.1) (Device.wrapTime_hand h)

/-- The boundary that the count reaches. -/
theorem Device.wrapTime_boundaryEpoch (d : Device) :
    d.wrapTime.clk.boundaryEpoch = if d.clk.landed = true ∨ boundary (d.epoch + 1) < 2 ^ 64 then d.clk.boundaryEpoch else 0 := by
  split
  · next h => rw [Device.wrapTime_eq h]
  · next h =>
    have hhand := Device.wrapTime_hand h
    have htime : d.wrapTime.clk.time = boundary 0 := (congrArg (·.1) hhand : _).trans (Nat.zero_mul _).symm
    have hlanded : d.wrapTime.clk.landed = true := congrArg (·.2.2) hhand
    rw [Clock.boundaryEpoch, hlanded, epoch_of_boundary htime, if_pos rfl]

theorem fillTo_length {α : Type} (n : Nat) (x : α) (l : List α) : (fillTo n x l).length = n := by simp [fillTo]

theorem fillTo_getElem? {α : Type} {n k : Nat} (x : α) {l : List α} (hk : k < n) (hl : k < l.length) : (fillTo n x l)[k]? = l[k]? := by
  simp [fillTo, hk, hl]

theorem exec_epochBoundary (x : EpochInput) {s : State} (hcounting : s.dev.clk.counting = true)
    (hactivate : ∀ e, s.dev.work.activate = some e → s.dev.clk.boundaryEpoch < e) :
    exec (.epochBoundary x) s = .next (State.boundaryStep x { s with dev := s.dev.wrapTime }) := by
  have hnot : ¬(s.dev.work.activate.any fun e => decide (e ≤ s.dev.clk.boundaryEpoch)) = true := by
    cases h : s.dev.work.activate with
    | none => simp
    | some e => simpa using hactivate e h
  change execEpochBoundary x s = _
  rw [execEpochBoundary, if_neg (by simp [hcounting]), if_neg hnot]

theorem exec_epochBoundary_activate (x : EpochInput) {s : State} {e : Nat} (hcounting : s.dev.clk.counting = true)
    (hactivate : s.dev.work.activate = some e) (he : e ≤ s.dev.clk.boundaryEpoch) :
    exec (.epochBoundary x) s = .next (s.resetTo s.dev.activateReset) := by
  change execEpochBoundary x s = _
  rw [execEpochBoundary, if_neg (by simp [hcounting]), if_pos (by simp [hactivate, he])]

theorem Device.locks_of {d e : Device} (h : d.regs.locks = e.regs.locks) :
    d.regs.lockDbg = e.regs.lockDbg ∧ d.regs.lockCal = e.regs.lockCal ∧ d.regs.lockFw = e.regs.lockFw := by
  simpa [Regs.locks] using h

/-- Settles O13: the boundary sets the counter and takes the rails over, and no other part of it touches either. -/
theorem epochBoundaryBeginsTheNextEpoch : Obligations.EpochBoundaryBeginsTheNextEpoch := by
  unfold Obligations.EpochBoundaryBeginsTheNextEpoch
  constructor
  · intro s x hcounting hactivate e
    have hgauge := State.boundaryStep_gauge x { s with dev := s.dev.wrapTime }
    rw [Device.wrapTime_boundaryEpoch, Device.wrapTime_counting] at hgauge
    obtain ⟨htime, hcount, hlanded, hrails, hvhv⟩ := Device.of_gauge hgauge
    obtain ⟨hdbg, hcal, hfw⟩ := Device.locks_of ((State.boundaryStep_locks x { s with dev := s.dev.wrapTime }).trans s.dev.wrapTime_locks)
    refine ⟨_, exec_epochBoundary x hcounting (fun e he => by rw [hactivate] at he; cases he), State.boundaryStep_pending x _, htime,
      epoch_of_boundary htime, hcount.trans hcounting, hlanded, hvhv, ?_, ?_, hdbg, hcal, hfw⟩
    · rw [hrails]
      exact fillTo_length ..
    · intro k hk hl
      rw [hrails]
      exact fillTo_getElem? _ hk hl
  · intro s x e hcounting hactivate he
    obtain ⟨hdbg, hcal, hfw⟩ := Device.locks_of s.dev.activateReset_locks
    exact ⟨_, exec_epochBoundary_activate x hcounting hactivate he, rfl, rfl, rfl, rfl, hdbg, hcal, hfw⟩

end Sys2Proof.Machine
end
